-- ==== Sys2Proof/Word.lean ====
section
/-! DEFINITION. The word types of the LM512 (R2, R3) and the units in which the model counts time. -/

namespace Sys2Proof

/-- One byte (R3: U8). -/
abbrev Byte := BitVec 8

/-- A byte string: an object value, a payload, a wire image; index 0 is the byte at offset 0. -/
abbrev Bytes := List Byte

/-- U16 of R3. -/
abbrev U16 := BitVec 16

/-- U32 of R3; also the SEQUENCE and EVENT counter width of R8. -/
abbrev U32 := BitVec 32

/-- U64 of R3. -/
abbrev U64 := BitVec 64

/-- S20 and U20 words of R3 before their extension to four bytes. -/
abbrev W20 := BitVec 20

/-- An instant or a span in units of 31.25 ps, the LSB of every stamp of the LM512 (R133). -/
abbrev Time := Nat

/-- 32 units of 31.25 ps make one nanosecond. -/
def ticksPerNs : Nat := 32

/-- One AO clock cycle of 40 ns (R9, Table 01.2), in 31.25 ps. -/
def aoCycle : Nat := 1280

/-- Whole microseconds as a span in 31.25 ps. -/
def usec (n : Nat) : Time := n * 32000

/-- Whole milliseconds as a span in 31.25 ps. -/
def msec (n : Nat) : Time := n * 32000000

/-- Whole seconds as a span in 31.25 ps. -/
def sec (n : Nat) : Time := n * 32000000000

end Sys2Proof
end

