-- ==== Sys2Proof/Syntax.lean ====
section
/-! DEFINITION. The commands of the LM512: one constructor of Instr per row of spec/opcode_table.json, in the table's order.

Every command carries, as its first operand t, the instant at which it comes, in 31.25 ps since power was first applied
(log entry 1). A command that a host sends carries the header of its Baspo message; a row that fixes the object written
(LOCK_OPEN, EMIT_CLEAR and so on) carries only the value bytes that the row leaves free. An event of the module's
surroundings carries what the module measures there (log entry 2). -/

namespace Sys2Proof

/-- The two transports of Baspo (R53, R55, R58). -/
inductive Transport
  | udp
  | can
  deriving DecidableEq, Repr

/-- Lane A and lane B (R237). -/
inductive LaneId
  | a
  | b
  deriving DecidableEq, Repr

/-- The header of a Baspo message as it arrives: Table 03.3 over UDP, Table 03.4 over CAN FD, with its addressing. -/
structure Hdr where
  /-- UDP or CAN FD. -/
  transport : Transport
  /-- Source address of the datagram (an IPv4 address in the low 32 bits); 0 over CAN. -/
  addr : BitVec 128
  /-- UDP source port; 0 over CAN. -/
  port : U16
  /-- UDP destination port, or the CAN identifier (R58). -/
  dest : U16
  /-- DLC of the CAN frame; ignored over UDP. -/
  dlc : BitVec 4
  /-- MAGIC (UDP only). -/
  magic : U16
  /-- VERSION (UDP only). -/
  version : Byte
  /-- FLAGS. -/
  flags : Byte
  /-- SESSION. -/
  session : Byte
  /-- The LENGTH field, which need not equal the number of payload bytes. -/
  length : U16
  /-- TRANSACTION (a U16 over CAN). -/
  transaction : U32
  /-- FRESHNESS, or FRESHNESS_LOW over CAN in the low 16 bits. -/
  freshness : U32
  /-- The TAG bytes that follow the payload: none or 8. -/
  tag : Bytes
  /-- Not part of the message: the crossing into the domain of the object named gets no acknowledge (R17, log entry 2). -/
  noAck : Bool
  deriving DecidableEq, Repr

/-- What a band hands over beside its stamps when a column ends (Table 06.3), as the surroundings produce it. -/
structure TickIn where
  /-- Primary events of the unmasked channels in the unlit windows of the column, per band (R131). -/
  primary : List Nat
  /-- Rows whose histogram or stamp memory shows a parity error (R137). -/
  parity : List (Fin 512)
  /-- A ranging-path crossing discarded a word of the column (R20). -/
  wordLost : Bool
  deriving DecidableEq, Repr

/-- What the driver and the receivers show for one slot (Table 05.2 steps 4 to 6). DESIGN CHOICE: log entry 95. -/
structure SlotIn where
  /-- Bank voltage at the decision point, mV. -/
  bankMv : Nat
  /-- Peak string current sampled after the pulse, mA. -/
  peakMa : Nat
  /-- String voltage sampled after the pulse, mV. -/
  stringMv : Nat
  /-- The pulse-length limiter acted (Table 05.4 bit 7). -/
  limiter : Bool
  /-- LAUNCH_REF stamps of the 16 bands (R134). -/
  launch : List W20
  deriving DecidableEq, Repr

/-- The reading of one bar at a bar test (R118). -/
structure BarReading where
  /-- The bar. -/
  bar : Fin 16
  /-- V_f of T1, mV. -/
  vf : Nat
  /-- The test source found current through the bar. -/
  current : Bool
  /-- T2 current through the bypass switch of bar b + 1 with b bypassed, µA. -/
  t2up : Nat
  /-- T2 current through the bypass switch of bar b with b + 1 bypassed, µA. -/
  t2down : Nat
  deriving DecidableEq, Repr

/-- The outcome of one band test (Table 06.7), a bit per channel of the band where the test failed. -/
structure BandResult where
  /-- T_INJ failures. -/
  inj : BitVec 32
  /-- T_MULTI failures. -/
  multi : BitVec 32
  /-- T_COINC failures. -/
  coinc : BitVec 32
  /-- Primary events of each of the 32 channels during T_HOT. -/
  hot : List Nat
  deriving DecidableEq, Repr

/-- One control sample as the conversion chain delivers it (R200 to R202). DESIGN CHOICE: log entry 95. -/
inductive SampleIn
  /-- The four resampled channel values, PSD A, PSD B, coil current and coil voltage. -/
  | delivered (psdA psdB iCoil vCoil : W20)
  /-- The modulator bits of the four channels since the last sample, oldest first (true codes +1), with the resampler
  position of the tick that opened the section, in 2^-32 input samples. -/
  | modulator (psdA psdB iCoil vCoil : List Bool) (pTick : Nat)
  deriving DecidableEq, Repr

/-- The measured result of one calibration run (Table 15.2). DESIGN CHOICE: log entry 87. -/
inductive RunResult
  /-- SKEW: round(mean f - 16,000) for each row, none where the row fails T_INJ. -/
  | skew (rows : List (Option Int))
  /-- SCALE: for each band the sum of its 12 flight counts; none where the band is not valid. -/
  | scale (sums : List (Option Nat))
  /-- ZERO: t_s centroid of each row with at least 32 stops, 1/16 LSB. -/
  | zero (centroids : List Int)
  /-- TIN: the skew measured for each of the four inputs, LSB. -/
  | tin (skews : List Int)
  /-- PSD_TRIM: gain A / B of each range, 2^-20. -/
  | psd (gains : List Nat)
  /-- REFIN paired with SCALE: M in LSB and the SCALE sums. -/
  | refin (m : Nat) (sums : List (Option Nat))
  /-- TARGET paired with ZERO: for each row its t_s values, and the ZERO centroids of the same frames. -/
  | target (rows : List (List Int)) (centroids : List Int)
  deriving DecidableEq, Repr

/-- What the flash array answers when a group ends (R327, R331). -/
inductive GroupEnd
  /-- The group completed and, for a commit group, its pages read back. -/
  | good
  /-- A program or erase failed on the physical block. -/
  | bad (block : Nat)
  deriving DecidableEq, Repr

/-- One page read by the scrub (R328, R329): how its worst sector fared. -/
structure ScrubRead where
  /-- Partition, in the order of Table 16.1 from 0. -/
  part : Fin 6
  /-- Logical block within the partition. -/
  block : Nat
  /-- Physical block. -/
  phys : Nat
  /-- Bit errors of the worst sector. -/
  errors : Nat
  /-- Bits corrected in the page. -/
  corrected : Nat
  /-- Erase count of the block. -/
  erases : Nat
  deriving DecidableEq, Repr

/-- The measured inputs of one thermal update (R304): heat of each domain and of the string, and the input power. -/
structure HeatIn where
  /-- Power of each of the 32 domains over the millisecond, mW (PMU current monitors). -/
  domains : List Nat
  /-- Input power over the millisecond, mW. -/
  input : Nat
  deriving DecidableEq, Repr

/-- What the boot finds when start-up runs (Table 14.7): facts of the parts, not of the design. -/
structure BootIn where
  /-- After a loss of supply the hold-up bank had fallen to 10 V, so that the module had reached OFF (Table 14.11 steps 5, 6). -/
  off : Bool
  /-- The crystal became ready within its two attempts (Table 14.9 steps 4 and 5). -/
  crystal : Bool
  /-- Domains whose three power-up attempts failed: domain, and true where the clock was at fault (Table 14.9). -/
  failed : List (Fin 32 × Bool)
  /-- The image of slot A, then of slot B, passes the check of Table 16.5 step 3. -/
  slotAok : Bool
  /-- As slotAok, for slot B. -/
  slotBok : Bool
  deriving DecidableEq, Repr

/-- The commands (spec/opcode_table.json), in the table's order. -/
inductive Instr
  | identify (t : Time) (h : Hdr) (payload : Bytes)
  | sessionOpen (t : Time) (h : Hdr) (payload : Bytes)
  | sessionAuth (t : Time) (h : Hdr) (payload : Bytes)
  | sessionClose (t : Time) (h : Hdr) (payload : Bytes)
  | keepalive (t : Time) (h : Hdr) (payload : Bytes)
  | sessionIdleTimeout (t : Time) (tr : Transport) (session : Byte)
  | read (t : Time) (h : Hdr) (payload : Bytes)
  | blockRead (t : Time) (h : Hdr) (payload : Bytes)
  | write (t : Time) (h : Hdr) (payload : Bytes)
  | blockWrite (t : Time) (h : Hdr) (payload : Bytes)
  | notifySubscribe (t : Time) (h : Hdr) (payload : Bytes)
  | streamSubscribe (t : Time) (h : Hdr) (payload : Bytes)
  | notify (t : Time) (tr : Transport) (session : Byte)
  | lockOpen (t : Time) (h : Hdr)
  | lockCommit (t : Time) (h : Hdr)
  | lockCommitPersist (t : Time) (h : Hdr)
  | lockAbandon (t : Time) (h : Hdr)
  | lockEqualizationDone (t : Time)
  | lockTimeout (t : Time) (tr : Transport) (session : Byte)
  | lockIdleFlip (t : Time)
  /-- x: what the last column left; unconfirmed: lowest-numbered domain not confirmed 50 µs before (R69). -/
  | frameBoundary (t : Time) (x : TickIn) (unconfirmed : Option (Fin 32))
  | columnTick (t : Time) (x : TickIn)
  /-- cal: the calibration entry that displaces the plan entry (R95), or fires in a window (R94). -/
  | slotDecision (t : Time) (cal : Option U32) (x : SlotIn)
  | fsyncEdge (t : Time) (rising : Bool)
  | fsyncLull (t : Time)
  | cameraVirtualEdge (t : Time)
  | cameraIndexSet (t : Time) (h : Hdr) (value : Bytes)
  /-- A source of Table 05.4 asserts (level true) or its condition ends (level false). -/
  | emitTrip (t : Time) (bit : Fin 11) (level : Bool)
  | emitStop (t : Time) (h : Hdr)
  | emitClear (t : Time) (h : Hdr) (value : Bytes)
  | bankFaultTimeout (t : Time)
  | bankOvervoltage (t : Time)
  /-- The rolling bar's reading and the readings of the bars to retest (R120). -/
  | barTest (t : Time) (readings : List BarReading)
  | barFullTest (t : Time) (readings : List BarReading)
  | barRetireClear (t : Time) (h : Hdr) (value : Bytes)
  /-- spads: the macropixel's SPADs that avalanched within the coincidence window at instant t. -/
  | stop (t : Time) (row : Fin 512) (spads : Nat)
  | biasUpdate (t : Time)
  | pllUnlock (t : Time) (band : Fin 16)
  /-- band: the rolling band of R139, or a band that awaits its first test after a wake or a restart (Table 06.8 steps 1, 7). -/
  | bandTest (t : Time) (band : Fin 16) (r : BandResult)
  | bandRestart (t : Time) (h : Hdr) (value : Bytes)
  | channelUnmask (t : Time) (h : Hdr) (value : Bytes)
  | tinEdge (t : Time) (input : Fin 4) (rising : Bool)
  | gateEdge (t : Time) (rising : Bool)
  | tinRecordCloseIdle (t : Time) (input : Fin 4)
  | tinRecordDelivery (t : Time)
  | refinEdge (t : Time)
  | refinAbsent (t : Time)
  | padReleaseTimin (t : Time) (h : Hdr)
  | padReleaseTbus (t : Time) (h : Hdr)
  /-- upset: bytes that a memory fault of the lane corrupts in its 16,384-byte queue block: offset, and the bits turned. -/
  | laneColumnDone (t : Time) (lane : LaneId) (upset : List (Nat × Byte))
  | compareVerdict (t : Time)
  | laneReport (t : Time) (lane : LaneId)
  | leaseRenew (t : Time) (lane : LaneId)
  | leaseExpiry (t : Time)
  | yield (t : Time) (lane : LaneId)
  | leaseConfirmTimeout (t : Time)
  | fatalLaneFault (t : Time) (lane : LaneId)
  | laneWatchdogExpiry (t : Time) (lane : LaneId)
  | lanePreferredTimeout (t : Time)
  | linkLost (t : Time) (lane : LaneId)
  | towpathPendingTimeout (t : Time)
  | towpathGraceExpiry (t : Time)
  | towpathUp (t : Time)
  /-- The result of each lane: true pass, false fail, none not arrived (R247). -/
  | selftestResult (t : Time) (resA resB : Option Bool)
  | laneRestart (t : Time) (h : Hdr)
  | laneRejoin (t : Time) (h : Hdr) (value : Bytes)
  | rejoinAutoStart (t : Time)
  | rejoinCopyDone (t : Time)
  | rejoinSnapshot (t : Time)
  /-- above: a modulator input exceeds ±0.8 of its reference (R194); lateA, lateB: the lane's command is not ready (R234). -/
  | controlSample (t : Time) (x : SampleIn) (above lateA lateB : Bool)
  | modeRequestTrack (t : Time) (h : Hdr)
  | modeRequestHold (t : Time) (h : Hdr)
  | modeRequestPark (t : Time) (h : Hdr)
  | homingFailed (t : Time)
  /-- iCoil: the coil current at the trip, in the counts of Table 09.4. -/
  | coilTrip (t : Time) (iCoil : W20)
  | coilTripClear (t : Time) (h : Hdr)
  | parkRampDone (t : Time)
  /-- Pair voltages at the comparator instant, mV (R196). -/
  | wireBreakCheck (t : Time) (pairAmv pairBmv : Nat)
  | ledOpen (t : Time)
  | feClear (t : Time) (h : Hdr)
  /-- raw: the sum of 64 conversions before correction (R210). -/
  | hkResult (t : Time) (raw : W20)
  | hkCalibrate (t : Time) (h : Hdr)
  /-- Sums of the 8 results of input 14 and of the 8 results of input 15 (R212). -/
  | hkCalDone (t : Time) (sum14 sum15 : Nat)
  | captureTrigger (t : Time)
  | capArm (t : Time) (h : Hdr)
  | capDisarm (t : Time) (h : Hdr)
  | capTrigger (t : Time) (h : Hdr)
  | capRelease (t : Time) (h : Hdr) (value : Bytes)
  | capReadSelect (t : Time) (h : Hdr) (value : Bytes)
  | datagramSent (t : Time) (stream : Fin 2)
  | marksSend (t : Time)
  | linkUp (t : Time)
  | linkDown (t : Time)
  /-- offset: last measured offset from the grandmaster, ns; servo: device time less island time, ns. -/
  | gptpSynced (t : Time) (offset servo : Int)
  | gptpLost (t : Time)
  | canBusOff (t : Time)
  | canRecovered (t : Time)
  | codeSource (t : Time) (h : Hdr) (value : Bytes)
  /-- A bus message: t stamps its start bit; own: this unit sent it; CRC as received (R182). -/
  | busFrame (t : Time) (own : Bool) (source : BitVec 4) (payload : U32) (crc : Byte)
  | busTriggerMessage (t : Time) (own : Bool) (source : BitVec 4) (payload : U32) (crc : Byte)
  | busProbe (t : Time) (own : Bool) (source : BitVec 4) (payload : U32) (crc : Byte)
  | busReply (t : Time) (own : Bool) (source : BitVec 4) (payload : U32) (crc : Byte)
  | busAnnounce (t : Time) (own : Bool) (source : BitVec 4) (payload : U32) (crc : Byte)
  | busWindow (t : Time)
  | busTrigger (t : Time) (h : Hdr)
  | busClockAdopt (t : Time)
  | busClockLost (t : Time)
  | busFrameSilence (t : Time)
  | powerRequestRun (t : Time) (h : Hdr)
  | powerRequestHold (t : Time) (h : Hdr)
  | powerRequestDoze (t : Time) (h : Hdr)
  | powerRequestSleep (t : Time) (h : Hdr)
  | entryRecheck (t : Time)
  | entryTimeout (t : Time)
  | entryStepDone (t : Time)
  | wakePin (t : Time)
  | wakePinLow (t : Time)
  | canWakeFrame (t : Time) (ident : BitVec 11) (data : U64)
  | dozeSleepAfter (t : Time)
  /-- x: what a start-up that the wake needs finds (SLEEP only). -/
  | wakeDone (t : Time) (x : BootIn)
  /-- attempt fails; clock: no lock after power-good (Table 14.9). -/
  | domainPowerGoodFail (t : Time) (dom : Fin 32) (clock : Bool)
  | xtalFallback (t : Time)
  | aoWatchdogExpiry (t : Time) (x : BootIn)
  | crossingNoResponse (t : Time) (dom : Fin 32)
  | vinStartRise (t : Time) (x : BootIn)
  | vinLow (t : Time)
  | vinResumeRise (t : Time)
  | vinHigh (t : Time)
  | inputSwitchClose (t : Time)
  | holdupExhausted (t : Time)
  | vinShutdownFall (t : Time)
  | thermalUpdate (t : Time) (x : HeatIn)
  | thermalForcedDoze (t : Time)
  | thermalRestart (t : Time)
  | xtalComp (t : Time)
  | calField (t : Time) (h : Hdr)
  | calScale (t : Time) (h : Hdr)
  | calZero (t : Time) (h : Hdr)
  | calSkew (t : Time) (h : Hdr)
  | calTin (t : Time) (h : Hdr)
  | calPsdTrim (t : Time) (h : Hdr)
  | traceRefin (t : Time) (h : Hdr)
  | traceTarget (t : Time) (h : Hdr)
  | traceCommit (t : Time) (h : Hdr)
  | traceDiscard (t : Time) (h : Hdr)
  | calRunDone (t : Time) (r : RunResult)
  | calTicketLimit (t : Time)
  | calStoreRetry (t : Time)
  | flashGroupDone (t : Time) (e : GroupEnd)
  | flashGroupStart (t : Time)
  | flashWaitTimeout (t : Time)
  | scrub (t : Time) (r : ScrubRead)
  /-- least: erase count of the least-worn block that holds data; most: that of the most-worn free block. -/
  | wearMove (t : Time) (least most : Nat)
  | versionRevert (t : Time) (h : Hdr) (value : Bytes)
  | versionConfirmTimeout (t : Time) (x : BootIn)
  | recorderCopy (t : Time)
  | recSelect (t : Time) (h : Hdr) (value : Bytes)
  | recClear (t : Time) (h : Hdr)
  | fwUpdateBegin (t : Time) (h : Hdr)
  | fwImage (t : Time) (h : Hdr) (payload : Bytes)
  | fwUpdateActivate (t : Time) (h : Hdr)
  | fwUpdateCancel (t : Time) (h : Hdr)
  | secProvision (t : Time) (h : Hdr)
  | secUnprovision (t : Time) (h : Hdr)
  | secSeal (t : Time) (h : Hdr)
  | keyWrite (t : Time) (h : Hdr) (value : Bytes)
  | backoffEnd (t : Time)
  | laneReady (t : Time) (lane : LaneId)
  | bankReady (t : Time)
  | pllRelock (t : Time) (band : Fin 16) (ok : Bool)
  | fwImageCheckDone (t : Time)
  deriving DecidableEq, Repr

end Sys2Proof
end

