-- ==== Sys2Proof/Decode.lean ====
section
/-! DEFINITION. The command that a word spells by the opcode table's bits. No row of the table gives bits: the LM512 takes Baspo
messages and events, not instruction words, so a word spells no command. -/

namespace Sys2Proof

/-- The command spelt by a word of nbits bits: none, for no row of spec/opcode_table.json gives bits. -/
def decodeTableWord (_nbits _w : Nat) : Option Instr := none

end Sys2Proof
end

