-- ==== Sys2Proof/Machine/State.lean ====
section
/-! DEFINITION. The state of the LM512 as plain data: one structure per chapter of the spec, a field per register, counter,
queue and mode that the spec gives the block, and State.reset, the module before supply is first applied. -/

namespace Sys2Proof.Machine

open Sys2Proof

/-- A sorted list of (key, bytes): object values by object id (index × 256 + subindex). -/
abbrev Store := List (Nat × Bytes)

/-- A sorted list of (key, value). -/
abbrev NatStore := List (Nat × Nat)

/-- One entry of EVENT_RING (Table 03.12). -/
structure Event where
  /-- SEQ, U32. -/
  seq : U32
  /-- TIME, U64 device time in ns. -/
  time : U64
  /-- CODE, U16. -/
  code : U16
  /-- SEVERITY, U8. -/
  severity : Byte
  /-- FLAGS[0], time unsynchronised. -/
  unsync : Bool
  /-- TICKET, U32. -/
  ticket : U32
  /-- PARAM1, U32. -/
  p1 : U32
  /-- PARAM2, U32. -/
  p2 : U32
  /-- PARAM3, U32. -/
  p3 : U32
  deriving DecidableEq, Repr

/-- A subscription to event notifications (R78). -/
structure Subscriber where
  /-- Minimum severity delivered. -/
  minSeverity : Nat
  /-- Destination port over UDP. -/
  port : U16
  /-- Entries waiting, oldest first; at most 64. -/
  queue : List Event
  /-- An entry was dropped since the last one delivered; FLAGS[1] of the next entry. -/
  lost : Bool
  deriving DecidableEq, Repr

/-- A block write in progress (R63). -/
structure BlockXfer where
  /-- Object id. -/
  obj : Nat
  /-- Total length that the first segment carried. -/
  total : Nat
  /-- Offset of the last segment. -/
  lastOff : Nat
  /-- Bytes before the last segment. -/
  head : Bytes
  /-- Data of the last segment. -/
  last : Bytes
  deriving DecidableEq, Repr

/-- The phase of a session's Lock (Table 03.8). -/
inductive LockPhase
  /-- No Lock in the session; LOCK_STATE 0. -/
  | absent
  /-- OPEN, 1. -/
  | opened
  /-- STAGED, 2. -/
  | staged
  /-- EQUALIZING, 3. -/
  | equalizing
  /-- COMMITTED, 4. -/
  | committed
  /-- ABANDONED, 5. -/
  | abandoned
  deriving DecidableEq, Repr

/-- A session's Lock (R69 to R72). -/
structure Lock where
  /-- LOCK_STATE. -/
  phase : LockPhase
  /-- The timeout ended the Lock (R71). -/
  byTimeout : Bool
  /-- LOCK_ID, U32. -/
  id : U32
  /-- Staged values by object id. -/
  staged : Store
  /-- What was left of the timeout when it last started to run. -/
  budget : Time
  /-- The instant at which the timeout last started to run. -/
  since : Time
  deriving DecidableEq, Repr

/-- A coded snapshot (R290). -/
structure CodeView where
  /-- The value of CODE_SOURCE. -/
  source : U32
  /-- The coded unit. -/
  bytes : Bytes
  deriving DecidableEq, Repr

/-- One open session (R65). -/
structure Session where
  /-- UDP or CAN FD. -/
  transport : Transport
  /-- Session number: 1 to 4 over UDP, 1 over CAN. -/
  num : Byte
  /-- 1 OBSERVER, 2 OPERATOR, 3 INTEGRATOR (R351). -/
  role : Nat
  /-- Session key, 16 bytes. -/
  key : Bytes
  /-- Host address and port. -/
  addr : BitVec 128
  /-- Host UDP port. -/
  port : U16
  /-- Last FRESHNESS accepted from the host, U32. -/
  rxFresh : Nat
  /-- Last FRESHNESS sent, U32. -/
  txFresh : Nat
  /-- TRANSACTION of the last accepted request. -/
  lastTransaction : U32
  /-- A request has been accepted in the session. -/
  anyRequest : Bool
  /-- Wire image of the response to the last accepted request; none while it is not sent. -/
  lastResponse : Option Bytes
  /-- The instant of the last valid message from the host. -/
  heard : Time
  /-- The session's Lock. -/
  lock : Lock
  /-- Block write in progress. -/
  block : Option BlockXfer
  /-- Notification subscription. -/
  sub : Option Subscriber
  /-- CAP_READ_SELECT, U32. -/
  readSelect : U32
  /-- Source of the segment selected, recorded at the write (R261). -/
  readSource : Option Nat
  /-- REC_SELECT, U32. -/
  recSelect : U32
  /-- Source of the entry selected, recorded at the write (R340). -/
  recSource : Option Nat
  /-- CODE_VIEW and CODE_VIEW_SOURCE. -/
  codeView : Option CodeView
  deriving DecidableEq, Repr

/-- A challenge handed out by SESSION_OPEN, not yet used (R350). -/
structure Challenge where
  /-- UDP or CAN FD. -/
  transport : Transport
  /-- Address of the requester. -/
  addr : BitVec 128
  /-- Port of the requester. -/
  port : U16
  /-- Role asked for. -/
  role : Nat
  /-- The 16 bytes. -/
  bytes : Bytes
  /-- The instant at which it was handed out. -/
  since : Time
  /-- A key change has made it void (R354): it fails without counting. -/
  void : Bool
  deriving DecidableEq, Repr

/-- The Lock that is EQUALIZING or COMMITTED (at most one in the device, R69). -/
structure Commit where
  /-- Transport of the session that owns it. -/
  transport : Transport
  /-- Session number. -/
  num : Byte
  /-- LOCK_ID. -/
  id : U32
  /-- The staged values; the Lock runs on to its flip even where its session ends (R71). -/
  staged : Store
  /-- The commit asked for PERSIST. -/
  persist : Bool
  /-- COMMITTED (true) or EQUALIZING (false). -/
  committed : Bool
  /-- Flip moves made (Table 03.8 step 7). -/
  moves : Nat
  /-- Restore-pending bars that the equalization counted (R120). -/
  counted : BitVec 16
  /-- The instant of COMMITTED. -/
  at_ : Time
  /-- The request that asked for the commit; its response waits for the end of equalization. -/
  request : Hdr
  /-- Service code of that request: 0x11 WRITE or 0x21 BLOCK_WRITE. -/
  service : Nat
  deriving DecidableEq, Repr

/-- A message that the module sends: the model's own record of its outputs. -/
inductive OutMsg
  /-- A Baspo response or NOTIFY: destination and wire image (Table 03.3, or identifier and data bytes of Table 03.4). -/
  | baspo (transport : Transport) (addr : BitVec 128) (port : U16) (bytes : Bytes)
  /-- A stream datagram (Table 13.2 onwards): subscription and UDP payload. -/
  | stream (subscription : Nat) (bytes : Bytes)
  /-- A trigger-bus message: its 40 data bits (Table 08.2) and its CRC-8. -/
  | bus (data : BitVec 40) (crc : Byte)
  deriving DecidableEq, Repr

/-- A ticket waiting in a command's queue (R64). -/
structure Ticket where
  /-- Object id of the command. -/
  obj : Nat
  /-- Ticket number. -/
  num : U32
  /-- The value written. -/
  value : Nat
  deriving DecidableEq, Repr

/-- A trigger on offer to marking and capture (R253): source bit of Table 12.1, its time and parameter. -/
structure Trigger where
  /-- Source bit of Table 12.1. -/
  source : Nat
  /-- Device time of the trigger in 31.25 ps. -/
  time : Int
  /-- Instant of the trigger in the module's own time, for the column that contains it. -/
  inst : Int
  /-- UNSYNC. -/
  unsync : Bool
  /-- UNPLACED. -/
  unplaced : Bool
  deriving DecidableEq, Repr

/-- A plan buffer: an image and the shot period it runs at (R89). -/
structure PlanBuf where
  /-- PLAN_IMAGE bytes. -/
  image : Bytes
  /-- Shot period, ns. -/
  shotPeriod : Nat
  deriving DecidableEq, Repr

/-- FSYNC_STATE (Table 04.6). -/
inductive Phasing
  /-- 0. -/
  | free
  /-- 1. -/
  | locked
  /-- 2. -/
  | lull
  /-- 3. -/
  | relock
  deriving DecidableEq, Repr

/-- What the frame header keeps of a frame's boundary and of its column 0 (Table 13.2). -/
structure FrameInfo where
  /-- FRAME. -/
  frame : U32
  /-- FRAME_MODE of the frame. -/
  mode : Nat
  /-- FSYNC_STATE at the frame boundary. -/
  fsync : Nat
  /-- FRAME_TIME, ns. -/
  time : U64
  /-- UNSYNC at the frame boundary. -/
  unsync : Bool
  /-- LOCK_APPLIED_ID at the frame boundary. -/
  lockId : U32
  /-- CONTROL_MODE at column 0. -/
  control : Nat
  /-- TIA range code at column 0. -/
  range : Nat
  /-- T_M at column 0, 0.1 °C. -/
  temp : Int
  /-- FLEET_CODE that applied to column 0. -/
  fleet : Nat
  deriving DecidableEq, Repr

/-- The column timer, the plan buffers and the phasing (chapter 04; SHOT, FSYNC stamps in TIMX). -/
structure Scan where
  /-- The column timer runs. -/
  timer : Bool
  /-- A frame has run since power was applied. -/
  started : Bool
  /-- FRAME_COUNTER, U32. -/
  frame : U32
  /-- In flyback (true) or in column `column`. -/
  flyback : Bool
  /-- Column now running. -/
  column : Nat
  /-- Columns N of the running frame. -/
  columns : Nat
  /-- The instant of the last COLUMN_TICK. -/
  tick : Time
  /-- Device time of that tick, ns. -/
  tickTime : U64
  /-- GPTP_STATE was 0 or 1 at that tick. -/
  tickUnsync : Bool
  /-- CAMERA_INDEX at that tick. -/
  tickCamera : U32
  /-- The return fade leaves the running column dark. -/
  dark : Bool
  /-- A pending self-test takes the place of the processing of the running column (R247). -/
  selftest : Bool
  /-- COLUMN_PERIOD_ACTIVE, U32, 31.25 ps. -/
  period : Nat
  /-- Length of the running frame's flyback, 31.25 ps. -/
  flyLen : Nat
  /-- Next slot to be decided in the running column (64 and more: none left). -/
  slot : Nat
  /-- Slots lent in the running column (R95). -/
  borrowed : Nat
  /-- Calibration shots fired in the running flyback, with their window: energy per window, nJ. -/
  windowEnergy : List Nat
  /-- The plan buffers, 0 and 1. -/
  buffers : List PlanBuf
  /-- PLAN_ACTIVE_BUFFER. -/
  active : Nat
  /-- PLAN_SWAP_FRAME, U32. -/
  swapFrame : U32
  /-- PLAN_SWAP_CAMERA, U32. -/
  swapCamera : U32
  /-- A plan applied at an idle boundary awaits its first frame (R89). -/
  swapPending : Bool
  /-- The running frame carries PLAN_SWAP. -/
  swapFlag : Bool
  /-- The running fade: frame number j and F (R91). -/
  fade : Option (Nat × Nat)
  /-- FSYNC_STATE. -/
  phasing : Phasing
  /-- The running frame ran wholly or partly in LULL. -/
  lullFlag : Bool
  /-- The running frame carries RELOCK. -/
  relockFlag : Bool
  /-- The first frame after the column timer started under step 1 of Table 04.7. -/
  firstFrame : Bool
  /-- Stored intervals, newest first, 31.25 ps. -/
  intervals : List Nat
  /-- FSYNC_PERIOD in 31.25 ps; 0 before the first interval. -/
  fsyncPeriod : Nat
  /-- Stamp of the last accepted edge, 31.25 ps. -/
  lastEdge : Option Int
  /-- CAMERA_INDEX of the last real edge. -/
  realIndex : U32
  /-- Stamp and index of the last target edge. -/
  target : Option (Int × U32)
  /-- The next accepted edge is the first after a Lull, so no interval ends at it. -/
  chainBroken : Bool
  /-- Time that the last Lull spanned, from edge to edge, 31.25 ps. -/
  gap : Int
  /-- Virtual edges counted in the running Lull. -/
  virtuals : Nat
  /-- FSYNC_OUT_OF_RANGE was raised in this Lull. -/
  outRaised : Bool
  /-- Consecutive boundaries with c_fsync outside the window. -/
  outCount : Nat
  /-- FSYNC_PHASE_ERROR, e at the last boundary, 31.25 ps as an exact rational in ns. -/
  phaseError : Rat
  /-- CAMERA_INDEX, U32. -/
  camera : U32
  /-- CAMERA_INDEX before its last change. -/
  cameraBefore : U32
  /-- The instant of that change. -/
  cameraSince : Time
  /-- Camera index of the frame header of the running frame. -/
  frameCamera : U32
  /-- What the header of the latest frame keeps. -/
  info : FrameInfo
  deriving DecidableEq, Repr

/-- A ramp over FADE_FRAMES frames: derating (R122) in 1/64, throttling (R307) in 1/16. -/
structure Ramp where
  /-- Value at the start of the ramp. -/
  start : Int
  /-- End point of the ramp. -/
  goal : Int
  /-- Frame number j of the ramp. -/
  j : Nat
  /-- Frames F of the ramp. -/
  frames : Nat
  /-- Value applied in the running frame. -/
  applied : Int
  deriving DecidableEq, Repr

/-- The bank and the string (chapter 05; BANK, EMIT) and the governor (SHOT). -/
structure Emit where
  /-- EMIT_ENABLE_STATE, U8: 0 off, 1 returning, 2 on. -/
  enable : Nat
  /-- EMIT_TRIP_ACTIVE, U16. -/
  active : BitVec 16
  /-- EMIT_TRIP_LATCH, U16. -/
  latch : BitVec 16
  /-- EMIT_TRIP_FIRST, U8. -/
  first : Byte
  /-- Frame j of the return fade (Table 05.5 step 6) and F; none outside it. -/
  resume : Option (Nat × Nat)
  /-- Step 4 of Table 05.5 has held since column 0 of the running frame. -/
  clearSince : Bool
  /-- Bank voltage, mV. -/
  bankMv : Nat
  /-- BANK_STATE, U8. -/
  bankState : Nat
  /-- Bank target, V. -/
  bankTarget : Nat
  /-- The instant at which charging began or the target last changed; none while the 20 ms check is met or not running. -/
  chargeSince : Option Time
  /-- Bar bucket levels, in 1/160 nJ, as they stood at bucketAt. -/
  buckets : List Nat
  /-- The instant of the bucket levels. -/
  bucketAt : Time
  /-- Frame accumulator, nJ. -/
  acc : Nat
  /-- Accumulator at the last frame boundary, nJ. -/
  accLast : Nat
  /-- BAR_RETIRED, U16. -/
  retired : BitVec 16
  /-- BAR_PAIRED, U16. -/
  paired : BitVec 16
  /-- Restore-pending bars (R120). -/
  restorePending : BitVec 16
  /-- Tickets of BAR_RETIRE_CLEAR whose bars await restoration: mask and ticket. -/
  restoreTickets : List (BitVec 16 × U32)
  /-- A full test is due in the next flyback (R118). -/
  fullTestDue : Bool
  /-- BAR_TEST_LAST: per bar V_f in mV and worst T2 current in µA. -/
  barLast : List (Nat × Nat)
  /-- BAR_SHUNT_TABLE, 816 bytes. -/
  shunts : Bytes
  /-- Derating ramp, 1/64; applied is DERATE_APPLIED. -/
  derate : Ramp
  /-- Consecutive fired shots with peak current outside ±15 % with the string intact. -/
  driverRun : Nat
  /-- Consecutive fired shots that meet the BAR_FAULT condition. -/
  barRun : Nat
  /-- EMITTER_CAP_RESULT, 32 bytes. -/
  capResult : Bytes
  /-- Reason bits, shots and bars withheld in the running frame (SHOTS_WITHHELD). -/
  heldReasons : Nat
  /-- Shots withheld in the running frame. -/
  heldShots : Nat
  /-- Bars withheld in the running frame. -/
  heldBars : Nat
  /-- WITHHELD_COUNT of the running column. -/
  colHeld : Nat
  /-- WITHHELD_REASON of the running column. -/
  colReason : Nat
  deriving DecidableEq, Repr

/-- BAND_STATE (Table 06.6). -/
inductive BandState
  /-- 0. -/
  | off
  /-- 1. -/
  | ok
  /-- 2. -/
  | degraded
  /-- 3. -/
  | failed
  deriving DecidableEq, Repr

/-- One receiver band (chapter 06; RXB<b>). -/
structure Band where
  /-- BAND_STATE. -/
  state : BandState
  /-- Depth used in the running column. -/
  depth : Nat
  /-- Depth of the next column. -/
  depthNext : Nat
  /-- Depth decided at the last tick, for the column after the next (R132). -/
  depthLater : Nat
  /-- Depth of the last column (BAND_COINC). -/
  depthLast : Nat
  /-- λ of the last column in kcps; 0xFFFF_FFFF none (BAND_AMBIENT). -/
  lambda : Nat
  /-- Lane estimate last written back, kcps; 0xFFFF_FFFF not valid (LANE_AMBIENT). -/
  laneEst : Nat
  /-- Columns, the running one included, that are still BAND_VALID false. -/
  invalidCols : Nat
  /-- The band awaits its first test after a wake or a restart (Table 06.8 steps 1 and 7). -/
  untested : Bool
  /-- PLL out of lock. -/
  unlocked : Bool
  /-- Frames of past unlocks, newest first (within 16 frames). -/
  unlockFrames : List Nat
  /-- SPAD bias applied, in µV. -/
  bias : Int
  /-- SPAD bias computed at the last update, in µV. -/
  biasGoal : Int
  /-- Failures of the last run of each test T_INJ, T_MULTI, T_COINC, T_HOT: a bit per channel. -/
  lastFail : List (BitVec 32)
  /-- T_INJ or T_COINC failed in every channel in the last run. -/
  allFailed : Bool
  /-- BAND_TEST_LAST: frame, failed tests, failing channels. -/
  testLast : Nat × Nat × Nat
  /-- Column sequence numbers at which each channel showed PARITY (within 256 columns). -/
  parity : List (List Nat)
  /-- Rows named by CHANNEL_UNMASK for the next run. -/
  clearNext : BitVec 32
  /-- BAND_RESTART ticket under way. -/
  restart : Option U32
  deriving DecidableEq, Repr

/-- One slot of the running column as decided (R108 step 6). -/
structure SlotRec where
  /-- Slot number. -/
  num : Nat
  /-- Slot start t_s, 31.25 ps. -/
  start : Time
  /-- Dithered fire instant t_f. -/
  fire : Time
  /-- FIRE issued. -/
  fired : Bool
  /-- Slot lent under R95. -/
  lent : Bool
  /-- Final mask. -/
  mask : BitVec 16
  /-- Width code of the entry fired. -/
  width : Nat
  /-- LAUNCH_REF stamps of the 16 bands. -/
  launch : List W20
  deriving DecidableEq, Repr

/-- What the bands gather in the running column (R130 to R137). -/
structure ColumnAcc where
  /-- Slots decided so far, in slot order. -/
  slots : List SlotRec
  /-- Raw stamp words: row and word, in order of arrival. -/
  stamps : List (Nat × U32)
  /-- Histogram bins: key row × 1536 + bin. -/
  hist : NatStore
  /-- The instant of the last detected stop of each row. -/
  lastStop : List (Nat × Time)
  /-- AMBIENT_STOPS: key row. -/
  ambient : NatStore
  /-- Rows with STOP_LIMIT. -/
  limited : List Nat
  deriving DecidableEq, Repr

/-- A ticket of CHANNEL_UNMASK under way (R140). -/
structure Unmask where
  /-- Ticket. -/
  num : U32
  /-- Rows to be retested. -/
  named : BitVec 512
  /-- Bands whose test run is still awaited. -/
  bands : List Nat
  /-- Rows retested so far. -/
  rows : Nat
  /-- Rows masked again so far. -/
  again : Nat
  deriving DecidableEq, Repr

/-- The receiver (chapter 06). -/
structure Rx where
  /-- The 16 bands. -/
  bands : List Band
  /-- CHANNEL_MASK_TEST, bit r for row r. -/
  maskTest : BitVec 512
  /-- Running tickets of CHANNEL_UNMASK. -/
  unmasks : List Unmask
  /-- The running column. -/
  acc : ColumnAcc
  /-- Finished columns counted, for the 256-column span of PARITY (R140). -/
  columnCount : Nat
  deriving DecidableEq, Repr

/-- A timing-input record (Table 06.9), open or closed. -/
structure TinRec where
  /-- KIND: 0 to 3 TIN0 to TIN3, 4 GATE. -/
  kind : Nat
  /-- RECORD_SEQ, U32. -/
  seq : U32
  /-- Device time of the anchor, 31.25 ps. -/
  anchor : Int
  /-- Polarity of the anchor, 1 rising. -/
  anchorRising : Bool
  /-- GAP, ns. -/
  gap : Nat
  /-- GAP_MARK. -/
  gapMark : Bool
  /-- UNSYNC. -/
  unsync : Bool
  /-- HOLDOVER. -/
  holdover : Bool
  /-- CLOSE. -/
  close : Bool
  /-- LOST. -/
  lost : Bool
  /-- Edges lost from this record. -/
  lostCount : Nat
  /-- CLOSE_REASON; 0 while open. -/
  reason : Nat
  /-- Edge words after the anchor, oldest first. -/
  edges : List U32
  deriving DecidableEq, Repr

/-- One timing input. -/
structure TinInput where
  /-- The open record. -/
  openRec : Option TinRec
  /-- The instant of the last stamped edge (R143). -/
  stamped : Option Time
  /-- Time of the last accepted edge of the open or the last record, 31.25 ps; none when none was seen since wake. -/
  last : Option Int
  /-- A record was opened since wake. -/
  seen : Bool
  /-- TIN_LAST_EDGE: time in 31.25 ps and polarity. -/
  lastEdge : Int × Bool
  deriving DecidableEq, Repr

/-- The timing inputs (chapter 06; TIMX). -/
structure Tin where
  /-- TIN0 to TIN3. -/
  inputs : List TinInput
  /-- Level of the GATE pin. -/
  gatePin : Bool
  /-- GATE is high as TIMX sees it. -/
  gate : Bool
  /-- Time of the last accepted GATE edge since wake, 31.25 ps. -/
  gateLast : Option Int
  /-- A GATE record was formed since wake. -/
  gateSeen : Bool
  /-- Closed records awaiting delivery, oldest first. -/
  closed : List TinRec
  /-- Edges held in the 1024-entry FIFO, as of fifoAt. -/
  fifo : Nat
  /-- The instant of that count. -/
  fifoAt : Time
  /-- TIN_RECORD_SEQ, U32. -/
  seq : U32
  /-- REFIN is present (R41). -/
  refin : Bool
  /-- Consecutive REFIN periods in range. -/
  refinRun : Nat
  /-- The instant of the last REFIN edge. -/
  refinLast : Option Time
  deriving DecidableEq, Repr

/-- A peer on the trigger bus (chapter 08). -/
structure BusPeer where
  /-- The instant at which the position was last heard. -/
  heard : Option Time
  /-- The last values of d (Table 08.4), newest first, at most 16, in 31.25 ps; exact halves. -/
  delays : List Rat
  /-- The instant at which it was last probed. -/
  probed : Option Time
  /-- FLEET_DUPLICATE was raised for it since wake. -/
  duplicate : Bool
  deriving DecidableEq, Repr

/-- A TRIGGER message waiting for its window (R184). -/
structure BusTrig where
  /-- KIND. -/
  kind : Nat
  /-- SEQ. -/
  seq : Nat
  /-- The instant of the event. -/
  at_ : Time
  deriving DecidableEq, Repr

/-- The trigger bus (chapter 08; TIMX). -/
structure Bus where
  /-- BUS_STATE, U8: 0 OFF, 1 ACQUIRING, 2 ALIGNED, 3 UNALIGNED, 4 CONFLICT. -/
  state : Nat
  /-- BUS_CLOCK_SOURCE: the bus clock is the reference. -/
  onClk : Bool
  /-- CLK has shown 1000 valid periods; adoption waits for a flyback. -/
  adoptPending : Bool
  /-- The 16 positions. -/
  peers : List BusPeer
  /-- TRIGGER messages waiting, oldest first. -/
  trigs : List BusTrig
  /-- The sender's trigger count. -/
  trigCount : Nat
  /-- A REPLY waiting: target position and arrival of its PROBE (t1). -/
  reply : Option (Nat × Time)
  /-- The PROBE under way: target and t0. -/
  probe : Option (Nat × Time)
  /-- The last own window that was used: T_F and its number. -/
  window : Option (Time × Nat)
  /-- The instant of the last ANNOUNCE. -/
  announced : Option Time
  /-- T_F of the last and of the last but one FRAME message. -/
  frames : List Time
  /-- FRAME messages are flowing (R183). -/
  alive : Bool
  /-- FRAME_MODE and SHOT_PERIOD of the last FRAME, where they differ from this unit's (BUS_MISMATCH raised). -/
  mismatch : Option (Nat × Nat)
  /-- Consecutive boundaries with |FSYNC_PHASE_ERROR| ≤ 2 ns. -/
  within : Nat
  /-- Consecutive boundaries with |FSYNC_PHASE_ERROR| > 2 ns. -/
  beyond : Nat
  /-- Position of the last FRAME's sender. -/
  master : Nat
  deriving DecidableEq, Repr

/-- One conversion channel (R200). -/
structure Chan where
  /-- The four integrators, modulo 2^26. -/
  integrators : List Nat
  /-- The four comb delays, modulo 2^26. -/
  combs : List Nat
  /-- Modulator bits taken since the last CIC output, below 64. -/
  phase : Nat
  /-- CIC outputs passed to the FIR, newest first, at most 15. -/
  fir : List Int
  /-- Number of the newest input sample of the resampler. -/
  newest : Nat
  /-- Input samples of the resampler, newest first, at most 64. -/
  xs : List Int
  deriving DecidableEq, Repr

/-- A stretch of samples between two COLUMN_TICK edges (R201). -/
structure Section where
  /-- The tick that opened it. -/
  tick : Time
  /-- Column; none in flyback. -/
  column : Option Nat
  /-- COLUMN_PERIOD_ACTIVE, 31.25 ps. -/
  period : Nat
  /-- K. -/
  k : Nat
  /-- Frame counter. -/
  frame : U32
  /-- Length, 31.25 ps. -/
  len : Nat
  /-- Columns of the frame. -/
  columns : Nat
  /-- A frame boundary opened it. -/
  boundary : Bool
  /-- A flip fell at the start of it, and whether it changed an object of chapter 10 (R224). -/
  flip : Option Bool
  /-- A range change or LED_CURRENT change applies at its sample 1 (R193): new range code. -/
  change : Option Nat
  /-- The lease holder was in TRACK when it opened. -/
  track : Bool
  /-- The configuration in force for its samples (Table 03.11). -/
  cfg : Store
  deriving DecidableEq, Repr

/-- What the samples of a column give its header (R217). -/
structure ColAngle where
  /-- Frame. -/
  frame : U32
  /-- Column. -/
  column : Nat
  /-- ANGLE of sample 0. -/
  angle : Int
  /-- UNSETTLED on any sample so far. -/
  unsettled : Bool
  /-- INVALID on any sample so far. -/
  invalid : Bool
  deriving DecidableEq, Repr

/-- What a control engine gives the header of a column (Table 10.8). -/
structure ColCtl where
  /-- Frame. -/
  frame : U32
  /-- Column. -/
  column : Nat
  /-- GAIN_SET, gain set at sample 0. -/
  gain : Nat
  /-- TRACK_ERROR, e at sample 0. -/
  error : Int
  /-- HANDOVER: a handover began in the column. -/
  handover : Bool
  deriving DecidableEq, Repr

/-- The mirror front end and the conversion chain (chapter 09; AFE, SDF). -/
structure Front where
  /-- TIA_RANGE_ACTIVE. -/
  range : Nat
  /-- FE_BREAK_LATCH, bits of R197. -/
  breakLatch : BitVec 8
  /-- SDF park latch (R208). -/
  parkLatch : Bool
  /-- SDF asserts PARK after a sensor break (Table 09.3 step 5). -/
  breakPark : Bool
  /-- Samples delivered since the detection of a break; none while no break is latched. -/
  sinceBreak : Option Nat
  /-- Sub-slots that have passed in succession, at most 16. -/
  passed : Nat
  /-- Samples in succession without the LOW_SIGNAL condition, at most 16. -/
  signal : Nat
  /-- Consecutive settled samples below PSD_SUM_MIN. -/
  lowRun : Nat
  /-- UNSETTLED samples still to come. -/
  settle : Nat
  /-- Consecutive UNSETTLED samples. -/
  unsettledRun : Nat
  /-- The last sample was UNSETTLED (SWITCH_STATE[3]). -/
  unsettled : Bool
  /-- In-window switch. -/
  inWindow : Bool
  /-- Overtravel switch. -/
  overtravel : Bool
  /-- Stall switch. -/
  stall : Bool
  /-- ANGLE of the latest samples, newest first, with whether each lay in column time; at most 65. -/
  angles : List (Int × Bool)
  /-- The larger of the peak sample values of A and B′ over the running frame, counts; none before its first sample. -/
  peak : Option Int
  /-- Peak currents of A and B′ over the running frame, nA. -/
  peakNa : Nat × Nat
  /-- PSD_PEAK of the last frame, nA. -/
  peakLast : Nat × Nat
  /-- AUTO_RANGE_BLOCKED was raised since the last flip. -/
  blockedRaised : Bool
  /-- A flip changed TIA_RANGE, TIA_RANGE_MODE or LED_CURRENT: the range code that the flyback now beginning applies. -/
  flipRange : Option Nat
  /-- LED current applied, µA. -/
  led : Nat
  /-- INDEX of the next sample to be delivered, U32. -/
  index : U32
  /-- Sections whose samples are not all delivered, oldest first. -/
  sections : List Section
  /-- Next sample of the oldest section. -/
  sub : Nat
  /-- LAST_SAMPLE, 36 bytes. -/
  last : Bytes
  /-- Any sample of the running frame carried TEMP_FALLBACK. -/
  tempFlag : Bool
  /-- ANGLE and ANGLE_FLAGS of the latest columns, newest first, at most 8. -/
  cols : List ColAngle
  /-- The four channels. -/
  chans : List Chan
  deriving DecidableEq, Repr

/-- The housekeeping ADC (HKA). -/
structure Hka where
  /-- HK_RESULTS; none where not converted since wake. -/
  results : List (Option Nat)
  /-- Place in HK_SEQUENCE of the conversion in progress. -/
  pos : Nat
  /-- Input of the conversion in progress: a flip that changes the sequence applies after it (R211). -/
  input : Nat
  /-- HK_CAL_OFFSET. -/
  offset : Int
  /-- HK_CAL_GAIN. -/
  gain : Nat
  /-- HK_CAL_STATE, U8. -/
  calState : Nat
  /-- Tickets of HK_CALIBRATE under way; 0 for the calibration at power-up. -/
  calTicket : Option U32
  /-- Low-power mode in force for the result in progress. -/
  lowPower : Bool
  /-- Latest valid T_M in 0.1 °C and its instant (R204). -/
  mirror : Option (Int × Time)
  /-- The last reading of input 0 was invalid. -/
  ntcBad : Bool
  deriving DecidableEq, Repr

/-- CONTROL_MODE (Table 10.4). -/
inductive Mode
  /-- 0. -/
  | homing
  /-- 1. -/
  | track
  /-- 2. -/
  | hold
  /-- 3. -/
  | park
  deriving DecidableEq, Repr

/-- A move of the profile generator (R226): a quintic that ends at rest. -/
structure Move where
  /-- Start, 0.0001°. -/
  r0 : Rat
  /-- Start velocity, 0.0001° per 31.25 ps. -/
  v0 : Rat
  /-- Goal, 0.0001°. -/
  goal : Int
  /-- The instant at which it starts. -/
  start : Time
  /-- Length, ms. -/
  ms : Nat
  deriving DecidableEq, Repr

/-- The control engine of one lane (chapter 10). -/
structure Engine where
  /-- Mode. -/
  mode : Mode
  /-- The goal of HOMING is TRACK (true) or HOLD. -/
  goalTrack : Bool
  /-- HOMING is complete and waits at E for the next frame boundary (Table 10.2 step 8). -/
  arrived : Bool
  /-- HOLD is due at the next frame boundary (step 10). -/
  holdDue : Option U32
  /-- The running move. -/
  move : Option Move
  /-- The instant at which HOMING began. -/
  homingSince : Time
  /-- Samples in succession within HOME_TOL. -/
  settled : Nat
  /-- Boundary state of the running flyback: r_b and v_b in 0.0001° and 0.0001° per 31.25 ps. -/
  rb : Rat
  /-- As rb. -/
  vb : Rat
  /-- Integrator i, accumulator format. -/
  i : Int
  /-- ef_prev. -/
  efPrev : Int
  /-- u_prev. -/
  uPrev : Int
  /-- y_last. -/
  yLast : Int
  /-- y_prev. -/
  yPrev : Int
  /-- Consecutive INVALID samples. -/
  invalidRun : Nat
  /-- States x1, x2, y1, y2 of the two biquad sections. -/
  biquads : List (Int × Int × Int × Int)
  /-- rho of the running handover ramp. -/
  rho : Int
  /-- j of the running handover ramp. -/
  j : Nat
  /-- Gain set of the last sample. -/
  gainSet : Nat
  /-- Temperature region t. -/
  region : Nat
  /-- A handover is due at the next sample by a mode change or a flip (R224). -/
  handoverDue : Bool
  /-- u_prev of a handover out of PARK: taken from V_COIL of the sample. -/
  fromPark : Bool
  /-- Mode at the previous sample, for HANDOVER_LOG. -/
  oldMode : Mode
  /-- Entry to RUN or a lane cold start asks for HOMING at the first sample (Table 10.2 step 6). -/
  autostart : Bool
  /-- Sign of the last e with |e| ≥ OSC_THRESHOLD; none before one. -/
  oscSign : Option Bool
  /-- INDEX values of the reversals counted, newest first. -/
  reversals : List Nat
  /-- OSC_ACTION 2 has put the hold set in place of the schedule. -/
  oscHold : Bool
  /-- INDEX values of the overruns within the last 1024 samples, newest first. -/
  overruns : List Nat
  /-- The engine requests emission (R229). -/
  emission : Bool
  /-- ERROR_LAST. -/
  errorLast : Int
  /-- OUTPUT_LAST. -/
  outLast : Int
  /-- SETPOINT_LAST: r, v in 0.1 °/s, a in °/s². -/
  setpoint : Int × Int × Int
  /-- HANDOVER_LOG, 16 bytes. -/
  log : Bytes
  /-- u_out of the samples since the last COLUMN_TICK, oldest first (R239). -/
  window : List Int
  /-- GAIN_SET, TRACK_ERROR and HANDOVER of the latest columns, newest first, at most 8. -/
  cols : List ColCtl
  deriving DecidableEq, Repr

/-- LANE_STATE (Table 11.1). -/
inductive LaneState
  /-- 0. -/
  | active
  /-- 1. -/
  | standby
  /-- 2. -/
  | qualified
  /-- 3. -/
  | rejoining
  /-- 4. -/
  | moored
  /-- 5. -/
  | failed
  /-- 6. -/
  | off
  deriving DecidableEq, Repr

/-- One lane. -/
structure Lane where
  /-- LANE_STATE. -/
  state : LaneState
  /-- Loaded its configuration and reported ready at a cold start (Table 11.2 step 1). -/
  ready : Option Time
  /-- Its control engine. -/
  engine : Engine
  /-- The tick from which it takes part in columns: those that end at it or later (Table 11.7 step 5). -/
  joined : Time
  /-- Consecutive MATCH columns since it became STANDBY. -/
  matches_ : Nat
  /-- The instant of its latest report, and whether the report said QUALIFIED (R242). -/
  report : Option (Time × Bool)
  /-- A verdict not yet reported: column sequence and MISMATCH. -/
  toReport : Option (Nat × Bool)
  /-- The instant of the last service of its watchdog (R237). -/
  watchdog : Time
  /-- A fatal lane fault is present. -/
  fatal : Bool
  /-- The last 8 sample records received, newest first. -/
  samples : List Bytes
  deriving DecidableEq, Repr

/-- What a lane has made of a column (Table 11.3). -/
structure LaneColumn where
  /-- The 512 echo queues, 16,384 bytes. -/
  queues : Bytes
  /-- INCOMPLETE. -/
  incomplete : Bool
  /-- HIST_SAT. -/
  histSat : Bool
  /-- CUT_ROWS. -/
  cutRows : Nat
  /-- AMB_SOURCE, 16 × 2 bits. -/
  ambSource : Nat
  /-- The R154 estimates of the 16 bands. -/
  ambient : List Nat
  /-- Candidates not kept. -/
  dropped : Nat
  /-- Slots excluded in at least one band. -/
  excluded : Nat
  /-- Channels with a saturated bin. -/
  saturations : Nat
  deriving DecidableEq, Repr

/-- The control outputs of a lane over the window of a column (R239). DEDUCED: log entry 74. -/
structure ControlColumn where
  /-- u_out of the samples of the window, oldest first. -/
  outputs : List Int
  /-- Integrator after the last of them. -/
  integrator : Int
  deriving DecidableEq, Repr

/-- A finished column on its way from the bands to its release. -/
structure ColumnRec where
  /-- COLUMN_SEQ. -/
  seq : U32
  /-- Frame. -/
  frame : U32
  /-- Column number. -/
  column : Nat
  /-- Columns N of its frame. -/
  columns : Nat
  /-- The COLUMN_TICK that opened it. -/
  opened : Time
  /-- The COLUMN_TICK that ended it, t_e. -/
  ended : Time
  /-- COLUMN_PERIOD_ACTIVE. -/
  period : Nat
  /-- SHOT_PERIOD of the plan that drove it, ns. -/
  shotPeriod : Nat
  /-- USED_SLOTS of that plan. -/
  used : Nat
  /-- The configuration that the lanes hold for it (Table 03.11). -/
  cfg : Store
  /-- What the bands gathered. -/
  acc : ColumnAcc
  /-- BAND_VALID, bit b. -/
  valid : BitVec 16
  /-- COINC_DEPTH of the 16 bands. -/
  depth : List Nat
  /-- PRIMARY_EVENTS of the 16 bands. -/
  primary : List Nat
  /-- Rows MASKED. -/
  masked : BitVec 512
  /-- Rows with PARITY. -/
  parity : List Nat
  /-- A word of it was discarded on the ranging path (R20). -/
  wordLost : Bool
  /-- Device time of the tick that opened it, ns. -/
  time : U64
  /-- GPTP_STATE 0 or 1 at that tick. -/
  unsync : Bool
  /-- PLAN_PREVIOUS. -/
  previous : Bool
  /-- DARK. -/
  dark : Bool
  /-- PATTERN. -/
  pattern : Nat
  /-- CAMERA_INDEX. -/
  camera : U32
  /-- Slots lent. -/
  borrowed : Nat
  /-- WITHHELD_COUNT. -/
  heldCount : Nat
  /-- WITHHELD_REASON. -/
  heldReason : Nat
  /-- sigma_scale that the lanes hold for it, parts of 2^32. -/
  scale : Int
  /-- Range zero z that the lanes hold for it, 1/16 LSB. -/
  zero : Int
  /-- TDC_SKEW in force for it. -/
  skew : List Int
  /-- The next COLUMN_TICK has come, so the windows of R239 are closed. -/
  closed : Bool
  /-- Result of lane A. -/
  laneA : Option LaneColumn
  /-- Result of lane B. -/
  laneB : Option LaneColumn
  /-- Control part of lane A. -/
  ctlA : ControlColumn
  /-- Control part of lane B. -/
  ctlB : ControlColumn
  /-- Given to a self-test (R247). -/
  selftest : Bool
  /-- Its verdict has been reached (R240). -/
  judged : Bool
  deriving DecidableEq, Repr

/-- A rejoin under way (Table 11.7). -/
structure Rejoin where
  /-- The joining lane. -/
  lane : LaneId
  /-- Ticket of LANE_REJOIN, or 0. -/
  ticket : U32
  /-- Step: 2 copying, 3 waiting for the commit tick, 4 snapshot on its way, 6 waiting for qualification. -/
  step : Nat
  /-- The commit tick. -/
  tick : Time
  deriving DecidableEq, Repr

/-- The lease arbiter, the Towpath and the self-test (chapter 11; AO). -/
structure Arbiter where
  /-- LEASE_HOLDER. -/
  holder : Option LaneId
  /-- Last renewal or grant. -/
  renewed : Time
  /-- A new holder has not yet renewed: its grant. -/
  unconfirmed : Option Time
  /-- MISMATCH_WINDOW, bit 0 newest. -/
  window : BitVec 16
  /-- Column sequence number that bit 0 of MISMATCH_WINDOW stands for. -/
  windowSeq : Nat
  /-- Verdict of the self-test of each lane pending: column sequence of the mismatch. -/
  selftest : Option Nat
  /-- SELFTEST_LAST, 8 bytes. -/
  selftestLast : Bytes
  /-- TOWPATH_STATE: 0 up, 1 pending, 2 down. -/
  towpath : Nat
  /-- The instant of the last change of TOWPATH_STATE. -/
  towpathAt : Time
  /-- The lane that reported LINK_LOST. -/
  reporter : LaneId
  /-- The peer has renewed or reported since LINK_LOST (R246). -/
  peerHeard : Bool
  /-- TOWPATH_DEGRADED was raised for this loss. -/
  graceRaised : Bool
  /-- The running rejoin. -/
  rejoin : Option Rejoin
  /-- REJOINS_LEFT. -/
  rejoinsLeft : Nat
  /-- RELEASED_COLUMN, U32. -/
  released : U32
  /-- COLUMN_SEQ last issued, U32. -/
  columnSeq : U32
  /-- A new holder has not yet released its first on-time column. -/
  takeover : Bool
  /-- LANE_RESTART under way: ticket and instant. -/
  restart : Option (U32 × Time)
  /-- No lane was QUALIFIED at some point of the running frame. -/
  redundancyLost : Bool
  /-- Columns released INCOMPLETE since the last frame boundary (R170). -/
  incomplete : Nat
  /-- Their rows not processed. -/
  cutRows : Nat
  /-- Slots excluded in at least one band since the last frame boundary. -/
  excluded : Nat
  /-- Finished columns not yet released, oldest first. -/
  columns : List ColumnRec
  deriving DecidableEq, Repr

/-- A capture segment, being filled or held (R256, R257; the header of Table 13.8 in fields). -/
structure Segment where
  /-- Segment number, U32. -/
  num : U32
  /-- CAP_SOURCE as armed. -/
  source : Nat
  /-- CAP_BANDS as armed. -/
  bands : Nat
  /-- CAP_BIN_FIRST as armed. -/
  binFirst : Nat
  /-- CAP_BIN_COUNT as armed. -/
  binCount : Nat
  /-- CAP_PRE as armed. -/
  pre : Nat
  /-- CAP_POST as armed. -/
  post : Nat
  /-- CAP_TRIGGER_MASK as armed. -/
  mask : Nat
  /-- CAP_AUTO_RELEASE as armed. -/
  autoRelease : Bool
  /-- Armed under CAP_FULL_POLICY 1 in an overwritten slot. -/
  overSlot : Bool
  /-- LOCK_APPLIED_ID when it was armed. -/
  lockId : U32
  /-- The trigger that started it; none while ARMED. -/
  trigger : Option Trigger
  /-- Frame counter of the trigger record. -/
  frame : U32
  /-- Column of the trigger record. -/
  column : Nat
  /-- INDEX of the trigger sample. -/
  index : U32
  /-- Mark of the trigger, 0xFFFF_FFFF if not marked. -/
  markSeq : U32
  /-- VERSION_CURRENT at the trigger. -/
  version : U32
  /-- The trigger record has been written. -/
  found : Bool
  /-- PRE_VALID. -/
  preValid : Nat
  /-- POST_VALID so far. -/
  postValid : Nat
  /-- SHORT_POST. -/
  shortPost : Bool
  /-- EXTRA_TRIGGERS. -/
  extra : Nat
  /-- The first 8 further triggers, oldest first. -/
  extras : List Trigger
  /-- Records, oldest first. -/
  records : List Bytes
  /-- Waits for copying into the recorder (R339). -/
  copyQueued : Bool
  /-- CAP_RELEASE or automatic release came while it waited. -/
  releaseDue : Bool
  /-- Sent on stream 1. -/
  offloaded : Bool
  deriving DecidableEq, Repr

/-- A record of the pre-trigger ring. -/
structure RingRec where
  /-- COLUMN_SEQ, or INDEX of the sample. -/
  key : U32
  /-- Frame of the column or sample. -/
  frame : U32
  /-- Column; 0xFFFF for a sample. -/
  column : Nat
  /-- The record is the trigger record, or a later one, of every trigger whose instant lies before it (R254): the tick that ends
  the column, or one unit after the sample. -/
  stop : Int
  /-- The record. -/
  bytes : Bytes
  deriving DecidableEq, Repr

/-- Capture (chapter 12; MEM). -/
structure Cap where
  /-- CAP_STATE: 0 OFF, 1 ARMED, 2 POST, 3 REARM, 4 FULL. -/
  state : Nat
  /-- The pre-trigger ring, oldest first. -/
  ring : List RingRec
  /-- The segment armed or in POST. -/
  current : Option Segment
  /-- Closed segments held, oldest first. -/
  held : List Segment
  /-- Segment number last issued, U32. -/
  seq : U32
  /-- Newest closed segment, U32. -/
  newest : U32
  /-- Segments overwritten under CAP_FULL_POLICY 1, newest first (R261). -/
  overwritten : List U32
  /-- The instant at which a rearming falls due (Table 12.3 steps 5 and 7). -/
  due : Option Time
  /-- The column timer has stopped and the segment in POST closes once the last column is written. -/
  closing : Bool
  /-- Triggers on offer, in order of time. -/
  offers : List Trigger
  deriving DecidableEq, Repr

/-- A stream subscription (R263). -/
structure StreamSub where
  /-- Subscription number. -/
  num : U32
  /-- Stream 0 or 1. -/
  stream : Nat
  /-- Flags of the request. -/
  flags : Byte
  /-- Destination port. -/
  port : U16
  /-- Destination address. -/
  addr : BitVec 128
  /-- Transport and number of its session. -/
  transport : Transport
  /-- As transport. -/
  session : Byte
  deriving DecidableEq, Repr

/-- A datagram waiting to be sent. -/
structure Datagram where
  /-- Stream header and data. -/
  bytes : Bytes
  /-- Last datagram of its frame or segment. -/
  last : Bool
  /-- Frame counter or segment number. -/
  id : U32
  /-- Subscriptions that receive it. -/
  dests : List U32
  deriving DecidableEq, Repr

/-- The point stream (chapter 12; NET). -/
structure Stream where
  /-- Subscriptions, oldest first. -/
  subs : List StreamSub
  /-- Subscription number last issued. -/
  subSeq : U32
  /-- The frame now admitted: frame counter. -/
  admitted : Option U32
  /-- Part of the admitted frame's reservation not yet used, bytes. -/
  reserved : Nat
  /-- Frame datagrams waiting, oldest first. -/
  queue0 : List Datagram
  /-- Offload datagrams of stream 1 waiting, oldest first. -/
  queue1 : List Datagram
  /-- Segment being offloaded on stream 1. -/
  offload : Option U32
  /-- Subscriptions that receive the admitted frame. -/
  dests : List U32
  /-- Columns of the admitted frame written so far. -/
  written : Nat
  /-- Frames dropped since the last admitted frame. -/
  gap : Nat
  /-- WEIR_LAST_DROP, U32. -/
  lastDrop : U32
  /-- First frame dropped and frames dropped since the last WEIR_DROP event. -/
  dropFirst : Option U32
  /-- As dropFirst. -/
  dropCount : Nat
  /-- The instant of the last WEIR_DROP event. -/
  dropEvent : Option Time
  /-- Items waiting, oldest first: marks and delivered records, as 32-byte and longer items. -/
  items : List Bytes
  /-- MARK_SEQ, U32. -/
  markSeq : U32
  /-- ID of ITEMS datagrams, U32. -/
  itemsSeq : U32
  /-- First MARK_SEQ lost and marks lost since the last MARKS_DROPPED. -/
  lostFirst : Option U32
  /-- As lostFirst. -/
  lostCount : Nat
  /-- The instant of the last mark lost. -/
  lostAt : Option Time
  /-- The instant of the last MARKS_DROPPED. -/
  lostEvent : Option Time
  /-- Stream configuration in force for the running frame: STREAM_ECHO_MAX, STREAM_CODING, CODE_DELTA (Table 03.11). -/
  format : Nat × Nat × Nat
  /-- CODE_RATIO_LAST. -/
  ratio : Nat
  deriving DecidableEq, Repr

/-- Network and time (chapter 03; NET, CANX). -/
structure Net where
  /-- The Ethernet link is up. -/
  link : Bool
  /-- The CAN controller is bus-off. -/
  busOff : Bool
  /-- GPTP_STATE: 0 unsynchronised, 1 acquiring, 2 synchronised, 3 holdover. -/
  gptp : Nat
  /-- GPTP_OFFSET, ns. -/
  offset : Int
  /-- Device time less island time, ns (the servo's offset). -/
  servo : Int
  deriving DecidableEq, Repr

/-- The four power states and OFF (Table 14.1). -/
inductive Power
  /-- 0. -/
  | run
  /-- 1. -/
  | hold
  /-- 2. -/
  | doze
  /-- 3. -/
  | sleep
  /-- No supply. -/
  | off
  deriving DecidableEq, Repr

/-- A domain's state (DOMAIN_STATE). -/
inductive DomState
  /-- 0 OFF. -/
  | off
  /-- 1 ON. -/
  | on
  /-- 2 HELD by a ticket. -/
  | held
  /-- 3 FAILED. -/
  | failed
  deriving DecidableEq, Repr

/-- Who asked for a power state. -/
inductive Requester
  /-- POWER_REQUEST, with its ticket. -/
  | host (ticket : U32)
  /-- WAKE or WAKE_PIN_SLEEP. -/
  | pin
  /-- A CAN wake frame. -/
  | can
  /-- The thermal model. -/
  | thermal
  /-- DOZE_SLEEP_AFTER. -/
  | timer
  /-- Start-up. -/
  | startup
  deriving DecidableEq, Repr

/-- An entry into a lower state (Table 14.3). -/
structure Entry where
  /-- Target. -/
  target : Power
  /-- State of origin. -/
  origin : Power
  /-- Requester. -/
  who : Requester
  /-- The instant of the request. -/
  since : Time
  /-- 0 pending (step 1), 2 P1 passed, 3 P2 passed and waiting for the last columns, 4 parking, 5 POWER_ENTERING sent, 7 past P4. -/
  step : Nat
  /-- Forced: no refusers and no abort points. -/
  forced : Bool
  /-- Refusers that have refused it, bit = code − 1. -/
  refused : Nat
  /-- A wake event came at or before P4; the entry is abandoned at the next abort point. -/
  wake : Option Requester
  deriving DecidableEq, Repr

/-- A wake under way (Tables 14.5 to 14.7). -/
structure Wake where
  /-- Goal: RUN or HOLD. -/
  goal : Power
  /-- State of origin. -/
  origin : Power
  /-- Requester. -/
  who : Requester
  /-- The instant of the wake event. -/
  since : Time
  deriving DecidableEq, Repr

/-- Power, domains and supply (chapters 02 and 14; AO). -/
structure Pwr where
  /-- POWER_STATE, or OFF. -/
  state : Power
  /-- Baspo is served. -/
  served : Bool
  /-- The running entry. -/
  entry : Option Entry
  /-- The running wake. -/
  wake : Option Wake
  /-- Requests waiting for the wake or the entry to complete, oldest first: target and requester. -/
  afterWake : List (Power × Requester)
  /-- The 32 domain states. -/
  doms : List DomState
  /-- DOMAIN_FAIL_CAUSE. -/
  causes : List Nat
  /-- Attempts already failed in the present switch-on of each domain. -/
  tries : List Nat
  /-- LAST_WAKE_CAUSE. -/
  lastWake : Nat
  /-- BECALMED_CAUSE; 0 while not BECALMED. -/
  becalmed : Nat
  /-- PAD_LATCH_STATE. -/
  pads : BitVec 8
  /-- WAKE has made its request in the present low period (R292). -/
  pinAsked : Bool
  /-- The instant at which that request failed. -/
  pinFailed : Option Time
  /-- The instant at which the present power state was entered. -/
  since : Time
  /-- The input switch is open. -/
  switchOpen : Bool
  /-- VIN permits charging (Table 02.8). -/
  vinOk : Bool
  /-- VIN_LOW was raised since the last VIN_RESTORED. -/
  vinLowRaised : Bool
  /-- The supply-loss sequence runs (Table 14.11). -/
  losing : Bool
  /-- The device is in recovery (R343). -/
  recovery : Bool
  /-- The crystal has failed and the RC reference is in use. -/
  xtalFailed : Bool
  /-- Input power of the latest milliseconds, mW, newest first, at most 100: POWER_MEASURED is their mean. -/
  inputs : List Nat
  /-- The start threshold crossing or wake event of the last cold start, while its version and firmware trial await their outcome
  (R337). -/
  coldStart : Option Time
  deriving DecidableEq, Repr

/-- The thermal model (R304 to R310; AO). -/
structure Thermal where
  /-- Anchor readings of CASE, ZAVEX and DREAS: 0.1 °C and instant. -/
  anchors : List (Option (Int × Time))
  /-- ANCHOR_LOST was raised for the running loss of each anchor. -/
  lost : List Bool
  /-- θ of nodes 3 to 7, K. -/
  theta : List Rat
  /-- Temperatures of the eight nodes at the last update, K above 0 °C. -/
  temps : List Rat
  /-- THERMAL_FLAGS. -/
  flags : BitVec 32
  /-- The flash window permits writing (R309). -/
  flashOk : Bool
  /-- The bank window permits charging (R309). -/
  bankOk : Bool
  /-- The shutdown that the running cool-down follows. -/
  cooldown : Option Time
  /-- The instant at which HOLD was reached after a shutdown. -/
  holdSince : Option Time
  /-- Wake events recorded during the cool-down. -/
  wakes : List Requester
  /-- Throttle ramp, 1/16; applied is L. -/
  throttle : Ramp
  /-- XTAL_COMP, ppb. -/
  xtal : Int
  /-- Correction due at the next frame boundary, ppb. -/
  xtalNext : Option Int
  /-- Correction of the bands' bias reference and of the MIRR current-sense gain (R310), in the device's own units. -/
  biasTrim : Int
  /-- As biasTrim. -/
  senseTrim : Int
  /-- String energy charged since the last update, nJ. -/
  stringEnergy : Nat
  /-- The first readings of all anchors since the wake exist, and every θ has started from them (R305). -/
  ready : Bool
  deriving DecidableEq, Repr

/-- Quantities of a calibration ticket: the results of one run. -/
inductive CalValue
  /-- Scale: σ (field) with r. -/
  | scale (sigma r : Int)
  /-- Zero: z with t_zp. -/
  | zero (z tzp : Int)
  /-- Skew: 512 entries; none where a row keeps its value. -/
  | skew (rows : List (Option Int))
  /-- TIN: 4 entries. -/
  | tin (vals : List Int)
  /-- PSD trim: 4 entries. -/
  | psd (vals : List Int)
  /-- REFIN trace: σ_t and r. -/
  | refin (sigma r : Int)
  /-- TARGET trace: offset and t_zp. -/
  | target (offset tzp : Int)
  deriving DecidableEq, Repr

/-- A calibration ticket (R319). -/
structure CalTicket where
  /-- Request code. -/
  code : Nat
  /-- Ticket. -/
  num : U32
  /-- Runs still to be made, in order: 1 SKEW, 2 SCALE, 3 ZERO, 4 TIN, 5 PSD_TRIM, 6 REFIN, 7 TARGET. -/
  runs : List Nat
  /-- The value of run 1 of the current quantity. -/
  first : Option CalValue
  /-- Value of TIN run 1 of a FIELD ticket (alongside). -/
  firstTin : Option CalValue
  /-- TIN runs still wanted alongside. -/
  tinDue : Bool
  /-- A quantity was rejected. -/
  rejected : Bool
  /-- Accepted values. -/
  accepted : List CalValue
  /-- Frame of the first run; none before it. -/
  startFrame : Option U32
  /-- Frames by which the limit is extended. -/
  extended : Nat
  /-- Anchors at its start. -/
  anchors : List (Option Int)
  deriving DecidableEq, Repr

/-- The calibrated values (Tables 15.1 and 15.6). -/
structure CalValues where
  /-- SCALE_ACTIVE, I32. -/
  scale : Int
  /-- ZERO_ACTIVE, I32. -/
  zero : Int
  /-- SCALE_TRACE, I32. -/
  scaleTrace : Int
  /-- RESIDUAL_TRACE, I32. -/
  residual : Int
  /-- ZERO_OFFSET_TRACE, I32. -/
  offset : Int
  /-- ZERO_PATH_LAST, I32. -/
  path : Int
  /-- PSD_GAIN_TRIM, one U32 per range code. -/
  psd : List Int
  /-- TDC_SKEW, 512 × I16. -/
  skew : List Int
  /-- TIN_SKEW, 4 × I16. -/
  tin : List Int
  /-- TRACE_RECORD, 16 bytes. -/
  record : Bytes
  deriving DecidableEq, Repr

/-- Calibration (chapter 15; AO). -/
structure Cal where
  /-- The running ticket. -/
  running : Option CalTicket
  /-- Tickets queued, oldest first, at most 8. -/
  queue : List CalTicket
  /-- An automatic FIELD ticket that waits for a place. -/
  autoDue : Option U32
  /-- The automatic FIELD ticket after a cold start is due at the next frame boundary. -/
  coldDue : Bool
  /-- CAL_ANCHOR_LAST, 0.1 °C. -/
  anchorLast : List Int
  /-- Values accepted, due at the next frame boundary (R318). -/
  due : List CalValue
  /-- Pending REFIN trace: σ_t and r. -/
  pendRefin : Option (Int × Int)
  /-- Pending TARGET trace: offset and t_zp. -/
  pendTarget : Option (Int × Int)
  /-- The calibrated values in use. -/
  vals : CalValues
  /-- CAL_SEQ, U32. -/
  seq : U32
  /-- CAL_STORE_STATE. -/
  store : Nat
  /-- The instant of the last failed write (R322). -/
  retryAt : Option Time
  deriving DecidableEq, Repr

/-- A kind of flash group (R331). -/
inductive GroupKind
  /-- Program group. -/
  | program
  /-- Erase group. -/
  | erase
  /-- Commit group. -/
  | commit
  deriving DecidableEq, Repr

/-- What a flash item is for, and what its commit does. -/
inductive FlashWork
  /-- A configuration version (R335): number, LOCK_ID, device time, values; copy 1 or 2. -/
  | version (num lockId : U32) (time : U64) (values : Store) (copy : Nat)
  /-- The current pointer of VERSION_REVERT (R336): version and ticket. -/
  | pointer (num : U32) (ticket : U32)
  /-- The CONFIRMED flag of a version (R337). -/
  | confirm (num : U32)
  /-- The calibration record (R338); TRACE_COMMIT's ticket and mask, or 0. -/
  | calRecord (ticket : U32) (mask : Nat)
  /-- A recorder entry (R339): segment number. -/
  | recorder (segment : U32)
  /-- Erasing the target slot of an update (R342): slot. -/
  | fwErase (slot : Nat)
  /-- Pages of an image (R342): slot. -/
  | fwProgram (slot : Nat)
  /-- The boot record of an activation (R342): slot and ticket. -/
  | fwActivate (slot : Nat) (ticket : U32)
  /-- The boot record of a confirmed trial (R343): slot. -/
  | fwConfirm (slot : Nat)
  /-- The security state item (R353): new state and ticket; 2 is the seal intent. -/
  | security (state : Nat) (ticket : U32)
  /-- A wrapped role key (R354): role, key and session that wrote it. -/
  | key (role : Nat) (key : Bytes) (transport : Transport) (session : Byte)
  /-- The BACKOFF mark with its level (R355). -/
  | backoff (level : Nat)
  /-- A block moved by scrub or wear levelling (R328, R330): physical block. -/
  | relocate (block : Nat)
  deriving DecidableEq, Repr

/-- A flash group waiting or running. -/
structure FlashGroup where
  /-- Kind. -/
  kind : GroupKind
  /-- Purpose. -/
  work : FlashWork
  /-- Part of a host operation (R333). -/
  host : Bool
  /-- The instant from which it waits for its checks; none while it does not wait. -/
  waits : Option Time
  deriving DecidableEq, Repr

/-- A configuration version held (R334, R337). -/
structure Version where
  /-- Version number. -/
  num : U32
  /-- LOCK_ID. -/
  lockId : U32
  /-- Firmware version. -/
  fw : U32
  /-- Parent. -/
  parent : U32
  /-- Device time of writing, ns. -/
  time : U64
  /-- Values of the configuration objects that differ from their defaults. -/
  values : Store
  /-- CONFIRMED. -/
  confirmed : Bool
  /-- REJECTED. -/
  rejected : Bool
  /-- Copies held: 2, 1 or 0. -/
  copies : Nat
  deriving DecidableEq, Repr

/-- An entry of the event recorder (R339). -/
structure RecEntry where
  /-- REC_SEQ. -/
  seq : U32
  /-- Page of the RECORDER ring at which it starts. -/
  page : Nat
  /-- The 64-byte header. -/
  header : Bytes
  /-- The coded unit. -/
  data : Bytes
  deriving DecidableEq, Repr

/-- A firmware slot (R346). -/
structure FwSlot where
  /-- FW_VERSION. -/
  version : U32
  /-- ROLLBACK_INDEX. -/
  index : Nat
  /-- 0 empty, 1 VALID, 2 ACTIVE, 3 TRIAL, 4 INVALID, 5 FAILED. -/
  state : Nat
  /-- IMAGE_LENGTH. -/
  length : Nat
  /-- Trial boots. -/
  boots : Nat
  deriving DecidableEq, Repr

/-- Storage, versions, recorder and firmware (chapter 16; FLSH, SEC). -/
structure Flash where
  /-- The running group. -/
  running : Option FlashGroup
  /-- Groups waiting, oldest first. -/
  queue : List FlashGroup
  /-- Hold-up bank voltage, mV. -/
  holdupMv : Nat
  /-- HOLDUP_CAPACITANCE, µF. -/
  capacitance : Nat
  /-- The instant of the reading below 12 V that opened the running charge. -/
  chargeFrom : Option Time
  /-- BLOCKS_RETIRED. -/
  retired : Nat
  /-- SPARE_BLOCKS. -/
  spare : Nat
  /-- STORAGE_LOW was raised for the fall to 32. -/
  lowRaised : Bool
  /-- Logical blocks of RECORDER. -/
  recBlocks : Nat
  /-- ERASE_MAX. -/
  eraseMax : Nat
  /-- Sum of the erase counts, for ERASE_MEAN. -/
  eraseSum : Nat
  /-- SUPPLY_LOSS_LOG, newest first. -/
  losses : List Bytes
  /-- Versions held, newest first. -/
  versions : List Version
  /-- VERSION_CURRENT. -/
  current : U32
  /-- VERSION_STATE: 0 confirmed, 1 on trial, 2 reverted at the last boot. -/
  versionState : Nat
  /-- A revert whose values await their boundary: version left, version named, ticket. -/
  revert : Option (U32 × U32 × U32)
  /-- LOCK_PERSIST_RESULT. -/
  persist : Nat
  /-- Calibration record held: retired and paired bars with the calibration values. -/
  calRecord : Option (BitVec 16 × BitVec 16 × CalValues)
  /-- Recorder entries, oldest first. -/
  entries : List RecEntry
  /-- REC_SEQ last issued. -/
  recSeq : U32
  /-- Segments waiting for copying, oldest first, at most 2. -/
  copies : List U32
  /-- Firmware slots A and B. -/
  slots : List FwSlot
  /-- FW_ACTIVE_SLOT: the slot whose image runs; 0xFF recovery. -/
  activeSlot : Nat
  /-- ROLLBACK_COUNTER. -/
  rollback : Nat
  /-- FW_UPDATE_STATE. -/
  update : Nat
  /-- FW_TRIAL_RESULT. -/
  trial : Nat
  /-- Image bytes received. -/
  image : Bytes
  /-- The request that waits for the header, hash and signature checks in progress; its SESSION is 0 once that session has closed. -/
  checking : Option Hdr
  deriving DecidableEq, Repr

/-- Security (chapter 17; SEC). -/
structure Sec where
  /-- 0 BLANK, 1 PROVISIONED, 2 SEALED. -/
  state : Nat
  /-- Seal intent committed. -/
  sealIntent : Bool
  /-- Role keys K_OBS, K_OPS, K_INT; none where not held. -/
  keys : List (Option Bytes)
  /-- Consecutive AUTH_FAILED results. -/
  failures : Nat
  /-- BACKOFF: the instant at which it ends. -/
  backoff : Option Time
  /-- BACKOFF_LEVEL. -/
  level : Nat
  /-- Unresolved mark in the CAL ring, with its level (R355). -/
  mark : Option Nat
  /-- Challenges handed out and not yet used: one for each source. -/
  challenges : List Challenge
  /-- Challenges handed out so far: the argument of the random source. -/
  draws : Nat
  deriving DecidableEq, Repr

/-- Events and counters (chapter 03; AO). -/
structure Evt where
  /-- EVENT_LAST_SEQ, U32. -/
  seq : U32
  /-- EVENT_RING, newest first, at most 256 entries. -/
  ring : List Event
  /-- EVENT counters by object id; unlisted reads 0. -/
  counters : NatStore
  /-- Object ids of the counters whose SAT bit is set. -/
  sats : List Nat
  /-- Increments of each counter in the latest cycle of its island's clock: cycle number and count (R9). -/
  incs : List (Nat × Nat × Nat)
  deriving DecidableEq, Repr

/-- Baspo (chapter 03; AO, NET, CANX, SEC). -/
structure Baspo where
  /-- Open sessions. -/
  sessions : List Session
  /-- Ticket number last issued. -/
  ticket : U32
  /-- Tickets waiting in the command queues (R64), oldest first. -/
  tickets : List Ticket
  /-- The Lock that is EQUALIZING or COMMITTED. -/
  commit : Option Commit
  /-- LOCK_ID last issued, U32. -/
  lockSeq : U32
  /-- LOCK_APPLIED_ID. -/
  appliedId : U32
  /-- LOCK_APPLIED_FRAME. -/
  appliedFrame : U32
  /-- LOCK_DETAIL_1 to LOCK_DETAIL_8. -/
  details : List U32
  deriving DecidableEq, Repr

/-- What the factory sets for the individual module (R361) and the fuses hold (R349). Nothing writes it. -/
structure Factory where
  /-- Serial number, U32. -/
  serial : U32
  /-- Hardware revision, U16. -/
  hwRev : U16
  /-- MAC_ADDRESS, 6 bytes. -/
  mac : Bytes
  /-- BAR_BINNING: V0 mV, R mΩ, S mW/A, Ith mA per bar. -/
  binning : List (Nat × Nat × Nat × Nat)
  /-- V_bd25 of each band, mV. -/
  vbd : List Nat
  /-- Temperature coefficient of each band, mV/K. -/
  tc : List Nat
  /-- PHASE_DELAY of the four channels. -/
  phaseDelay : List Nat
  /-- Default of LIN_COEFF, 72 bytes. -/
  linCoeff : Bytes
  /-- Default of GAIN_TABLE, 208 bytes. -/
  gainTable : Bytes
  /-- Factory offset of the HKA. -/
  hkOffset : Int
  /-- Factory gain of the HKA. -/
  hkGain : Nat
  /-- Crystal coefficients: correction in ppb at 25 °C, per K and per K². -/
  xtal : Int × Int × Int
  /-- BLOCKS_BAD_FACTORY, U16. -/
  badBlocks : Nat
  /-- K_DEV, 16 bytes. -/
  kDev : Bytes
  /-- K_T, 16 bytes. -/
  kT : Bytes
  /-- Image verifying key: the affine coordinates of a P-256 point. -/
  verifyX : Nat
  /-- As verifyX. -/
  verifyY : Nat
  /-- Pad part of TIN_SKEW, 4 entries. -/
  tinPad : List Int
  deriving DecidableEq, Repr

/-- The coil driver (chapter 10; MIRR). -/
structure Coil where
  /-- COIL_STATE: 0 off, 1 driving, 2 park ramp, 3 braked, 4 tripped. -/
  state : Nat
  /-- The voltage command applied, Q15 (R219). -/
  command : Int
  /-- The bridge stays at high impedance after a cleared trip until the engine leaves PARK (R231). -/
  highZ : Bool
  deriving DecidableEq, Repr

/-- The state of the LM512. -/
structure State where
  /-- Commands waiting, first in, first out (the model's own queue). -/
  pending : List Instr
  /-- The instant of the last command, 31.25 ps since power was first applied. -/
  now : Time
  /-- Messages that the last command sent, oldest first (the model's own record). -/
  out : List OutMsg
  /-- The counter that draws free values (the model's own). -/
  draws : Nat
  /-- Factory values and fuses. -/
  fac : Factory
  /-- Values of the configuration objects that differ from their defaults. -/
  cfg : Store
  /-- Events and counters. -/
  evt : Evt
  /-- Baspo, sessions and Locks. -/
  baspo : Baspo
  /-- Network and time. -/
  net : Net
  /-- Column timer, plans, phasing. -/
  scan : Scan
  /-- Emitter and governor. -/
  emit : Emit
  /-- Receiver. -/
  rx : Rx
  /-- Timing inputs. -/
  tin : Tin
  /-- Trigger bus. -/
  bus : Bus
  /-- Mirror front end and conversion chain. -/
  front : Front
  /-- Housekeeping ADC. -/
  hka : Hka
  /-- Coil driver. -/
  coil : Coil
  /-- Lane A. -/
  laneA : Lane
  /-- Lane B. -/
  laneB : Lane
  /-- Lease arbiter, Towpath, columns in flight. -/
  arb : Arbiter
  /-- Echo store: cells that differ from 0, addresses rising (R166). -/
  echo : List Host.Cell
  /-- Capture. -/
  cap : Cap
  /-- Point stream. -/
  stream : Stream
  /-- Power, domains, supply. -/
  pwr : Pwr
  /-- Thermal model. -/
  therm : Thermal
  /-- Calibration. -/
  cal : Cal
  /-- Storage, versions, recorder, firmware. -/
  flash : Flash
  /-- Security. -/
  sec : Sec
  deriving DecidableEq, Repr

/-- Stops of a command with no meaning to go on with. DESIGN CHOICE: log entry 98. -/
inductive Fault
  /-- Raised by nothing: the spec gives every command of the LM512 an effect. Safe. -/
  | unreachable
  deriving DecidableEq, Repr

/-- Refusals. DESIGN CHOICE: log entry 98. -/
inductive Refusal
  /-- Raised by exec for a command whose meaning is not written yet, by its mnemonic. Safe: no statement is about it. -/
  | notModelled (mnemonic : String)
  deriving DecidableEq, Repr

/-! ## Reset: the module without supply, before VIN first rises through the start threshold (R291, R297).
Values the spec does not state are named in log entry 3. -/

/-- A list of n equal entries. -/
def rep {α : Type} (n : Nat) (a : α) : List α := List.replicate n a

/-- Factory values that the model names (log entry 4). -/
def Factory.reset : Factory :=
  { serial := 0, hwRev := 0, mac := rep 6 0, binning := rep 16 (5500, 100, 1, 0), vbd := rep 16 20500, tc := rep 16 20,
    phaseDelay := [64, 64, 0, 0], linCoeff := rep 72 0,
    gainTable := (rep 13 ([0, 0, 0, 0, 0, 0, 1, 0, 0, 0, 0, 0, 0, 0, 0, 0] : Bytes)).flatten,
    hkOffset := 0, hkGain := 1048576, xtal := (0, 0, 0), badBlocks := 0, kDev := rep 16 0, kT := rep 16 0,
    verifyX := 0, verifyY := 0, tinPad := rep 4 0 }

/-- Events and counters at reset. -/
def Evt.reset : Evt := { seq := 0, ring := [], counters := [], sats := [], incs := [] }

/-- Baspo at reset: no session (R65), sequences at 0 (R360). -/
def Baspo.reset : Baspo :=
  { sessions := [], ticket := 0, tickets := [], commit := none, lockSeq := 0, appliedId := 0, appliedFrame := 0, details := [] }

/-- Network and time at reset. -/
def Net.reset : Net := { link := false, busOff := false, gptp := 0, offset := 0, servo := 0 }

/-- Two columns of slots of the built-in plan are equal, so its image is built from one pair of entries (R84). -/
def builtInPlan : Bytes :=
  ([0x4C, 0x50, 0x01, 0x00, 0x01, 0x38, 0x00, 0x00, 0, 0, 0, 0] : Bytes) ++ rep 52 0 ++ rep 256 0 ++ rep 192 0 ++
    (rep 28 ([0xC0, 0x50, 0x55, 0x55, 0xC0, 0x50, 0xAA, 0xAA] : Bytes)).flatten ++ rep 32 0

/-- Frame header values before any frame. -/
def FrameInfo.reset : FrameInfo :=
  { frame := 0, mode := 0, fsync := 0, time := 0, unsync := true, lockId := 0, control := 3, range := 1, temp := 250, fleet := 0 }

/-- The column timer at reset: stopped, at the defaults of Tables 04.1, 04.3 and 04.6. -/
def Scan.reset : Scan :=
  { timer := false, started := false, frame := 0, flyback := true, column := 0, columns := 256, tick := 0, tickTime := 0, tickUnsync := true, tickCamera := 0,
    dark := false, selftest := false, period := 2250000, flyLen := 64000000,
    slot := 0, borrowed := 0, windowEnergy := [], buffers := rep 2 { image := builtInPlan, shotPeriod := 1250 }, active := 0,
    swapFrame := 0, swapCamera := 0, swapPending := false, swapFlag := false, fade := none, phasing := .free,
    lullFlag := false, relockFlag := false, firstFrame := false, intervals := [], fsyncPeriod := 0,
    lastEdge := none, realIndex := 0, target := none, chainBroken := false, gap := 0, virtuals := 0, outRaised := false, outCount := 0,
    phaseError := 0, camera := 0, cameraBefore := 0, cameraSince := 0, frameCamera := 0, info := .reset }

/-- A ramp at rest at v. -/
def Ramp.rest (v : Int) : Ramp := { start := v, goal := v, j := 0, frames := 0, applied := v }

/-- The emitter at reset (Tables 05.6 to 05.8). -/
def Emit.reset : Emit :=
  { enable := 0, active := 0, latch := 0, first := 0xFF, resume := none, clearSince := false, bankMv := 0, bankState := 0,
    bankTarget := 30, chargeSince := none, buckets := rep 16 0, bucketAt := 0, acc := 0, accLast := 0, retired := 0, paired := 0,
    restorePending := 0, restoreTickets := [], fullTestDue := false, barLast := rep 16 (0, 0), shunts := rep 816 0,
    derate := .rest 64, driverRun := 0, barRun := 0, capResult := rep 32 0, heldReasons := 0, heldShots := 0, heldBars := 0,
    colHeld := 0, colReason := 0 }

/-- A band at reset: its domain is off. -/
def Band.reset : Band :=
  { state := .off, depth := 2, depthNext := 2, depthLater := 2, depthLast := 2, lambda := 0xFFFFFFFF, laneEst := 0xFFFFFFFF,
    invalidCols := 0, untested := true, unlocked := false, unlockFrames := [], bias := 0, biasGoal := 0, lastFail := rep 4 0,
    allFailed := false, testLast := (0, 0, 0), parity := rep 32 [], clearNext := 0, restart := none }

/-- An empty column. -/
def ColumnAcc.empty : ColumnAcc := { slots := [], stamps := [], hist := [], lastStop := [], ambient := [], limited := [] }

/-- The receiver at reset. -/
def Rx.reset : Rx := { bands := rep 16 .reset, maskTest := 0, unmasks := [], acc := .empty, columnCount := 0 }

/-- The timing inputs at reset. -/
def Tin.reset : Tin :=
  { inputs := rep 4 { openRec := none, stamped := none, last := none, seen := false, lastEdge := (0, false) },
    gatePin := false, gate := false, gateLast := none, gateSeen := false, closed := [], fifo := 0, fifoAt := 0, seq := 0, refin := false,
    refinRun := 0, refinLast := none }

/-- The trigger bus at reset. -/
def Bus.reset : Bus :=
  { state := 0, onClk := false, adoptPending := false,
    peers := rep 16 { heard := none, delays := [], probed := none, duplicate := false }, trigs := [], trigCount := 0, reply := none,
    probe := none, window := none, announced := none, frames := [], alive := false, mismatch := none, within := 0, beyond := 0,
    master := 0 }

/-- A conversion channel at reset. -/
def Chan.reset : Chan := { integrators := rep 4 0, combs := rep 4 0, phase := 0, fir := [], newest := 0, xs := [] }

/-- The front end at reset. -/
def Front.reset : Front :=
  { range := 1, breakLatch := 0, parkLatch := false, breakPark := false, sinceBreak := none, passed := 0, signal := 0, lowRun := 0,
    settle := 0, unsettledRun := 0, unsettled := false, inWindow := false, overtravel := false, stall := false, angles := [],
    peak := none, peakNa := (0, 0), peakLast := (0, 0), blockedRaised := false, flipRange := none, led := 0, index := 0, sections := [],
    sub := 0, last := rep 36 0, tempFlag := false, cols := [], chans := rep 4 .reset }

/-- The housekeeping ADC at reset. -/
def Hka.reset : Hka :=
  { results := rep 16 none, pos := 0, input := 0, offset := Factory.reset.hkOffset, gain := Factory.reset.hkGain, calState := 0, calTicket := none,
    lowPower := false, mirror := none, ntcBad := false }

/-- The coil driver at reset. -/
def Coil.reset : Coil := { state := 0, command := 0, highZ := false }

/-- A control engine at reset: PARK (Table 10.4). -/
def Engine.reset : Engine :=
  { mode := .park, goalTrack := true, arrived := false, holdDue := none, move := none, homingSince := 0, settled := 0, rb := 0, vb := 0,
    i := 0, efPrev := 0, uPrev := 0, yLast := 0, yPrev := 0, invalidRun := 0, biquads := rep 2 (0, 0, 0, 0), rho := 0, j := 1024,
    gainSet := 12, region := 0, handoverDue := false, fromPark := false, oldMode := .park, autostart := false, oscSign := none, reversals := [],
    oscHold := false, overruns := [], emission := false, errorLast := 0, outLast := 0, setpoint := (0, 0, 0), log := rep 16 0,
    window := [], cols := [] }

/-- A lane at reset: OFF (Table 11.8). -/
def Lane.reset : Lane :=
  { state := .off, ready := none, engine := .reset, joined := 0, matches_ := 0, report := none, toReport := none, watchdog := 0, fatal := false,
    samples := [] }

/-- The arbiter at reset (Table 11.8). -/
def Arbiter.reset : Arbiter :=
  { holder := none, renewed := 0, unconfirmed := none, window := 0, windowSeq := 0, selftest := none,
    selftestLast := rep 8 0, towpath := 0, towpathAt := 0, reporter := .a, peerHeard := false, graceRaised := false, rejoin := none, rejoinsLeft := 3,
    released := 0, columnSeq := 0, takeover := false, restart := none, redundancyLost := true, incomplete := 0, cutRows := 0, excluded := 0, columns := [] }

/-- Capture at reset. -/
def Cap.reset : Cap :=
  { state := 0, ring := [], current := none, held := [], seq := 0, newest := 0, overwritten := [], due := none, closing := false, offers := [] }

/-- The stream at reset. -/
def Stream.reset : Stream :=
  { subs := [], subSeq := 0, admitted := none, reserved := 0, queue0 := [], queue1 := [], offload := none, dests := [], written := 0, gap := 0,
    lastDrop := 0, dropFirst := none, dropCount := 0, dropEvent := none, items := [], markSeq := 0, itemsSeq := 0, lostFirst := none,
    lostCount := 0, lostAt := none, lostEvent := none, format := (4, 0, 1), ratio := 1000 }

/-- Power at reset: OFF, every domain off. -/
def Pwr.reset : Pwr :=
  { state := .off, served := false, entry := none, wake := none, afterWake := [], doms := rep 32 .off,
    causes := rep 32 0, tries := rep 32 0, lastWake := 0, becalmed := 0, pads := 0, pinAsked := false,
    pinFailed := none, since := 0, switchOpen := false, vinOk := false, vinLowRaised := false, losing := false, recovery := false,
    xtalFailed := false, inputs := [], coldStart := none }

/-- The thermal model at reset. -/
def Thermal.reset : Thermal :=
  { anchors := rep 3 none, lost := rep 3 false, theta := rep 5 0, temps := rep 8 0, flags := 0, flashOk := true, bankOk := true,
    cooldown := none, holdSince := none, wakes := [], throttle := .rest 0, xtal := 0, xtalNext := none, biasTrim := 0, senseTrim := 0, stringEnergy := 0, ready := false }

/-- The calibrated values at reset: factory values that the model names (log entry 4). -/
def CalValues.reset : CalValues :=
  { scale := 0, zero := 0, scaleTrace := 0, residual := 0, offset := 0, path := 0, psd := rep 4 1048576, skew := rep 512 0,
    tin := rep 4 0, record := rep 16 0 }

/-- Calibration at reset. -/
def Cal.reset : Cal :=
  { running := none, queue := [], autoDue := none, coldDue := false, anchorLast := rep 3 0, due := [], pendRefin := none,
    pendTarget := none, vals := .reset, seq := 0, store := 0, retryAt := none }

/-- Storage at reset: no version held, the running image in slot A (Table 16.10). -/
def Flash.reset : Flash :=
  { running := none, queue := [], holdupMv := 0, capacitance := 376, chargeFrom := none, retired := 0, spare := 256, lowRaised := false,
    recBlocks := 3432, eraseMax := 0, eraseSum := 0, losses := [], versions := [], current := 0, versionState := 0, revert := none,
    persist := 0, calRecord := none, entries := [], recSeq := 0, copies := [],
    slots := [{ version := 0, index := 0, state := 2, length := 4096, boots := 0 },
              { version := 0, index := 0, state := 0, length := 0, boots := 0 }],
    activeSlot := 0, rollback := 0, update := 0, trial := 0, image := [], checking := none }

/-- Security at reset: BLANK, no role key (R348). -/
def Sec.reset : Sec :=
  { state := 0, sealIntent := false, keys := rep 3 none, failures := 0, backoff := none, level := 0, mark := none, challenges := [],
    draws := 0 }

/-- The machine right after reset: no supply has been applied yet (R291). -/
def State.reset : State :=
  { pending := [], now := 0, out := [], draws := 0, fac := .reset, cfg := [], evt := .reset, baspo := .reset, net := .reset,
    scan := .reset, emit := .reset, rx := .reset, tin := .reset, bus := .reset, front := .reset, hka := .reset, coil := .reset,
    laneA := .reset, laneB := .reset, arb := .reset, echo := [], cap := .reset, stream := .reset, pwr := .reset, therm := .reset,
    cal := .reset, flash := .reset, sec := .reset }

end Sys2Proof.Machine
end

