-- ==== Sys2Proof/Machine/Bytes.lean ====
section
/-! DEFINITION. Byte order, integer encodings, sorted stores and the small list helpers that the meanings share (R2, R3). -/

namespace Sys2Proof.Machine

open Sys2Proof

/-- The n low bytes of v, least significant first (R2). -/
def le : Nat → Nat → Bytes
  | 0, _ => []
  | n + 1, v => BitVec.ofNat 8 (v % 256) :: le n (v / 256)

/-- The value of bytes read least significant first (R2). -/
def leNat : Bytes → Nat
  | [] => 0
  | b :: bs => b.toNat + 256 * leNat bs

/-- The n bytes of v, most significant first. -/
def be (n v : Nat) : Bytes := (le n v).reverse

/-- The value of bytes read most significant first. -/
def beNat (bs : Bytes) : Nat := bs.foldl (fun a b => a * 256 + b.toNat) 0

/-- v as two's complement in n bytes (R3). -/
def leInt (n : Nat) (v : Int) : Bytes := le n (v % (256 ^ n : Nat)).toNat

/-- Two's complement value of a bit pattern of w bits. -/
def signed (w v : Nat) : Int := if v % 2 ^ w < 2 ^ (w - 1) then (v % 2 ^ w : Nat) else (v % 2 ^ w : Nat) - (2 ^ w : Nat)

/-- Two's complement value of bytes, least significant first. -/
def leSigned (bs : Bytes) : Int := signed (8 * bs.length) (leNat bs)

/-- n bytes of bs from offset o; short where bs ends. -/
def slice (bs : Bytes) (o n : Nat) : Bytes := (bs.drop o).take n

/-- U8 at an offset; 0 beyond the end. -/
def u8At (bs : Bytes) (o : Nat) : Nat := leNat (slice bs o 1)

/-- U16 at an offset. -/
def u16At (bs : Bytes) (o : Nat) : Nat := leNat (slice bs o 2)

/-- U32 at an offset. -/
def u32At (bs : Bytes) (o : Nat) : Nat := leNat (slice bs o 4)

/-- I16 at an offset. -/
def i16At (bs : Bytes) (o : Nat) : Int := signed 16 (u16At bs o)

/-- I32 at an offset. -/
def i32At (bs : Bytes) (o : Nat) : Int := signed 32 (u32At bs o)

/-- n zero bytes. -/
def zeros (n : Nat) : Bytes := List.replicate n 0

/-- The value stored under a key of a sorted list. -/
def find? {α : Type} : List (Nat × α) → Nat → Option α
  | [], _ => none
  | (k, v) :: r, i => if k = i then some v else if i < k then none else find? r i

/-- Put a value under a key of a sorted list. -/
def put {α : Type} : List (Nat × α) → Nat → α → List (Nat × α)
  | [], i, v => [(i, v)]
  | (k, x) :: r, i, v =>
    if i < k then (i, v) :: (k, x) :: r else if i = k then (i, v) :: r else (k, x) :: put r i v

/-- Remove a key of a sorted list. -/
def del {α : Type} : List (Nat × α) → Nat → List (Nat × α)
  | [], _ => []
  | (k, x) :: r, i => if k = i then r else (k, x) :: del r i

/-- Put every entry of the second list over the first (a Lock's values over the live ones, R73). -/
def overlay {α : Type} (base top : List (Nat × α)) : List (Nat × α) := top.foldl (fun s p => put s p.1 p.2) base

/-- The count under a key; 0 where there is none. -/
def natAt (s : NatStore) (k : Nat) : Nat := (find? s k).getD 0

/-- Raise the count under a key by n, up to a ceiling. -/
def bumpAt (s : NatStore) (k n top : Nat) : NatStore := put s k (min top (natAt s k + n))

/-- Replace the entry at a place of a list; unchanged beyond its end. -/
def setAt {α : Type} (l : List α) (i : Nat) (a : α) : List α := l.set i a

/-- Change the entry at a place of a list. -/
def modAt {α : Type} (l : List α) (i : Nat) (f : α → α) : List α := l.modify i f

/-- Bit i of a mask. -/
def bit (m i : Nat) : Bool := m.testBit i

/-- The mask with bit i set where p i holds, for i below n. -/
def maskOf (n : Nat) (p : Nat → Bool) : Nat := (List.range n).foldl (fun m i => if p i then m + 2 ^ i else m) 0

/-- Set or clear a bit of a word. -/
def withBit {w : Nat} (m : BitVec w) (i : Nat) (b : Bool) : BitVec w :=
  if b then m ||| BitVec.ofNat w (2 ^ i) else m &&& ~~~ BitVec.ofNat w (2 ^ i)

/-- A Bool as 0 or 1. -/
def b2n (b : Bool) : Nat := if b then 1 else 0

/-- Quotient rounded up. -/
def cdiv (a b : Nat) : Nat := (a + b - 1) / b

/-- Round half up: floor(q + 1/2). -/
def roundHalfUp (q : Rat) : Int := (q + 1 / 2).floor

/-- Round with ties away from zero (R98). -/
def roundAway (q : Rat) : Int := if 0 ≤ q then (q + 1 / 2).floor else -((-q + 1 / 2).floor)

/-- Limit to a range. -/
def clampInt (lo hi v : Int) : Int := if v < lo then lo else if hi < v then hi else v

/-- Limit a count to a range. -/
def clampNat (lo hi v : Nat) : Nat := if v < lo then lo else if hi < v then hi else v

/-- Saturate to S20. -/
def sat20 (v : Int) : Int := clampInt (-524288) 524287 v

/-- Saturate to 16 bits (R218). -/
def sat16 (v : Int) : Int := clampInt (-32768) 32767 v

/-- Arithmetic shift right. -/
def asr (v : Int) (n : Nat) : Int := v / (2 ^ n : Nat)

/-- Insert into a sorted list by a total order. -/
def insertBy {α : Type} (lt : α → α → Bool) (a : α) : List α → List α
  | [] => [a]
  | b :: r => if lt b a || !(lt a b) then b :: insertBy lt a r else a :: b :: r

/-- Stable insertion sort. -/
def sortBy {α : Type} (lt : α → α → Bool) (l : List α) : List α := l.foldl (fun s a => insertBy lt a s) []

/-- Lower median of a list of values; none of the empty list. -/
def lowerMedian {α : Type} (lt : α → α → Bool) (l : List α) : Option α := (sortBy lt l)[(l.length - 1) / 2]?

/-- Integer square root rounded down, by bits. -/
def isqrt (n : Nat) : Nat :=
  (List.range 72).foldl (fun r k => let c := r + 2 ^ (71 - k); if c * c ≤ n then c else r) 0

/-- Floor of the square root of a rational: the largest whole s with s² ≤ q. -/
def ratSqrtFloor (q : Rat) : Nat := isqrt q.floor.toNat

/-- A U32 from a natural number, modulo 2^32. -/
def u32 (n : Nat) : U32 := BitVec.ofNat 32 n

/-- A U32 from an integer in two's complement. -/
def u32i (n : Int) : U32 := BitVec.ofInt 32 n

/-- Sum of a list. -/
def sumNat (l : List Nat) : Nat := l.foldl (· + ·) 0

/-- Largest of a list; 0 of the empty list. -/
def maxNat (l : List Nat) : Nat := l.foldl max 0

end Sys2Proof.Machine
end

