-- ==== Sys2Proof/Machine/Crypto.lean ====
section
/-! DEFINITION. The cryptographic functions of SEC (R341, R350, R351, R354): AES-128 (FIPS 197), AES-CMAC (NIST SP 800-38B), AES key
unwrap (RFC 3394), SHA-256 (FIPS 180-4) and ECDSA P-256 verification (FIPS 186). -/

namespace Sys2Proof.Machine

open Sys2Proof

/-! ### AES-128 -/

/-- Multiplication by x in GF(2^8). -/
def xtime (b : Byte) : Byte := if b.getLsbD 7 then (b <<< 1) ^^^ 0x1B else b <<< 1

/-- Multiplication in GF(2^8) by a factor below 16. -/
def gfMul (m a : Byte) : Byte :=
  let a2 := xtime a
  let a4 := xtime a2
  (if m.getLsbD 0 then a else 0) ^^^ (if m.getLsbD 1 then a2 else 0) ^^^ (if m.getLsbD 2 then a4 else 0) ^^^
    (if m.getLsbD 3 then xtime a4 else 0)

/-- The S-box of FIPS 197, 32 bytes a row, the first one lowest. -/
def sboxTable : List Nat :=
  [0xC072A49CAFA2D4ADF04759FA7DC982CA76ABD7FE2B670130C56F6BF27B777C63,
   0x75B227EBE28012079A059618C323C7041531D871F1E5A534CCF73F362693FDB7,
   0xCF584C4A39BECB6A5BB1FC20ED00D153842FE329B3D63B52A05A6E1B1A2C8309,
   0xD2F3FF1021DAB6BCF5389D928F40A351A89F3C507F02F94585334D43FBAAEFD0,
   0xDB0B5EDE14B8EE4688902A22DC4F816073195D643D7EA7C41744975FEC130CCD,
   0x08AE7A65EAF4566CA94ED58D6D37C8E779E4959162ACD3C25C2406490A3A32E0,
   0x9E1DC186B95735610EF6034866B53E708A8BBD4B1F74DDE8C6B4A61C2E2578BA,
   0x16BB54B00F2D99416842E6BF0D89A18CDF2855CEE9871E9B948ED9691198F8E1]

/-- The inverse S-box, as sboxTable. -/
def sboxInvTable : List Nat :=
  [0xCBE9DEC444438E3487FF2F9B8239E37CFBD7F3819EA340BF38A53630D56A0952,
   0x25D18B6D49A25B76B224D92866A12E084EC3FA420B954CEE3D23C2A632947B54,
   0x849D8DA75746155EDAB9EDFD5048706C92B6655DCC5CA4D41698688664F6F872,
   0x6B8A130103BDAFC1020F3FCA8F1E2CD00645B3B80558E4F70AD3BC8C00ABD890,
   0x6EDF751CE837F9E28535ADE72274AC9673E6B4F0CECFF297EADC674F4111913A,
   0xF45ACD78FEC0DB9A2079D2C64B3E56FC1BBE18AA0E62B76F89C5291D711AF147,
   0xEF9CC9939F7AE52D0D4AB519A97F51605FEC8027591012B131C7078833A8DD1F,
   0x7D0C2155631469E126D677BA7E042B17619953833CBBEBC8B0F52AAE4D3BE0A0]

/-- Look a byte up in such a table. -/
def tableByte (table : List Nat) (b : Byte) : Byte :=
  let n := b.toNat
  BitVec.ofNat 8 (table.getD (n / 32) 0 >>> (8 * (n % 32)))

/-- The S-box. -/
def sbox (b : Byte) : Byte := tableByte sboxTable b

/-- The inverse S-box. -/
def sboxInv (b : Byte) : Byte := tableByte sboxInvTable b

/-- Byte-wise exclusive or. -/
def xorBytes (a b : Bytes) : Bytes := a.zipWith (· ^^^ ·) b

/-- One word of the key schedule: the words so far, newest first. -/
def keyStep (ws : List Bytes) (i : Nat) : List Bytes :=
  let prev := ws.headD []
  let t :=
    if i % 4 = 0 then
      let r := (prev.drop 1 ++ prev.take 1).map sbox
      let rc : Byte := ([1, 2, 4, 8, 16, 32, 64, 128, 27, 54] : Bytes).getD (i / 4 - 1) 0
      xorBytes r [rc, 0, 0, 0]
    else prev
  xorBytes t (ws.getD 3 []) :: ws

/-- The 11 round keys. -/
def roundKeys (key : Bytes) : List Bytes :=
  let first := [slice key 12 4, slice key 8 4, slice key 4 4, slice key 0 4]
  let ws := (((List.range 40).map (· + 4)).foldl keyStep first).reverse
  (List.range 11).map fun r => ((ws.drop (4 * r)).take 4).flatten

/-- ShiftRows by a step per row: 1 forward, 3 backward. -/
def shiftRows (k : Nat) (s : Bytes) : Bytes := (List.range 16).map fun i => s.getD (4 * ((i / 4 + k * (i % 4)) % 4) + i % 4) 0

/-- MixColumns with the first row of its matrix. -/
def mixColumns (m : Bytes) (s : Bytes) : Bytes :=
  (List.range 16).map fun i =>
    (List.range 4).foldl (fun a j => a ^^^ gfMul (m.getD ((j + 4 - i % 4) % 4) 0) (s.getD (4 * (i / 4) + j) 0)) 0

/-- AES-128 of one block. -/
def aesEncrypt (key block : Bytes) : Bytes :=
  let ks := roundKeys key
  let s0 := xorBytes block (ks.getD 0 [])
  let s9 := ((List.range 9).map (· + 1)).foldl
    (fun s r => xorBytes (mixColumns [2, 3, 1, 1] (shiftRows 1 (s.map sbox))) (ks.getD r [])) s0
  xorBytes (shiftRows 1 (s9.map sbox)) (ks.getD 10 [])

/-- The inverse of AES-128. -/
def aesDecrypt (key block : Bytes) : Bytes :=
  let ks := roundKeys key
  let s0 := (shiftRows 3 (xorBytes block (ks.getD 10 []))).map sboxInv
  let s9 := ((List.range 9).map (9 - ·)).foldl
    (fun s r => (shiftRows 3 (mixColumns [14, 11, 13, 9] (xorBytes s (ks.getD r [])))).map sboxInv) s0
  xorBytes s9 (ks.getD 0 [])

/-! ### AES-CMAC -/

/-- A block shifted left by one bit, with the constant of the field where a bit falls out. -/
def cmacDouble (b : Bytes) : Bytes :=
  let v := beNat b * 2
  be 16 (if v < 2 ^ 128 then v else (v - 2 ^ 128) ^^^ 0x87)

/-- AES-CMAC of a message. -/
def cmac (key msg : Bytes) : Bytes :=
  let k1 := cmacDouble (aesEncrypt key (zeros 16))
  let n := if msg = [] then 1 else cdiv msg.length 16
  let tail := msg.drop (16 * (n - 1))
  let last :=
    if tail.length = 16 then xorBytes tail k1
    else xorBytes (tail ++ [0x80] ++ zeros (15 - tail.length)) (cmacDouble k1)
  let x := (List.range (n - 1)).foldl (fun x i => aesEncrypt key (xorBytes x (slice msg (16 * i) 16))) (zeros 16)
  aesEncrypt key (xorBytes x last)

/-! ### AES key unwrap -/

/-- Unwrap of a 16-byte key from 24 bytes; none where the integrity check fails. -/
def unwrapKey (kek wrapped : Bytes) : Option Bytes :=
  let step := fun (p : Bytes × Bytes × Bytes) (t : Nat) =>
    let a := be 8 (beNat p.1 ^^^ t)
    let r := if t % 2 = 0 then p.2.2 else p.2.1
    let b := aesDecrypt kek (a ++ r)
    if t % 2 = 0 then (slice b 0 8, p.2.1, slice b 8 8) else (slice b 0 8, slice b 8 8, p.2.2)
  let out := ((List.range 12).map (12 - ·)).foldl step (slice wrapped 0 8, slice wrapped 8 8, slice wrapped 16 8)
  if out.1 = List.replicate 8 0xA6 then some (out.2.1 ++ out.2.2) else none

/-! ### SHA-256 -/

/-- Round constants 0 to 31. -/
def shaK0 : List U32 :=
  [0x428a2f98, 0x71374491, 0xb5c0fbcf, 0xe9b5dba5, 0x3956c25b, 0x59f111f1, 0x923f82a4, 0xab1c5ed5,
   0xd807aa98, 0x12835b01, 0x243185be, 0x550c7dc3, 0x72be5d74, 0x80deb1fe, 0x9bdc06a7, 0xc19bf174,
   0xe49b69c1, 0xefbe4786, 0x0fc19dc6, 0x240ca1cc, 0x2de92c6f, 0x4a7484aa, 0x5cb0a9dc, 0x76f988da,
   0x983e5152, 0xa831c66d, 0xb00327c8, 0xbf597fc7, 0xc6e00bf3, 0xd5a79147, 0x06ca6351, 0x14292967]

/-- Round constants 32 to 63. -/
def shaK1 : List U32 :=
  [0x27b70a85, 0x2e1b2138, 0x4d2c6dfc, 0x53380d13, 0x650a7354, 0x766a0abb, 0x81c2c92e, 0x92722c85,
   0xa2bfe8a1, 0xa81a664b, 0xc24b8b70, 0xc76c51a3, 0xd192e819, 0xd6990624, 0xf40e3585, 0x106aa070,
   0x19a4c116, 0x1e376c08, 0x2748774c, 0x34b0bcb5, 0x391c0cb3, 0x4ed8aa4a, 0x5b9cca4f, 0x682e6ff3,
   0x748f82ee, 0x78a5636f, 0x84c87814, 0x8cc70208, 0x90befffa, 0xa4506ceb, 0xbef9a3f7, 0xc67178f2]

/-- The initial hash value. -/
def shaInit : List U32 :=
  [0x6a09e667, 0xbb67ae85, 0x3c6ef372, 0xa54ff53a, 0x510e527f, 0x9b05688c, 0x1f83d9ab, 0x5be0cd19]

/-- One word of the message schedule; the words so far stand newest first. -/
def shaSchedule (w : List U32) : List U32 :=
  let a := w.getD 1 0
  let b := w.getD 14 0
  let s1 := a.rotateRight 17 ^^^ a.rotateRight 19 ^^^ (a >>> 10)
  let s0 := b.rotateRight 7 ^^^ b.rotateRight 18 ^^^ (b >>> 3)
  (s1 + w.getD 6 0 + s0 + w.getD 15 0) :: w

/-- One round on the working variables a to h. -/
def shaRound (v : List U32) (kw : U32 × U32) : List U32 := match v with
  | [a, b, c, d, e, f, g, h] =>
    let t1 := h + (e.rotateRight 6 ^^^ e.rotateRight 11 ^^^ e.rotateRight 25) + ((e &&& f) ^^^ (~~~ e &&& g)) + kw.1 + kw.2
    let t2 := (a.rotateRight 2 ^^^ a.rotateRight 13 ^^^ a.rotateRight 22) + ((a &&& b) ^^^ (a &&& c) ^^^ (b &&& c))
    [t1 + t2, a, b, c, d + t1, e, f, g]
  | _ => v

/-- One block of 64 bytes. -/
def shaBlock (h : List U32) (block : Bytes) : List U32 :=
  let w0 := ((List.range 16).map fun i => BitVec.ofNat 32 (beNat (slice block (4 * i) 4))).reverse
  let w := ((List.range 48).foldl (fun w _ => shaSchedule w) w0).reverse
  h.zipWith (· + ·) (((shaK0 ++ shaK1).zip w).foldl shaRound h)

/-- The blocks of a padded message, with a bound on their number. -/
def shaBlocks : Nat → List U32 → Bytes → List U32
  | 0, h, _ => h
  | n + 1, h, bs => shaBlocks n (shaBlock h (bs.take 64)) (bs.drop 64)

/-- SHA-256. -/
def sha256 (msg : Bytes) : Bytes :=
  let pad := msg ++ [0x80] ++ zeros ((119 - msg.length % 64) % 64) ++ be 8 (8 * msg.length)
  ((shaBlocks (pad.length / 64) shaInit pad).map fun w => be 4 w.toNat).flatten

/-! ### ECDSA P-256 -/

/-- The prime of the field. -/
def p256P : Nat := 0xffffffff00000001000000000000000000000000ffffffffffffffffffffffff

/-- The order of the base point. -/
def p256N : Nat := 0xffffffff00000000ffffffffffffffffbce6faada7179e84f3b9cac2fc632551

/-- The base point. -/
def p256G : Nat × Nat :=
  (0x6b17d1f2e12c4247f8bce6e563a440f277037d812deb33a0f4a13945d898c296,
   0x4fe342e2fe1a7f9b8ee7eb4a7c0f9e162bce33576b315ececbb6406837bf51f5)

/-- Modular power over the bits of the exponent, from the top, n bits. -/
def powMod (b e m : Nat) : Nat → Nat
  | 0 => 1 % m
  | n + 1 =>
    let h := powMod b (e / 2) m n
    if e % 2 = 1 then h * h % m * b % m else h * h % m

/-- A point in Jacobian coordinates; infinity where z is 0. -/
structure Jac where
  /-- X. -/
  x : Nat
  /-- Y. -/
  y : Nat
  /-- Z. -/
  z : Nat
  deriving DecidableEq, Repr

/-- Difference modulo p. -/
def subP (a b : Nat) : Nat := (a + p256P - b % p256P) % p256P

/-- Infinity. -/
def Jac.inf : Jac := { x := 1, y := 1, z := 0 }

/-- Doubling, a = −3. -/
def Jac.double (q : Jac) : Jac :=
  if q.z = 0 ∨ q.y = 0 then .inf
  else
    let zz := q.z * q.z % p256P
    let s := 4 * q.x * (q.y * q.y % p256P) % p256P
    let m := 3 * subP q.x zz * (q.x + zz) % p256P
    let x := subP (m * m) (2 * s)
    let y4 := q.y * q.y % p256P * (q.y * q.y % p256P) % p256P
    { x, y := subP (m * subP s x) (8 * y4), z := 2 * q.y * q.z % p256P }

/-- Addition. -/
def Jac.add (a b : Jac) : Jac :=
  if a.z = 0 then b
  else if b.z = 0 then a
  else
    let za := a.z * a.z % p256P
    let zb := b.z * b.z % p256P
    let u1 := a.x * zb % p256P
    let u2 := b.x * za % p256P
    let s1 := a.y * zb % p256P * b.z % p256P
    let s2 := b.y * za % p256P * a.z % p256P
    if u1 = u2 then (if s1 = s2 then a.double else .inf)
    else
      let h := subP u2 u1
      let r := subP s2 s1
      let hh := h * h % p256P
      let hhh := hh * h % p256P
      let v := u1 * hh % p256P
      let x := subP (subP (r * r) hhh) (2 * v)
      { x, y := subP (r * subP v x) (s1 * hhh), z := h * a.z % p256P * b.z % p256P }

/-- k times a point over n bits of k. -/
def Jac.mul (q : Jac) (k : Nat) : Nat → Jac
  | 0 => .inf
  | n + 1 =>
    let h := (q.mul (k / 2) n).double
    if k % 2 = 1 then h.add q else h

/-- ECDSA P-256: the signature r, s of a 32-byte hash verifies under a public key. -/
def ecdsaVerify (qx qy : Nat) (hash : Bytes) (r s : Nat) : Bool :=
  if r = 0 ∨ p256N ≤ r ∨ s = 0 ∨ p256N ≤ s then false
  else
    let w := powMod s (p256N - 2) p256N 256
    let u1 := beNat hash * w % p256N
    let u2 := r * w % p256N
    let g : Jac := { x := p256G.1, y := p256G.2, z := 1 }
    let q : Jac := { x := qx, y := qy, z := 1 }
    let p := (g.mul u1 256).add (q.mul u2 256)
    if p.z = 0 then false
    else
      let zi := powMod p.z (p256P - 2) p256P 256
      p.x * (zi * zi % p256P) % p256P % p256N == r

end Sys2Proof.Machine
end

