-- ==== Sys2Proof/Machine/Aborts.lean ====
section
/-! DEFINITION. The abort codes of Baspo (Table 03.7). -/

namespace Sys2Proof.Machine

open Sys2Proof

/-- Abort codes. -/
inductive Abort
  | unknownIndex
  | unknownSubindex
  | unknownService
  | versionUnsupported
  | accessRole
  | readOnly
  | writeOnly
  | lockRequired
  | diagClass
  | sessionLimit
  | typeMismatch
  | outOfRange
  | blockSequence
  | blockCrc
  | lengthLimit
  | domainOff
  | domainFailed
  | stateConflict
  | noResponse
  | lockBusy
  | lockTimeout
  | lockValidation
  | lockCapacity
  | lockNotOpen
  | lockEmpty
  | holdupLow
  | writeInhibitTemp
  | storageFull
  | versionAbsent
  | imageInvalid
  | rollback
  | securityState
  | authRequired
  | freshness
  | authFailed
  | backoff
  | deferred
  | ticketUnknown
  | captureNotArmed
  | segmentUnknown
  | segmentOverwritten
  | streamLimit
  | incompressible
  deriving DecidableEq, Repr

/-- The code of an abort. -/
def Abort.code : Abort → Nat
  | .unknownIndex => 0x0A010001
  | .unknownSubindex => 0x0A010002
  | .unknownService => 0x0A010003
  | .versionUnsupported => 0x0A010004
  | .accessRole => 0x0A020001
  | .readOnly => 0x0A020002
  | .writeOnly => 0x0A020003
  | .lockRequired => 0x0A020004
  | .diagClass => 0x0A020005
  | .sessionLimit => 0x0A020006
  | .typeMismatch => 0x0A030001
  | .outOfRange => 0x0A030002
  | .blockSequence => 0x0A030003
  | .blockCrc => 0x0A030004
  | .lengthLimit => 0x0A030005
  | .domainOff => 0x0A040001
  | .domainFailed => 0x0A040002
  | .stateConflict => 0x0A040003
  | .noResponse => 0x0A040004
  | .lockBusy => 0x0A050001
  | .lockTimeout => 0x0A050002
  | .lockValidation => 0x0A050003
  | .lockCapacity => 0x0A050004
  | .lockNotOpen => 0x0A050005
  | .lockEmpty => 0x0A050006
  | .holdupLow => 0x0A060001
  | .writeInhibitTemp => 0x0A060002
  | .storageFull => 0x0A060003
  | .versionAbsent => 0x0A060004
  | .imageInvalid => 0x0A060005
  | .rollback => 0x0A060006
  | .securityState => 0x0A070001
  | .authRequired => 0x0A070002
  | .freshness => 0x0A070003
  | .authFailed => 0x0A070004
  | .backoff => 0x0A070005
  | .deferred => 0x0A080001
  | .ticketUnknown => 0x0A080002
  | .captureNotArmed => 0x0A090001
  | .segmentUnknown => 0x0A090002
  | .segmentOverwritten => 0x0A090003
  | .streamLimit => 0x0A090004
  | .incompressible => 0x0A0A0001

end Sys2Proof.Machine
end

