-- ==== Sys2Proof/Machine/Coding.lean ====
section
/-! DEFINITION. Check codes and dictionary block coding: CRC-32 (R283), CRC-64 (R239), CRC-8 (R182), the field-delta transform (R284),
the code stream (R285 to R287), blocks and coded units (R281, R282). -/

namespace Sys2Proof.Machine

open Sys2Proof

/-! ### Check codes -/

/-- One shift of CRC-32 (R283): reflected. -/
def crc32Bit (c : U32) : U32 := if c.getLsbD 0 then (c >>> 1) ^^^ 0xEDB88320 else c >>> 1

/-- One byte of CRC-32. -/
def crc32Byte (c : U32) (b : Byte) : U32 :=
  let x := c ^^^ b.setWidth 32
  crc32Bit (crc32Bit (crc32Bit (crc32Bit (crc32Bit (crc32Bit (crc32Bit (crc32Bit x)))))))

/-- CRC-32 of a byte string (R283). -/
def crc32 (bs : Bytes) : U32 := bs.foldl crc32Byte 0xFFFFFFFF ^^^ 0xFFFFFFFF

/-- One shift of CRC-64 (R239): most significant bit first. -/
def crc64Bit (c : U64) : U64 := if c.getLsbD 63 then (c <<< 1) ^^^ 0x42F0E1EBA9EA3693 else c <<< 1

/-- One byte of CRC-64. -/
def crc64Byte (c : U64) (b : Byte) : U64 :=
  let x := c ^^^ (b.setWidth 64 <<< 56)
  crc64Bit (crc64Bit (crc64Bit (crc64Bit (crc64Bit (crc64Bit (crc64Bit (crc64Bit x)))))))

/-- CRC-64 of a byte string (R239). -/
def crc64 (bs : Bytes) : U64 := bs.foldl crc64Byte 0xFFFFFFFFFFFFFFFF ^^^ 0xFFFFFFFFFFFFFFFF

/-- One data bit of CRC-8 (R182): polynomial x^8 + x^2 + x + 1, no reflection. -/
def crc8Bit (c : Byte) (b : Bool) : Byte := if c.getLsbD 7 != b then (c <<< 1) ^^^ 0x07 else c <<< 1

/-- CRC-8 over the 40 data bits of a bus message, bit 39 first (R182). -/
def crc8 (d : BitVec 40) : Byte := ((List.range 40).map fun i => d.getLsbD (39 - i)).foldl crc8Bit 0

/-! ### The field-delta transform (R284) -/

/-- Offsets j of the words that the transform takes in n bytes. -/
def deltaOffsets (origin stride n : Nat) : List Nat :=
  ((List.range (n / 4 + 1)).map fun m => origin + stride + 4 * m).filter fun j => j + 4 ≤ n

/-- The transform: each word less the word one stride earlier, modulo 2^32; other bytes unchanged. -/
def deltaCode (origin stride : Nat) (bs : Bytes) : Bytes :=
  let a := bs.toArray
  let w := fun (j : Nat) => leNat [a.getD j 0, a.getD (j + 1) 0, a.getD (j + 2) 0, a.getD (j + 3) 0]
  let js := deltaOffsets origin stride bs.length
  if js.isEmpty then bs
  else
    bs.take (origin + stride) ++ (js.map fun j => le 4 (w j + 4294967296 - w (j - stride))).flatten ++
      bs.drop (origin + stride + 4 * js.length)

/-- The decoder's inverse: words restored in ascending order (R284). -/
def deltaDecode (origin stride : Nat) (bs : Bytes) : Bytes :=
  (deltaOffsets origin stride bs.length).foldl (fun out j =>
    out.take j ++ le 4 (u32At out j + u32At out (j - stride)) ++ out.drop (j + 4)) bs

/-! ### The code stream (R285 to R287) -/

/-- Number of binary digits. -/
def bitlen (x : Nat) : Nat := if x = 0 then 0 else Nat.log2 x + 1

/-- Width of the i-th code since the start or the last CLEAR (R285). -/
def codeWidth (i : Nat) : Nat := min 15 (bitlen (256 + i))

/-- State of the encoder: the dictionary as, for every code, the bytes that extend its string with the code of the longer string; the
string not yet coded; i of the last code sent; the codes sent. -/
structure Encoder where
  /-- Dictionary. -/
  dict : Array (List (Nat × Nat))
  /-- Code of the current string. -/
  cur : Option Nat
  /-- i of the last code sent. -/
  count : Nat
  /-- Codes sent with their widths, newest first. -/
  out : List (Nat × Nat)
  deriving DecidableEq, Repr

/-- The dictionary at the start of a block and after CLEAR: codes below 258 only. -/
def emptyDict : Array (List (Nat × Nat)) := Array.replicate 258 []

/-- Send a code. -/
def Encoder.emit (e : Encoder) (code : Nat) : Encoder :=
  { e with count := e.count + 1, out := (code, codeWidth (e.count + 1)) :: e.out }

/-- CLEAR follows the code that fills index 32,767, which is code 32,511 (R286). -/
def Encoder.clearIfFull (e : Encoder) : Encoder :=
  if e.count = 32511 then { e.emit 256 with dict := emptyDict, count := 0 } else e

/-- One byte into the encoder: the longest string of the dictionary is coded, and the string with the byte becomes an entry. -/
def Encoder.push (e : Encoder) (b : Byte) : Encoder := match e.cur with
  | none => { e with cur := some b.toNat }
  | some w => match (e.dict.getD w []).lookup b.toNat with
    | some c => { e with cur := some c }
    | none =>
      let e1 := e.emit w
      let e2 := e1.clearIfFull
      if e2.count = 0 then { e2 with cur := some b.toNat }
      else { e2 with dict := (e2.dict.modify w fun l => (b.toNat, 257 + e2.count) :: l).push [], cur := some b.toNat }

/-- The codes of a byte string with their widths: the last string, then END (R287). -/
def encodeCodes (bs : Bytes) : List (Nat × Nat) :=
  let e := bs.foldl Encoder.push { dict := emptyDict, cur := none, count := 0, out := [] }
  let e1 := match e.cur with
    | some w => (e.emit w).clearIfFull
    | none => e
  (e1.emit 257).out.reverse

/-- Bits of a code, least significant first. -/
def codeBits (p : Nat × Nat) : List Bool := (List.range p.2).map fun k => p.1.testBit k

/-- The byte of at most 8 bits, bit 0 first; missing bits are 0. -/
def byteOfBits (l : List Bool) : Byte := BitVec.ofNat 8 (maskOf 8 fun k => l.getD k false)

/-- Pack bits into bytes, bit 0 of each byte first. -/
def packBits : List Bool → Bytes
  | b0 :: b1 :: b2 :: b3 :: b4 :: b5 :: b6 :: b7 :: r => byteOfBits [b0, b1, b2, b3, b4, b5, b6, b7] :: packBits r
  | [] => []
  | l => [byteOfBits l]

/-- The code stream of a byte string. -/
def codeStream (bs : Bytes) : Bytes := packBits ((encodeCodes bs).map codeBits).flatten

/-! ### Blocks (R281, R282) -/

/-- A block: header of Table 13.9 and payload. delta: origin and stride. A block is RAW where its code stream would be at least as long
as the data (R282). The second component tells RAW. -/
def codeBlock (bs : Bytes) (last : Bool) (delta : Option (Nat × Nat)) : Bytes × Bool :=
  let stream := codeStream (match delta with
    | some (o, s) => deltaCode o s bs
    | none => bs)
  let raw := decide (bs.length ≤ stream.length)
  let used := if raw then none else delta
  let pay := if raw then bs else stream
  let flags := b2n raw + 2 * b2n last + 4 * b2n used.isSome
  let p := used.getD (0, 0)
  (le 2 0xDB1C ++ le 1 1 ++ le 1 flags ++ le 4 bs.length ++ le 4 pay.length ++ le 2 p.1 ++ le 2 p.2 ++ le 4 (crc32 bs).toNat ++ pay, raw)

/-- Cut into pieces of n bytes; fuel bounds the pieces. -/
def pieces : Nat → Nat → Bytes → List Bytes
  | 0, _, bs => if bs.isEmpty then [] else [bs]
  | k + 1, n, bs => if bs.length ≤ n then (if bs.isEmpty then [] else [bs]) else bs.take n :: pieces k n (bs.drop n)

/-- Cut into pieces of n bytes, only the last shorter. -/
def cut (n : Nat) (bs : Bytes) : List Bytes := pieces bs.length n bs

/-- A coded unit: blocks of 65,536 bytes; how many blocks there are, and how many are RAW (R281). delta: origin and stride; a block
too short for them has DELTA clear (R284). -/
def codeUnit (bs : Bytes) (delta : Option (Nat × Nat) := none) : Bytes × Nat × Nat :=
  let ps := cut 65536 bs
  let blocks := ps.zipIdx.map fun p => codeBlock p.1 (p.2 + 1 == ps.length) (delta.filter fun d => d.1 + d.2 ≤ p.1.length)
  ((blocks.map (·.1)).flatten, blocks.length, (blocks.filter (·.2)).length)

/-! ### The decoder (R288) -/

/-- A block header in fields. -/
structure BlockHead where
  /-- RAW. -/
  raw : Bool
  /-- LAST. -/
  last : Bool
  /-- DELTA. -/
  delta : Bool
  /-- RAW_LENGTH. -/
  rawLength : Nat
  /-- CODED_LENGTH. -/
  codedLength : Nat
  /-- ORIGIN. -/
  origin : Nat
  /-- STRIDE. -/
  stride : Nat
  /-- DATA_CRC. -/
  crc : U32
  deriving DecidableEq, Repr

/-- Read a block header; none where a field lies outside Table 13.9, R282 or R284. -/
def readHead (b : Bytes) : Option BlockHead :=
  let fl := u8At b 3
  let h : BlockHead :=
    { raw := bit fl 0, last := bit fl 1, delta := bit fl 2, rawLength := u32At b 4, codedLength := u32At b 8, origin := u16At b 12,
      stride := u16At b 14, crc := u32 (u32At b 16) }
  let shape := u16At b 0 == 0xDB1C && u8At b 2 == 1 && fl < 8 && 1 ≤ h.rawLength && h.rawLength ≤ 65536 && 20 ≤ b.length
  let form := if h.raw then h.codedLength == h.rawLength && !h.delta && h.origin == 0 && h.stride == 0
    else if h.delta then h.stride % 4 == 0 && 4 ≤ h.stride && h.stride ≤ 4096 && h.origin + h.stride ≤ h.rawLength
    else h.origin == 0 && h.stride == 0
  if shape && form then some h else none

/-- State of the decoder: entries 258 and up, i of the last code, the previous string, the output reversed. -/
structure Decoder where
  /-- Entries from 258 on. -/
  entries : Array Bytes
  /-- Previous string. -/
  prev : Option Bytes
  /-- Codes read since the start or the last CLEAR. -/
  count : Nat
  /-- Bits read. -/
  pos : Nat
  /-- Output pieces, newest first. -/
  out : List Bytes
  deriving DecidableEq, Repr

/-- The code of a width at the front of the bits. -/
def takeCode (w : Nat) (bits : List Bool) : Option (Nat × List Bool) :=
  if bits.length < w then none else some (maskOf w fun k => bits.getD k false, bits.drop w)

/-- The string that a code stands for; none where it has none. -/
def Decoder.string (d : Decoder) (p : Bytes) (code : Nat) : Option Bytes :=
  if code < 256 then some [BitVec.ofNat 8 code]
  else if code < 258 then none
  else match d.entries[code - 258]? with
    | some s => some s
    | none => if code = 258 + d.entries.size ∧ code ≤ 32767 then some (p ++ p.take 1) else none

/-- Read codes up to END; none where R288 rejects. -/
def Decoder.run : Nat → Decoder → List Bool → Option Decoder
  | 0, _, _ => none
  | fuel + 1, d, bits =>
    match takeCode (codeWidth (d.count + 1)) bits with
    | none => none
    | some (code, rest) =>
      let d1 := { d with count := d.count + 1, pos := d.pos + codeWidth (d.count + 1) }
      if code = 256 then Decoder.run fuel { d1 with entries := #[], prev := none, count := 0 } rest
      else if code = 257 then some d1
      else match d.prev with
        | none => if 255 < code then none
          else Decoder.run fuel { d1 with prev := some [BitVec.ofNat 8 code], out := [BitVec.ofNat 8 code] :: d.out } rest
        | some p => match d.string p code with
          | none => none
          | some s =>
            let entries := if 258 + d.entries.size ≤ 32767 then d.entries.push (p ++ s.take 1) else d.entries
            Decoder.run fuel { d1 with entries, prev := some s, out := s :: d.out } rest

/-- The bytes of one block's payload; none where the block is to be rejected (R288). -/
def decodeBlock (h : BlockHead) (pay : Bytes) : Option Bytes :=
  let out : Option Bytes :=
    if h.raw then some pay
    else
      let bits := (pay.map fun b => (List.range 8).map b.getLsbD).flatten
      match Decoder.run (bits.length + 1) { entries := #[], prev := none, count := 0, pos := 0, out := [] } bits with
      | none => none
      | some d =>
        let bytes := d.out.reverse.flatten
        if cdiv d.pos 8 = pay.length ∧ (bits.drop d.pos).all (! ·) then
          some (if h.delta then deltaDecode h.origin h.stride bytes else bytes)
        else none
  match out with
  | none => none
  | some o => if o.length = h.rawLength ∧ crc32 o = h.crc ∧ pay.length = h.codedLength then some o else none

end Sys2Proof.Machine
end

