-- ==== Sys2Proof/Config.lean ====
section
/-! DEFINITION. What the spec leaves open inside the LM512: free values, without bodies (log entry 5). -/

namespace Sys2Proof.Config

open Sys2Proof

/-- The random challenge of SESSION_OPEN (R350): the n-th drawn. -/
opaque challenge : Nat → BitVec 128

/-- FRESHNESS that the LM512 writes in a message with SESSION 0, where no session counter exists (R55, R57): the n-th. -/
opaque plainFreshness : Nat → U32

/-- Cycles that an echo engine spends on a row (R167), from the row's histogram entries and stamp words. -/
opaque rowCost : List (Nat × Nat) → List U32 → Nat

/-- Rows that a lane has finished when COLUMN_TICK cuts it (R168): by the draw, the column and the lane. -/
opaque rowsFinished : Nat → Nat → Bool → Nat

/-- Taps 0 to 7 of the symmetric 15-tap compensation filter (R200). -/
opaque firTap : Nat → Rat

/-- Taps 0 to 14 of the resampler kernel, by phase, in Q15 (R202); the sixteenth makes their sum 32768. -/
opaque kernelTap : Nat → Nat → Int

/-- Correction for crystal drift in ppb (R310), from the factory coefficients and the CASE temperature. -/
opaque xtalCorrection : Int × Int × Int → Rat → Int

/-- Correction of the bands' bias reference from the ZAVEX temperature (R310). -/
opaque biasCorrection : Rat → Int

/-- Correction of the MIRR current-sense gain from the ZAVEX temperature (R310). -/
opaque senseCorrection : Rat → Int

/-- Temperature in 0.1 °C that a diode's result stands for (R304): by input 4 to 6 and result. -/
opaque diodeTemp : Nat → Nat → BitVec 16

/-- T_M in 0.1 °C where the formula of R204 gives no temperature that the object can hold: by result, NTC_RES_25C and NTC_BETA. -/
opaque mirrorTemp : Nat → Nat → Nat → BitVec 16

/-- A value the spec does not state, by draw. -/
opaque freeNat : Nat → Nat

end Sys2Proof.Config
end

