-- ==== Sys2Proof/Machine/Dictionary.lean ====
section
/-! DEFINITION. The object dictionary: one row per object of the spec's object tables (03.2, 03.9, 03.13, 02.16, 04.1, 04.3,
04.6, 05.6, 05.7, 06.4 to 06.6, 06.10, 07.3 to 07.5, 08.6, 09.11 to 09.13, 10.4 to 10.6, 11.8, 12.6 to 12.9, 13.10, 14.14 to
14.17, 15.5, 15.6, 16.7 to 16.10, 17.5), with its type, access code, range, domain and default. -/

namespace Sys2Proof.Machine

open Sys2Proof

/-- Object types (R3): their size in bytes and sign; a DOMAIN has a smallest and a largest size (R4). -/
inductive ObjType
  | u8
  | u16
  | u32
  | i16
  | i32
  | dom (lo hi : Nat)
  deriving DecidableEq, Repr

/-- Access codes (Table 00.5). -/
inductive Access
  | ro
  | rw
  | wo
  | rwl
  | cmd
  deriving DecidableEq, Repr

/-- What stands behind an object: a configuration object held in the store, a factory or calibrated value (also a
configuration object, R298), a live or status value, a command, a constant of AO, an EVENT counter or its SAT object. -/
inductive ObjKind
  | cfg
  | fac
  | live
  | cmd
  | const
  | counter
  | satBits
  deriving DecidableEq, Repr

/-- Where an object lives: in AO, or in domains of which any that serves answers for it (R298). -/
inductive Owner
  | ao
  | any (doms : List Nat)
  deriving DecidableEq, Repr

/-- One object. -/
structure Obj where
  /-- Index × 256 + subindex. -/
  id : Nat
  /-- Type. -/
  ty : ObjType
  /-- Access code. -/
  acc : Access
  /-- What stands behind it. -/
  kind : ObjKind
  /-- Least role for writing: 2 OPERATOR, 3 INTEGRATOR (R66). -/
  role : Nat
  /-- Domains. -/
  owner : Owner
  /-- Smallest value. -/
  lo : Int
  /-- Largest value. -/
  hi : Int
  /-- Values are multiples of it. -/
  step : Nat
  /-- 0 is allowed besides the range. -/
  zero : Bool
  /-- Default. -/
  dflt : Bytes
  /-- SAT object, SAT bit and counter-saturated event of an EVENT counter. -/
  sat : Nat × Nat × Nat
  deriving DecidableEq, Repr

/-- The 16 receiver bands' domains. -/
def bandDoms : List Nat := [16, 17, 18, 19, 20, 21, 22, 23, 24, 25, 26, 27, 28, 29, 30, 31]

/-- A row with a value. -/
def obj (id : Nat) (ty : ObjType) (acc : Access) (kind : ObjKind) (role : Nat) (owner : Owner) (lo hi : Int) (step : Nat)
    (zero : Bool) (dflt : Bytes) : Obj :=
  { id, ty, acc, kind, role, owner, lo, hi, step, zero, dflt, sat := (0, 0, 0) }

/-- Subindex 0x00 of an index: a constant of AO (R5). -/
def cst (id v : Nat) : Obj :=
  { id, ty := .u8, acc := .ro, kind := .const, role := 2, owner := .ao, lo := 0, hi := 255, step := 1, zero := false,
    dflt := le 1 v, sat := (0, 0, 0) }

/-- An EVENT counter (R8, R9): only 0 may be written. -/
def ctr (id : Nat) (owner : Owner) (satId satBit code : Nat) : Obj :=
  { id, ty := .u32, acc := .rw, kind := .counter, role := 2, owner, lo := 0, hi := 0, step := 1, zero := false, dflt := le 4 0,
    sat := (satId, satBit, code) }

/-- The sticky SAT bits of an index (R8). -/
def sat (id : Nat) (owner : Owner) : Obj :=
  { id, ty := .u32, acc := .ro, kind := .satBits, role := 2, owner, lo := 0, hi := 0, step := 1, zero := false, dflt := le 4 0,
    sat := (0, 0, 0) }

/-- Index 0x1100. -/
def dict1100 : List Obj :=
  [cst 0x110000 19,
   obj 0x110001 .u8 .rwl .cfg 2 (.any [2]) 0 1 1 false ([0]),
   obj 0x110002 .u8 .rwl .cfg 2 (.any [2]) 0 1 1 false ([1]),
   obj 0x110003 (.dom 6 6) .ro .fac 2 (.any [2]) 0 0 1 false ([]),
   obj 0x110004 .u32 .rwl .cfg 2 (.any [2]) 0 4294967295 1 false (le 4 0),
   obj 0x110005 .u8 .rwl .cfg 2 (.any [2]) 8 30 1 false ([24]),
   obj 0x110006 .u32 .rwl .cfg 2 (.any [2]) 0 4294967295 1 false (le 4 0),
   obj 0x110007 (.dom 16 16) .rwl .cfg 2 (.any [2]) 0 0 1 false (zeros 16),
   obj 0x110008 .u8 .rwl .cfg 2 (.any [2]) 16 126 1 false ([64]),
   obj 0x110009 .u16 .rwl .cfg 2 (.any [2]) 1024 65535 1 false (le 2 47696),
   obj 0x11000A .u16 .rwl .cfg 2 (.any [2]) 1 4094 1 true (le 2 0),
   obj 0x11000B .u8 .rwl .cfg 2 (.any [2]) 0 7 1 false ([5]),
   obj 0x11000C .u8 .rwl .cfg 2 (.any [2]) 0 127 1 false ([0]),
   obj 0x11000D .u8 .ro .live 2 (.any [2]) 0 255 1 false ([0]),
   obj 0x11000E .i32 .ro .live 2 (.any [2]) (-2147483648) 2147483647 1 false (le 4 0),
   obj 0x11000F .u8 .rwl .cfg 2 (.any [3]) 0 3 1 false ([2]),
   obj 0x110010 .u8 .rwl .cfg 2 (.any [3]) 0 3 1 false ([1]),
   obj 0x110011 .u16 .rwl .cfg 2 (.any [3]) 0 2044 4 false (le 2 1600),
   obj 0x110012 .u16 .rwl .cfg 2 .ao 0 2047 1 false (le 2 1603),
   obj 0x110013 (.dom 8 8) .rwl .cfg 2 .ao 0 0 1 false (0xFF :: zeros 7)]

/-- Index 0x1200. -/
def dict1200 : List Obj :=
  [cst 0x120000 11,
   obj 0x120001 .u8 .ro .live 2 (.any [1]) 0 255 1 false ([0]),
   obj 0x120002 .u8 .ro .live 2 (.any [1]) 0 255 1 false ([0]),
   obj 0x120003 (.dom 26 26) .wo .live 2 (.any [1]) 0 0 1 false ([]),
   obj 0x120004 .u8 .cmd .cmd 3 (.any [1]) 1 1 1 false ([0]),
   obj 0x120005 .u8 .cmd .cmd 3 (.any [1]) 1 1 1 false ([0]),
   obj 0x120006 .u16 .cmd .cmd 3 (.any [1]) 24225 24225 1 false (le 2 0),
   obj 0x120007 (.dom 40 40) .ro .live 2 (.any [1]) 0 0 1 false ([]),
   obj 0x120008 .u8 .ro .live 2 (.any [1]) 0 255 1 false ([0]),
   obj 0x120009 .u32 .ro .live 2 (.any [1]) 0 4294967295 1 false (le 4 0),
   ctr 0x12000A (.any [1]) 0x12000B 0 0x80FF,
   sat 0x12000B (.any [1])]

/-- Index 0x1300. -/
def dict1300 : List Obj :=
  [cst 0x130000 18,
   obj 0x130001 .u8 .cmd .cmd 2 .ao 1 4 1 false ([0]),
   obj 0x130002 .u8 .ro .live 2 .ao 0 255 1 false ([0]),
   obj 0x130003 .u32 .ro .live 2 .ao 0 4294967295 1 false (le 4 0),
   obj 0x130004 .u16 .ro .live 2 .ao 0 65535 1 false (le 2 0),
   obj 0x130005 .u32 .ro .live 2 .ao 0 4294967295 1 false (le 4 0),
   obj 0x130006 .u32 .rw .cfg 2 .ao 500 60000 1 false (le 4 5000),
   obj 0x130007 .u32 .ro .live 2 .ao 0 4294967295 1 false (le 4 0),
   obj 0x130008 .u32 .ro .live 2 .ao 0 4294967295 1 false (le 4 0),
   obj 0x130009 .u8 .ro .live 2 .ao 0 255 1 false ([0]),
   obj 0x13000A .u8 .ro .live 2 .ao 0 255 1 false ([0]),
   obj 0x13000B .u32 .ro .live 2 .ao 0 4294967295 1 false (le 4 0),
   obj 0x13000C .u32 .ro .live 2 .ao 0 4294967295 1 false (le 4 0),
   obj 0x13000D .u32 .ro .live 2 .ao 0 4294967295 1 false (le 4 0),
   obj 0x13000E .u32 .ro .live 2 .ao 0 4294967295 1 false (le 4 0),
   obj 0x13000F .u32 .ro .live 2 .ao 0 4294967295 1 false (le 4 0),
   obj 0x130010 .u32 .ro .live 2 .ao 0 4294967295 1 false (le 4 0),
   obj 0x130011 .u32 .ro .live 2 .ao 0 4294967295 1 false (le 4 0),
   obj 0x130012 .u32 .ro .live 2 .ao 0 4294967295 1 false (le 4 0)]

/-- Index 0x1400. -/
def dict1400 : List Obj :=
  [cst 0x140000 7,
   obj 0x140001 .u32 .ro .live 2 .ao 0 4294967295 1 false (le 4 0),
   obj 0x140002 (.dom 8192 8192) .ro .live 2 .ao 0 0 1 false ([]),
   ctr 0x140003 .ao 0x140007 0 0xA0FF,
   ctr 0x140004 .ao 0x140007 1 0xA0FF,
   ctr 0x140005 .ao 0x140007 2 0xA0FF,
   ctr 0x140006 .ao 0x140007 3 0xA0FF,
   sat 0x140007 .ao]

/-- Index 0x2000. -/
def dict2000 : List Obj :=
  [cst 0x200000 16,
   obj 0x200001 .u8 .ro .live 2 .ao 0 255 1 false ([0]),
   obj 0x200002 .u8 .ro .live 2 .ao 0 255 1 false ([0]),
   obj 0x200003 .u8 .ro .live 2 .ao 0 255 1 false ([255]),
   obj 0x200004 .u8 .cmd .cmd 2 .ao 0 3 1 false ([0]),
   obj 0x200005 .u8 .rwl .cfg 2 .ao 0 1 1 false ([0]),
   obj 0x200006 .u8 .rwl .cfg 2 .ao 1 3 1 false ([3]),
   obj 0x200007 .u8 .rwl .cfg 2 .ao 0 2 1 false ([0]),
   obj 0x200008 .u32 .rwl .cfg 2 .ao 0 600000 1 false (le 4 2000),
   obj 0x200009 .u32 .rwl .cfg 2 .ao 1 604800 1 true (le 4 3600),
   obj 0x20000A .u8 .rw .cfg 2 .ao 0 1 1 false ([0]),
   obj 0x20000B .u16 .rwl .cfg 2 .ao 100 60000 1 false (le 2 2000),
   obj 0x20000C .u8 .ro .live 2 .ao 0 255 1 false ([0]),
   obj 0x20000D .u8 .ro .live 2 .ao 0 255 1 false ([0]),
   obj 0x20000E .u8 .ro .live 2 .ao 0 255 1 false ([0]),
   obj 0x20000F .u32 .ro .live 2 .ao 0 4294967295 1 false (le 4 0),
   obj 0x200010 .u32 .ro .live 2 .ao 0 4294967295 1 false (le 4 0)]

/-- Index 0x2001. -/
def dict2001 : List Obj :=
  [cst 0x200100 5,
   obj 0x200101 (.dom 32 32) .ro .live 2 .ao 0 0 1 false ([]),
   obj 0x200102 (.dom 32 32) .ro .live 2 .ao 0 0 1 false ([]),
   ctr 0x200103 .ao 0x200105 0 0x10FF,
   ctr 0x200104 .ao 0x200105 1 0x10FF,
   sat 0x200105 .ao]

/-- Index 0x2002. -/
def dict2002 : List Obj :=
  [cst 0x200200 11,
   ctr 0x200201 .ao 0x20020B 0 0x10FF,
   ctr 0x200202 .ao 0x20020B 1 0x10FF,
   ctr 0x200203 .ao 0x20020B 2 0x10FF,
   ctr 0x200204 .ao 0x20020B 3 0x10FF,
   ctr 0x200205 .ao 0x20020B 4 0x10FF,
   ctr 0x200206 .ao 0x20020B 5 0x10FF,
   ctr 0x200207 .ao 0x20020B 6 0x10FF,
   ctr 0x200208 .ao 0x20020B 7 0x10FF,
   ctr 0x200209 .ao 0x20020B 8 0x10FF,
   ctr 0x20020A .ao 0x20020B 9 0x10FF,
   sat 0x20020B .ao]

/-- Index 0x2030. -/
def dict2030 : List Obj :=
  [cst 0x203000 4,
   obj 0x203001 .u8 .rwl .cfg 2 .ao 0 1 1 false ([0]),
   obj 0x203002 .u8 .rwl .cfg 2 .ao 0 1 1 false ([0]),
   obj 0x203003 .u8 .ro .live 2 .ao 0 255 1 false ([0]),
   obj 0x203004 .u8 .cmd .cmd 2 .ao 0 3 1 false ([0])]

/-- Index 0x2100. -/
def dict2100 : List Obj :=
  [cst 0x210000 11,
   obj 0x210001 (.dom 16 16) .ro .live 2 .ao 0 0 1 false ([]),
   obj 0x210002 .u8 .ro .live 2 .ao 0 255 1 false ([0]),
   obj 0x210003 .u32 .ro .live 2 .ao 0 4294967295 1 false (le 4 0),
   obj 0x210004 .u8 .ro .live 2 .ao 0 255 1 false ([0]),
   obj 0x210005 .u8 .rwl .cfg 2 .ao 0 1 1 false ([0]),
   obj 0x210006 .u32 .ro .live 2 .ao 0 4294967295 1 false (le 4 0),
   obj 0x210007 .i16 .rwl .cfg 2 .ao 250 1050 1 false (le 2 850),
   obj 0x210008 .i32 .ro .live 2 .ao (-2147483648) 2147483647 1 false (le 4 0),
   ctr 0x210009 .ao 0x21000B 0 0x10FF,
   ctr 0x21000A .ao 0x21000B 1 0x10FF,
   sat 0x21000B .ao]

/-- Index 0x2200. -/
def dict2200 : List Obj :=
  [cst 0x220000 22,
   obj 0x220001 .u8 .ro .live 2 .ao 0 255 1 false ([6]),
   obj 0x220002 .u8 .ro .live 2 .ao 0 255 1 false ([6]),
   obj 0x220003 .u8 .ro .live 2 .ao 0 255 1 false ([255]),
   obj 0x220004 .u32 .rwl .cfg 2 .ao 250 8000 1 false (le 4 1000),
   obj 0x220005 .u8 .rwl .cfg 2 .ao 0 1 1 false ([0]),
   obj 0x220006 .u32 .rwl .cfg 2 .ao 10 10000 1 false (le 4 100),
   obj 0x220007 .u8 .rwl .cfg 2 .ao 0 1 1 false ([1]),
   obj 0x220008 .u8 .rwl .cfg 2 .ao 0 15 1 false ([3]),
   obj 0x220009 .u8 .ro .live 2 .ao 0 255 1 false ([3]),
   obj 0x22000A .u8 .ro .live 2 .ao 0 255 1 false ([0]),
   obj 0x22000B .u8 .cmd .cmd 2 .ao 1 1 1 false ([0]),
   obj 0x22000C .u8 .cmd .cmd 2 .ao 0 1 1 false ([0]),
   obj 0x22000D .u16 .ro .live 2 .ao 0 65535 1 false (le 2 0),
   obj 0x22000E (.dom 8 8) .ro .live 2 .ao 0 0 1 false ([]),
   obj 0x22000F .u32 .ro .live 2 .ao 0 4294967295 1 false (le 4 0),
   obj 0x220010 .u32 .ro .live 2 .ao 0 4294967295 1 false (le 4 0),
   ctr 0x220011 .ao 0x220016 0 0x50FF,
   ctr 0x220012 .ao 0x220016 1 0x50FF,
   ctr 0x220013 .ao 0x220016 2 0x50FF,
   ctr 0x220014 .ao 0x220016 3 0x50FF,
   ctr 0x220015 .ao 0x220016 4 0x50FF,
   sat 0x220016 .ao]

/-- Index 0x3000. -/
def dict3000 : List Obj :=
  [cst 0x300000 11,
   obj 0x300001 .u8 .rwl .cfg 2 (.any [8]) 0 2 1 false ([0]),
   obj 0x300002 .u32 .rwl .cfg 2 (.any [8]) 24000 512000 1 false (le 4 28125),
   obj 0x300003 .u32 .rwl .cfg 2 (.any [8]) 500000 20000000 1 false (le 4 2000000),
   obj 0x300004 .u32 .ro .live 2 (.any [8]) 0 4294967295 1 false (le 4 20000000),
   obj 0x300005 .u32 .ro .live 2 (.any [8]) 0 4294967295 1 false (le 4 2250000),
   obj 0x300006 .u32 .ro .live 2 (.any [8]) 0 4294967295 1 false (le 4 0),
   obj 0x300007 .u8 .rwl .cfg 2 (.any [8]) 1 16 1 false ([4]),
   obj 0x300008 .u32 .rwl .cfg 2 (.any [8]) 0 4294967295 1 false (le 4 100000),
   obj 0x300009 .u8 .rwl .cfg 2 (.any [8]) 0 4 1 false ([2]),
   obj 0x30000A .u32 .rwl .cfg 2 (.any [8]) 200000 2000000 1 false (le 4 250000),
   obj 0x30000B .u8 .rwl .cfg 2 (.any [8]) 0 8 1 false ([4])]

/-- Index 0x3010. -/
def dict3010 : List Obj :=
  [cst 0x301000 13,
   obj 0x301001 .u8 .rwl .cfg 2 (.any [8]) 0 2 1 false ([0]),
   obj 0x301002 .u8 .rwl .cfg 2 (.any [8]) 0 1 1 false ([0]),
   obj 0x301003 .u8 .rwl .cfg 2 (.any [8]) 1 8 1 false ([1]),
   obj 0x301004 .i32 .rwl .cfg 2 (.any [8]) (-100000000) 100000000 1 false (le 4 0),
   obj 0x301005 .u16 .rwl .cfg 2 (.any [8]) 100 20000 1 false (le 2 4000),
   obj 0x301006 .u8 .ro .live 2 (.any [8]) 0 255 1 false ([0]),
   obj 0x301007 .u32 .ro .live 2 (.any [8]) 0 4294967295 1 false (le 4 0),
   obj 0x301008 .i32 .ro .live 2 (.any [8]) (-2147483648) 2147483647 1 false (le 4 0),
   obj 0x301009 .u32 .ro .live 2 (.any [8]) 0 4294967295 1 false (le 4 0),
   obj 0x30100A .u32 .cmd .cmd 2 (.any [8]) 0 4294967295 1 false (le 4 0),
   ctr 0x30100B (.any [8]) 0x30100D 0 0x4CFF,
   ctr 0x30100C (.any [8]) 0x30100D 1 0x4CFF,
   sat 0x30100D (.any [8])]

/-- Index 0x3100. -/
def dict3100 : List Obj :=
  [cst 0x310000 5,
   obj 0x310001 (.dom 768 17664) .rwl .cfg 2 (.any [8]) 0 0 1 false (builtInPlan),
   obj 0x310002 .u32 .ro .live 2 (.any [8]) 0 4294967295 1 false (le 4 0),
   obj 0x310003 .u8 .ro .live 2 (.any [8]) 0 255 1 false ([0]),
   obj 0x310004 .u32 .ro .live 2 (.any [8]) 0 4294967295 1 false (le 4 0),
   obj 0x310005 .u32 .ro .live 2 (.any [8]) 0 4294967295 1 false (le 4 0)]

/-- Index 0x3102. -/
def dict3102 : List Obj :=
  [cst 0x310200 2,
   obj 0x310201 .u32 .rwl .cfg 2 (.any [8]) 1250 20000 5 false (le 4 1250),
   obj 0x310202 .u8 .ro .live 2 (.any [8]) 0 255 1 false ([56])]

/-- Index 0x3200. -/
def dict3200 : List Obj :=
  [cst 0x320000 10,
   obj 0x320001 .u16 .rwl .cfg 2 (.any [9]) 30 160 1 true (le 2 0),
   obj 0x320002 .u16 .ro .live 2 (.any [9]) 0 65535 1 false (le 2 0),
   obj 0x320003 .u8 .ro .live 2 (.any [9]) 0 255 1 false ([0]),
   obj 0x320004 .u16 .ro .live 2 .ao 0 65535 1 false (le 2 0),
   obj 0x320005 .u16 .ro .live 2 .ao 0 65535 1 false (le 2 0),
   obj 0x320006 .u16 .cmd .cmd 3 (.any [10]) 0 65535 1 false (le 2 0),
   obj 0x320007 .u8 .rwl .cfg 2 (.any [10]) 0 1 1 false ([1]),
   obj 0x320008 .u8 .ro .live 2 (.any [10]) 0 255 1 false ([64]),
   obj 0x320009 .i16 .ro .live 2 (.any [10]) (-32768) 32767 1 false (le 2 0),
   obj 0x32000A (.dom 64 64) .ro .live 2 (.any [10]) 0 0 1 false ([])]

/-- Index 0x3201. -/
def dict3201 : List Obj :=
  [cst 0x320100 2,
   obj 0x320101 (.dom 128 128) .ro .fac 2 (.any [10]) 0 0 1 false ([]),
   obj 0x320102 (.dom 816 816) .ro .live 2 (.any [10]) 0 0 1 false ([])]

/-- Index 0x3210. -/
def dict3210 : List Obj :=
  [cst 0x321000 16,
   obj 0x321001 .u8 .ro .live 2 (.any [8]) 0 255 1 false ([0]),
   obj 0x321002 .u16 .ro .live 2 (.any [8]) 0 65535 1 false (le 2 0),
   obj 0x321003 .u16 .ro .live 2 (.any [8]) 0 65535 1 false (le 2 0),
   obj 0x321004 .u8 .ro .live 2 (.any [8]) 0 255 1 false ([255]),
   obj 0x321005 .u16 .cmd .cmd 2 (.any [8]) 0 2047 1 false (le 2 0),
   obj 0x321006 .u8 .cmd .cmd 2 (.any [8]) 1 1 1 false ([0]),
   obj 0x321007 .u32 .ro .live 2 (.any [8]) 0 4294967295 1 false (le 4 90000),
   obj 0x321008 .u32 .ro .live 2 (.any [8]) 0 4294967295 1 false (le 4 0),
   obj 0x321009 .u16 .ro .live 2 (.any [8]) 0 65535 1 false (le 2 600),
   obj 0x32100A .u16 .ro .live 2 (.any [8]) 0 65535 1 false (le 2 120),
   obj 0x32100B .u16 .ro .live 2 (.any [8]) 0 65535 1 false (le 2 250),
   obj 0x32100C (.dom 32 32) .ro .live 2 (.any [8]) 0 0 1 false ([]),
   ctr 0x32100D (.any [8]) 0x321010 0 0x20FF,
   ctr 0x32100E (.any [8]) 0x321010 1 0x20FF,
   ctr 0x32100F (.any [8]) 0x321010 2 0x20FF,
   sat 0x321010 (.any [8])]

/-- Index 0x3300. -/
def dict3300 : List Obj :=
  [cst 0x330000 11,
   obj 0x330001 .u16 .rwl .cfg 2 (.any bandDoms) 1000 4000 50 false (le 2 3000),
   obj 0x330002 .u16 .rwl .cfg 2 (.any bandDoms) 0 200 1 false (le 2 2),
   obj 0x330003 .u8 .rwl .cfg 2 (.any bandDoms) 0 1 1 false ([1]),
   obj 0x330004 .u8 .rwl .cfg 2 (.any bandDoms) 1 4 1 false ([2]),
   obj 0x330005 .u8 .rwl .cfg 2 (.any bandDoms) 1 4 1 false ([1]),
   obj 0x330006 .u8 .rwl .cfg 2 (.any bandDoms) 1 4 1 false ([4]),
   obj 0x330007 .u32 .rwl .cfg 2 (.any bandDoms) 1 100000 1 false (le 4 150),
   obj 0x330008 .u32 .rwl .cfg 2 (.any bandDoms) 1 100000 1 false (le 4 1500),
   obj 0x330009 .u32 .rwl .cfg 2 (.any bandDoms) 1 100000 1 false (le 4 6000),
   obj 0x33000A .u8 .rwl .cfg 2 (.any bandDoms) 50 90 1 false ([67]),
   obj 0x33000B .u32 .rwl .cfg 2 (.any bandDoms) 1000 100000 1 false (le 4 5000)]

/-- Index 0x3301. -/
def dict3301 : List Obj :=
  [cst 0x330100 4,
   obj 0x330101 (.dom 1024 1024) .ro .fac 2 .ao 0 0 1 false ([]),
   obj 0x330102 (.dom 64 64) .rwl .cfg 2 .ao 0 0 1 false (zeros 64),
   obj 0x330103 (.dom 64 64) .ro .live 2 .ao 0 0 1 false ([]),
   obj 0x330104 .u16 .cmd .cmd 2 .ao 0 65535 1 false (le 2 0)]

/-- Index 0x3302. -/
def dict3302 : List Obj :=
  [cst 0x330200 10,
   obj 0x330201 (.dom 16 16) .ro .live 2 .ao 0 0 1 false ([]),
   obj 0x330202 (.dom 16 16) .ro .live 2 .ao 0 0 1 false ([]),
   obj 0x330203 (.dom 64 64) .ro .live 2 .ao 0 0 1 false ([]),
   obj 0x330204 (.dom 128 128) .ro .live 2 .ao 0 0 1 false ([]),
   obj 0x330205 .u8 .cmd .cmd 2 .ao 0 15 1 false ([0]),
   ctr 0x330206 .ao 0x33020A 0 0x33FF,
   ctr 0x330207 .ao 0x33020A 1 0x33FF,
   ctr 0x330208 .ao 0x33020A 2 0x33FF,
   ctr 0x330209 .ao 0x33020A 3 0x33FF,
   sat 0x33020A .ao]

/-- Index 0x3400. -/
def dict3400 : List Obj :=
  [cst 0x340000 13,
   obj 0x340001 .u8 .rwl .cfg 2 (.any [15]) 0 15 1 false ([0]),
   obj 0x340002 .u8 .rwl .cfg 2 (.any [15]) 0 255 1 false ([0]),
   obj 0x340003 .u32 .rwl .cfg 2 (.any [15]) 1 10000000 1 false (le 4 1000),
   obj 0x340004 .u16 .rwl .cfg 2 (.any [15]) 1 1024 1 false (le 2 256),
   obj 0x340005 (.dom 8 8) .ro .fac 2 (.any [15]) 0 0 1 false ([]),
   obj 0x340006 .u8 .rwl .cfg 2 (.any [15]) 0 1 1 false ([0]),
   obj 0x340007 .u8 .ro .live 2 (.any [15]) 0 255 1 false ([0]),
   obj 0x340008 (.dom 48 48) .ro .live 2 (.any [15]) 0 0 1 false ([]),
   obj 0x340009 .u32 .ro .live 2 (.any [15]) 0 4294967295 1 false (le 4 0),
   ctr 0x34000A (.any [15]) 0x34000D 0 0x33FF,
   ctr 0x34000B (.any [15]) 0x34000D 1 0x33FF,
   ctr 0x34000C (.any [15]) 0x34000D 2 0x33FF,
   sat 0x34000D (.any [15])]

/-- Index 0x3410. -/
def dict3410 : List Obj :=
  [cst 0x341000 13,
   obj 0x341001 .u8 .rwl .cfg 2 (.any [15]) 0 2 1 false ([0]),
   obj 0x341002 .u8 .rwl .cfg 2 (.any [15]) 0 15 1 false ([0]),
   obj 0x341003 .u8 .rwl .cfg 2 (.any [15]) 0 1 1 false ([0]),
   obj 0x341004 .u16 .rwl .cfg 2 (.any [15]) 10 640 1 false (le 2 40),
   obj 0x341005 .u8 .rwl .cfg 2 (.any [15]) 0 63 1 false ([0]),
   obj 0x341006 .u8 .ro .live 2 (.any [15]) 0 255 1 false ([0]),
   obj 0x341007 .u8 .ro .live 2 (.any [15]) 0 255 1 false ([0]),
   obj 0x341008 .u16 .ro .live 2 (.any [15]) 0 65535 1 false (le 2 0),
   obj 0x341009 (.dom 32 32) .ro .live 2 (.any [15]) 0 0 1 false ([]),
   obj 0x34100A .u8 .cmd .cmd 2 (.any [15]) 1 1 1 false ([0]),
   ctr 0x34100B (.any [15]) 0x34100D 0 0x36FF,
   ctr 0x34100C (.any [15]) 0x34100D 1 0x36FF,
   sat 0x34100D (.any [15])]

/-- Index 0x3500. -/
def dict3500 : List Obj :=
  [cst 0x350000 4,
   obj 0x350001 .u8 .rwl .cfg 2 (.any bandDoms) 0 2 1 false ([1]),
   obj 0x350002 .u8 .rwl .cfg 2 (.any bandDoms) 0 1 1 false ([0]),
   obj 0x350003 .u8 .rwl .cfg 2 (.any bandDoms) 0 7 1 false ([0]),
   obj 0x350004 .u32 .rwl .cfg 2 (.any bandDoms) 10000 200000 1 false (le 4 200000)]

/-- Index 0x3501. -/
def dict3501 : List Obj :=
  [cst 0x350100 12,
   obj 0x350101 .u16 .rwl .cfg 2 (.any [6, 7]) 16 320 1 false (le 2 80),
   obj 0x350102 .u16 .rwl .cfg 2 (.any [6, 7]) 16 4096 1 false (le 2 48),
   obj 0x350103 .u8 .rwl .cfg 2 (.any [6, 7]) 0 8 1 false ([1]),
   obj 0x350104 .u8 .rwl .cfg 2 (.any [6, 7]) 2 64 1 false ([16]),
   obj 0x350105 .u8 .rwl .cfg 2 (.any [6, 7]) 0 1 1 false ([1]),
   obj 0x350106 .u8 .rwl .cfg 2 (.any [6, 7]) 1 16 1 false ([6]),
   obj 0x350107 .u16 .rwl .cfg 2 (.any [6, 7]) 2 4096 1 false (le 2 64),
   obj 0x350108 .u16 .rwl .cfg 2 (.any [6, 7]) 2 4096 1 false (le 2 16),
   obj 0x350109 .u8 .rwl .cfg 2 (.any [6, 7]) 0 16 1 false ([2]),
   obj 0x35010A .u32 .rwl .cfg 2 (.any [6, 7]) 0 50000 1 false (le 4 8000),
   obj 0x35010B .u8 .rwl .cfg 2 (.any [6, 7]) 1 255 1 false ([48]),
   obj 0x35010C .u8 .rwl .cfg 2 (.any [6, 7]) 0 1 1 false ([0])]

/-- Index 0x3502. -/
def dict3502 : List Obj :=
  [cst 0x350200 9,
   obj 0x350201 .u32 .ro .live 2 (.any [6, 7]) 0 4294967295 1 false (le 4 45000),
   obj 0x350202 (.dom 64 64) .ro .live 2 (.any [6, 7]) 0 0 1 false ([]),
   ctr 0x350203 (.any [6, 7]) 0x350208 0 0x35FF,
   ctr 0x350204 (.any [6, 7]) 0x350208 1 0x35FF,
   ctr 0x350205 (.any [6, 7]) 0x350208 2 0x35FF,
   ctr 0x350206 (.any [6, 7]) 0x350208 3 0x35FF,
   ctr 0x350207 (.any [6, 7]) 0x350208 4 0x35FF,
   sat 0x350208 (.any [6, 7]),
   obj 0x350209 .u8 .ro .live 2 (.any [6, 7]) 0 255 1 false ([8])]

/-- Index 0x3600. -/
def dict3600 : List Obj :=
  [cst 0x360000 4,
   obj 0x360001 .u32 .rwl .cfg 3 (.any [8]) 0 262143 1 false (le 4 0),
   obj 0x360002 .u32 .ro .fac 2 (.any [8]) 0 4294967295 1 false (le 4 0),
   obj 0x360003 .u8 .rwl .cfg 2 (.any [8]) 0 5 1 false ([4]),
   obj 0x360004 .u32 .ro .live 2 (.any [8]) 0 4294967295 1 false (le 4 148953)]

/-- Index 0x4000. -/
def dict4000 : List Obj :=
  [cst 0x400000 10,
   obj 0x400001 .u8 .rwl .cfg 2 (.any [12]) 0 1 1 false ([1]),
   obj 0x400002 .u8 .rwl .cfg 2 (.any [12]) 0 3 1 false ([1]),
   obj 0x400003 .u8 .ro .live 2 (.any [12]) 0 255 1 false ([1]),
   obj 0x400004 .u16 .rwl .cfg 2 (.any [12]) 0 20000 1 false (le 2 10000),
   obj 0x400005 .u8 .ro .live 2 (.any [12]) 0 255 1 false ([0]),
   obj 0x400006 .u8 .cmd .cmd 2 (.any [12]) 1 1 1 false ([0]),
   obj 0x400007 (.dom 8 8) .ro .live 2 (.any [12]) 0 0 1 false ([]),
   obj 0x400008 .u32 .rwl .cfg 2 (.any [12]) 50 10000 1 false (le 4 200),
   ctr 0x400009 (.any [12]) 0x40000A 0 0x40FF,
   sat 0x40000A (.any [12])]

/-- Index 0x4100. -/
def dict4100 : List Obj :=
  [cst 0x410000 15,
   obj 0x410001 (.dom 8 8) .ro .fac 2 (.any [13]) 0 0 1 false ([]),
   obj 0x410002 .u32 .ro .live 2 (.any [13]) 0 4294967295 1 false (le 4 0),
   obj 0x410003 (.dom 72 72) .rwl .cfg 3 (.any [13]) 0 0 1 false ([]),
   obj 0x410004 .u16 .rwl .cfg 3 (.any [13]) 2000 5000 1 false (le 2 3435),
   obj 0x410005 .u32 .rwl .cfg 3 (.any [13]) 1000 100000 1 false (le 4 10000),
   obj 0x410006 .i16 .ro .live 2 (.any [13]) (-32768) 32767 1 false (le 2 0),
   obj 0x410007 .i16 .rwl .cfg 2 (.any [13]) (-400) 1250 1 false (le 2 250),
   obj 0x410008 (.dom 24 24) .rwl .cfg 2 (.any [13]) 0 0 1 false (leInt 4 (-260000) ++ leInt 4 260000 ++ leInt 4 (-320000) ++ leInt 4 320000 ++ le 2 2000 ++ le 2 5000 ++ zeros 4),
   obj 0x410009 .u8 .rwl .cfg 2 (.any [13]) 4 64 1 false ([16]),
   obj 0x41000A .u32 .rwl .cfg 2 (.any [13]) 10 100000 1 false (le 4 1000),
   obj 0x41000B .u8 .ro .live 2 (.any [13]) 0 255 1 false ([0]),
   obj 0x41000C (.dom 36 36) .ro .live 2 (.any [13]) 0 0 1 false ([]),
   ctr 0x41000D (.any [13]) 0x41000F 0 0x40FF,
   ctr 0x41000E (.any [13]) 0x41000F 1 0x40FF,
   sat 0x41000F (.any [13])]

/-- Index 0x4200. -/
def dict4200 : List Obj :=
  [cst 0x420000 8,
   obj 0x420001 (.dom 16 16) .rwl .cfg 2 (.any [14]) 0 0 1 false ([0, 4, 5, 6, 1, 2, 3] ++ rep 9 0xFF),
   obj 0x420002 .u8 .rwl .cfg 2 (.any [14]) 0 2 1 false ([1]),
   obj 0x420003 (.dom 64 64) .ro .live 2 (.any [14]) 0 0 1 false ([]),
   obj 0x420004 .i32 .ro .fac 2 (.any [14]) (-2147483648) 2147483647 1 false (le 4 0),
   obj 0x420005 .u32 .ro .fac 2 (.any [14]) 0 4294967295 1 false (le 4 0),
   obj 0x420006 .u8 .ro .live 2 (.any [14]) 0 255 1 false ([0]),
   obj 0x420007 .u8 .cmd .cmd 2 (.any [14]) 1 1 1 false ([0]),
   obj 0x420008 .u8 .ro .live 2 (.any [14]) 0 255 1 false ([0])]

/-- Index 0x4300. -/
def dict4300 : List Obj :=
  [cst 0x430000 25,
   obj 0x430001 .u8 .rwl .cfg 2 (.any [6, 7]) 2 8 1 false ([4]),
   obj 0x430002 .u8 .ro .live 2 (.any [6, 7]) 0 255 1 false ([3]),
   obj 0x430003 .u8 .cmd .cmd 2 (.any [6, 7]) 1 3 1 false ([0]),
   obj 0x430004 .u8 .rwl .cfg 2 (.any [6, 7]) 0 1 1 false ([1]),
   obj 0x430005 .i16 .rwl .cfg 2 (.any [6, 7]) 1 32767 1 false (le 2 32767),
   obj 0x430006 .i16 .rwl .cfg 2 (.any [6, 7]) 1 32767 1 false (le 2 16384),
   obj 0x430007 .u16 .rwl .cfg 2 (.any [6, 7]) 1 1024 1 false (le 2 64),
   obj 0x430008 .i16 .rwl .cfg 2 (.any [6, 7]) 1 32767 1 false (le 2 1638),
   obj 0x430009 .u8 .rwl .cfg 2 (.any [6, 7]) 0 3 1 false ([0]),
   obj 0x43000A (.dom 24 24) .rwl .cfg 2 (.any [6, 7]) 0 0 1 false (le 2 16384 ++ zeros 8 ++ [1, 0] ++ le 2 16384 ++ zeros 8 ++ [1, 0]),
   obj 0x43000B (.dom 208 208) .rwl .cfg 2 (.any [6, 7]) 0 0 1 false ([]),
   obj 0x43000C (.dom 12 12) .rwl .cfg 2 (.any [6, 7]) 0 0 1 false (leInt 4 (-130000) ++ zeros 4 ++ leInt 4 130000),
   obj 0x43000D (.dom 8 8) .rwl .cfg 2 (.any [6, 7]) 0 0 1 false (le 2 50 ++ le 2 450 ++ le 2 20 ++ zeros 2),
   obj 0x43000E (.dom 8 8) .rwl .cfg 2 (.any [6, 7]) 0 0 1 false (le 2 200 ++ le 2 256 ++ [12, 2, 0, 0]),
   obj 0x43000F .u8 .ro .live 2 (.any [6, 7]) 0 255 1 false ([12]),
   obj 0x430010 .i32 .ro .live 2 (.any [6, 7]) (-2147483648) 2147483647 1 false (le 4 0),
   obj 0x430011 .i16 .ro .live 2 (.any [6, 7]) (-32768) 32767 1 false (le 2 0),
   obj 0x430012 .u16 .ro .live 2 (.any [6, 7]) 0 65535 1 false (le 2 1470),
   obj 0x430013 .u16 .ro .live 2 (.any [6, 7]) 0 65535 1 false (le 2 3315),
   obj 0x430014 (.dom 16 16) .ro .live 2 (.any [6, 7]) 0 0 1 false ([]),
   ctr 0x430015 (.any [6, 7]) 0x430019 0 0x43FF,
   ctr 0x430016 (.any [6, 7]) 0x430019 1 0x43FF,
   ctr 0x430017 (.any [6, 7]) 0x430019 2 0x43FF,
   ctr 0x430018 (.any [6, 7]) 0x430019 3 0x43FF,
   sat 0x430019 (.any [6, 7])]

/-- Index 0x4301. -/
def dict4301 : List Obj :=
  [cst 0x430100 3,
   obj 0x430101 .u8 .ro .live 2 (.any [11]) 0 255 1 false ([0]),
   obj 0x430102 .u8 .cmd .cmd 2 (.any [11]) 1 1 1 false ([0]),
   ctr 0x430103 (.any [11]) 0x430019 4 0x43FF]

/-- Index 0x4400. -/
def dict4400 : List Obj :=
  [cst 0x440000 11,
   obj 0x440001 .i32 .rwl .cfg 2 (.any [6, 7]) (-524288) 524287 1 false (leInt 4 (-256000)),
   obj 0x440002 .i32 .rwl .cfg 2 (.any [6, 7]) (-524288) 524287 1 false (le 4 256000),
   obj 0x440003 .u32 .rwl .cfg 2 (.any [6, 7]) 100 200000 1 false (le 4 60000),
   obj 0x440004 .u32 .rwl .cfg 2 (.any [6, 7]) 10000 1000000000 1 false (le 4 100000000),
   obj 0x440005 .u32 .rwl .cfg 2 (.any [6, 7]) 1000 4000000000 1 false (le 4 500000000),
   obj 0x440006 .i32 .rwl .cfg 2 (.any [6, 7]) (-524288) 524287 1 false (le 4 0),
   obj 0x440007 .u16 .rwl .cfg 2 (.any [6, 7]) 5 500 1 false (le 2 20),
   obj 0x440008 .u32 .rwl .cfg 2 (.any [6, 7]) 50 20000 1 false (le 4 500),
   obj 0x440009 .u16 .rwl .cfg 2 (.any [6, 7]) 50 5000 1 false (le 2 200),
   obj 0x44000A (.dom 12 12) .ro .live 2 (.any [6, 7]) 0 0 1 false ([]),
   obj 0x44000B (.dom 12 12) .ro .live 2 (.any [6, 7]) 0 0 1 false ([])]

/-- Index 0x5000. -/
def dict5000 : List Obj :=
  [cst 0x500000 13,
   obj 0x500001 .u8 .rwl .cfg 2 (.any [4]) 0 1 1 false ([0]),
   obj 0x500002 .u8 .rwl .cfg 2 (.any [4]) 0 3 1 false ([0]),
   obj 0x500003 .u16 .rwl .cfg 2 (.any [4]) 1 65535 1 false (le 2 1),
   obj 0x500004 .u16 .rwl .cfg 2 (.any [4]) 0 1472 64 false (le 2 0),
   obj 0x500005 .u16 .rwl .cfg 2 (.any [4]) 64 1536 64 false (le 2 1536),
   obj 0x500006 .u16 .rwl .cfg 2 (.any [4]) 8 448 1 false (le 2 8),
   obj 0x500007 .u8 .rwl .cfg 2 (.any [4]) 1 64 1 false ([64]),
   obj 0x500008 .u16 .rwl .cfg 2 (.any [4]) 0 65535 1 false (le 2 4),
   obj 0x500009 .u16 .rwl .cfg 2 (.any [4]) 1 65535 1 false (le 2 8),
   obj 0x50000A .u8 .rwl .cfg 2 (.any [4]) 0 255 1 false ([64]),
   obj 0x50000B (.dom 16 16) .rwl .cfg 2 (.any [4]) 0 0 1 false (zeros 16),
   obj 0x50000C .u8 .rwl .cfg 2 (.any [4]) 0 1 1 false ([0]),
   obj 0x50000D .u8 .rwl .cfg 2 (.any [4]) 0 1 1 false ([1])]

/-- Index 0x5001. -/
def dict5001 : List Obj :=
  [cst 0x500100 13,
   obj 0x500101 .u8 .ro .live 2 (.any [4]) 0 255 1 false ([0]),
   obj 0x500102 .u8 .cmd .cmd 2 (.any [4]) 1 3 1 false ([0]),
   obj 0x500103 .u32 .ro .live 2 (.any [4]) 0 4294967295 1 false (le 4 16448),
   obj 0x500104 .u16 .ro .live 2 (.any [4]) 0 65535 1 false (le 2 2),
   obj 0x500105 .u16 .ro .live 2 (.any [4]) 0 65535 1 false (le 2 0),
   obj 0x500106 .u32 .ro .live 2 (.any [4]) 0 4294967295 1 false (le 4 0),
   obj 0x500107 .u32 .ro .live 2 (.any [4]) 0 4294967295 1 false (le 4 0),
   ctr 0x500108 (.any [4]) 0x50010C 0 0x60FF,
   ctr 0x500109 (.any [4]) 0x50010C 1 0x60FF,
   ctr 0x50010A (.any [4]) 0x50010C 2 0x60FF,
   ctr 0x50010B (.any [4]) 0x50010C 3 0x60FF,
   sat 0x50010C (.any [4]),
   obj 0x50010D .u8 .ro .live 2 (.any [4]) 0 255 1 false ([0])]

/-- Index 0x5002. -/
def dict5002 : List Obj :=
  [cst 0x500200 5,
   obj 0x500201 .u32 .rw .live 2 (.any [4]) 0 4294967295 1 false (le 4 0),
   obj 0x500202 (.dom 256 256) .ro .live 2 (.any [4]) 0 0 1 false ([]),
   obj 0x500203 (.dom 0 16384) .ro .live 2 (.any [4]) 0 0 1 false ([]),
   obj 0x500204 (.dom 0 4194304) .ro .live 2 (.any [4]) 0 0 1 false ([]),
   obj 0x500205 .u32 .cmd .cmd 2 (.any [4]) 0 4294967295 1 false (le 4 0)]

/-- Index 0x5100. -/
def dict5100 : List Obj :=
  [cst 0x510000 5,
   obj 0x510001 .u8 .rwl .cfg 2 (.any [2]) 0 1 1 false ([1]),
   obj 0x510002 .u8 .rwl .cfg 2 (.any [2]) 1 4 1 false ([4]),
   obj 0x510003 .u8 .rwl .cfg 2 (.any [2]) 0 1 1 false ([0]),
   obj 0x510004 .u8 .rwl .cfg 2 (.any [2]) 0 255 1 false ([255]),
   obj 0x510005 .u8 .rwl .cfg 2 (.any [2]) 0 1 1 false ([1])]

/-- Index 0x5101. -/
def dict5101 : List Obj :=
  [cst 0x510100 9,
   obj 0x510101 (.dom 96 96) .ro .live 2 (.any [2]) 0 0 1 false ([]),
   obj 0x510102 .u32 .ro .live 2 (.any [2]) 0 4294967295 1 false (le 4 0),
   obj 0x510103 .u16 .ro .live 2 (.any [2]) 0 65535 1 false (le 2 0),
   obj 0x510104 .u8 .ro .live 2 (.any [2]) 0 255 1 false ([0]),
   obj 0x510105 .u32 .ro .live 2 (.any [2]) 0 4294967295 1 false (le 4 0),
   ctr 0x510106 (.any [2]) 0x510109 0 0x60FF,
   ctr 0x510107 (.any [2]) 0x510109 1 0x60FF,
   obj 0x510108 .u32 .ro .live 2 (.any [2]) 0 4294967295 1 false (le 4 0),
   sat 0x510109 (.any [2])]

/-- Index 0x5200. -/
def dict5200 : List Obj :=
  [cst 0x520000 8,
   obj 0x520001 .u8 .rwl .cfg 2 (.any [2]) 0 1 1 false ([1]),
   obj 0x520002 .u32 .cmd .cmd 2 (.any [2]) 0 4294967295 1 false (le 4 0),
   obj 0x520003 (.dom 0 8388608) .ro .live 2 (.any [2]) 0 0 1 false ([]),
   obj 0x520004 .u32 .ro .live 2 (.any [2]) 0 4294967295 1 false (le 4 0),
   ctr 0x520005 (.any [2]) 0x520008 0 0x60FF,
   ctr 0x520006 (.any [2]) 0x520008 1 0x60FF,
   obj 0x520007 .u16 .ro .live 2 (.any [2]) 0 65535 1 false (le 2 1000),
   sat 0x520008 (.any [2])]

/-- Index 0x6000. -/
def dict6000 : List Obj :=
  [cst 0x600000 12,
   obj 0x600001 .u8 .rwl .cfg 2 .ao 0 1 1 false ([1]),
   obj 0x600002 .u16 .rwl .cfg 2 .ao 20 300 1 false (le 2 80),
   obj 0x600003 .u16 .rwl .cfg 2 .ao 10 2000 1 false (le 2 200),
   obj 0x600004 .u16 .rwl .cfg 2 .ao 1 50 1 false (le 2 5),
   obj 0x600005 .u8 .cmd .cmd 2 .ao 1 19 1 false ([0]),
   obj 0x600006 .u8 .ro .live 2 .ao 0 255 1 false ([0]),
   obj 0x600007 .u32 .rwl .cfg 3 .ao 2000 100000 1 false (le 4 20000),
   obj 0x600008 (.dom 64 64) .rwl .cfg 3 .ao 0 0 1 false (rep 64 0xFF),
   obj 0x600009 (.dom 8 8) .ro .live 2 .ao 0 0 1 false ([]),
   ctr 0x60000A .ao 0x60000C 0 0x90FF,
   ctr 0x60000B .ao 0x60000C 1 0x90FF,
   sat 0x60000C .ao]

/-- Index 0x6001. -/
def dict6001 : List Obj :=
  [cst 0x600100 10,
   obj 0x600101 .i32 .ro .fac 2 .ao (-2147483648) 2147483647 1 false (le 4 0),
   obj 0x600102 .i32 .ro .fac 2 .ao (-2147483648) 2147483647 1 false (le 4 0),
   obj 0x600103 .i32 .ro .fac 2 .ao (-2147483648) 2147483647 1 false (le 4 0),
   obj 0x600104 .i32 .ro .fac 2 .ao (-2147483648) 2147483647 1 false (le 4 0),
   obj 0x600105 .i32 .ro .fac 2 .ao (-2147483648) 2147483647 1 false (le 4 0),
   obj 0x600106 .i32 .ro .fac 2 .ao (-2147483648) 2147483647 1 false (le 4 0),
   obj 0x600107 (.dom 16 16) .ro .fac 2 .ao 0 0 1 false ([]),
   obj 0x600108 (.dom 16 16) .ro .fac 2 .ao 0 0 1 false ([]),
   obj 0x600109 .u32 .ro .live 2 .ao 0 4294967295 1 false (le 4 0),
   obj 0x60010A .u8 .ro .live 2 .ao 0 255 1 false ([0])]

/-- Index 0x7000. -/
def dict7000 : List Obj :=
  [cst 0x700000 13,
   obj 0x700001 .u16 .ro .live 2 .ao 0 65535 1 false (le 2 0),
   obj 0x700002 .u16 .ro .live 2 .ao 0 65535 1 false (le 2 376),
   obj 0x700003 .u8 .ro .live 2 (.any [5]) 0 255 1 false ([0]),
   obj 0x700004 .u16 .ro .fac 2 (.any [5]) 0 65535 1 false (le 2 0),
   obj 0x700005 .u16 .ro .live 2 (.any [5]) 0 65535 1 false (le 2 0),
   obj 0x700006 .u16 .ro .live 2 (.any [5]) 0 65535 1 false (le 2 0),
   obj 0x700007 .u32 .ro .live 2 (.any [5]) 0 4294967295 1 false (le 4 0),
   obj 0x700008 .u32 .ro .live 2 (.any [5]) 0 4294967295 1 false (le 4 0),
   obj 0x700009 .u16 .rwl .cfg 2 (.any [5]) 24 2160 1 false (le 2 168),
   obj 0x70000A (.dom 1024 1024) .ro .live 2 (.any [5]) 0 0 1 false ([]),
   ctr 0x70000B (.any [5]) 0x70000D 0 0x70FF,
   ctr 0x70000C (.any [5]) 0x70000D 1 0x70FF,
   sat 0x70000D (.any [5])]

/-- Index 0x7001. -/
def dict7001 : List Obj :=
  [cst 0x700100 6,
   obj 0x700101 .u32 .ro .live 2 (.any [5]) 0 4294967295 1 false (le 4 0),
   obj 0x700102 (.dom 256 256) .ro .live 2 (.any [5]) 0 0 1 false ([]),
   obj 0x700103 .u32 .cmd .cmd 2 (.any [5]) 0 4294967295 1 false (le 4 0),
   obj 0x700104 .u8 .ro .live 2 (.any [5]) 0 255 1 false ([0]),
   ctr 0x700105 (.any [5]) 0x700106 0 0x70FF,
   sat 0x700106 (.any [5])]

/-- Index 0x7002. -/
def dict7002 : List Obj :=
  [cst 0x700200 10,
   obj 0x700201 .u8 .rwl .cfg 2 (.any [5]) 0 1 1 false ([0]),
   obj 0x700202 .u8 .rwl .cfg 2 (.any [5]) 0 255 1 false ([128]),
   obj 0x700203 .u32 .ro .live 2 (.any [5]) 0 4294967295 1 false (le 4 0),
   obj 0x700204 .u32 .ro .live 2 (.any [5]) 0 4294967295 1 false (le 4 0),
   obj 0x700205 .u32 .rw .live 2 (.any [5]) 0 4294967295 1 false (le 4 0),
   obj 0x700206 (.dom 64 64) .ro .live 2 (.any [5]) 0 0 1 false ([]),
   obj 0x700207 (.dom 0 8388608) .ro .live 2 (.any [5]) 0 0 1 false ([]),
   obj 0x700208 .u8 .cmd .cmd 2 (.any [5]) 1 1 1 false ([0]),
   ctr 0x700209 (.any [5]) 0x70020A 0 0x70FF,
   sat 0x70020A (.any [5])]

/-- Index 0x7100. -/
def dict7100 : List Obj :=
  [cst 0x710000 7,
   obj 0x710001 (.dom 32 32) .ro .live 2 (.any [1]) 0 0 1 false ([]),
   obj 0x710002 .u8 .ro .live 2 (.any [1]) 0 255 1 false ([0]),
   obj 0x710003 .u8 .ro .fac 2 (.any [1]) 0 255 1 false ([0]),
   obj 0x710004 .u8 .cmd .cmd 3 (.any [1]) 1 3 1 false ([0]),
   obj 0x710005 (.dom 4096 33554432) .wo .live 3 (.any [1]) 0 0 1 false ([]),
   obj 0x710006 .u8 .ro .live 2 (.any [1]) 0 255 1 false ([0]),
   obj 0x710007 .u8 .ro .live 2 (.any [1]) 0 255 1 false ([0])]

/-- Every index with its objects. -/
def dictIndices : List (Nat × List Obj) :=
  [(0x1100, dict1100), (0x1200, dict1200), (0x1300, dict1300), (0x1400, dict1400), (0x2000, dict2000), (0x2001, dict2001), (0x2002, dict2002), (0x2030, dict2030), (0x2100, dict2100), (0x2200, dict2200), (0x3000, dict3000), (0x3010, dict3010), (0x3100, dict3100), (0x3102, dict3102), (0x3200, dict3200), (0x3201, dict3201), (0x3210, dict3210), (0x3300, dict3300), (0x3301, dict3301), (0x3302, dict3302), (0x3400, dict3400), (0x3410, dict3410), (0x3500, dict3500), (0x3501, dict3501)] ++
  [(0x3502, dict3502), (0x3600, dict3600), (0x4000, dict4000), (0x4100, dict4100), (0x4200, dict4200), (0x4300, dict4300), (0x4301, dict4301), (0x4400, dict4400), (0x5000, dict5000), (0x5001, dict5001), (0x5002, dict5002), (0x5100, dict5100), (0x5101, dict5101), (0x5200, dict5200), (0x6000, dict6000), (0x6001, dict6001), (0x7000, dict7000), (0x7001, dict7001), (0x7002, dict7002), (0x7100, dict7100)]

/-- The objects of an index; none where the index is not implemented (R67). -/
def indexOf (i : Nat) : Option (List Obj) := (dictIndices.find? fun p => p.1 == i).map (·.2)

/-- The object of an id. -/
def lookup (id : Nat) : Option Obj := (indexOf (id / 256)).bind fun l => l.find? fun o => o.id == id

/-- All objects. -/
def dictionary : List Obj := dictIndices.flatMap (·.2)

/-! Object ids, by the names of the object tables. -/

/-- PAD_MODE_TIMIN (0x2030:01). -/
abbrev Id.PAD_MODE_TIMIN : Nat := 0x203001
/-- PAD_MODE_TBUS (0x2030:02). -/
abbrev Id.PAD_MODE_TBUS : Nat := 0x203002
/-- PAD_LATCH_STATE (0x2030:03). -/
abbrev Id.PAD_LATCH_STATE : Nat := 0x203003
/-- PAD_RELEASE (0x2030:04). -/
abbrev Id.PAD_RELEASE : Nat := 0x203004
/-- ETH_MODE (0x1100:01). -/
abbrev Id.ETH_MODE : Nat := 0x110001
/-- ETH_ROLE (0x1100:02). -/
abbrev Id.ETH_ROLE : Nat := 0x110002
/-- MAC_ADDRESS (0x1100:03). -/
abbrev Id.MAC_ADDRESS : Nat := 0x110003
/-- IPV4_ADDRESS (0x1100:04). -/
abbrev Id.IPV4_ADDRESS : Nat := 0x110004
/-- IPV4_PREFIX (0x1100:05). -/
abbrev Id.IPV4_PREFIX : Nat := 0x110005
/-- IPV4_GATEWAY (0x1100:06). -/
abbrev Id.IPV4_GATEWAY : Nat := 0x110006
/-- IPV6_ADDRESS (0x1100:07). -/
abbrev Id.IPV6_ADDRESS : Nat := 0x110007
/-- IPV6_PREFIX (0x1100:08). -/
abbrev Id.IPV6_PREFIX : Nat := 0x110008
/-- BASPO_PORT (0x1100:09). -/
abbrev Id.BASPO_PORT : Nat := 0x110009
/-- VLAN_ID (0x1100:0A). -/
abbrev Id.VLAN_ID : Nat := 0x11000A
/-- VLAN_PCP (0x1100:0B). -/
abbrev Id.VLAN_PCP : Nat := 0x11000B
/-- GPTP_DOMAIN (0x1100:0C). -/
abbrev Id.GPTP_DOMAIN : Nat := 0x11000C
/-- GPTP_STATE (0x1100:0D). -/
abbrev Id.GPTP_STATE : Nat := 0x11000D
/-- GPTP_OFFSET (0x1100:0E). -/
abbrev Id.GPTP_OFFSET : Nat := 0x11000E
/-- CAN_NOMINAL_RATE (0x1100:0F). -/
abbrev Id.CAN_NOMINAL_RATE : Nat := 0x11000F
/-- CAN_DATA_RATE (0x1100:10). -/
abbrev Id.CAN_DATA_RATE : Nat := 0x110010
/-- CAN_BASE_ID (0x1100:11). -/
abbrev Id.CAN_BASE_ID : Nat := 0x110011
/-- CAN_WAKE_ID (0x1100:12). -/
abbrev Id.CAN_WAKE_ID : Nat := 0x110012
/-- CAN_WAKE_MASK (0x1100:13). -/
abbrev Id.CAN_WAKE_MASK : Nat := 0x110013
/-- LOCK_CONTROL (0x1300:01). -/
abbrev Id.LOCK_CONTROL : Nat := 0x130001
/-- LOCK_STATE (0x1300:02). -/
abbrev Id.LOCK_STATE : Nat := 0x130002
/-- LOCK_ID (0x1300:03). -/
abbrev Id.LOCK_ID : Nat := 0x130003
/-- LOCK_STAGED_OBJECTS (0x1300:04). -/
abbrev Id.LOCK_STAGED_OBJECTS : Nat := 0x130004
/-- LOCK_STAGED_BYTES (0x1300:05). -/
abbrev Id.LOCK_STAGED_BYTES : Nat := 0x130005
/-- LOCK_TIMEOUT (0x1300:06). -/
abbrev Id.LOCK_TIMEOUT : Nat := 0x130006
/-- LOCK_APPLIED_ID (0x1300:07). -/
abbrev Id.LOCK_APPLIED_ID : Nat := 0x130007
/-- LOCK_APPLIED_FRAME (0x1300:08). -/
abbrev Id.LOCK_APPLIED_FRAME : Nat := 0x130008
/-- LOCK_PERSIST_RESULT (0x1300:09). -/
abbrev Id.LOCK_PERSIST_RESULT : Nat := 0x130009
/-- LOCK_DETAIL_COUNT (0x1300:0A). -/
abbrev Id.LOCK_DETAIL_COUNT : Nat := 0x13000A
/-- LOCK_DETAIL_1 (0x1300:0B). -/
abbrev Id.LOCK_DETAIL_1 : Nat := 0x13000B
/-- LOCK_DETAIL_2 (0x1300:0C). -/
abbrev Id.LOCK_DETAIL_2 : Nat := 0x13000C
/-- LOCK_DETAIL_3 (0x1300:0D). -/
abbrev Id.LOCK_DETAIL_3 : Nat := 0x13000D
/-- LOCK_DETAIL_4 (0x1300:0E). -/
abbrev Id.LOCK_DETAIL_4 : Nat := 0x13000E
/-- LOCK_DETAIL_5 (0x1300:0F). -/
abbrev Id.LOCK_DETAIL_5 : Nat := 0x13000F
/-- LOCK_DETAIL_6 (0x1300:10). -/
abbrev Id.LOCK_DETAIL_6 : Nat := 0x130010
/-- LOCK_DETAIL_7 (0x1300:11). -/
abbrev Id.LOCK_DETAIL_7 : Nat := 0x130011
/-- LOCK_DETAIL_8 (0x1300:12). -/
abbrev Id.LOCK_DETAIL_8 : Nat := 0x130012
/-- EVENT_LAST_SEQ (0x1400:01). -/
abbrev Id.EVENT_LAST_SEQ : Nat := 0x140001
/-- EVENT_RING (0x1400:02). -/
abbrev Id.EVENT_RING : Nat := 0x140002
/-- BASPO_DROPPED (0x1400:03). -/
abbrev Id.BASPO_DROPPED : Nat := 0x140003
/-- BASPO_TAG_FAIL (0x1400:04). -/
abbrev Id.BASPO_TAG_FAIL : Nat := 0x140004
/-- BASPO_FRESH_FAIL (0x1400:05). -/
abbrev Id.BASPO_FRESH_FAIL : Nat := 0x140005
/-- NOTIFY_DROPPED (0x1400:06). -/
abbrev Id.NOTIFY_DROPPED : Nat := 0x140006
/-- EVT_SAT (0x1400:07). -/
abbrev Id.EVT_SAT : Nat := 0x140007
/-- FRAME_MODE (0x3000:01). -/
abbrev Id.FRAME_MODE : Nat := 0x300001
/-- COLUMN_PERIOD (0x3000:02). -/
abbrev Id.COLUMN_PERIOD : Nat := 0x300002
/-- FLYBACK (0x3000:03). -/
abbrev Id.FLYBACK : Nat := 0x300003
/-- FRAME_PERIOD (0x3000:04). -/
abbrev Id.FRAME_PERIOD : Nat := 0x300004
/-- COLUMN_PERIOD_ACTIVE (0x3000:05). -/
abbrev Id.COLUMN_PERIOD_ACTIVE : Nat := 0x300005
/-- FRAME_COUNTER (0x3000:06). -/
abbrev Id.FRAME_COUNTER : Nat := 0x300006
/-- FADE_FRAMES (0x3000:07). -/
abbrev Id.FADE_FRAMES : Nat := 0x300007
/-- CAL_WINDOW_START (0x3000:08). -/
abbrev Id.CAL_WINDOW_START : Nat := 0x300008
/-- CAL_WINDOW_COUNT (0x3000:09). -/
abbrev Id.CAL_WINDOW_COUNT : Nat := 0x300009
/-- CAL_WINDOW_LENGTH (0x3000:0A). -/
abbrev Id.CAL_WINDOW_LENGTH : Nat := 0x30000A
/-- CAL_BORROW_MAX (0x3000:0B). -/
abbrev Id.CAL_BORROW_MAX : Nat := 0x30000B
/-- PLAN_IMAGE (0x3100:01). -/
abbrev Id.PLAN_IMAGE : Nat := 0x310001
/-- PLAN_ACTIVE_TAG (0x3100:02). -/
abbrev Id.PLAN_ACTIVE_TAG : Nat := 0x310002
/-- PLAN_ACTIVE_BUFFER (0x3100:03). -/
abbrev Id.PLAN_ACTIVE_BUFFER : Nat := 0x310003
/-- PLAN_SWAP_FRAME (0x3100:04). -/
abbrev Id.PLAN_SWAP_FRAME : Nat := 0x310004
/-- PLAN_SWAP_CAMERA (0x3100:05). -/
abbrev Id.PLAN_SWAP_CAMERA : Nat := 0x310005
/-- SHOT_PERIOD (0x3102:01). -/
abbrev Id.SHOT_PERIOD : Nat := 0x310201
/-- USABLE_SLOTS (0x3102:02). -/
abbrev Id.USABLE_SLOTS : Nat := 0x310202
/-- FSYNC_SOURCE (0x3010:01). -/
abbrev Id.FSYNC_SOURCE : Nat := 0x301001
/-- FSYNC_EDGE (0x3010:02). -/
abbrev Id.FSYNC_EDGE : Nat := 0x301002
/-- FSYNC_DIVIDER (0x3010:03). -/
abbrev Id.FSYNC_DIVIDER : Nat := 0x301003
/-- FSYNC_OFFSET (0x3010:04). -/
abbrev Id.FSYNC_OFFSET : Nat := 0x301004
/-- FSYNC_TRACK_RANGE (0x3010:05). -/
abbrev Id.FSYNC_TRACK_RANGE : Nat := 0x301005
/-- FSYNC_STATE (0x3010:06). -/
abbrev Id.FSYNC_STATE : Nat := 0x301006
/-- FSYNC_PERIOD (0x3010:07). -/
abbrev Id.FSYNC_PERIOD : Nat := 0x301007
/-- FSYNC_PHASE_ERROR (0x3010:08). -/
abbrev Id.FSYNC_PHASE_ERROR : Nat := 0x301008
/-- CAMERA_INDEX (0x3010:09). -/
abbrev Id.CAMERA_INDEX : Nat := 0x301009
/-- CAMERA_INDEX_SET (0x3010:0A). -/
abbrev Id.CAMERA_INDEX_SET : Nat := 0x30100A
/-- FSYNC_EARLY_COUNT (0x3010:0B). -/
abbrev Id.FSYNC_EARLY_COUNT : Nat := 0x30100B
/-- FSYNC_LULL_COUNT (0x3010:0C). -/
abbrev Id.FSYNC_LULL_COUNT : Nat := 0x30100C
/-- FSYNC_SAT (0x3010:0D). -/
abbrev Id.FSYNC_SAT : Nat := 0x30100D
/-- BANK_TARGET (0x3200:01). -/
abbrev Id.BANK_TARGET : Nat := 0x320001
/-- BANK_VOLTAGE (0x3200:02). -/
abbrev Id.BANK_VOLTAGE : Nat := 0x320002
/-- BANK_STATE (0x3200:03). -/
abbrev Id.BANK_STATE : Nat := 0x320003
/-- BAR_RETIRED (0x3200:04). -/
abbrev Id.BAR_RETIRED : Nat := 0x320004
/-- BAR_PAIRED (0x3200:05). -/
abbrev Id.BAR_PAIRED : Nat := 0x320005
/-- BAR_RETIRE_CLEAR (0x3200:06). -/
abbrev Id.BAR_RETIRE_CLEAR : Nat := 0x320006
/-- EQUALISE (0x3200:07). -/
abbrev Id.EQUALISE : Nat := 0x320007
/-- DERATE_APPLIED (0x3200:08). -/
abbrev Id.DERATE_APPLIED : Nat := 0x320008
/-- EMIT_TJ_MODEL (0x3200:09). -/
abbrev Id.EMIT_TJ_MODEL : Nat := 0x320009
/-- BAR_TEST_LAST (0x3200:0A). -/
abbrev Id.BAR_TEST_LAST : Nat := 0x32000A
/-- BAR_BINNING (0x3201:01). -/
abbrev Id.BAR_BINNING : Nat := 0x320101
/-- BAR_SHUNT_TABLE (0x3201:02). -/
abbrev Id.BAR_SHUNT_TABLE : Nat := 0x320102
/-- EMIT_ENABLE_STATE (0x3210:01). -/
abbrev Id.EMIT_ENABLE_STATE : Nat := 0x321001
/-- EMIT_TRIP_ACTIVE (0x3210:02). -/
abbrev Id.EMIT_TRIP_ACTIVE : Nat := 0x321002
/-- EMIT_TRIP_LATCH (0x3210:03). -/
abbrev Id.EMIT_TRIP_LATCH : Nat := 0x321003
/-- EMIT_TRIP_FIRST (0x3210:04). -/
abbrev Id.EMIT_TRIP_FIRST : Nat := 0x321004
/-- EMIT_CLEAR (0x3210:05). -/
abbrev Id.EMIT_CLEAR : Nat := 0x321005
/-- EMIT_STOP (0x3210:06). -/
abbrev Id.EMIT_STOP : Nat := 0x321006
/-- FRAME_ENERGY_LIMIT (0x3210:07). -/
abbrev Id.FRAME_ENERGY_LIMIT : Nat := 0x321007
/-- FRAME_ENERGY_LAST (0x3210:08). -/
abbrev Id.FRAME_ENERGY_LAST : Nat := 0x321008
/-- BAR_BUCKET_RATE (0x3210:09). -/
abbrev Id.BAR_BUCKET_RATE : Nat := 0x321009
/-- BAR_BUCKET_DEPTH (0x3210:0A). -/
abbrev Id.BAR_BUCKET_DEPTH : Nat := 0x32100A
/-- CAL_WINDOW_ALLOWANCE (0x3210:0B). -/
abbrev Id.CAL_WINDOW_ALLOWANCE : Nat := 0x32100B
/-- EMITTER_CAP_RESULT (0x3210:0C). -/
abbrev Id.EMITTER_CAP_RESULT : Nat := 0x32100C
/-- WITHHELD_SHOTS (0x3210:0D). -/
abbrev Id.WITHHELD_SHOTS : Nat := 0x32100D
/-- WITHHELD_BARS (0x3210:0E). -/
abbrev Id.WITHHELD_BARS : Nat := 0x32100E
/-- TRIP_COUNT (0x3210:0F). -/
abbrev Id.TRIP_COUNT : Nat := 0x32100F
/-- GOV_SAT (0x3210:10). -/
abbrev Id.GOV_SAT : Nat := 0x321010
/-- RX_EXCESS_BIAS (0x3300:01). -/
abbrev Id.RX_EXCESS_BIAS : Nat := 0x330001
/-- RX_GATE_ON (0x3300:02). -/
abbrev Id.RX_GATE_ON : Nat := 0x330002
/-- COINC_MODE (0x3300:03). -/
abbrev Id.COINC_MODE : Nat := 0x330003
/-- COINC_FIXED (0x3300:04). -/
abbrev Id.COINC_FIXED : Nat := 0x330004
/-- COINC_MIN (0x3300:05). -/
abbrev Id.COINC_MIN : Nat := 0x330005
/-- COINC_MAX (0x3300:06). -/
abbrev Id.COINC_MAX : Nat := 0x330006
/-- COINC_UP_2 (0x3300:07). -/
abbrev Id.COINC_UP_2 : Nat := 0x330007
/-- COINC_UP_3 (0x3300:08). -/
abbrev Id.COINC_UP_3 : Nat := 0x330008
/-- COINC_UP_4 (0x3300:09). -/
abbrev Id.COINC_UP_4 : Nat := 0x330009
/-- COINC_DOWN_PCT (0x3300:0A). -/
abbrev Id.COINC_DOWN_PCT : Nat := 0x33000A
/-- AMB_MIN_TIME (0x3300:0B). -/
abbrev Id.AMB_MIN_TIME : Nat := 0x33000B
/-- TDC_SKEW (0x3301:01). -/
abbrev Id.TDC_SKEW : Nat := 0x330101
/-- CHANNEL_MASK_HOST (0x3301:02). -/
abbrev Id.CHANNEL_MASK_HOST : Nat := 0x330102
/-- CHANNEL_MASK_TEST (0x3301:03). -/
abbrev Id.CHANNEL_MASK_TEST : Nat := 0x330103
/-- CHANNEL_UNMASK (0x3301:04). -/
abbrev Id.CHANNEL_UNMASK : Nat := 0x330104
/-- BAND_STATE (0x3302:01). -/
abbrev Id.BAND_STATE : Nat := 0x330201
/-- BAND_COINC (0x3302:02). -/
abbrev Id.BAND_COINC : Nat := 0x330202
/-- BAND_AMBIENT (0x3302:03). -/
abbrev Id.BAND_AMBIENT : Nat := 0x330203
/-- BAND_TEST_LAST (0x3302:04). -/
abbrev Id.BAND_TEST_LAST : Nat := 0x330204
/-- BAND_RESTART (0x3302:05). -/
abbrev Id.BAND_RESTART : Nat := 0x330205
/-- STOPS_LOST (0x3302:06). -/
abbrev Id.STOPS_LOST : Nat := 0x330206
/-- PARITY_ERRORS (0x3302:07). -/
abbrev Id.PARITY_ERRORS : Nat := 0x330207
/-- PLL_UNLOCKS (0x3302:08). -/
abbrev Id.PLL_UNLOCKS : Nat := 0x330208
/-- CHANNEL_MASK_EVENTS (0x3302:09). -/
abbrev Id.CHANNEL_MASK_EVENTS : Nat := 0x330209
/-- RX_SAT (0x3302:0A). -/
abbrev Id.RX_SAT : Nat := 0x33020A
/-- TIN_ENABLE (0x3400:01). -/
abbrev Id.TIN_ENABLE : Nat := 0x340001
/-- TIN_EDGE (0x3400:02). -/
abbrev Id.TIN_EDGE : Nat := 0x340002
/-- TIN_IDLE_TIMEOUT (0x3400:03). -/
abbrev Id.TIN_IDLE_TIMEOUT : Nat := 0x340003
/-- TIN_RECORD_MAX (0x3400:04). -/
abbrev Id.TIN_RECORD_MAX : Nat := 0x340004
/-- TIN_SKEW (0x3400:05). -/
abbrev Id.TIN_SKEW : Nat := 0x340005
/-- GATE_MARKS (0x3400:06). -/
abbrev Id.GATE_MARKS : Nat := 0x340006
/-- TIN_STATE (0x3400:07). -/
abbrev Id.TIN_STATE : Nat := 0x340007
/-- TIN_LAST_EDGE (0x3400:08). -/
abbrev Id.TIN_LAST_EDGE : Nat := 0x340008
/-- TIN_RECORD_SEQ (0x3400:09). -/
abbrev Id.TIN_RECORD_SEQ : Nat := 0x340009
/-- TIN_EDGES (0x3400:0A). -/
abbrev Id.TIN_EDGES : Nat := 0x34000A
/-- TIN_CLOSE_COUNT (0x3400:0B). -/
abbrev Id.TIN_CLOSE_COUNT : Nat := 0x34000B
/-- TIN_LOST (0x3400:0C). -/
abbrev Id.TIN_LOST : Nat := 0x34000C
/-- TIN_SAT (0x3400:0D). -/
abbrev Id.TIN_SAT : Nat := 0x34000D
/-- HIST_BIN_WIDTH (0x3500:01). -/
abbrev Id.HIST_BIN_WIDTH : Nat := 0x350001
/-- HIST_WEIGHT (0x3500:02). -/
abbrev Id.HIST_WEIGHT : Nat := 0x350002
/-- HIST_SHIFT (0x3500:03). -/
abbrev Id.HIST_SHIFT : Nat := 0x350003
/-- RANGE_MAX (0x3500:04). -/
abbrev Id.RANGE_MAX : Nat := 0x350004
/-- PEAK_K (0x3501:01). -/
abbrev Id.PEAK_K : Nat := 0x350101
/-- ECHO_MIN_NET (0x3501:02). -/
abbrev Id.ECHO_MIN_NET : Nat := 0x350102
/-- REFINE_HALF (0x3501:03). -/
abbrev Id.REFINE_HALF : Nat := 0x350103
/-- LAUNCH_TOL (0x3501:04). -/
abbrev Id.LAUNCH_TOL : Nat := 0x350104
/-- FOLD_TEST (0x3501:05). -/
abbrev Id.FOLD_TEST : Nat := 0x350105
/-- BLOOM_ROWS (0x3501:06). -/
abbrev Id.BLOOM_ROWS : Nat := 0x350106
/-- BLOOM_RATIO (0x3501:07). -/
abbrev Id.BLOOM_RATIO : Nat := 0x350107
/-- XTALK_RATIO (0x3501:08). -/
abbrev Id.XTALK_RATIO : Nat := 0x350108
/-- CLASS_RANGE_TOL (0x3501:09). -/
abbrev Id.CLASS_RANGE_TOL : Nat := 0x350109
/-- SPRAY_RANGE (0x3501:0A). -/
abbrev Id.SPRAY_RANGE : Nat := 0x35010A
/-- SPRAY_WIDTH (0x3501:0B). -/
abbrev Id.SPRAY_WIDTH : Nat := 0x35010B
/-- ECHO_SELECT (0x3501:0C). -/
abbrev Id.ECHO_SELECT : Nat := 0x35010C
/-- ENGINE_BUDGET (0x3502:01). -/
abbrev Id.ENGINE_BUDGET : Nat := 0x350201
/-- LANE_AMBIENT (0x3502:02). -/
abbrev Id.LANE_AMBIENT : Nat := 0x350202
/-- COLUMNS_INCOMPLETE (0x3502:03). -/
abbrev Id.COLUMNS_INCOMPLETE : Nat := 0x350203
/-- ROWS_NOT_PROCESSED (0x3502:04). -/
abbrev Id.ROWS_NOT_PROCESSED : Nat := 0x350204
/-- CANDIDATES_DROPPED (0x3502:05). -/
abbrev Id.CANDIDATES_DROPPED : Nat := 0x350205
/-- LAUNCH_EXCLUDED (0x3502:06). -/
abbrev Id.LAUNCH_EXCLUDED : Nat := 0x350206
/-- BIN_SATURATIONS (0x3502:07). -/
abbrev Id.BIN_SATURATIONS : Nat := 0x350207
/-- ECHO_SAT (0x3502:08). -/
abbrev Id.ECHO_SAT : Nat := 0x350208
/-- ECHO_STORE_FRAMES (0x3502:09). -/
abbrev Id.ECHO_STORE_FRAMES : Nat := 0x350209
/-- FLEET_CODE (0x3600:01). -/
abbrev Id.FLEET_CODE : Nat := 0x360001
/-- FACTORY_FLEET_CODE (0x3600:02). -/
abbrev Id.FACTORY_FLEET_CODE : Nat := 0x360002
/-- FEMON_SPAN (0x3600:03). -/
abbrev Id.FEMON_SPAN : Nat := 0x360003
/-- FEMON_CLEAR_RANGE (0x3600:04). -/
abbrev Id.FEMON_CLEAR_RANGE : Nat := 0x360004
/-- BUS_ROLE (0x3410:01). -/
abbrev Id.BUS_ROLE : Nat := 0x341001
/-- BUS_POSITION (0x3410:02). -/
abbrev Id.BUS_POSITION : Nat := 0x341002
/-- BUS_INTERLEAVE (0x3410:03). -/
abbrev Id.BUS_INTERLEAVE : Nat := 0x341003
/-- BUS_SPACING (0x3410:04). -/
abbrev Id.BUS_SPACING : Nat := 0x341004
/-- BUS_TRIG_SEND (0x3410:05). -/
abbrev Id.BUS_TRIG_SEND : Nat := 0x341005
/-- BUS_STATE (0x3410:06). -/
abbrev Id.BUS_STATE : Nat := 0x341006
/-- BUS_CLOCK_SOURCE (0x3410:07). -/
abbrev Id.BUS_CLOCK_SOURCE : Nat := 0x341007
/-- BUS_PEERS (0x3410:08). -/
abbrev Id.BUS_PEERS : Nat := 0x341008
/-- BUS_DELAY (0x3410:09). -/
abbrev Id.BUS_DELAY : Nat := 0x341009
/-- BUS_TRIGGER (0x3410:0A). -/
abbrev Id.BUS_TRIGGER : Nat := 0x34100A
/-- BUS_CRC_ERRORS (0x3410:0B). -/
abbrev Id.BUS_CRC_ERRORS : Nat := 0x34100B
/-- BUS_TRIG_LATE (0x3410:0C). -/
abbrev Id.BUS_TRIG_LATE : Nat := 0x34100C
/-- BUS_SAT (0x3410:0D). -/
abbrev Id.BUS_SAT : Nat := 0x34100D
/-- TIA_RANGE_MODE (0x4000:01). -/
abbrev Id.TIA_RANGE_MODE : Nat := 0x400001
/-- TIA_RANGE (0x4000:02). -/
abbrev Id.TIA_RANGE : Nat := 0x400002
/-- TIA_RANGE_ACTIVE (0x4000:03). -/
abbrev Id.TIA_RANGE_ACTIVE : Nat := 0x400003
/-- LED_CURRENT (0x4000:04). -/
abbrev Id.LED_CURRENT : Nat := 0x400004
/-- FE_BREAK_LATCH (0x4000:05). -/
abbrev Id.FE_BREAK_LATCH : Nat := 0x400005
/-- FE_CLEAR (0x4000:06). -/
abbrev Id.FE_CLEAR : Nat := 0x400006
/-- PSD_PEAK (0x4000:07). -/
abbrev Id.PSD_PEAK : Nat := 0x400007
/-- PSD_SUM_MIN (0x4000:08). -/
abbrev Id.PSD_SUM_MIN : Nat := 0x400008
/-- RANGE_CHANGES (0x4000:09). -/
abbrev Id.RANGE_CHANGES : Nat := 0x400009
/-- FE_SAT (0x4000:0A). -/
abbrev Id.FE_SAT : Nat := 0x40000A
/-- PHASE_DELAY (0x4100:01). -/
abbrev Id.PHASE_DELAY : Nat := 0x410001
/-- FILTER_LATENCY (0x4100:02). -/
abbrev Id.FILTER_LATENCY : Nat := 0x410002
/-- LIN_COEFF (0x4100:03). -/
abbrev Id.LIN_COEFF : Nat := 0x410003
/-- NTC_BETA (0x4100:04). -/
abbrev Id.NTC_BETA : Nat := 0x410004
/-- NTC_RES_25C (0x4100:05). -/
abbrev Id.NTC_RES_25C : Nat := 0x410005
/-- MIRROR_TEMP (0x4100:06). -/
abbrev Id.MIRROR_TEMP : Nat := 0x410006
/-- MIRROR_TEMP_FALLBACK (0x4100:07). -/
abbrev Id.MIRROR_TEMP_FALLBACK : Nat := 0x410007
/-- THRESHOLDS (0x4100:08). -/
abbrev Id.THRESHOLDS : Nat := 0x410008
/-- STALL_SAMPLES (0x4100:09). -/
abbrev Id.STALL_SAMPLES : Nat := 0x410009
/-- STALL_MIN (0x4100:0A). -/
abbrev Id.STALL_MIN : Nat := 0x41000A
/-- SWITCH_STATE (0x4100:0B). -/
abbrev Id.SWITCH_STATE : Nat := 0x41000B
/-- LAST_SAMPLE (0x4100:0C). -/
abbrev Id.LAST_SAMPLE : Nat := 0x41000C
/-- OVERLOADS (0x4100:0D). -/
abbrev Id.OVERLOADS : Nat := 0x41000D
/-- UNSETTLED_SAMPLES (0x4100:0E). -/
abbrev Id.UNSETTLED_SAMPLES : Nat := 0x41000E
/-- FILT_SAT (0x4100:0F). -/
abbrev Id.FILT_SAT : Nat := 0x41000F
/-- HK_SEQUENCE (0x4200:01). -/
abbrev Id.HK_SEQUENCE : Nat := 0x420001
/-- HK_LOW_POWER (0x4200:02). -/
abbrev Id.HK_LOW_POWER : Nat := 0x420002
/-- HK_RESULTS (0x4200:03). -/
abbrev Id.HK_RESULTS : Nat := 0x420003
/-- HK_CAL_OFFSET (0x4200:04). -/
abbrev Id.HK_CAL_OFFSET : Nat := 0x420004
/-- HK_CAL_GAIN (0x4200:05). -/
abbrev Id.HK_CAL_GAIN : Nat := 0x420005
/-- HK_CAL_STATE (0x4200:06). -/
abbrev Id.HK_CAL_STATE : Nat := 0x420006
/-- HK_CALIBRATE (0x4200:07). -/
abbrev Id.HK_CALIBRATE : Nat := 0x420007
/-- HK_STATE (0x4200:08). -/
abbrev Id.HK_STATE : Nat := 0x420008
/-- CONTROL_K (0x4300:01). -/
abbrev Id.CONTROL_K : Nat := 0x430001
/-- CONTROL_MODE (0x4300:02). -/
abbrev Id.CONTROL_MODE : Nat := 0x430002
/-- CONTROL_MODE_REQUEST (0x4300:03). -/
abbrev Id.CONTROL_MODE_REQUEST : Nat := 0x430003
/-- SCAN_AUTOSTART (0x4300:04). -/
abbrev Id.SCAN_AUTOSTART : Nat := 0x430004
/-- U_LIMIT (0x4300:05). -/
abbrev Id.U_LIMIT : Nat := 0x430005
/-- I_LIMIT (0x4300:06). -/
abbrev Id.I_LIMIT : Nat := 0x430006
/-- HANDOVER_RAMP (0x4300:07). -/
abbrev Id.HANDOVER_RAMP : Nat := 0x430007
/-- HANDOVER_LIMIT (0x4300:08). -/
abbrev Id.HANDOVER_LIMIT : Nat := 0x430008
/-- BIQUAD_ENABLE (0x4300:09). -/
abbrev Id.BIQUAD_ENABLE : Nat := 0x430009
/-- BIQUAD_COEFF (0x4300:0A). -/
abbrev Id.BIQUAD_COEFF : Nat := 0x43000A
/-- GAIN_TABLE (0x4300:0B). -/
abbrev Id.GAIN_TABLE : Nat := 0x43000B
/-- REGION_ANGLES (0x4300:0C). -/
abbrev Id.REGION_ANGLES : Nat := 0x43000C
/-- REGION_TEMPS (0x4300:0D). -/
abbrev Id.REGION_TEMPS : Nat := 0x43000D
/-- OSC_CONFIG (0x4300:0E). -/
abbrev Id.OSC_CONFIG : Nat := 0x43000E
/-- GAIN_SET_ACTIVE (0x4300:0F). -/
abbrev Id.GAIN_SET_ACTIVE : Nat := 0x43000F
/-- ERROR_LAST (0x4300:10). -/
abbrev Id.ERROR_LAST : Nat := 0x430010
/-- OUTPUT_LAST (0x4300:11). -/
abbrev Id.OUTPUT_LAST : Nat := 0x430011
/-- CYCLE_COST (0x4300:12). -/
abbrev Id.CYCLE_COST : Nat := 0x430012
/-- SAMPLE_BUDGET (0x4300:13). -/
abbrev Id.SAMPLE_BUDGET : Nat := 0x430013
/-- HANDOVER_LOG (0x4300:14). -/
abbrev Id.HANDOVER_LOG : Nat := 0x430014
/-- OVERRUN_COUNT (0x4300:15). -/
abbrev Id.OVERRUN_COUNT : Nat := 0x430015
/-- HANDOVERS (0x4300:16). -/
abbrev Id.HANDOVERS : Nat := 0x430016
/-- OSC_DETECTIONS (0x4300:17). -/
abbrev Id.OSC_DETECTIONS : Nat := 0x430017
/-- ACC_SATURATIONS (0x4300:18). -/
abbrev Id.ACC_SATURATIONS : Nat := 0x430018
/-- CTRL_SAT (0x4300:19). -/
abbrev Id.CTRL_SAT : Nat := 0x430019
/-- COIL_STATE (0x4301:01). -/
abbrev Id.COIL_STATE : Nat := 0x430101
/-- COIL_TRIP_CLEAR (0x4301:02). -/
abbrev Id.COIL_TRIP_CLEAR : Nat := 0x430102
/-- COIL_TRIPS (0x4301:03). -/
abbrev Id.COIL_TRIPS : Nat := 0x430103
/-- SCAN_START (0x4400:01). -/
abbrev Id.SCAN_START : Nat := 0x440001
/-- SCAN_END (0x4400:02). -/
abbrev Id.SCAN_END : Nat := 0x440002
/-- VEL_MAX (0x4400:03). -/
abbrev Id.VEL_MAX : Nat := 0x440003
/-- ACC_MAX (0x4400:04). -/
abbrev Id.ACC_MAX : Nat := 0x440004
/-- JERK_MAX (0x4400:05). -/
abbrev Id.JERK_MAX : Nat := 0x440005
/-- HOLD_ANGLE (0x4400:06). -/
abbrev Id.HOLD_ANGLE : Nat := 0x440006
/-- HOMING_TIME (0x4400:07). -/
abbrev Id.HOMING_TIME : Nat := 0x440007
/-- HOME_TOL (0x4400:08). -/
abbrev Id.HOME_TOL : Nat := 0x440008
/-- HOMING_TIMEOUT (0x4400:09). -/
abbrev Id.HOMING_TIMEOUT : Nat := 0x440009
/-- SETPOINT_LAST (0x4400:0A). -/
abbrev Id.SETPOINT_LAST : Nat := 0x44000A
/-- PROFILE_PEAKS (0x4400:0B). -/
abbrev Id.PROFILE_PEAKS : Nat := 0x44000B
/-- LANE_STATE_A (0x2200:01). -/
abbrev Id.LANE_STATE_A : Nat := 0x220001
/-- LANE_STATE_B (0x2200:02). -/
abbrev Id.LANE_STATE_B : Nat := 0x220002
/-- LEASE_HOLDER (0x2200:03). -/
abbrev Id.LEASE_HOLDER : Nat := 0x220003
/-- LEASE_LENGTH (0x2200:04). -/
abbrev Id.LEASE_LENGTH : Nat := 0x220004
/-- LANE_PREFERRED (0x2200:05). -/
abbrev Id.LANE_PREFERRED : Nat := 0x220005
/-- TOWPATH_GRACE (0x2200:06). -/
abbrev Id.TOWPATH_GRACE : Nat := 0x220006
/-- REJOIN_AUTO (0x2200:07). -/
abbrev Id.REJOIN_AUTO : Nat := 0x220007
/-- REJOIN_LIMIT (0x2200:08). -/
abbrev Id.REJOIN_LIMIT : Nat := 0x220008
/-- REJOINS_LEFT (0x2200:09). -/
abbrev Id.REJOINS_LEFT : Nat := 0x220009
/-- TOWPATH_STATE (0x2200:0A). -/
abbrev Id.TOWPATH_STATE : Nat := 0x22000A
/-- LANE_RESTART (0x2200:0B). -/
abbrev Id.LANE_RESTART : Nat := 0x22000B
/-- LANE_REJOIN (0x2200:0C). -/
abbrev Id.LANE_REJOIN : Nat := 0x22000C
/-- MISMATCH_WINDOW (0x2200:0D). -/
abbrev Id.MISMATCH_WINDOW : Nat := 0x22000D
/-- SELFTEST_LAST (0x2200:0E). -/
abbrev Id.SELFTEST_LAST : Nat := 0x22000E
/-- RELEASED_COLUMN (0x2200:0F). -/
abbrev Id.RELEASED_COLUMN : Nat := 0x22000F
/-- LEASE_REMAINING (0x2200:10). -/
abbrev Id.LEASE_REMAINING : Nat := 0x220010
/-- MISMATCHES (0x2200:11). -/
abbrev Id.MISMATCHES : Nat := 0x220011
/-- TAKEOVERS (0x2200:12). -/
abbrev Id.TAKEOVERS : Nat := 0x220012
/-- TOWPATH_LOSSES (0x2200:13). -/
abbrev Id.TOWPATH_LOSSES : Nat := 0x220013
/-- REJOINS (0x2200:14). -/
abbrev Id.REJOINS : Nat := 0x220014
/-- GATE_REFUSALS (0x2200:15). -/
abbrev Id.GATE_REFUSALS : Nat := 0x220015
/-- LANE_SAT (0x2200:16). -/
abbrev Id.LANE_SAT : Nat := 0x220016
/-- CAP_ENABLE (0x5000:01). -/
abbrev Id.CAP_ENABLE : Nat := 0x500001
/-- CAP_SOURCE (0x5000:02). -/
abbrev Id.CAP_SOURCE : Nat := 0x500002
/-- CAP_BANDS (0x5000:03). -/
abbrev Id.CAP_BANDS : Nat := 0x500003
/-- CAP_BIN_FIRST (0x5000:04). -/
abbrev Id.CAP_BIN_FIRST : Nat := 0x500004
/-- CAP_BIN_COUNT (0x5000:05). -/
abbrev Id.CAP_BIN_COUNT : Nat := 0x500005
/-- CAP_PARTITION_SIZE (0x5000:06). -/
abbrev Id.CAP_PARTITION_SIZE : Nat := 0x500006
/-- CAP_SEGMENT_SIZE (0x5000:07). -/
abbrev Id.CAP_SEGMENT_SIZE : Nat := 0x500007
/-- CAP_PRE (0x5000:08). -/
abbrev Id.CAP_PRE : Nat := 0x500008
/-- CAP_POST (0x5000:09). -/
abbrev Id.CAP_POST : Nat := 0x500009
/-- CAP_TRIGGER_MASK (0x5000:0A). -/
abbrev Id.CAP_TRIGGER_MASK : Nat := 0x50000A
/-- CAP_EVENT_CODES (0x5000:0B). -/
abbrev Id.CAP_EVENT_CODES : Nat := 0x50000B
/-- CAP_FULL_POLICY (0x5000:0C). -/
abbrev Id.CAP_FULL_POLICY : Nat := 0x50000C
/-- CAP_AUTO_RELEASE (0x5000:0D). -/
abbrev Id.CAP_AUTO_RELEASE : Nat := 0x50000D
/-- CAP_STATE (0x5001:01). -/
abbrev Id.CAP_STATE : Nat := 0x500101
/-- CAP_CONTROL (0x5001:02). -/
abbrev Id.CAP_CONTROL : Nat := 0x500102
/-- CAP_RECORD_SIZE (0x5001:03). -/
abbrev Id.CAP_RECORD_SIZE : Nat := 0x500103
/-- CAP_SEGMENT_SLOTS (0x5001:04). -/
abbrev Id.CAP_SEGMENT_SLOTS : Nat := 0x500104
/-- CAP_HELD (0x5001:05). -/
abbrev Id.CAP_HELD : Nat := 0x500105
/-- CAP_OLDEST (0x5001:06). -/
abbrev Id.CAP_OLDEST : Nat := 0x500106
/-- CAP_NEWEST (0x5001:07). -/
abbrev Id.CAP_NEWEST : Nat := 0x500107
/-- CAP_SEGMENTS (0x5001:08). -/
abbrev Id.CAP_SEGMENTS : Nat := 0x500108
/-- MISSED_REARM (0x5001:09). -/
abbrev Id.MISSED_REARM : Nat := 0x500109
/-- MISSED_FULL (0x5001:0A). -/
abbrev Id.MISSED_FULL : Nat := 0x50010A
/-- CAP_OVERWRITTEN (0x5001:0B). -/
abbrev Id.CAP_OVERWRITTEN : Nat := 0x50010B
/-- CAP_SAT (0x5001:0C). -/
abbrev Id.CAP_SAT : Nat := 0x50010C
/-- SLOTS_CAPTURE (0x5001:0D). -/
abbrev Id.SLOTS_CAPTURE : Nat := 0x50010D
/-- CAP_READ_SELECT (0x5002:01). -/
abbrev Id.CAP_READ_SELECT : Nat := 0x500201
/-- CAP_READ_HEADER (0x5002:02). -/
abbrev Id.CAP_READ_HEADER : Nat := 0x500202
/-- CAP_READ_REDUCTIONS (0x5002:03). -/
abbrev Id.CAP_READ_REDUCTIONS : Nat := 0x500203
/-- CAP_READ_DATA (0x5002:04). -/
abbrev Id.CAP_READ_DATA : Nat := 0x500204
/-- CAP_RELEASE (0x5002:05). -/
abbrev Id.CAP_RELEASE : Nat := 0x500205
/-- STREAM_ENABLE (0x5100:01). -/
abbrev Id.STREAM_ENABLE : Nat := 0x510001
/-- STREAM_ECHO_MAX (0x5100:02). -/
abbrev Id.STREAM_ECHO_MAX : Nat := 0x510002
/-- STREAM_CODING (0x5100:03). -/
abbrev Id.STREAM_CODING : Nat := 0x510003
/-- STREAM_MARK_MASK (0x5100:04). -/
abbrev Id.STREAM_MARK_MASK : Nat := 0x510004
/-- STREAM_RECORDS (0x5100:05). -/
abbrev Id.STREAM_RECORDS : Nat := 0x510005
/-- STREAM_SUBSCRIBERS (0x5101:01). -/
abbrev Id.STREAM_SUBSCRIBERS : Nat := 0x510101
/-- STREAM_BUFFER_USED (0x5101:02). -/
abbrev Id.STREAM_BUFFER_USED : Nat := 0x510102
/-- STREAM_LINK_LOAD (0x5101:03). -/
abbrev Id.STREAM_LINK_LOAD : Nat := 0x510103
/-- SLOTS_STREAM (0x5101:04). -/
abbrev Id.SLOTS_STREAM : Nat := 0x510104
/-- MARK_SEQ (0x5101:05). -/
abbrev Id.MARK_SEQ : Nat := 0x510105
/-- WEIR_DROPPED_FRAMES (0x5101:06). -/
abbrev Id.WEIR_DROPPED_FRAMES : Nat := 0x510106
/-- MARKS_LOST (0x5101:07). -/
abbrev Id.MARKS_LOST : Nat := 0x510107
/-- WEIR_LAST_DROP (0x5101:08). -/
abbrev Id.WEIR_LAST_DROP : Nat := 0x510108
/-- STREAM_SAT (0x5101:09). -/
abbrev Id.STREAM_SAT : Nat := 0x510109
/-- CODE_DELTA (0x5200:01). -/
abbrev Id.CODE_DELTA : Nat := 0x520001
/-- CODE_SOURCE (0x5200:02). -/
abbrev Id.CODE_SOURCE : Nat := 0x520002
/-- CODE_VIEW (0x5200:03). -/
abbrev Id.CODE_VIEW : Nat := 0x520003
/-- CODE_VIEW_SOURCE (0x5200:04). -/
abbrev Id.CODE_VIEW_SOURCE : Nat := 0x520004
/-- CODE_BLOCKS (0x5200:05). -/
abbrev Id.CODE_BLOCKS : Nat := 0x520005
/-- CODE_RAW_BLOCKS (0x5200:06). -/
abbrev Id.CODE_RAW_BLOCKS : Nat := 0x520006
/-- CODE_RATIO_LAST (0x5200:07). -/
abbrev Id.CODE_RATIO_LAST : Nat := 0x520007
/-- CODE_SAT (0x5200:08). -/
abbrev Id.CODE_SAT : Nat := 0x520008
/-- POWER_STATE (0x2000:01). -/
abbrev Id.POWER_STATE : Nat := 0x200001
/-- POWER_ENTRY (0x2000:02). -/
abbrev Id.POWER_ENTRY : Nat := 0x200002
/-- POWER_TARGET (0x2000:03). -/
abbrev Id.POWER_TARGET : Nat := 0x200003
/-- POWER_REQUEST (0x2000:04). -/
abbrev Id.POWER_REQUEST : Nat := 0x200004
/-- WAKE_TARGET (0x2000:05). -/
abbrev Id.WAKE_TARGET : Nat := 0x200005
/-- WAKE_SOURCES (0x2000:06). -/
abbrev Id.WAKE_SOURCES : Nat := 0x200006
/-- WAKE_PIN_SLEEP (0x2000:07). -/
abbrev Id.WAKE_PIN_SLEEP : Nat := 0x200007
/-- WAKE_PIN_DELAY (0x2000:08). -/
abbrev Id.WAKE_PIN_DELAY : Nat := 0x200008
/-- DOZE_SLEEP_AFTER (0x2000:09). -/
abbrev Id.DOZE_SLEEP_AFTER : Nat := 0x200009
/-- STAY_AWAKE (0x2000:0A). -/
abbrev Id.STAY_AWAKE : Nat := 0x20000A
/-- ENTRY_TIMEOUT (0x2000:0B). -/
abbrev Id.ENTRY_TIMEOUT : Nat := 0x20000B
/-- LAST_WAKE_CAUSE (0x2000:0C). -/
abbrev Id.LAST_WAKE_CAUSE : Nat := 0x20000C
/-- DEVICE_STATE (0x2000:0D). -/
abbrev Id.DEVICE_STATE : Nat := 0x20000D
/-- BECALMED_CAUSE (0x2000:0E). -/
abbrev Id.BECALMED_CAUSE : Nat := 0x20000E
/-- POWER_MODELLED (0x2000:0F). -/
abbrev Id.POWER_MODELLED : Nat := 0x20000F
/-- POWER_MEASURED (0x2000:10). -/
abbrev Id.POWER_MEASURED : Nat := 0x200010
/-- DOMAIN_STATE (0x2001:01). -/
abbrev Id.DOMAIN_STATE : Nat := 0x200101
/-- DOMAIN_FAIL_CAUSE (0x2001:02). -/
abbrev Id.DOMAIN_FAIL_CAUSE : Nat := 0x200102
/-- DOMAIN_RETRIES (0x2001:03). -/
abbrev Id.DOMAIN_RETRIES : Nat := 0x200103
/-- NO_RESPONSES (0x2001:04). -/
abbrev Id.NO_RESPONSES : Nat := 0x200104
/-- DOMAIN_SAT (0x2001:05). -/
abbrev Id.DOMAIN_SAT : Nat := 0x200105
/-- REFUSED_LANE_A (0x2002:01). -/
abbrev Id.REFUSED_LANE_A : Nat := 0x200201
/-- REFUSED_LANE_B (0x2002:02). -/
abbrev Id.REFUSED_LANE_B : Nat := 0x200202
/-- REFUSED_LOCK (0x2002:03). -/
abbrev Id.REFUSED_LOCK : Nat := 0x200203
/-- REFUSED_FLASH (0x2002:04). -/
abbrev Id.REFUSED_FLASH : Nat := 0x200204
/-- REFUSED_CAPTURE (0x2002:05). -/
abbrev Id.REFUSED_CAPTURE : Nat := 0x200205
/-- REFUSED_CAL (0x2002:06). -/
abbrev Id.REFUSED_CAL : Nat := 0x200206
/-- REFUSED_SEC (0x2002:07). -/
abbrev Id.REFUSED_SEC : Nat := 0x200207
/-- REFUSED_THERMAL (0x2002:08). -/
abbrev Id.REFUSED_THERMAL : Nat := 0x200208
/-- REFUSED_HOST (0x2002:09). -/
abbrev Id.REFUSED_HOST : Nat := 0x200209
/-- ABORTED_WAKE (0x2002:0A). -/
abbrev Id.ABORTED_WAKE : Nat := 0x20020A
/-- REFUSAL_SAT (0x2002:0B). -/
abbrev Id.REFUSAL_SAT : Nat := 0x20020B
/-- THERMAL_NODES (0x2100:01). -/
abbrev Id.THERMAL_NODES : Nat := 0x210001
/-- THERMAL_LEVEL (0x2100:02). -/
abbrev Id.THERMAL_LEVEL : Nat := 0x210002
/-- THERMAL_FLAGS (0x2100:03). -/
abbrev Id.THERMAL_FLAGS : Nat := 0x210003
/-- THROTTLE_LEVEL (0x2100:04). -/
abbrev Id.THROTTLE_LEVEL : Nat := 0x210004
/-- AUTO_RESUME (0x2100:05). -/
abbrev Id.AUTO_RESUME : Nat := 0x210005
/-- COOLDOWN_REMAINING (0x2100:06). -/
abbrev Id.COOLDOWN_REMAINING : Nat := 0x210006
/-- ANCHOR_FALLBACK (0x2100:07). -/
abbrev Id.ANCHOR_FALLBACK : Nat := 0x210007
/-- XTAL_COMP (0x2100:08). -/
abbrev Id.XTAL_COMP : Nat := 0x210008
/-- THERMAL_SHUTDOWNS (0x2100:09). -/
abbrev Id.THERMAL_SHUTDOWNS : Nat := 0x210009
/-- THROTTLED_FRAMES (0x2100:0A). -/
abbrev Id.THROTTLED_FRAMES : Nat := 0x21000A
/-- THERMAL_SAT (0x2100:0B). -/
abbrev Id.THERMAL_SAT : Nat := 0x21000B
/-- CAL_AUTO (0x6000:01). -/
abbrev Id.CAL_AUTO : Nat := 0x600001
/-- CAL_DELTA_T (0x6000:02). -/
abbrev Id.CAL_DELTA_T : Nat := 0x600002
/-- CAL_SCALE_TOL (0x6000:03). -/
abbrev Id.CAL_SCALE_TOL : Nat := 0x600003
/-- CAL_ZERO_TOL (0x6000:04). -/
abbrev Id.CAL_ZERO_TOL : Nat := 0x600004
/-- CAL_REQUEST (0x6000:05). -/
abbrev Id.CAL_REQUEST : Nat := 0x600005
/-- CAL_STATE (0x6000:06). -/
abbrev Id.CAL_STATE : Nat := 0x600006
/-- CAL_TARGET_DISTANCE (0x6000:07). -/
abbrev Id.CAL_TARGET_DISTANCE : Nat := 0x600007
/-- CAL_TARGET_ROWS (0x6000:08). -/
abbrev Id.CAL_TARGET_ROWS : Nat := 0x600008
/-- CAL_ANCHOR_LAST (0x6000:09). -/
abbrev Id.CAL_ANCHOR_LAST : Nat := 0x600009
/-- CAL_RUNS (0x6000:0A). -/
abbrev Id.CAL_RUNS : Nat := 0x60000A
/-- CAL_REJECTS (0x6000:0B). -/
abbrev Id.CAL_REJECTS : Nat := 0x60000B
/-- CAL_SAT (0x6000:0C). -/
abbrev Id.CAL_SAT : Nat := 0x60000C
/-- SCALE_ACTIVE (0x6001:01). -/
abbrev Id.SCALE_ACTIVE : Nat := 0x600101
/-- ZERO_ACTIVE (0x6001:02). -/
abbrev Id.ZERO_ACTIVE : Nat := 0x600102
/-- SCALE_TRACE (0x6001:03). -/
abbrev Id.SCALE_TRACE : Nat := 0x600103
/-- RESIDUAL_TRACE (0x6001:04). -/
abbrev Id.RESIDUAL_TRACE : Nat := 0x600104
/-- ZERO_OFFSET_TRACE (0x6001:05). -/
abbrev Id.ZERO_OFFSET_TRACE : Nat := 0x600105
/-- ZERO_PATH_LAST (0x6001:06). -/
abbrev Id.ZERO_PATH_LAST : Nat := 0x600106
/-- PSD_GAIN_TRIM (0x6001:07). -/
abbrev Id.PSD_GAIN_TRIM : Nat := 0x600107
/-- TRACE_RECORD (0x6001:08). -/
abbrev Id.TRACE_RECORD : Nat := 0x600108
/-- CAL_SEQ (0x6001:09). -/
abbrev Id.CAL_SEQ : Nat := 0x600109
/-- CAL_STORE_STATE (0x6001:0A). -/
abbrev Id.CAL_STORE_STATE : Nat := 0x60010A
/-- HOLDUP_ENERGY (0x7000:01). -/
abbrev Id.HOLDUP_ENERGY : Nat := 0x700001
/-- HOLDUP_CAPACITANCE (0x7000:02). -/
abbrev Id.HOLDUP_CAPACITANCE : Nat := 0x700002
/-- FLASH_STATE (0x7000:03). -/
abbrev Id.FLASH_STATE : Nat := 0x700003
/-- BLOCKS_BAD_FACTORY (0x7000:04). -/
abbrev Id.BLOCKS_BAD_FACTORY : Nat := 0x700004
/-- BLOCKS_RETIRED (0x7000:05). -/
abbrev Id.BLOCKS_RETIRED : Nat := 0x700005
/-- SPARE_BLOCKS (0x7000:06). -/
abbrev Id.SPARE_BLOCKS : Nat := 0x700006
/-- ERASE_MAX (0x7000:07). -/
abbrev Id.ERASE_MAX : Nat := 0x700007
/-- ERASE_MEAN (0x7000:08). -/
abbrev Id.ERASE_MEAN : Nat := 0x700008
/-- SCRUB_PERIOD (0x7000:09). -/
abbrev Id.SCRUB_PERIOD : Nat := 0x700009
/-- SUPPLY_LOSS_LOG (0x7000:0A). -/
abbrev Id.SUPPLY_LOSS_LOG : Nat := 0x70000A
/-- CORRECTED_BITS (0x7000:0B). -/
abbrev Id.CORRECTED_BITS : Nat := 0x70000B
/-- RELOCATIONS (0x7000:0C). -/
abbrev Id.RELOCATIONS : Nat := 0x70000C
/-- STORE_SAT (0x7000:0D). -/
abbrev Id.STORE_SAT : Nat := 0x70000D
/-- VERSION_CURRENT (0x7001:01). -/
abbrev Id.VERSION_CURRENT : Nat := 0x700101
/-- VERSION_LIST (0x7001:02). -/
abbrev Id.VERSION_LIST : Nat := 0x700102
/-- VERSION_REVERT (0x7001:03). -/
abbrev Id.VERSION_REVERT : Nat := 0x700103
/-- VERSION_STATE (0x7001:04). -/
abbrev Id.VERSION_STATE : Nat := 0x700104
/-- VERSION_WRITES (0x7001:05). -/
abbrev Id.VERSION_WRITES : Nat := 0x700105
/-- VERSION_SAT (0x7001:06). -/
abbrev Id.VERSION_SAT : Nat := 0x700106
/-- REC_ENABLE (0x7002:01). -/
abbrev Id.REC_ENABLE : Nat := 0x700201
/-- REC_SOURCES (0x7002:02). -/
abbrev Id.REC_SOURCES : Nat := 0x700202
/-- REC_OLDEST (0x7002:03). -/
abbrev Id.REC_OLDEST : Nat := 0x700203
/-- REC_NEWEST (0x7002:04). -/
abbrev Id.REC_NEWEST : Nat := 0x700204
/-- REC_SELECT (0x7002:05). -/
abbrev Id.REC_SELECT : Nat := 0x700205
/-- REC_READ_HEADER (0x7002:06). -/
abbrev Id.REC_READ_HEADER : Nat := 0x700206
/-- REC_READ_DATA (0x7002:07). -/
abbrev Id.REC_READ_DATA : Nat := 0x700207
/-- REC_CLEAR (0x7002:08). -/
abbrev Id.REC_CLEAR : Nat := 0x700208
/-- REC_SKIPPED (0x7002:09). -/
abbrev Id.REC_SKIPPED : Nat := 0x700209
/-- REC_SAT (0x7002:0A). -/
abbrev Id.REC_SAT : Nat := 0x70020A
/-- FW_SLOT_STATE (0x7100:01). -/
abbrev Id.FW_SLOT_STATE : Nat := 0x710001
/-- FW_ACTIVE_SLOT (0x7100:02). -/
abbrev Id.FW_ACTIVE_SLOT : Nat := 0x710002
/-- ROLLBACK_COUNTER (0x7100:03). -/
abbrev Id.ROLLBACK_COUNTER : Nat := 0x710003
/-- FW_UPDATE (0x7100:04). -/
abbrev Id.FW_UPDATE : Nat := 0x710004
/-- FW_IMAGE (0x7100:05). -/
abbrev Id.FW_IMAGE : Nat := 0x710005
/-- FW_UPDATE_STATE (0x7100:06). -/
abbrev Id.FW_UPDATE_STATE : Nat := 0x710006
/-- FW_TRIAL_RESULT (0x7100:07). -/
abbrev Id.FW_TRIAL_RESULT : Nat := 0x710007
/-- SECURITY_STATE (0x1200:01). -/
abbrev Id.SECURITY_STATE : Nat := 0x120001
/-- KEY_STATE (0x1200:02). -/
abbrev Id.KEY_STATE : Nat := 0x120002
/-- KEY_WRITE (0x1200:03). -/
abbrev Id.KEY_WRITE : Nat := 0x120003
/-- SEC_PROVISION (0x1200:04). -/
abbrev Id.SEC_PROVISION : Nat := 0x120004
/-- SEC_UNPROVISION (0x1200:05). -/
abbrev Id.SEC_UNPROVISION : Nat := 0x120005
/-- SEC_SEAL (0x1200:06). -/
abbrev Id.SEC_SEAL : Nat := 0x120006
/-- SESSION_TABLE (0x1200:07). -/
abbrev Id.SESSION_TABLE : Nat := 0x120007
/-- BACKOFF_LEVEL (0x1200:08). -/
abbrev Id.BACKOFF_LEVEL : Nat := 0x120008
/-- BACKOFF_REMAINING (0x1200:09). -/
abbrev Id.BACKOFF_REMAINING : Nat := 0x120009
/-- AUTH_FAILURES (0x1200:0A). -/
abbrev Id.AUTH_FAILURES : Nat := 0x12000A
/-- SEC_SAT (0x1200:0B). -/
abbrev Id.SEC_SAT : Nat := 0x12000B

end Sys2Proof.Machine
end

