-- ==== Sys2Proof/Machine/Ops.lean ====
section
/-! DEFINITION. Named operations over the state: time, configuration values, events and counters, tickets, trips of the
governor, domain states and the echo store. -/

namespace Sys2Proof.Machine

open Sys2Proof

/-! ### Configuration values -/

/-- A configuration: the factory values and the store of values that differ from their defaults. -/
structure Cfg where
  /-- Factory values. -/
  fac : Factory
  /-- Stored values. -/
  store : Store
  deriving DecidableEq, Repr

/-- Default of a configuration object; the module-specific ones come from the factory (R361, R176). -/
def defaultOf (f : Factory) (id : Nat) : Bytes :=
  if id = Id.FLEET_CODE then le 4 (f.serial.toNat % 262144)
  else if id = Id.LIN_COEFF then f.linCoeff
  else if id = Id.GAIN_TABLE then f.gainTable
  else match lookup id with
    | some o => o.dflt
    | none => []

/-- Value bytes of a configuration object. -/
def Cfg.bytes (c : Cfg) (id : Nat) : Bytes :=
  match find? c.store id with
  | some b => b
  | none => defaultOf c.fac id

/-- Unsigned value of a configuration object. -/
def Cfg.nat (c : Cfg) (id : Nat) : Nat := leNat (c.bytes id)

/-- Two's complement value of a configuration object. -/
def Cfg.int (c : Cfg) (id : Nat) : Int := leSigned (c.bytes id)

/-- The live configuration. -/
def State.conf (s : State) : Cfg := { fac := s.fac, store := s.cfg }

/-- Unsigned value of a live configuration object. -/
def State.cfgN (s : State) (id : Nat) : Nat := s.conf.nat id

/-- Write a configuration object. A value equal to the default is not listed, so equal configurations are equal data. -/
def putCfg (f : Factory) (st : Store) (id : Nat) (v : Bytes) : Store :=
  if v = defaultOf f id then del st id else put st id v

/-- Columns N of a frame (R79). -/
def Cfg.columns (c : Cfg) : Nat := 256 * 2 ^ c.nat Id.FRAME_MODE

/-- c_nom in 31.25 ps (Table 04.1: COLUMN_PERIOD counts 2.5 ns). -/
def Cfg.cNom (c : Cfg) : Nat := c.nat Id.COLUMN_PERIOD * 80

/-- The tracking window w (R80). -/
def Cfg.window (c : Cfg) : Rat :=
  if c.nat Id.FSYNC_SOURCE = 0 then 0 else (c.nat Id.FSYNC_TRACK_RANGE : Rat) / 1000000

/-- c_min in 31.25 ps (R80). -/
def Cfg.cMin (c : Cfg) : Rat := (c.cNom : Rat) * (1 - c.window)

/-- FLYBACK in 31.25 ps. -/
def Cfg.flyback (c : Cfg) : Nat := c.nat Id.FLYBACK * 32

/-- T_min = N × c_min + FLYBACK in ns (R110). -/
def Cfg.tMin (c : Cfg) : Rat := ((c.columns : Rat) * c.cMin + c.flyback) / 32

/-- Usable slot count U (R83). -/
def Cfg.usable (c : Cfg) : Nat := min 64 (c.cMin / (c.nat Id.SHOT_PERIOD * 32 : Nat)).floor.toNat

/-! ### Time -/

/-- A command comes at t; time never runs back. What the last command sent is taken away (log entries 1 and 6). -/
def State.at (s : State) (t : Time) : State := { s with now := max s.now t, out := [] }

/-- Device time in ns (R15): island time through the offset of the 802.1AS servo (R141, before R142). -/
def State.deviceNs (s : State) (t : Time) : Int := (t / 32 : Nat) + s.net.servo

/-- Device time in 31.25 ps. -/
def State.deviceTicks (s : State) (t : Time) : Int := (t : Int) + s.net.servo * 32

/-- Time of an event entry: device time in ns (Table 03.12). -/
def State.stampNow (s : State) : U64 := BitVec.ofInt 64 (s.deviceNs s.now)

/-- Stamps carry an unsynchronised flag before 802.1AS synchronisation (R15): GPTP_STATE 0 or 1. -/
def State.unsync (s : State) : Bool := s.net.gptp < 2

/-! ### Events and counters -/

/-- Enter an event with a ticket in EVENT_RING and offer it to the subscribers (R77, R78) and, where its code stands in
CAP_EVENT_CODES, to marking and capture (Table 12.1 bit 7). NOTIFY_DROPPED is counted by the caller of raiseRaw. -/
def State.ringPush (s : State) (e : Event) : State :=
  { s with evt := { s.evt with seq := e.seq, ring := (e :: s.evt.ring).take 256 } }

/-- Put an entry into a subscriber's queue of 64; the oldest is dropped when it is full (R78). -/
def Subscriber.offer (b : Subscriber) (e : Event) : Subscriber :=
  if e.severity.toNat < b.minSeverity then b
  else if b.queue.length < 64 then { b with queue := b.queue ++ [e] }
  else { b with queue := b.queue.tail ++ [e], lost := true }

/-- Whether an entry drops another one from the subscriber's queue. -/
def Subscriber.drops (b : Subscriber) (e : Event) : Bool := !(e.severity.toNat < b.minSeverity) && 64 ≤ b.queue.length

/-- Codes of CAP_EVENT_CODES. -/
def Cfg.capCodes (c : Cfg) : List Nat := (List.range 8).map fun i => u16At (c.bytes Id.CAP_EVENT_CODES) (2 * i)

/-- Order triggers by time, then by source bit (R254). -/
def Trigger.before (a b : Trigger) : Bool := a.time < b.time || (a.time == b.time && a.source < b.source)

/-- Offer a trigger to marking and capture. -/
def State.offer (s : State) (g : Trigger) : State :=
  { s with cap := { s.cap with offers := insertBy Trigger.before g s.cap.offers } }

/-- Count n events in an EVENT counter without raising anything: the counter and its cycle (R8, R9).
DEDUCED: log entry 7. -/
def State.countRaw (s : State) (id n cycle : Nat) : State :=
  let inc := match find? s.evt.incs id with
    | some (c, k) => if c = cycle then (c, k + n) else (cycle, n)
    | none => (cycle, n)
  { s with evt := { s.evt with counters := bumpAt s.evt.counters id n 0xFFFFFFFF, incs := put s.evt.incs id inc } }

/-- Enter an event without the counter of dropped notifications: the ring, the subscribers and the trigger. -/
def State.raiseRaw (s : State) (code sev : Nat) (ticket p1 p2 p3 : U32) : State :=
  let e : Event :=
    { seq := s.evt.seq + 1, time := s.stampNow, code := BitVec.ofNat 16 code, severity := BitVec.ofNat 8 sev, unsync := s.unsync,
      ticket, p1, p2, p3 }
  let s1 := s.ringPush e
  let s2 := { s1 with baspo := { s1.baspo with
    sessions := s1.baspo.sessions.map fun x => { x with sub := x.sub.map fun b => b.offer e } } }
  if code ∈ s.conf.capCodes then
    s2.offer { source := 7, time := s.deviceTicks s.now / 32 * 32, inst := s.now, unsync := s.unsync, unplaced := false }
  else s2

/-- Clock of each island in kHz (Table 01.2), by domain; the band and TIMX counters run on their register clocks. -/
def clockKHz (d : Nat) : Nat :=
  [25000, 200000, 312500, 80000, 400000, 100000, 800000, 800000, 400000, 50000, 100000, 200000, 25600, 102400, 16000, 25000].getD d
    500000

/-- The cycle of the clock of the island that holds a counter (R9), at an instant. -/
def counterCycle (id : Nat) (t : Time) : Nat :=
  let d := match lookup id with
    | some o => match o.owner with
      | .ao => 0
      | .any ds => ds.headD 0
    | none => 0
  t * clockKHz d / 32000000

/-- A counter that has reached its largest value sets its SAT bit and raises its chapter's event once (R8). -/
def State.saturate (s : State) (id : Nat) : State :=
  if natAt s.evt.counters id = 0xFFFFFFFF ∧ id ∉ s.evt.sats then
    let code := match lookup id with
      | some o => o.sat.2.2
      | none => 0
    let s1 := { s with evt := { s.evt with sats := id :: s.evt.sats } }
    s1.raiseRaw code 1 0 (u32 (id / 256)) (u32 (id % 256)) 0
  else s

/-- Count n events in an EVENT counter (R8, R9). -/
def State.count (s : State) (id : Nat) (n : Nat := 1) : State :=
  if n = 0 then s else (s.countRaw id n (counterCycle id s.now)).saturate id

/-- Enter an event (R77, R78): the entry, the subscribers, and NOTIFY_DROPPED for every entry it pushes out. -/
def State.raise (s : State) (code sev : Nat) (p1 : U32 := 0) (p2 : U32 := 0) (p3 : U32 := 0) (ticket : U32 := 0) : State :=
  let n := (s.baspo.sessions.filter fun x => match x.sub with
    | some b => !(sev < b.minSeverity) && 64 ≤ b.queue.length
    | none => false).length
  (s.raiseRaw code sev ticket p1 p2 p3).count Id.NOTIFY_DROPPED n

/-- Clear an EVENT counter and its SAT bit; increments of the same cycle are applied after the clear (R9).
DEDUCED: log entry 7. -/
def State.clearCounter (s : State) (id : Nat) : State :=
  let keep := match find? s.evt.incs id with
    | some (c, k) => if c = counterCycle id s.now then k else 0
    | none => 0
  { s with evt := { s.evt with counters := put s.evt.counters id keep, sats := s.evt.sats.filter (· != id) } }

/-- Value of an EVENT counter. -/
def State.counter (s : State) (id : Nat) : Nat := natAt s.evt.counters id

/-- The SAT bits held in a companion object (R8). -/
def State.satWord (s : State) (satId : Nat) : Nat :=
  s.evt.sats.foldl (fun m id => match lookup id with
    | some o => if o.sat.1 = satId ∧ !bit m o.sat.2.1 then m + 2 ^ o.sat.2.1 else m
    | none => m) 0

/-! ### Tickets -/

/-- Issue a ticket: after 0xFFFF_FFFF they continue at 1 (R360). DEDUCED: log entry 8. -/
def State.issueTicket (s : State) : State × U32 :=
  let n : U32 := if s.baspo.ticket = 0xFFFFFFFF then 1 else s.baspo.ticket + 1
  ({ s with baspo := { s.baspo with ticket := n } }, n)

/-- Tickets waiting in a command's queue. -/
def State.queued (s : State) (obj : Nat) : List Ticket := s.baspo.tickets.filter fun k => k.obj == obj

/-- Put a ticket into its command's queue. -/
def State.enqueue (s : State) (k : Ticket) : State := { s with baspo := { s.baspo with tickets := s.baspo.tickets ++ [k] } }

/-- Take a ticket out of its queue. -/
def State.dequeue (s : State) (num : U32) : State :=
  { s with baspo := { s.baspo with tickets := s.baspo.tickets.filter fun k => k.num != num } }

/-! ### Domains -/

/-- State of a domain. -/
def State.dom (s : State) (d : Nat) : DomState := s.pwr.doms.getD d .off

/-- The domain is powered. -/
def State.isOn (s : State) (d : Nat) : Bool := match s.dom d with
  | .on | .held => true
  | .off | .failed => false

/-- The domain is FAILED. -/
def State.isFailed (s : State) (d : Nat) : Bool := s.dom d == .failed

/-- Set a domain's state. -/
def State.setDom (s : State) (d : Nat) (v : DomState) : State := { s with pwr := { s.pwr with doms := setAt s.pwr.doms d v } }

/-- The device is BECALMED. -/
def State.isBecalmed (s : State) : Bool := s.pwr.becalmed != 0

/-- RUN or HOLD. -/
def State.awake (s : State) : Bool := s.pwr.state == .run || s.pwr.state == .hold

/-- POWER_STATE as a number; OFF is not readable. -/
def Power.code : Power → Nat
  | .run => 0
  | .hold => 1
  | .doze => 2
  | .sleep => 3
  | .off => 3

/-! ### The governor's trip sources (Table 05.4) -/

/-- The source latches (Table 05.4). -/
def tripLatches (b : Nat) : Bool := b ∈ [2, 3, 4, 6, 7, 9]

/-- Column and slot of a trip (EMIT_TRIP PARAM3). -/
def State.tripPlace (s : State) : U32 := u32 (s.scan.column % 65536 * 65536 + min s.scan.slot 255)

/-- A trip source asserts: EMIT_ENABLE falls, its bit latches where it does, TRIP_COUNT counts once and EMIT_TRIP is raised
(R114, R116). A source that is asserted already changes nothing, nor does one while SHOT is off.
DEDUCED: log entry 36. -/
def State.tripSet (s : State) (b : Nat) : State :=
  if s.emit.active.getLsbD b ∨ !s.isOn 8 then s
  else
    let fresh := s.emit.active = 0 ∧ s.emit.latch = 0
    let e := { s.emit with
      active := withBit s.emit.active b true
      latch := if tripLatches b then withBit s.emit.latch b true else s.emit.latch
      first := if fresh then BitVec.ofNat 8 b else s.emit.first
      enable := 0
      resume := none
      clearSince := false
      chargeSince := none
      bankState := if b = 6 then 5 else s.emit.bankState }
    let sev := if b ∈ [0, 1, 5, 10] then 1 else 3
    (({ s with emit := e }).count Id.TRIP_COUNT).raise 0x2001 sev (u32 b) s.scan.frame s.tripPlace

/-- A trip source's condition ends; its latch stays (R116). EMIT_TRIP_FIRST reads none once nothing is active or latched. -/
def State.tripClear (s : State) (b : Nat) : State :=
  let a := withBit s.emit.active b false
  { s with emit := { s.emit with active := a, first := if a = 0 ∧ s.emit.latch = 0 then 0xFF else s.emit.first } }

/-- Set or clear a trip source by its condition. DEDUCED: log entry 36. -/
def State.trip (s : State) (b : Nat) (level : Bool) : State := if level then s.tripSet b else s.tripClear b

/-! ### The echo store -/

/-- Bytes of the echo store: 32 MiB (R166). -/
def echoSize : Nat := 33554432

/-- One byte of the echo store; a byte that nothing has written reads 0, for start-up clears the store (R297).
DEDUCED: log entry 52. -/
def echoRead (m : List Host.Cell) (a : Nat) : Byte := (find? m a).getD 0

/-- Write one byte; 0 is not listed, so equal stores are equal data. There is no byte beyond the store's end.
DEDUCED: log entry 52. -/
def echoWrite (m : List Host.Cell) (a : Nat) (b : Byte) : List Host.Cell :=
  if echoSize ≤ a then m else if b = 0 then del m a else put m a b

/-- The cells without the one at an address, where that is the first. -/
def echoPast (a : Nat) : List Host.Cell → List Host.Cell
  | (k, x) :: m => if k = a then m else (k, x) :: m
  | [] => []

/-- Write bytes from an address on, to a store whose cells lie there or beyond. -/
def echoBlock : List Host.Cell → Nat → Bytes → List Host.Cell
  | m, _, [] => m
  | m, a, b :: bs =>
    if echoSize ≤ a then m
    else if b = 0 then echoBlock (echoPast a m) (a + 1) bs
    else (a, b) :: echoBlock (echoPast a m) (a + 1) bs

/-- Write bytes from an address on, in one pass over the store. -/
def echoWriteAll : List Host.Cell → Nat → Bytes → List Host.Cell
  | [], a, bs => echoBlock [] a bs
  | (k, x) :: m, a, bs => if k < a then (k, x) :: echoWriteAll m a bs else echoBlock ((k, x) :: m) a bs

/-- Bytes of the echo store from an address on. -/
def echoBytes (m : List Host.Cell) (a : Nat) : Nat → Bytes
  | 0 => []
  | n + 1 => echoRead m a :: echoBytes m (a + 1) n

/-- The canonical form: addresses strictly rising and below a bound, no entry 0. -/
def echoWf : List Host.Cell → Bool
  | [] => true
  | [(a, b)] => a < echoSize && b != 0
  | (a, b) :: (a', b') :: r => a < a' && a < echoSize && b != 0 && echoWf ((a', b') :: r)

/-! ### Messages out -/

/-- Send a message. -/
def State.send (s : State) (m : OutMsg) : State := { s with out := s.out ++ [m] }

/-- Draw a free value's argument. -/
def State.draw (s : State) : State × Nat := ({ s with draws := s.draws + 1 }, s.draws)

end Sys2Proof.Machine
end

