-- ==== Sys2Proof/Machine/Plan.lean ====
section
/-! DEFINITION. Shot plans (R84 to R93), the launch offset and the Femon generator (R172 to R175), the emitter energy model and
EMITTER_CAP (R106, R109 to R112, R362). -/

namespace Sys2Proof.Machine

open Sys2Proof

/-! ### The Femon generator -/

/-- mix of R174, on U32. -/
def mix (x0 : U32) : U32 :=
  let x1 := x0 ^^^ (x0 >>> 16)
  let x2 := x1 * 0x3a4f6d2b
  let x3 := x2 ^^^ (x2 >>> 15)
  let x4 := x3 * 0x9c35e1c7
  x4 ^^^ (x4 >>> 16)

/-- w1 of femon (R174): f is the fleet code, n the shot index. -/
def femonW1 (f n : U32) : U32 := mix ((f <<< 14) ||| (n &&& 0x3fff))

/-- w2 of femon (R174). -/
def femonW2 (f n : U32) : U32 := mix (femonW1 f n ^^^ (n >>> 14))

/-- The dither in ns (R174), with b = 4 + FEMON_SPAN. -/
def femon (f n : U32) (b : Nat) : Nat := if b = 4 then 0 else (femonW2 f n >>> (32 - b)).toNat

/-- The shot index n of R174. -/
def shotIndex (frame : U32) (column slot : Nat) : U32 := (frame * 1024 + u32 column) * 64 + u32 slot

/-- The dither span S_D in ns (R172). -/
def Cfg.ditherSpan (c : Cfg) : Nat := if c.nat Id.FEMON_SPAN = 0 then 1 else 2 ^ (4 + c.nat Id.FEMON_SPAN)

/-- The interleave offset O in ns (R172). -/
def Cfg.interleave (c : Cfg) : Nat :=
  if c.nat Id.BUS_INTERLEAVE = 1 ∧ c.nat Id.BUS_ROLE ≠ 0 then c.nat Id.BUS_POSITION * c.nat Id.BUS_SPACING else 0

/-- D_s in ns (R172, R174). -/
def Cfg.dither (c : Cfg) (frame : U32) (column slot : Nat) : Nat :=
  femon (u32 (c.nat Id.FLEET_CODE)) (shotIndex frame column slot) (4 + c.nat Id.FEMON_SPAN)

/-- The launch offset d_s = 32 × (O + D_s) in LSB (R172). -/
def Cfg.launchOffset (c : Cfg) (frame : U32) (column slot : Nat) : Nat := 32 * (c.interleave + c.dither frame column slot)

/-! ### Plan images -/

/-- PATTERN_COUNT of an image (Table 04.4). -/
def planPatterns (p : Bytes) : Nat := u8At p 4

/-- USED_SLOTS of an image. -/
def planUsed (p : Bytes) : Nat := u8At p 5

/-- FRAME_MODE of an image. -/
def planMode (p : Bytes) : Nat := u8At p 3

/-- Columns that an image maps. -/
def planColumns (p : Bytes) : Nat := 256 * 2 ^ planMode p

/-- PLAN_TAG of an image. -/
def planTag (p : Bytes) : U32 := u32 (u32At p 8)

/-- The pattern base P0 for N columns (R85). -/
def planBase (n : Nat) : Nat := 256 * cdiv (64 + n) 256

/-- COLUMN_MAP byte of a column (R90). -/
def planPattern (p : Bytes) (column : Nat) : Nat := u8At p (64 + column)

/-- The entry of a slot of a pattern (R85); 0 beyond the 64 slots. -/
def planEntry (p : Bytes) (pattern slot : Nat) : Nat :=
  if slot < 64 then u32At p (planBase (planColumns p) + 256 * pattern + 4 * slot) else 0

/-- BAR_MASK of an entry (Table 04.5). -/
def entryMask (e : Nat) : Nat := e / 65536

/-- CURRENT code of an entry. -/
def entryCurrent (e : Nat) : Nat := e / 1024 % 64

/-- WIDTH code of an entry. -/
def entryWidth (e : Nat) : Nat := e / 32 % 32

/-- One entry is well formed for its slot (R87). -/
def entryOk (used slot e : Nat) : Bool :=
  e % 32 == 0 && entryCurrent e ≤ 50 && entryWidth e ≤ 18 && (entryMask e != 0 || e == 0) && (slot < used || e == 0)

/-- The checks of R87 on a staged PLAN_IMAGE. -/
def planOk (p : Bytes) : Bool :=
  u16At p 0 == 0x504C && u8At p 2 == 1 && planMode p ≤ 2 && 1 ≤ planPatterns p && planPatterns p ≤ 64 && 1 ≤ planUsed p &&
  planUsed p ≤ 64 && p.length == planBase (planColumns p) + 256 * planPatterns p && u16At p 6 == 0 &&
  (slice p 12 52).all (· == 0) &&
  (slice p (64 + planColumns p) (planBase (planColumns p) - 64 - planColumns p)).all (· == 0) &&
  (slice p 64 (planColumns p)).all (fun b => b.toNat < planPatterns p) &&
  (List.range (planPatterns p)).all fun q => (List.range 64).all fun s => entryOk (planUsed p) s (planEntry p q s)

/-! ### Energy -/

/-- Peak current in half amperes of a CURRENT code (Table 04.5). -/
def halfAmps (code : Nat) : Nat := 10 + code

/-- Pulse width in quarter nanoseconds of a WIDTH code. -/
def quarterNs (code : Nat) : Nat := 6 + code

/-- V0, R, S and Ith of a bar. -/
def Factory.bar (f : Factory) (b : Nat) : Nat × Nat × Nat × Nat := f.binning.getD b (0, 0, 0, 0)

/-- V_b(I) in half millivolts, exact, at a current in half amperes (R109). -/
def Factory.barVolt2 (f : Factory) (b h : Nat) : Nat := 2 * (f.bar b).1 + (f.bar b).2.1 * h

/-- E_b in nJ, rounded up (R109), at a current in half amperes and a width in quarter nanoseconds. -/
def Factory.barEnergy (f : Factory) (b h q : Nat) : Nat := cdiv (h * f.barVolt2 b h * q) 16000

/-- Bars of a mask. -/
def barsOf (m : Nat) : List Nat := (List.range 16).filter fun b => bit m b

/-- V_req of a mask at a current, in half millivolts (R106). -/
def Factory.vReq2 (f : Factory) (h m : Nat) : Nat := 20000 + sumNat ((barsOf m).map fun b => f.barVolt2 b h)

/-- Energy of a shot: the bars of the mask. -/
def Factory.shotEnergy (f : Factory) (m h q : Nat) : Nat := sumNat ((barsOf m).map fun b => f.barEnergy b h q)

/-- Energy of one column of a plan over its non-retired bars (R110). -/
def planColumnEnergy (f : Factory) (retired : Nat) (p : Bytes) (pattern : Nat) : Nat :=
  sumNat ((List.range (planUsed p)).map fun s =>
    let e := planEntry p pattern s
    f.shotEnergy (entryMask e &&& (65535 - retired)) (halfAmps (entryCurrent e)) (quarterNs (entryWidth e)))

/-- Energy of every pattern of a plan. -/
def planEnergies (f : Factory) (retired : Nat) (p : Bytes) : List Nat :=
  (List.range (planPatterns p)).map (planColumnEnergy f retired p)

/-- The largest V_req over the entries of a plan, in half millivolts (R106). -/
def planVReq2 (f : Factory) (retired : Nat) (p : Bytes) : Nat :=
  maxNat ((List.range (planPatterns p)).map fun q => maxNat ((List.range (planUsed p)).map fun s =>
    let e := planEntry p q s
    if e = 0 then 0 else f.vReq2 (halfAmps (entryCurrent e)) (entryMask e &&& (65535 - retired))))

/-- V_auto in V (R106): the largest V_req plus 6 V, rounded up, from 30 to 160. -/
def planVAuto (f : Factory) (retired : Nat) (p : Bytes) : Nat := clampNat 30 160 (cdiv (planVReq2 f retired p + 12000) 2000)

/-- The bank target in V under a plan (R106). -/
def Cfg.bankTarget (c : Cfg) (retired : Nat) (p : Bytes) : Nat :=
  if c.nat Id.BANK_TARGET = 0 then planVAuto c.fac retired p else c.nat Id.BANK_TARGET

/-! ### EMITTER_CAP -/

/-- A column of the bucket simulation: the plan that drives it and its shot period, ns. -/
structure SimColumn where
  /-- Plan image. -/
  plan : Bytes
  /-- Shot period, ns. -/
  shotPeriod : Nat
  /-- Pattern. -/
  pattern : Nat
  deriving DecidableEq, Repr

/-- State of the bucket simulation: levels at an instant in ns, the highest level, the first failure (bar, column, frame). -/
structure SimState where
  /-- Levels in nJ. -/
  levels : List Rat
  /-- The instant of the levels, ns from the start. -/
  at_ : Rat
  /-- Highest level. -/
  peak : Rat
  /-- First bucket above 100 µJ: bar, column, frame. -/
  fail : Option (Nat × Nat × Nat)
  deriving DecidableEq, Repr

/-- Leak all buckets to an instant: 0.6 nJ per ns, never below 0 (R112). -/
def SimState.leakTo (x : SimState) (t : Rat) : SimState :=
  { x with levels := x.levels.map fun l => max 0 (l - (t - x.at_) * 6 / 10), at_ := t }

/-- Charge one bar. -/
def SimState.charge (x : SimState) (b e col frame : Nat) : SimState :=
  let l := x.levels.getD b 0 + e
  { x with levels := setAt x.levels b l, peak := max x.peak l,
           fail := if x.fail.isNone && decide (100000 < l) then some (b, col, frame) else x.fail }

/-- One slot of the simulation, at its slot start. -/
def simSlot (f : Factory) (retired : Nat) (k : SimColumn) (t0 : Rat) (col frame : Nat) (x : SimState) (s : Nat) : SimState :=
  let e := planEntry k.plan k.pattern s
  let m := entryMask e &&& (65535 - retired)
  if m = 0 then x
  else
    let x1 := x.leakTo (t0 + (s * k.shotPeriod : Nat))
    (barsOf m).foldl (fun y b => y.charge b (f.barEnergy b (halfAmps (entryCurrent e)) (quarterNs (entryWidth e))) col frame) x1

/-- One frame of the simulation: flyback, then the columns, one every c_min (R110). -/
def simFrame (f : Factory) (retired : Nat) (cMin flyback tMin : Rat) (frame : Nat) (cols : Nat → SimColumn) (n : Nat)
    (x : SimState) (start : Rat) : SimState :=
  let y := (List.range n).foldl (fun y c =>
    let k := cols c
    (List.range (planUsed k.plan)).foldl (simSlot f retired k (start + flyback + cMin * (c : Rat)) c frame) y) x
  y.leakTo (start + tMin)

/-- Several frames in sequence, from empty buckets. -/
def simRun (f : Factory) (retired : Nat) (cMin flyback tMin : Rat) (n : Nat) (frames : List (Nat → SimColumn)) : SimState :=
  let x0 : SimState := { levels := rep 16 0, at_ := 0, peak := 0, fail := none }
  (frames.foldl (fun p g => (simFrame f retired cMin flyback tMin p.2 g n p.1 (tMin * (p.2 : Rat)), p.2 + 1)) (x0, 0)).1

/-- Columns of a frame that runs one plan throughout. -/
def plainColumns (p : Bytes) (sp : Nat) : Nat → SimColumn := fun c => { plan := p, shotPeriod := sp, pattern := planPattern p c }

/-- Columns of fade frame j of F: the new plan where (c mod F) < j (R91). -/
def fadeColumns (old new : Bytes) (spOld spNew j frames : Nat) : Nat → SimColumn := fun c =>
  if c % frames < j then { plan := new, shotPeriod := spNew, pattern := planPattern new c }
  else { plan := old, shotPeriod := spOld, pattern := planPattern old c }

/-- Energy of a frame's columns (E_check without the calibration term). -/
def columnsEnergy (f : Factory) (retired n : Nat) (cols : Nat → SimColumn) (old new : Bytes) : Nat :=
  let eo := planEnergies f retired old
  let en := planEnergies f retired new
  sumNat ((List.range n).map fun c =>
    let k := cols c
    if k.plan = new then en.getD k.pattern 0 else eo.getD k.pattern 0)

/-- E_check of a plan in nJ (R110 condition 1). -/
def Cfg.eCheck (c : Cfg) (retired : Nat) (p : Bytes) : Nat :=
  let en := planEnergies c.fac retired p
  sumNat ((List.range c.columns).map fun k => en.getD (planPattern p k) 0) + c.nat Id.CAL_WINDOW_COUNT * 250000

/-- E_limit in nJ (R110). -/
def Cfg.eLimit (c : Cfg) : Nat := (c.tMin * 45 / 10).floor.toNat

/-- The outcome of EMITTER_CAP: EMITTER_CAP_RESULT in fields (Table 05.8). -/
structure CapResult where
  /-- RESULT. -/
  result : Nat
  /-- BAR. -/
  bar : Nat
  /-- COLUMN. -/
  column : Nat
  /-- E_CHECK. -/
  eCheck : Nat
  /-- E_LIMIT. -/
  eLimit : Nat
  /-- V_REQ_MAX, 0.1 V. -/
  vReq : Nat
  /-- V_TARGET, 0.1 V. -/
  vTarget : Nat
  /-- BUCKET_PEAK, nJ. -/
  peak : Nat
  /-- SIM_FRAME. -/
  simFrame : Nat
  deriving DecidableEq, Repr

/-- The bytes of EMITTER_CAP_RESULT. -/
def CapResult.bytes (r : CapResult) : Bytes :=
  le 1 r.result ++ le 1 r.bar ++ le 2 r.column ++ le 8 r.eCheck ++ le 8 r.eLimit ++ le 2 r.vReq ++ le 2 r.vTarget ++ le 4 r.peak ++
    le 1 r.simFrame ++ zeros 3

/-- A fade that a flip would start: the old plan, its shot period, and F (R91, R92). -/
structure FadeCase where
  /-- Old plan. -/
  old : Bytes
  /-- Its shot period, ns. -/
  spOld : Nat
  /-- F. -/
  frames : Nat
  deriving DecidableEq, Repr

/-- EMITTER_CAP on a configuration with its plan (R110, R362). -/
def emitterCap (c : Cfg) (retired : Nat) (fade : Option FadeCase) : CapResult :=
  let p := c.bytes Id.PLAN_IMAGE
  let sp := c.nat Id.SHOT_PERIOD
  let n := c.columns
  let cMin := c.cMin / 32
  let fly : Rat := (c.nat Id.FLYBACK : Rat)
  let tMin := c.tMin
  let eC := c.eCheck retired p
  let eL := c.eLimit
  let v2 := planVReq2 c.fac retired p
  let target := c.bankTarget retired p
  let sim := simRun c.fac retired cMin fly tMin n [plainColumns p sp, plainColumns p sp]
  let base : CapResult :=
    { result := 0, bar := 0xFF, column := 0xFFFF, eCheck := eC, eLimit := eL, vReq := cdiv v2 200, vTarget := target * 10,
      peak := sim.peak.ceil.toNat, simFrame := 0xFF }
  let bankOk := if c.nat Id.BANK_TARGET = 0 then v2 ≤ 308000 else v2 ≤ target * 2000
  if eL < eC then { base with result := 1 }
  else match sim.fail with
    | some (b, col, fr) => { base with result := 2, bar := b, column := col, simFrame := fr }
    | none =>
      if !bankOk then { base with result := 3 }
      else match fade with
        | none => base
        | some g =>
          if g.frames ≤ 1 then base
          else
            let js := (List.range (g.frames - 1)).map (· + 1)
            let cols := fun j => fadeColumns g.old p g.spOld sp j g.frames
            let es := js.map fun j => (j, columnsEnergy c.fac retired n (cols j) g.old p + c.nat Id.CAL_WINDOW_COUNT * 250000)
            let fsim := simRun c.fac retired cMin fly tMin n
              ([plainColumns g.old g.spOld] ++ js.map cols ++ [plainColumns p sp, plainColumns p sp])
            let worst := maxNat (es.map (·.2))
            let bad := { base with result := 4, eCheck := worst, peak := fsim.peak.ceil.toNat }
            match fsim.fail with
            | some (b, col, fr) => { bad with bar := b, column := col, simFrame := fr }
            | none =>
              match es.find? fun q => eL < q.2 with
              | some (j, _) => { bad with simFrame := j }
              | none => base

/-! ### Equalisation shunts (R121) -/

/-- P_b(I) of a bar in mW at a current in mA: S × (I − Ith), S in mW/A. -/
def Factory.output (f : Factory) (b : Nat) (ma : Rat) : Rat := ((f.bar b).2.2.1 : Rat) * (ma - (f.bar b).2.2.2) / 1000

/-- k_b for one current code and one bar (R121). -/
def shuntOf (f : Factory) (retired code b : Nat) : Nat :=
  let live := (List.range 16).filter fun i => !bit retired i
  let ma : Rat := (halfAmps code * 500 : Nat)
  let outs := live.map fun i => f.output i ma
  let low := outs.foldl min (outs.headD 0)
  let lows := live.map fun i => f.output i (ma * 205 / 256)
  let floor_ := lows.foldl max (lows.headD 0)
  let p := max low floor_
  let s : Rat := ((f.bar b).2.2.1 : Rat) / 1000
  if bit retired b ∨ s = 0 then 0
  else (clampInt 0 51 (roundHalfUp (256 * (1 - (p / s + (f.bar b).2.2.2) / ma)))).toNat

/-- BAR_SHUNT_TABLE (R121, R123): 51 codes × 16 bars; zero with EQUALISE 0. -/
def shuntTable (c : Cfg) (retired : Nat) : Bytes :=
  if c.nat Id.EQUALISE = 0 then zeros 816
  else ((List.range 51).map fun code => (List.range 16).map fun b => BitVec.ofNat 8 (shuntOf c.fac retired code b)).flatten

end Sys2Proof.Machine
end

