-- ==== Sys2Proof/Machine/Governor.lean ====
section
/-! DEFINITION. The pulse bank, the governor and the bar tests (chapter 05): SLOT_DECISION, the trips, the return of enable, the
bank events and the bar tests. -/

namespace Sys2Proof.Machine

open Sys2Proof

/-! ### Lanes seen from the governor -/

/-- A lane. -/
def State.lane (s : State) : LaneId → Lane
  | .a => s.laneA
  | .b => s.laneB

/-- Change a lane. -/
def State.setLane (s : State) (l : LaneId) (x : Lane) : State := match l with
  | .a => { s with laneA := x }
  | .b => { s with laneB := x }

/-- The other lane. -/
def other : LaneId → LaneId
  | .a => .b
  | .b => .a

/-- The control engine that answers for the device: the lease holder's, else lane A's, else lane B's (R235). -/
def State.servingLane (s : State) : LaneId := match s.arb.holder with
  | some l => l
  | none => if s.laneA.state == .failed then .b else .a

/-- The engine of the serving lane. -/
def State.engine (s : State) : Engine := (s.lane s.servingLane).engine

/-- The mirror is in TRACK under the lease holder. -/
def State.tracking (s : State) : Bool := s.arb.holder.isSome && s.engine.mode == .track

/-! ### The bank -/

/-- The plan buffer that drives columns. -/
def State.activePlan (s : State) : PlanBuf := s.scan.buffers.getD s.scan.active { image := builtInPlan, shotPeriod := 1250 }

/-- The other plan buffer. -/
def State.oldPlan (s : State) : PlanBuf := s.scan.buffers.getD (1 - s.scan.active) { image := builtInPlan, shotPeriod := 1250 }

/-- The bank target in V of the plan that drives columns (R106). -/
def State.bankGoal (s : State) : Nat := s.conf.bankTarget s.emit.retired.toNat s.activePlan.image

/-- Discharge the bank below 30 V (R107). DEDUCED: log entry 38. -/
def State.bankDischarge (s : State) : State := { s with emit := { s.emit with bankState := 0, chargeSince := none } }

/-- Steps 1 to 3 of Table 05.5 hold. DEDUCED: log entry 37. -/
def State.returnReady (s : State) : Bool := s.emit.latch == 0 && s.emit.active == 0 && s.tracking && s.isOn 8

/-- The boost starts to charge once steps 1 to 3 of Table 05.5 hold and VIN and the temperature window permit (R107); where one
of them does not, BANK_STATE says so. DEDUCED: log entry 37. -/
def State.emitAdvance (s : State) : State :=
  if s.returnReady && s.isOn 9 && s.emit.enable == 0 && s.emit.bankState != 1 && s.emit.bankState != 2 then
    if !s.pwr.vinOk then { s with emit := { s.emit with bankState := 3 } }
    else if !s.therm.bankOk then { s with emit := { s.emit with bankState := 4 } }
    else { s with emit := { s.emit with bankState := 1, chargeSince := some s.now, bankTarget := s.bankGoal } }
  else s

/-- Charging stops by VIN (1) or temperature (2): BANK_STATE and BANK_INHIBITED (Table 05.9). -/
def State.bankInhibit (s : State) (cause : Nat) : State :=
  let s1 := { s with emit := { s.emit with bankState := if s.emit.bankState = 5 then 5 else 2 + cause, chargeSince := none } }
  s1.raise 0x200A 1 (u32 cause)

/-- Charging is permitted again: the boost resumes while EMIT_ENABLE is high or the return sequence has come to its step 3. -/
def State.bankResume (s : State) : State :=
  if (s.emit.bankState = 3 ∨ s.emit.bankState = 4) ∧ s.pwr.vinOk ∧ s.therm.bankOk then
    if s.emit.enable ≠ 0 ∨ s.returnReady then
      { s with emit := { s.emit with bankState := 1, chargeSince := some s.now, bankTarget := s.bankGoal } }
    else { s with emit := { s.emit with bankState := 0 } }
  else s

/-- A new plan buffer begins to drive columns: the bank takes its target (R106). -/
def State.bankRetarget (s : State) : State :=
  if s.bankGoal = s.emit.bankTarget then s
  else
    { s with emit := { s.emit with
        bankTarget := s.bankGoal
        bankState := if s.emit.bankState = 2 then 1 else s.emit.bankState
        chargeSince := if s.emit.bankState = 1 ∨ s.emit.bankState = 2 then some s.now else s.emit.chargeSince } }

/-! ### Buckets -/

/-- Bucket levels in 1/160 nJ at an instant: each leaks 3 per 31.25 ps (600 mW) and never falls below 0 (R112).
DEDUCED: log entry 39. -/
def Emit.levelsAt (e : Emit) (t : Time) : List Nat := e.buckets.map fun l => l - 3 * (t - e.bucketAt)

/-- BAR_BUCKET_DEPTH in 1/160 nJ: 120 µJ. DEDUCED: log entry 39. -/
def bucketDepth : Nat := 19200000

/-! ### SLOT_DECISION -/

/-- What the governor decides for a slot (R111). -/
structure Decision where
  /-- Final mask. -/
  mask : Nat
  /-- Applied current, half amperes. -/
  half : Nat
  /-- Width, quarter nanoseconds. -/
  width : Nat
  /-- Width code. -/
  widthCode : Nat
  /-- Energy of the final mask, nJ. -/
  energy : Nat
  /-- Reason bits of Table 05.3. -/
  reasons : Nat
  /-- The whole shot is withheld. -/
  held : Bool
  /-- Bars withheld. -/
  bars : Nat
  /-- Bars withheld by BAR_BUCKET. -/
  bucketBars : Nat
  deriving DecidableEq, Repr

/-- The applied current of a current code under derating (R122): max(5 A, 0.5 A × floor(d × I / 0.5 A)). -/
def Emit.appliedHalf (e : Emit) (code : Nat) : Nat := max 10 (e.derate.applied.toNat * halfAmps code / 64)

/-- Remove retired bars, then unpaired bars of paired couples (R111 steps 1 and 2): the mask and the reasons.
DEDUCED: log entry 41. -/
def pairMask (paired m : Nat) : Nat :=
  maskOf 16 fun b => bit m b && !(bit paired b && !bit m (b + 1)) && !(1 ≤ b && bit paired (b - 1) && !bit m (b - 1))

/-- Bars of a mask whose bucket would overflow, with their partners (R111 step 3). -/
def bucketMask (f : Factory) (levels : List Nat) (paired m half width : Nat) : Nat :=
  let above := maskOf 16 fun b => bit m b && decide (bucketDepth < levels.getD b 0 + 160 * f.barEnergy b half width)
  maskOf 16 fun b => bit m b && (bit above b || (bit paired b && bit above (b + 1)) || (1 ≤ b && bit paired (b - 1) && bit above (b - 1)))

/-- Throttling makes slot s of column c idle (R307). -/
def Thermal.idles (x : Thermal) (s c : Nat) : Bool := ((s + c) % 16 : Nat) < x.throttle.applied

/-- The governor's decision on an entry (R111): lent is the entry it displaces when borrowed; window is the energy already spent
in the calibration window, none in a column slot; at_ is the decision point. DEDUCED: log entry 40. -/
def State.judgeSlot (s : State) (entry : Nat) (lent : Option Nat) (window : Option Nat) (column slot bankMv : Nat) (at_ : Time) :
    Decision :=
  let f := s.fac
  let half := s.emit.appliedHalf (entryCurrent entry)
  let width := quarterNs (entryWidth entry)
  let m0 := entryMask entry
  let m1 := m0 &&& (65535 - s.emit.retired.toNat)
  let m2 := pairMask s.emit.paired.toNat m1
  let above := if window.isSome then 0 else bucketMask f (s.emit.levelsAt at_) s.emit.paired.toNat m2 half width
  let m3 := m2 &&& (65535 - above)
  let e := f.shotEnergy m3 half width
  let shot := m3 ≠ 0
  let rWindow := shot && window.isNone && !s.front.inWindow
  let rCap := shot && decide (s.conf.eLimit < s.emit.acc + e)
  let rBank := shot && decide (2 * bankMv < f.vReq2 half m3)
  let rThrottle := shot && window.isNone && s.therm.idles slot column
  let rCal := shot && (match lent, window with
    | some d, _ => m0 &&& (65535 - entryMask d) ≠ 0 || entryCurrent d < entryCurrent entry || entryWidth d < entryWidth entry
    | none, some w => decide (250000 < w + e)
    | none, none => false)
  { mask := m3, half, width, widthCode := entryWidth entry, energy := e,
    reasons := b2n rWindow + 2 * b2n rCap + 4 * b2n (above ≠ 0) + 8 * b2n rBank + 16 * b2n rThrottle + 32 * b2n rCal +
      64 * b2n (m2 ≠ m1) + 128 * b2n (m1 ≠ m0),
    held := rWindow || rCap || rBank || rThrottle || rCal,
    bars := (barsOf (m0 &&& (65535 - m3))).length, bucketBars := (barsOf above).length }

/-- Charge a shot: buckets (column shots only), frame accumulator, string energy (Table 05.2 step 5, R112, R113). -/
def State.charge (s : State) (d : Decision) (t : Time) (buckets : Bool) : State :=
  let levels := s.emit.levelsAt t
  let charged := (barsOf d.mask).foldl (fun l b => modAt l b (· + 160 * s.fac.barEnergy b d.half d.width)) levels
  { s with
    emit := { s.emit with
      acc := s.emit.acc + d.energy
      buckets := if buckets then charged else s.emit.buckets
      bucketAt := if buckets then max t s.emit.bucketAt else s.emit.bucketAt }
    therm := { s.therm with stringEnergy := s.therm.stringEnergy + d.energy } }

/-- The monitors after a fired shot (Table 05.4 bits 7 and 8). -/
def State.monitor (s : State) (d : Decision) (x : SlotIn) : State :=
  let model2 := s.fac.vReq2 d.half d.mask - 20000
  let volts := model2 + 6000 < 2 * x.stringMv || 2 * x.stringMv + 6000 < model2
  let starved := x.peakMa * 2 < d.half * 500 && x.bankMv ≤ x.stringMv
  let barBad := volts || starved
  let driverBad := !barBad && (d.half * 500 * 115 < x.peakMa * 100 || x.peakMa * 100 < d.half * 500 * 85)
  let barRun := if barBad then s.emit.barRun + 1 else 0
  let driverRun := if driverBad then s.emit.driverRun + 1 else 0
  let s1 := { s with emit := { s.emit with barRun := barRun % 4, driverRun := driverRun % 4, bankMv := x.bankMv } }
  let s2 := if x.limiter || driverRun = 4 then (s1.tripSet 7).tripClear 7 else s1
  if barRun = 4 then
    let s3 := s2.tripSet 8
    { s3 with emit := { s3.emit with fullTestDue := true } }
  else s2

/-- Count what a decision withholds: WITHHELD_SHOTS, WITHHELD_BARS, the column and frame records (R124, R125).
DEDUCED: log entry 40. -/
def State.countHeld (s : State) (d : Decision) : State :=
  let reported := d.reasons &&& 0x2F
  let s1 := { s with emit := { s.emit with
    colHeld := if d.reasons ≠ 0 then min 255 (s.emit.colHeld + 1) else s.emit.colHeld
    colReason := s.emit.colReason ||| d.reasons
    heldReasons := s.emit.heldReasons ||| reported
    heldShots := s.emit.heldShots + b2n (d.held && d.reasons &&& 0x2B ≠ 0)
    heldBars := s.emit.heldBars + d.bucketBars } }
  let s2 := (s1.count Id.WITHHELD_SHOTS (b2n d.held)).count Id.WITHHELD_BARS d.bars
  if bit d.reasons 1 then s2.raise 0x2004 3 s2.scan.frame (u32 (s2.emit.acc / 1000)) else s2

/-- Plan, shot period and pattern of a column under the running fade (R90, R91). -/
def State.planFor (s : State) (column : Nat) : PlanBuf := match s.scan.fade with
  | some (j, f) => if column % f < j then s.activePlan else s.oldPlan
  | none => s.activePlan

/-- The return fade leaves this column dark (Table 05.5 step 6). -/
def State.darkColumn (s : State) (column : Nat) : Bool := match s.emit.resume with
  | some (j, f) => !decide (column % f < j)
  | none => false

/-- A column slot at its decision point (Table 05.2). -/
def State.columnSlot (s : State) (cal : Option Nat) (x : SlotIn) : State :=
  let c := s.scan.column
  let k := s.scan.slot
  let p := s.planFor c
  let used := planUsed p.image
  let start := s.scan.tick + k * p.shotPeriod * 32
  let fire := start + s.conf.launchOffset s.scan.frame c k
  let planned := planEntry p.image (planPattern p.image c) k
  let borrowMax := s.cfgN Id.CAL_BORROW_MAX
  let lend := cal.isSome && used ≤ k + borrowMax && s.scan.borrowed < borrowMax
  let entry := if lend then cal.getD 0 else planned
  let dark := s.darkColumn c
  let d := s.judgeSlot entry (if lend then some planned else none) none c k x.bankMv (start - 400 * 32)
  let tripped := s.emit.enable = 0
  let fired := !tripped && !dark && !d.held && d.mask ≠ 0
  let s1 : State :=
    if tripped then
      if entryMask entry = 0 then s
      else { s with emit := { s.emit with
        colReason := s.emit.colReason ||| 256, colHeld := min 255 (s.emit.colHeld + 1) } }
    else if dark then s
    else s.countHeld d
  let rec_ : SlotRec :=
    { num := k, start, fire, fired, lent := lend, mask := if fired then BitVec.ofNat 16 d.mask else 0, width := d.widthCode,
      launch := if fired then x.launch else rep 16 0xFFFFF }
  let s2 : State := { s1 with
    rx := { s1.rx with acc := { s1.rx.acc with slots := s1.rx.acc.slots ++ [rec_] } }
    scan := { s1.scan with slot := k + 1, borrowed := s1.scan.borrowed + b2n lend } }
  if fired then (s2.charge d (fire + 200 * 32) true).monitor d x else s2

/-- The calibration window, counted from 0, that holds an instant of the running flyback (R94). DEDUCED: log entry 35. -/
def State.windowAt (s : State) (t : Time) : Option Nat :=
  let n := s.cfgN Id.CAL_WINDOW_COUNT
  let len := s.cfgN Id.CAL_WINDOW_LENGTH * 32
  let start := s.scan.tick + s.cfgN Id.CAL_WINDOW_START * 32
  if start ≤ t ∧ len ≠ 0 ∧ (t - start) / len < n then some ((t - start) / len) else none

/-- A shot in a calibration window of the flyback (R94, R112): charged to the frame accumulator and the window only.
DEDUCED: log entry 35. -/
def State.windowShot (s : State) (entry : Nat) (w : Nat) (x : SlotIn) : State :=
  let spent := s.scan.windowEnergy.getD w 0
  let d := s.judgeSlot entry none (some spent) 0 0 x.bankMv s.now
  if s.emit.enable = 0 then s
  else
    let s1 := s.countHeld d
    if d.held || d.mask = 0 then s1
    else
      let energies := modAt (s1.scan.windowEnergy ++ rep (4 - s1.scan.windowEnergy.length) 0) w (· + d.energy)
      let s2 := { s1 with scan := { s1.scan with windowEnergy := energies } }
      (s2.charge d (s2.now + 200 * 32) false).monitor d x

/-- SLOT_DECISION (R108, R111). Without a running column timer, past the last used slot, or in a flyback outside a window, no
slot is decided; a full bar test takes the place of the windows (R118). -/
def doSlotDecision (t : Time) (cal : Option U32) (x : SlotIn) (s0 : State) : State :=
  let s := s0.at t
  if !s.scan.timer then s
  else if s.scan.flyback then
    match cal, (if s.emit.fullTestDue then none else s.windowAt s.now) with
    | some e, some w => s.windowShot e.toNat w x
    | _, _ => s
  else if s.scan.slot < planUsed (s.planFor s.scan.column).image then s.columnSlot (cal.map (·.toNat)) x
  else s

/-! ### Trips and the bank -/

/-- EMIT_TRIP: a source asserts or its condition ends (R114, R116). -/
def doEmitTrip (t : Time) (b : Fin 11) (level : Bool) (s0 : State) : State :=
  let s := s0.at t
  let s1 := s.trip b.val level
  let s2 := if b.val = 8 ∧ level then { s1 with emit := { s1.emit with fullTestDue := true } } else s1
  s2.emitAdvance

/-- EMIT_STOP: HOST latches at the write (Table 05.4 bit 9); its condition is the write itself. DEDUCED: log entry 21. -/
def emitStopAction (s : State) : State := (s.tripSet 9).tripClear 9

/-- EMIT_CLEAR fails where a named bit's condition is still asserted (R116). -/
def State.emitClearable (s : State) (m : Nat) : Bool := s.emit.latch.toNat &&& m &&& s.emit.active.toNat == 0

/-- EMIT_CLEAR on a mask (R116). DEDUCED: log entry 21. -/
def emitClearAction (m : Nat) (s : State) : State :=
  let latch := s.emit.latch &&& ~~~ BitVec.ofNat 16 m
  { s with emit := { s.emit with latch, first := if latch = 0 ∧ s.emit.active = 0 then 0xFF else s.emit.first } }.emitAdvance

/-- BANK_READY: the bank reaches its target (R106). -/
def doBankReady (t : Time) (s0 : State) : State :=
  let s := s0.at t
  if s.emit.bankState = 1 then
    { s with emit := { s.emit with bankState := 2, chargeSince := none, bankMv := s.emit.bankTarget * 1000 } }
  else s

/-- BANK_FAULT trips: latched, the bank discharged (R107), BANK_STATE 5. DEDUCED: log entry 38. -/
def State.bankFault (s : State) : State :=
  let s1 := (s.tripSet 6).tripClear 6
  { s1 with emit := { s1.emit with bankState := 5, chargeSince := none } }

/-- BANK_FAULT_TIMEOUT: not within 2 % of the target 20 ms after charging began or the target last changed (Table 05.4). -/
def doBankFaultTimeout (t : Time) (s0 : State) : State :=
  let s := s0.at t
  match s.emit.chargeSince with
  | some c => if s.emit.bankState = 1 ∧ c + msec 20 ≤ s.now then s.bankFault else s
  | none => s

/-- BANK_OVERVOLTAGE: the bank rises above the overvoltage trip (Table 05.4). -/
def doBankOvervoltage (t : Time) (s0 : State) : State := (s0.at t).bankFault

/-! ### Bar tests -/

/-- Results of T1 (R118). -/
inductive T1
  | normal
  | short
  | opened
  | drift
  deriving DecidableEq, Repr

/-- T1 on a reading: 4.0 V to 6.5 V normal, below 2.0 V SHORT, above 9.0 V or no current OPEN, otherwise DRIFT. -/
def barT1 (r : BarReading) : T1 :=
  if !r.current ∨ 9000 < r.vf then .opened
  else if r.vf < 2000 then .short
  else if 4000 ≤ r.vf ∧ r.vf ≤ 6500 then .normal
  else .drift

/-- T2 shows a neighbour shunted: a current of 1 mA or more, for bars 0 to 14 (R118). -/
def barNeighbour (r : BarReading) : Bool := r.bar.val < 15 && (1000 ≤ r.t2up || 1000 ≤ r.t2down)

/-- Keep a reading in BAR_TEST_LAST. -/
def State.keepReading (s : State) (r : BarReading) : State :=
  let entry := (min r.vf 65535, if r.bar.val = 15 then 0 else min (max r.t2up r.t2down) 65535)
  { s with emit := { s.emit with barLast := setAt s.emit.barLast r.bar.val entry } }

/-- Retire, pair or flag a bar by its reading (R119). A bar that is retired or a couple that is paired already raises nothing. -/
def State.judgeBar (s : State) (r : BarReading) : State :=
  let b := r.bar.val
  let s1 := s.keepReading r
  let retire := fun (x : State) (kind : Nat) =>
    if x.emit.retired.getLsbD b then x
    else ({ x with emit := { x.emit with retired := withBit x.emit.retired b true } }).raise 0x2005 2 (u32 b) (u32 kind) (u32 r.vf)
  let s2 := match barT1 r with
    | .short => retire s1 1
    | .opened => retire s1 2
    | .drift => s1.raise 0x2007 1 (u32 b) (u32 r.vf)
    | .normal => s1
  if barNeighbour r ∧ !s2.emit.paired.getLsbD b then
    ({ s2 with emit := { s2.emit with paired := withBit s2.emit.paired b true } }).raise 0x2006 2 (u32 b)
  else s2

/-- A retest under BAR_RETIRE_CLEAR passes: T1 normal and no neighbour (R120). -/
def barPasses (r : BarReading) : Bool := barT1 r == .normal && !barNeighbour r

/-- Bars of the mask that pass their retest become restore-pending; the ticket waits for their restoration (R120).
DEDUCED: log entry 42. -/
def State.retest (s : State) (k : Ticket) (readings : List BarReading) : State :=
  let named := readings.filter fun r => bit k.value r.bar.val && s.emit.retired.getLsbD r.bar.val
  let good := maskOf 16 fun b => named.any fun r => r.bar.val == b && barPasses r
  let s1 := named.foldl State.keepReading s
  let s2 := s1.dequeue k.num
  let g : BitVec 16 := BitVec.ofNat 16 good
  { s2 with emit := { s2.emit with
      restorePending := s2.emit.restorePending ||| g
      restoreTickets := if good = 0 then s2.emit.restoreTickets else s2.emit.restoreTickets ++ [(g, k.num)] } }

/-- BAR_TEST: in the last 200 µs of a flyback in RUN, bar FRAME_COUNTER mod 16, and the bars to retest (R118, R120). -/
def doBarTest (t : Time) (readings : List BarReading) (s0 : State) : State :=
  let s := s0.at t
  if s.scan.timer && s.scan.flyback && s.isOn 10 then
    let rolling := readings.filter fun r => r.bar.val == s.scan.frame.toNat % 16
    let s1 := rolling.foldl State.judgeBar s
    (s1.queued Id.BAR_RETIRE_CLEAR).foldl (fun x k => x.retest k readings) s1
  else s

/-- BAR_FULL_TEST: after a BAR_FAULT trip all 16 bars are tested in the next flyback; the trip ends when a bar is retired or a
couple paired, else DRIVER_FAULT latches (R119). -/
def doBarFullTest (t : Time) (readings : List BarReading) (s0 : State) : State :=
  let s := s0.at t
  if s.emit.fullTestDue && s.scan.timer && s.scan.flyback then
    let s1 := readings.foldl State.judgeBar { s with emit := { s.emit with fullTestDue := false } }
    let found := s1.emit.retired ≠ s.emit.retired ∨ s1.emit.paired ≠ s.emit.paired
    let s2 := s1.tripClear 8
    if found then s2.emitAdvance else (s2.tripSet 7).tripClear 7
  else s

/-! ### The frame boundary in the emitter (R113, R117, R122, R124) -/

/-- d_model in 1/64 from T_j (R122): 1 up to 70 °C, then 1 − (T_j − 70)/80, never below 0.5, floored. -/
def derateModel (tj : Rat) : Nat :=
  if tj ≤ 70 then 64 else max 32 ((64 : Rat) * (1 - (tj - 70) / 80)).floor.toNat

/-- One frame of a ramp of derating: d = floor64(d_start + (d_model − d_start) × j / F). DEDUCED: log entry 43. -/
def Ramp.next (r : Ramp) (round : Rat → Int) : Ramp :=
  if r.frames = 0 then r
  else
    let j := r.j + 1
    let v := round (r.start + (r.goal - r.start) * j / r.frames)
    if r.frames ≤ j then { start := r.goal, goal := r.goal, j := 0, frames := 0, applied := r.goal } else { r with j, applied := v }

/-- Derating at a frame boundary: the running ramp goes on, or a new one starts (R122). DEDUCED: log entry 43. -/
def State.derateBoundary (s : State) : State :=
  let tj := s.therm.temps.getD 3 0
  let m : Int := derateModel tj
  if m ≠ s.emit.derate.goal then
    let r : Ramp := { start := s.emit.derate.applied, goal := m, j := 0, frames := s.cfgN Id.FADE_FRAMES, applied := s.emit.derate.applied }
    let s1 := { s with emit := { s.emit with derate := r.next Rat.floor } }
    s1.raise 0x2009 0 (u32i m) (u32i (roundHalfUp (tj * 10)))
  else { s with emit := { s.emit with derate := s.emit.derate.next Rat.floor } }

/-- SHOTS_WITHHELD, at most once per frame; it does not cover bits 4, 6 and 7 (R124). -/
def State.heldEvent (s : State) : State :=
  let s1 := { s with emit := { s.emit with heldReasons := 0, heldShots := 0, heldBars := 0 } }
  if s.emit.heldReasons = 0 then s1 else s1.raise 0x2003 1 (u32 s.emit.heldReasons) (u32 s.emit.heldShots) (u32 s.emit.heldBars)

/-- The return sequence at a frame boundary: step 5 and the fade of steps 6 and 7 (Table 05.5). frame is the frame that begins. -/
def State.returnBoundary (s : State) : State :=
  let f := s.cfgN Id.FADE_FRAMES
  match s.emit.resume with
  | some (j, g) =>
    if s.emit.enable = 0 then { s with emit := { s.emit with resume := none } }
    else if j + 1 < g then { s with emit := { s.emit with resume := some (j + 1, g) } }
    else { s with emit := { s.emit with resume := none, enable := 2 } }
  | none =>
    if s.emit.enable = 0 && s.returnReady && s.emit.clearSince && s.emit.bankState == 2 then
      let s1 := { s with emit := { s.emit with
        enable := if 1 < f then 1 else 2, resume := if 1 < f then some (1, f) else none } }
      s1.raise 0x2002 0 s1.scan.frame
    else s

/-- The emitter's part of a frame boundary. -/
def State.emitBoundary (s : State) : State :=
  let s1 := s.heldEvent
  let s2 := { s1 with emit := { s1.emit with accLast := s1.emit.acc, acc := 0 } }
  (s2.derateBoundary.returnBoundary).emitAdvance

/-! ### Commands -/

/-- SLOT_DECISION (R108). -/
def execSlotDecision (t : Time) (cal : Option U32) (x : SlotIn) (s : State) : Host.Outcome State Fault Refusal :=
  .next (doSlotDecision t cal x s)

/-- EMIT_TRIP (R114). -/
def execEmitTrip (t : Time) (bit : Fin 11) (level : Bool) (s : State) : Host.Outcome State Fault Refusal := .next (doEmitTrip t bit level s)

/-- BANK_FAULT_TIMEOUT (R114). -/
def execBankFaultTimeout (t : Time) (s : State) : Host.Outcome State Fault Refusal := .next (doBankFaultTimeout t s)

/-- BANK_OVERVOLTAGE (R114). -/
def execBankOvervoltage (t : Time) (s : State) : Host.Outcome State Fault Refusal := .next (doBankOvervoltage t s)

/-- BAR_TEST (R118). -/
def execBarTest (t : Time) (readings : List BarReading) (s : State) : Host.Outcome State Fault Refusal := .next (doBarTest t readings s)

/-- BAR_FULL_TEST (R119). -/
def execBarFullTest (t : Time) (readings : List BarReading) (s : State) : Host.Outcome State Fault Refusal := .next (doBarFullTest t readings s)

/-- BANK_READY (R106). -/
def execBankReady (t : Time) (s : State) : Host.Outcome State Fault Refusal := .next (doBankReady t s)

end Sys2Proof.Machine
end

