-- ==== Sys2Proof/Machine/FrontEnd.lean ====
section
/-! DEFINITION. The mirror front end and the conversion chain (chapter 09): ranges, sensor breaks, the ΣΔ chain and the resampler,
the linearisation, the threshold switches and the sample record. -/

namespace Sys2Proof.Machine

open Sys2Proof

/-! ### Numbers -/

/-- ln 2 in 2^-64. -/
def ln2Fix : Int := 12786308645202655660

/-- 2 artanh(z) in 2^-64, for 0 ≤ z ≤ 1/3 given in 2^-64: the odd powers up to the 47th. -/
def artanh2Fix (z : Int) : Int :=
  2 * ((List.range 24).foldl (fun (p : Int × Int) k => (p.1 + p.2 / (2 * k + 1 : Nat), p.2 * z / 2 ^ 64 * z / 2 ^ 64)) (0, z)).1

/-- Natural logarithm of a positive rational in 2^-64, for the thermistor of R204: ln(m × 2^e) with 1 ≤ m < 2. -/
def lnFix (q : Rat) : Int :=
  let n := q.num.toNat
  let e : Int := (Nat.log2 n : Int) - Nat.log2 q.den
  let down : Rat := if 0 ≤ e then q / (2 ^ e.toNat : Nat) else q * (2 ^ (-e).toNat : Nat)
  let m : Rat := if down < 1 then down * 2 else down
  let e' : Int := if down < 1 then e - 1 else e
  artanh2Fix (((m - 1) / (m + 1)) * (2 ^ 64 : Nat)).floor + e' * ln2Fix

/-! ### Ranges (R191 to R193) -/

/-- Full-scale current of a range in nA (Table 09.1); a count of 393,216 stands for it. -/
def tiaFull (code : Nat) : Nat := [200000, 50000, 12500, 3125].getD code 200000

/-- Counts of full scale. -/
def fullCounts : Nat := 393216

/-- Current of a sample value in nA, exact. -/
def countsNa (code : Nat) (v : Rat) : Rat := v * tiaFull code / fullCounts

/-- The range that automatic ranging chooses from the larger peak, in counts (R193). -/
def autoRange (code : Nat) (peak : Int) : Nat :=
  if 10 * peak > 9 * (fullCounts : Int) then code - 1
  else if 5 * peak < (fullCounts : Int) ∧ code < 3 then code + 1
  else code

/-- A range change fits the flyback: 25 × T_c + 100 µs ≤ FLYBACK (R193). -/
def rangeFits (period k flyback : Nat) : Bool := 25 * period + k * usec 100 ≤ k * flyback

/-- The decision of R193 at a frame boundary: the range code that the flyback now beginning applies at its sample 1. Without a sample in
a frame just ended nothing is decided. -/
def State.rangeBoundary (s : State) (period k : Nat) : State × Option Nat :=
  let f := s.front
  let last := { f with peakLast := f.peakNa, peak := none, peakNa := (0, 0), tempFlag := false }
  let s1 := { s with front := last }
  if f.flipRange.isSome then (s1, f.flipRange)
  else if s.cfgN Id.TIA_RANGE_MODE = 0 then (s1, none)
  else
    let code := (f.peak.map (autoRange f.range)).getD f.range
    if code = f.range then (s1, none)
    else if rangeFits period k s.conf.flyback then (s1, some code)
    else if f.blockedRaised then (s1, none)
    else
      let s2 := { s1 with front := { s1.front with blockedRaised := true } }
      (s2.raise 0x4003 1 (u32 (period / k)) (u32 (s.cfgN Id.FLYBACK)), none)

/-- Apply a decided change at control sample 1 of the flyback: range, LED current and the settling run of R194. -/
def State.applyRange (s : State) (code : Nat) : State :=
  let f := s.front
  let cause := if f.flipRange.isSome then 2 else 1
  let led := s.cfgN Id.LED_CURRENT
  let settles := code ≠ f.range ∨ led ≠ f.led
  let settle := if settles then 24 else f.settle
  let s1 := { s with front := { f with range := code, led := led, flipRange := none, settle := settle } }
  if code = f.range then s1
  else (s1.count Id.RANGE_CHANGES).raise 0x4001 0 (u32 f.range) (u32 code) (u32 cause)

/-- The front end when AFE and SDF are powered up: the starting range, the LED current and nothing measured.
DEDUCED: log entry 57. -/
def Front.powerUp (f : Front) (c : Cfg) : Front :=
  { Front.reset with
    range := c.nat Id.TIA_RANGE, led := c.nat Id.LED_CURRENT, index := f.index, breakLatch := f.breakLatch,
    parkLatch := f.parkLatch, breakPark := f.breakPark, sinceBreak := f.sinceBreak }

/-! ### Sensor breaks (R195 to R199) -/

/-- The PARK net: the SDF park latch, a sensor break at its step 5, or the arbiter without a lease (R198, R208, R25). -/
def State.parkNet (s : State) : Bool := s.front.parkLatch || s.front.breakPark || s.arb.holder.isNone

/-- MIRR enters the park ramp unless it is tripped, braked or off (R230). DEDUCED: log entry 63. -/
def State.parkCoil (s : State) : State :=
  if s.coil.state = 1 then { s with coil := { s.coil with state := 2, command := 0 } } else s

/-- Detection of break causes: the cause bits, SENSOR_BREAK on INTERLOCK and, at the first, the sequence of Table 09.3.
DEDUCED: log entry 56. -/
def State.senseBreak (s : State) (bits : Nat) : State :=
  let f := s.front
  let latch := f.breakLatch ||| BitVec.ofNat 8 bits
  if latch = f.breakLatch then s
  else if f.breakLatch ≠ 0 then { s with front := { f with breakLatch := latch } }
  else
    let s1 := { s with front := { f with breakLatch := latch, sinceBreak := some 0 } }
    (s1.tripSet 4).raise 0x4002 3 (u32 latch.toNat) s.scan.frame f.index

/-- WIRE_BREAK_CHECK: the comparator of the LED-off sub-slot samples the pairs; above 0.5 V a pair is open (R196, R197).
Sub-slots run whenever AFE is powered. -/
def doWireBreakCheck (t : Time) (pairA pairB : Nat) (s0 : State) : State :=
  let s := s0.at t
  if !s.isOn 12 then s
  else
    let bits := b2n (decide (500 < pairA)) + 2 * b2n (decide (500 < pairB))
    let s1 := { s with front := { s.front with passed := if bits = 0 then min 16 (s.front.passed + 1) else 0 } }
    if bits = 0 then s1 else s1.senseBreak bits

/-- LED_OPEN: the driver out of compliance for more than 1 µs, with LED_CURRENT 1 mA or more (R197). -/
def doLedOpen (t : Time) (s0 : State) : State :=
  let s := s0.at t
  if s.isOn 12 ∧ 1000 ≤ s.front.led then s.senseBreak 4 else s

/-- FE_CLEAR may succeed: 16 passed sub-slots, 16 samples without LOW_SIGNAL, overtravel false (R199). -/
def State.feClearable (s : State) : Bool := s.front.passed == 16 && s.front.signal == 16 && !s.front.overtravel

/-- FE_CLEAR: both latches cleared, PARK released, the stall switch reset; the governor's latches stay (R199). -/
def feClearAction (s : State) : State :=
  let s1 := { s with front := { s.front with
    breakLatch := 0, parkLatch := false, breakPark := false, sinceBreak := none, stall := false, unsettledRun := 0 } }
  ((s1.tripClear 4).trip 2 (s1.coil.state == 4)).tripClear 3

/-! ### The conversion chain (R200) -/

/-- Modulus of the integrators and combs. -/
def cicMod : Nat := 67108864

/-- One modulator bit through the four integrators; true codes +1. -/
def Chan.integrate (c : Chan) (b : Bool) : Chan :=
  let p := c.integrators.foldl (fun (p : List Nat × Nat) v => let w := (v + p.2) % cicMod; (p.1 ++ [w], w))
    ([], if b then 1 else cicMod - 1)
  { c with integrators := p.1, phase := (c.phase + 1) % 64 }

/-- The four combs on an integrator output: the CIC output as a 26-bit two's complement value, shifted right by 5 with rounding. -/
def Chan.comb (c : Chan) : Chan × Int :=
  let p := c.combs.foldl (fun (p : List Nat × Nat) v => (p.1 ++ [p.2], (p.2 + cicMod - v) % cicMod)) ([], c.integrators.getD 3 0)
  ({ c with combs := p.1 }, (signed 26 p.2 + 16) / 32)

/-- The 15-tap symmetric FIR on the last 15 CIC outputs, newest first: rounded half up and saturated to S20. -/
def firOut (w : List Int) : Int :=
  sat20 (roundHalfUp ((List.range 15).foldl (fun a k => a + Config.firTap (min k (14 - k)) * (w.getD k 0 : Int)) 0))

/-- A new CIC output through the FIR into the resampler's input samples. -/
def Chan.filter (c : Chan) (v : Int) : Chan :=
  let w := (v :: c.fir).take 15
  { c with fir := w, newest := c.newest + 1, xs := (firOut w :: c.xs).take 64 }

/-- One modulator bit through the chain. -/
def Chan.push (c : Chan) (b : Bool) : Chan :=
  let c1 := c.integrate b
  if c1.phase = 0 then
    let p := c1.comb
    p.1.filter p.2
  else c1

/-- Step of the resampler in 2^-32 input samples, half up (R202). -/
def resampleStep (period k : Nat) : Nat := (2 * period * 2 ^ 32 + k * 160000) / (2 * k * 160000)

/-- Position p of sample i of a channel (R202). -/
def resamplePos (pTick i step delay : Nat) : Nat := (pTick + i * step + 527 * 2 ^ 27 + delay * 2 ^ 24) % 2 ^ 64

/-- Tap j of a kernel phase: the sixteenth makes the sum 32768 (Table 09.5). -/
def kernelTap (phi j : Nat) : Int :=
  if j < 15 then Config.kernelTap phi j else 32768 - ((List.range 15).foldl (fun a k => a + Config.kernelTap phi k) 0)

/-- The value of a channel at a position (R202). -/
def Chan.resample (c : Chan) (p : Nat) : Int :=
  let n := p / 2 ^ 32
  let phi := p / 2 ^ 24 % 256
  let acc := (List.range 16).foldl (fun (a : Int) j =>
    let m := n - j
    a + kernelTap phi j * (if m ≤ c.newest then c.xs.getD (c.newest - m) 0 else 0)) 0
  sat20 ((acc + 16384) / 32768)

/-! ### Control samples (R201) -/

/-- Sample i lies in the section. -/
def Section.has (x : Section) (i : Nat) : Bool := match x.column with
  | some _ => i < x.k
  | none => (2 * i + 1) * x.period ≤ 2 * x.len * x.k

/-- t_i − tick in 31.25 ps, exact. -/
def Section.offset (x : Section) (i : Nat) : Rat := (i * x.period : Nat) / (x.k : Rat)

/-- FILTER_LATENCY in ns (R202). -/
def Factory.filterLatency (f : Factory) : Nat := cdiv (8234375 * 1000 + 1953125 * maxNat f.phaseDelay) 100000

/-- The configuration of a section. -/
def Section.conf (x : Section) (f : Factory) : Cfg := { fac := f, store := x.cfg }

/-- Open a section at a tick. -/
def State.openSection (s : State) (x : Section) : State :=
  { s with front := { s.front with sections := s.front.sections ++ [x] } }

/-- The next sample that falls due: the oldest section and the sample's number. -/
def State.dueSample (s : State) : Option (Section × Nat) := match s.front.sections with
  | [] => none
  | x :: _ => if x.has s.front.sub then some (x, s.front.sub) else none

/-- Move to the next sample of the sections. -/
def Front.advance (f : Front) : Front := match f.sections with
  | [] => f
  | x :: r => if x.has (f.sub + 1) then { f with sub := f.sub + 1 } else { f with sections := r, sub := 0 }

/-! ### Linearisation (R192, R203, R204) -/

/-- B′ × 2^20: channel B times the gain trim of the range, exact. -/
def trimmed (trim b : Int) : Int := b * trim

/-- x (R192): round(2^19 × (A − B′) / (A + B′)), half up, S20; 0 where A + B′ is 0 or less. -/
def normPos (a b trim : Int) : Int :=
  let n := a * 1048576 - trimmed trim b
  let d := a * 1048576 + trimmed trim b
  if d ≤ 0 then 0 else sat20 ((1048576 * n + d) / (2 * d))

/-- τ as Q15 from T_M in 0.1 °C: (T_M − 25 °C) / 100 K. -/
def tauQ15 (tm : Int) : Int := sat16 ((2 * (tm - 250) * 32768 + 1000) / 2000)

/-- ANGLE (R203) from LIN_COEFF, x and τ: the exact sum over 2^133, rounded once half up, S20. -/
def linAngle (coeff : Bytes) (x tau : Int) : Int :=
  let n := (List.range 18).foldl (fun (a : Int) k =>
    a + i32At coeff (4 * k) * x ^ (k / 3) * tau ^ (k % 3) * (2 ^ (19 * (5 - k / 3) + 15 * (2 - k % 3)) : Nat)) 0
  sat20 ((n + (2 ^ 132 : Nat)) / (2 ^ 133 : Nat))

/-- T_M that the linearisation uses, and whether it is the fallback (R204): the latest valid T_M while at most 10 s old. -/
def State.mirrorTemp (s : State) (c : Cfg) : Int × Bool := match s.hka.mirror with
  | some (v, t) => if s.now ≤ t + Sys2Proof.sec 10 then (v, false) else (c.int Id.MIRROR_TEMP_FALLBACK, true)
  | none => (c.int Id.MIRROR_TEMP_FALLBACK, true)

/-! ### Threshold switches (R205, R206) -/

/-- THRESHOLDS in fields. -/
structure Thresholds where
  /-- WIN_LO. -/
  winLo : Int
  /-- WIN_HI. -/
  winHi : Int
  /-- OT_LO. -/
  otLo : Int
  /-- OT_HI. -/
  otHi : Int
  /-- WIN_HYST. -/
  winHyst : Int
  /-- OT_HYST. -/
  otHyst : Int
  deriving DecidableEq, Repr

/-- Read THRESHOLDS. -/
def thresholds (b : Bytes) : Thresholds :=
  { winLo := i32At b 0, winHi := i32At b 4, otLo := i32At b 8, otHi := i32At b 12, winHyst := u16At b 16, otHyst := u16At b 18 }

/-- An angle within S20. -/
def inS20 (v : Int) : Bool := -524288 ≤ v && v ≤ 524287

/-- The checks of R205 on a staging write. -/
def thresholdsOk (b : Bytes) : Bool :=
  let h := thresholds b
  inS20 h.winLo && inS20 h.winHi && inS20 h.otLo && inS20 h.otHi && h.otLo < h.winLo && h.winHi < h.otHi &&
    2 * h.winHyst < h.winHi - h.winLo && 2 * h.otHyst < h.otHi - h.otLo && u32At b 20 == 0

/-- In-window switch (Table 09.6). -/
def inWindowNext (h : Thresholds) (old bad : Bool) (angle : Int) : Bool :=
  if bad then false
  else if h.winLo + h.winHyst ≤ angle ∧ angle ≤ h.winHi - h.winHyst then true
  else if angle < h.winLo ∨ h.winHi < angle then false
  else old

/-- Overtravel switch. -/
def overtravelNext (h : Thresholds) (old bad : Bool) (angle : Int) : Bool :=
  if bad then old
  else if angle < h.otLo ∨ h.otHi < angle then true
  else if h.otLo + h.otHyst ≤ angle ∧ angle ≤ h.otHi - h.otHyst then false
  else old

/-- Stall switch; was is ANGLE of S samples before. -/
def stallNext (min_ : Nat) (old : Bool) (angle was : Int) : Bool :=
  let d := (angle - was).natAbs
  if d < min_ then true else if 2 * min_ ≤ d then false else old

/-! ### The sample record (R209) -/

/-- A control sample as delivered. -/
structure Sample where
  /-- INDEX. -/
  index : U32
  /-- Frame. -/
  frame : U32
  /-- Column; none in flyback. -/
  column : Option Nat
  /-- SUB, i. -/
  sub : Nat
  /-- TEMP_FALLBACK. -/
  fallback : Bool
  /-- STALL. -/
  stall : Bool
  /-- OVERTRAVEL. -/
  overtravel : Bool
  /-- IN_WINDOW. -/
  inWindow : Bool
  /-- OVERLOAD. -/
  overload : Bool
  /-- INVALID. -/
  invalid : Bool
  /-- UNSETTLED. -/
  unsettled : Bool
  /-- t_i − tick, 31.25 ps, exact. -/
  offset : Rat
  /-- The sample instant t_i, 31.25 ps, exact. -/
  at_ : Rat
  /-- PSD_A. -/
  psdA : Int
  /-- PSD_B before trim. -/
  psdB : Int
  /-- I_COIL. -/
  iCoil : Int
  /-- V_COIL. -/
  vCoil : Int
  /-- X. -/
  x : Int
  /-- ANGLE. -/
  angle : Int
  deriving DecidableEq, Repr

/-- FLAGS of Table 09.8. -/
def Sample.flags (r : Sample) : Nat :=
  b2n r.unsettled + 2 * b2n r.invalid + 4 * b2n r.overload + 8 * b2n r.inWindow + 16 * b2n r.overtravel + 32 * b2n r.stall +
    64 * b2n r.fallback + 128 * b2n r.column.isNone

/-- The 36-byte record of Table 09.8. -/
def Sample.bytes (r : Sample) : Bytes :=
  le 4 r.index.toNat ++ le 2 (r.column.getD 0xFFFF) ++ le 1 r.sub ++ le 1 r.flags ++ leInt 4 (roundHalfUp r.offset) ++
    leInt 4 r.psdA ++ leInt 4 r.psdB ++ leInt 4 r.iCoil ++ leInt 4 r.vCoil ++ leInt 4 r.x ++ leInt 4 r.angle

/-- Values of the four channels of a sample: handed over converted, or made by the chain from modulator bits (R200, R202). -/
def State.convert (s : State) (sec : Section) (i : Nat) (x : SampleIn) : State × List Int := match x with
  | .delivered a b c d => (s, [a.toInt, b.toInt, c.toInt, d.toInt])
  | .modulator a b c d pTick =>
    let streams := [a, b, c, d]
    let chans := (List.range 4).map fun k => ((streams.getD k []).foldl Chan.push (s.front.chans.getD k .reset))
    let step := resampleStep sec.period sec.k
    let vals := (List.range 4).map fun k =>
      (chans.getD k .reset).resample (resamplePos pTick i step (s.fac.phaseDelay.getD k 0))
    ({ s with front := { s.front with chans } }, vals)

/-- Form the sample and evaluate the switches (R192, R194, R203, R206); the state keeps the switch and settling state.
DEDUCED: log entry 55. -/
def State.formSample (s : State) (sec : Section) (i : Nat) (vals : List Int) (above : Bool) : State × Sample :=
  let f := s.front
  let c := sec.conf s.fac
  let a := vals.getD 0 0
  let b := vals.getD 1 0
  let trim := s.cal.vals.psd.getD f.range 1048576
  let x := normPos a b trim
  let tm := s.mirrorTemp c
  let angle := linAngle (c.bytes Id.LIN_COEFF) x (tauQ15 tm.1)
  let settle := if above then 24 else f.settle
  let unsettled := settle ≠ 0
  let invalid := f.breakLatch ≠ 0
  let bad := unsettled || invalid
  let h := thresholds (c.bytes Id.THRESHOLDS)
  let column := sec.column.isSome
  let n := c.nat Id.STALL_SAMPLES
  let angles := ((angle, column) :: f.angles).take 65
  let watch := !bad && s.tracking && sec.track && decide (n < angles.length) && (angles.take (n + 1)).all (·.2)
  let stall := if watch then stallNext (c.nat Id.STALL_MIN) f.stall angle (angles.getD n (0, false)).1 else f.stall
  let r : Sample :=
    { index := f.index, frame := sec.frame, column := sec.column, sub := i, fallback := tm.2, stall,
      overtravel := overtravelNext h f.overtravel bad angle, inWindow := inWindowNext h f.inWindow bad angle, overload := above,
      invalid, unsettled, offset := sec.offset i, at_ := sec.offset i + (sec.tick : Nat), psdA := a, psdB := b,
      iCoil := vals.getD 2 0, vCoil := vals.getD 3 0, x, angle }
  let sum : Rat := (a : Rat) + (trimmed trim b : Rat) / 1048576
  let low := sum ≤ 0 ∨ countsNa f.range sum < (c.nat Id.PSD_SUM_MIN : Rat)
  let bTrim : Rat := (trimmed trim b : Rat) / 1048576
  let na := fun (v : Rat) => (roundHalfUp (countsNa f.range v)).toNat
  let f1 := { f with
    settle := settle - 1, unsettled, unsettledRun := if unsettled then f.unsettledRun + 1 else 0,
    inWindow := r.inWindow, overtravel := r.overtravel, stall, angles, index := f.index + 1,
    signal := if low then 0 else min 16 (f.signal + 1),
    lowRun := if low ∧ !unsettled then f.lowRun + 1 else 0,
    peak := some (max (f.peak.getD 0) (max a (roundHalfUp bTrim))),
    peakNa := (max f.peakNa.1 (na a), max f.peakNa.2 (na bTrim)),
    tempFlag := f.tempFlag || tm.2, last := r.bytes }
  ({ s with front := f1 }, r)

/-- ANGLE of sample 0 and ANGLE_FLAGS of a column (R217). -/
def Front.keepAngle (f : Front) (r : Sample) : Front := match r.column with
  | none => f
  | some c =>
    if r.sub = 0 then
      { f with cols := ({ frame := r.frame, column := c, angle := r.angle, unsettled := r.unsettled, invalid := r.invalid } ::
          f.cols).take 8 }
    else
      { f with cols := f.cols.map fun k =>
          if k.frame = r.frame ∧ k.column = c then { k with unsettled := k.unsettled || r.unsettled, invalid := k.invalid || r.invalid }
          else k }

/-- What follows from a delivered sample in the front end: the counters, the interlock, the park latch, LOW_SIGNAL and
UNSETTLED_RUN, and step 5 of Table 09.3. old is the front end before the sample. DEDUCED: log entry 55. -/
def State.afterSample (s : State) (old : Front) (r : Sample) : State :=
  let s1 := (s.count Id.OVERLOADS (b2n r.overload)).count Id.UNSETTLED_SAMPLES (b2n r.unsettled)
  let s2 := if old.overtravel ≠ r.overtravel then s1.trip 3 r.overtravel else s1
  let s3 := if old.stall ≠ r.stall then s2.trip 2 (r.stall || s2.coil.state == 4) else s2
  let rises := (r.overtravel && !old.overtravel) || (r.stall && !old.stall)
  let s4 :=
    if rises && !old.parkLatch then
      let s' := { s3 with front := { s3.front with parkLatch := true } }
      s'.raise (if r.overtravel && !old.overtravel then 0x4004 else 0x4005) 3 (u32i r.angle) s.scan.frame
    else s3
  let since := old.sinceBreak.map (· + 1)
  let s5 : State := { s4 with front := { s4.front with
    sinceBreak := since.map (min 3), breakPark := s4.front.breakPark || since == some 3 } }
  let s6 := if 2 ≤ s5.front.lowRun then s5.senseBreak 8 else s5
  let s7 := if s6.front.unsettledRun = 25 then s6.senseBreak 16 else s6
  let good := r.inWindow && !r.overtravel && !r.stall && s7.front.breakLatch == 0
  if r.column.isSome && !good then { s7 with emit := { s7.emit with clearSince := false } } else s7

/-! ### Commands -/

/-- WIRE_BREAK_CHECK (R197). -/
def execWireBreakCheck (t : Time) (pairAmv pairBmv : Nat) (s : State) : Host.Outcome State Fault Refusal :=
  .next (doWireBreakCheck t pairAmv pairBmv s)

/-- LED_OPEN (R197). -/
def execLedOpen (t : Time) (s : State) : Host.Outcome State Fault Refusal := .next (doLedOpen t s)

end Sys2Proof.Machine
end

