-- ==== Sys2Proof/Machine/Engine.lean ====
section
/-! DEFINITION. The scan control engine (chapter 10): the profile generator, one control sample, gain scheduling, handovers, the modes
and the oscillation detector. Angles in 0.0001°, time in 31.25 ps. -/

namespace Sys2Proof.Machine

open Sys2Proof

/-! ### The profile generator (R226, R227) -/

/-- A point of the profile: angle, velocity per 31.25 ps and acceleration per (31.25 ps)², exact. -/
structure Point where
  /-- r. -/
  r : Rat
  /-- v. -/
  v : Rat
  /-- a. -/
  a : Rat
  deriving DecidableEq, Repr

/-- The quintic from (r0, v0) to (r1, v1) over T with no acceleration at its ends, at τ of R226. -/
def quintic (r0 v0 r1 v1 len tau : Rat) : Point :=
  let x := r1 - r0 - v0 * len
  let y := (v1 - v0) * len
  let c3 := 10 * x - 4 * y
  let c4 := 7 * y - 15 * x
  let c5 := 6 * x - 3 * y
  { r := r0 + v0 * len * tau + c3 * tau ^ 3 + c4 * tau ^ 4 + c5 * tau ^ 5
    v := (v0 * len + 3 * c3 * tau ^ 2 + 4 * c4 * tau ^ 3 + 5 * c5 * tau ^ 4) / len
    a := (6 * c3 * tau + 12 * c4 * tau ^ 2 + 20 * c5 * tau ^ 3) / (len * len) }

/-- The peaks of a quintic: largest magnitudes of velocity, acceleration and jerk at τ = j / 1024 (R227), per 31.25 ps. -/
def quinticPeaks (r0 v0 r1 v1 len : Rat) : Rat × Rat × Rat :=
  let x := r1 - r0 - v0 * len
  let y := (v1 - v0) * len
  let c3 := 10 * x - 4 * y
  let c4 := 7 * y - 15 * x
  let c5 := 6 * x - 3 * y
  let p := (List.range 1025).foldl (fun (p : Rat × Rat × Rat) (j : Nat) =>
    let t : Rat := (j : Rat) / 1024
    (max p.1 (v0 * len + t ^ 2 * (3 * c3 + t * (4 * c4 + t * (5 * c5)))).abs,
     max p.2.1 (t * (6 * c3 + t * (12 * c4 + t * (20 * c5)))).abs,
     max p.2.2 (6 * c3 + t * (24 * c4 + t * (60 * c5))).abs)) (0, 0, 0)
  (p.1 / len, p.2.1 / (len * len), p.2.2 / (len * len * len))

/-- 1 °/s in 0.0001° per 31.25 ps. -/
def degPerSec : Rat := 10000 / 32000000000

/-- 1 °/s² in 0.0001° per (31.25 ps)². -/
def degPerSec2 : Rat := degPerSec / 32000000000

/-- 1000 °/s³ in 0.0001° per (31.25 ps)³. -/
def kdegPerSec3 : Rat := 1000 * degPerSec2 / 32000000000

/-- The peaks lie within VEL_MAX, ACC_MAX and JERK_MAX. -/
def Cfg.peaksOk (c : Cfg) (p : Rat × Rat × Rat) : Bool :=
  p.1 ≤ c.nat Id.VEL_MAX * degPerSec && p.2.1 ≤ c.nat Id.ACC_MAX * degPerSec2 && p.2.2 ≤ c.nat Id.JERK_MAX * kdegPerSec3

/-- S. -/
def Cfg.scanStart (c : Cfg) : Int := c.int Id.SCAN_START

/-- E. -/
def Cfg.scanEnd (c : Cfg) : Int := c.int Id.SCAN_END

/-- v_s for N columns of a period. -/
def Cfg.sweep (c : Cfg) (columns : Nat) (period : Rat) : Rat := (c.scanEnd - c.scanStart : Int) / (columns * period)

/-- Length of a move in ms: HOMING_TIME, lengthened in whole milliseconds until the peaks lie within the limits (R226). -/
def Cfg.moveMs (c : Cfg) (r0 v0 : Rat) (goal : Int) : Nat → Nat → Nat
  | 0, ms => ms
  | n + 1, ms =>
    if c.peaksOk (quinticPeaks r0 v0 goal 0 (Sys2Proof.msec ms)) then ms else c.moveMs r0 v0 goal n (ms + 1)

/-- A move that starts at an instant from a state of rest or motion. -/
def Cfg.startMove (c : Cfg) (r0 v0 : Rat) (goal : Int) (start : Time) : Move :=
  { r0, v0, goal, start, ms := c.moveMs r0 v0 goal 4096 (c.nat Id.HOMING_TIME) }

/-- A move has ended. -/
def Move.ended (m : Move) (t : Rat) : Bool := (m.start + Sys2Proof.msec m.ms : Nat) ≤ t

/-- A point of a move; at rest at the goal once it has ended. -/
def Move.point (m : Move) (t : Rat) : Point :=
  if m.ended t then { r := m.goal, v := 0, a := 0 }
  else quintic m.r0 m.v0 m.goal 0 (Sys2Proof.msec m.ms) ((t - (m.start : Nat)) / (Sys2Proof.msec m.ms : Nat))

/-- The set-point in TRACK (R226): the sweep over the columns, the quintic in flyback. -/
def Engine.trackPoint (e : Engine) (c : Cfg) (x : Section) (i : Nat) : Point :=
  let vs := c.sweep x.columns x.period
  match x.column with
  | some n => { r := c.scanStart + vs * (n * x.period : Nat) + vs * x.offset i, v := vs, a := 0 }
  | none => quintic e.rb e.vb c.scanStart vs x.len (x.offset i / x.len)

/-- The set-point of a sample by mode. -/
def Engine.point (e : Engine) (c : Cfg) (x : Section) (i : Nat) : Point :=
  match e.mode with
  | .track => e.trackPoint c x i
  | .homing | .hold | .park => match e.move with
    | some m => m.point (x.offset i + (x.tick : Nat))
    | none => { r := c.int Id.HOLD_ANGLE, v := 0, a := 0 }

/-! ### Numerics (R218) -/

/-- One addition in the 40-bit accumulator: the value and whether it saturated. -/
def accAdd (p : Int × Bool) (v : Int) : Int × Bool :=
  let s := p.1 + v
  let lim : Int := 549755813888
  if s < -lim then (-lim, true) else if lim ≤ s then (lim - 1, true) else (s, p.2)

/-- An accumulator value as Q15. -/
def accQ15 (v : Int) : Int := sat16 ((v + 16384) / 32768)

/-- An angle difference as Q15. -/
def angleQ15 (e : Int) : Int := sat16 ((e + 8) / 16)

/-- A gain set (Table 10.1). -/
structure Gains where
  /-- KP. -/
  kp : Int
  /-- KI. -/
  ki : Int
  /-- KD. -/
  kd : Int
  /-- KFV. -/
  kfv : Int
  /-- KFA. -/
  kfa : Int
  /-- sp. -/
  sp : Nat
  /-- si. -/
  si : Nat
  /-- sd. -/
  sd : Nat
  /-- sfv. -/
  sfv : Nat
  /-- sfa. -/
  sfa : Nat
  deriving DecidableEq, Repr

/-- Gain set n of GAIN_TABLE. -/
def gainsOf (table : Bytes) (n : Nat) : Gains :=
  let o := 16 * n
  let w := u32At table (o + 12)
  { kp := i16At table o, ki := i16At table (o + 2), kd := i16At table (o + 4), kfv := i16At table (o + 6), kfa := i16At table (o + 8),
    sp := w / 65536 % 16, si := w / 4096 % 16, sd := w / 256 % 16, sfv := w / 16 % 16, sfa := w % 16 }

/-- The checks of R222 on GAIN_TABLE: no shift above 8, no reserved bit set. -/
def gainTableOk (table : Bytes) : Bool := (List.range 13).all fun n =>
  let g := gainsOf table n
  g.sp ≤ 8 && g.si ≤ 8 && g.sd ≤ 8 && g.sfv ≤ 8 && g.sfa ≤ 8 && u16At table (16 * n + 10) == 0 && u32At table (16 * n + 12) < 1048576

/-- REGION_ANGLES: strictly ascending within S20. -/
def regionAnglesOk (b : Bytes) : Bool :=
  inS20 (i32At b 0) && inS20 (i32At b 4) && inS20 (i32At b 8) && i32At b 0 < i32At b 4 && i32At b 4 < i32At b 8

/-- REGION_TEMPS: B0 < B1 and a hysteresis below (B1 − B0) / 2. -/
def regionTempsOk (b : Bytes) : Bool :=
  i16At b 0 < i16At b 2 && 2 * (u16At b 4 : Int) < i16At b 2 - i16At b 0 && u16At b 6 == 0

/-- BIQUAD_COEFF: no SHIFT above 2, reserved bytes zero (R221). -/
def biquadOk (b : Bytes) : Bool := u8At b 10 ≤ 2 && u8At b 11 == 0 && u8At b 22 ≤ 2 && u8At b 23 == 0

/-- OSC_CONFIG ranges (Table 10.4). -/
def oscOk (b : Bytes) : Bool :=
  16 ≤ u16At b 2 && u16At b 2 ≤ 4096 && 4 ≤ u8At b 4 && u8At b 4 ≤ 64 && u8At b 5 ≤ 3 && u16At b 6 == 0

/-- The region that holds a temperature without hysteresis (R223). -/
def regionCold (temps : Bytes) (tm : Int) : Nat := b2n (i16At temps 0 ≤ tm) + b2n (i16At temps 2 ≤ tm)

/-- The temperature region at a frame boundary (R223): at most one step. -/
def regionNext (temps : Bytes) (t : Nat) (tm : Int) : Nat :=
  let h : Int := u16At temps 4
  if t < 2 ∧ i16At temps (2 * t) + h ≤ tm then t + 1
  else if 0 < t ∧ tm < i16At temps (2 * (t - 1)) - h then t - 1
  else t

/-- The gain set of a sample (R222): 3a + t in TRACK, the hold set otherwise and while it replaces the schedule. -/
def Engine.gainFor (e : Engine) (c : Cfg) (r : Int) : Nat :=
  if e.mode = .track ∧ !e.oscHold then
    let b := c.bytes Id.REGION_ANGLES
    3 * (b2n (i32At b 0 ≤ r) + b2n (i32At b 4 ≤ r) + b2n (i32At b 8 ≤ r)) + e.region
  else 12

/-- One biquad section (R221): output and new states. -/
def biquadStep (coeff : Bytes) (o : Nat) (st : Int × Int × Int × Int) (x : Int) : Int × (Int × Int × Int × Int) :=
  let b0 := i16At coeff o
  let b1 := i16At coeff (o + 2)
  let b2 := i16At coeff (o + 4)
  let a1 := i16At coeff (o + 6)
  let a2 := i16At coeff (o + 8)
  let sh := u8At coeff (o + 10)
  let sum := (b0 * x + b1 * st.1 + b2 * st.2.1 - a1 * st.2.2.1 - a2 * st.2.2.2) * (2 ^ sh : Nat)
  let y := accQ15 sum
  (y, (x, st.1, y, st.2.2.1))

/-- Both sections on an error; a disabled section passes its input and keeps its states. -/
def filterError (c : Cfg) (st : List (Int × Int × Int × Int)) (x : Int) : Int × List (Int × Int × Int × Int) :=
  let on := c.nat Id.BIQUAD_ENABLE
  let coeff := c.bytes Id.BIQUAD_COEFF
  let s0 := st.getD 0 (0, 0, 0, 0)
  let s1 := st.getD 1 (0, 0, 0, 0)
  let p0 := if bit on 0 then biquadStep coeff 0 s0 x else (x, s0)
  let p1 := if bit on 1 then biquadStep coeff 12 s1 p0.1 else (p0.1, s1)
  (p1.1, [p0.2, p1.2])

/-! ### What an engine reports -/

/-- What a sample brings about in an engine besides its own state. The device raises the events of the serving lane. -/
inductive EngineEvent
  /-- MODE_CHANGED: old, new, cause and ticket. -/
  | modeChanged (old new : Mode) (cause : Nat) (ticket : U32)
  /-- MODE_REQUEST_REFUSED: requested mode, mode held and ticket. -/
  | refused (mode held : Nat) (ticket : U32)
  /-- An overrun. -/
  | overrun
  /-- CONTROL_OVERRUN: INDEX, 1 consecutive or 2 eight in 1024. -/
  | overrunRule (index : U32) (kind : Nat)
  /-- A detection of oscillation: response and gain set. -/
  | oscillation (response gain : Nat)
  /-- A handover. -/
  | handover
  /-- HANDOVER_RESIDUAL: u_prev, first u, INDEX. -/
  | residual (uPrev u : Int) (index : U32)
  /-- The accumulator saturated in the sample. -/
  | saturated
  /-- HOMING_FAILED: e at the timeout. -/
  | homingFailed (e : Int)
  deriving DecidableEq, Repr

/-- CONTROL_MODE. -/
def Mode.code : Mode → Nat
  | .homing => 0
  | .track => 1
  | .hold => 2
  | .park => 3

/-- Change the mode; the oscillation detector starts anew, and a change that keeps the loop closed is a handover (R224). -/
def Engine.setMode (e : Engine) (m : Mode) : Engine :=
  { e with mode := m, emission := m == .track, oscHold := false, oscSign := none, reversals := [], handoverDue := m != .park,
           settled := 0, arrived := false }

/-- PARK (R230): the integrator and the biquad states are cleared, moves and pending modes end. -/
def Engine.park (e : Engine) (cause : Nat) (ticket : U32 := 0) : Engine × List EngineEvent :=
  if e.mode = .park then (e, [])
  else
    let e1 := e.setMode .park
    let lost := match e.holdDue with
      | some k => [EngineEvent.refused 2 3 k]
      | none => []
    ({ e1 with i := 0, biquads := rep 2 (0, 0, 0, 0), move := none, holdDue := none, handoverDue := false, j := 1024 },
     .modeChanged e.mode .park cause ticket :: lost)

/-- HOMING toward E or HOLD_ANGLE from the measured angle at rest (Table 10.2 steps 6, 7, 11). -/
def Engine.home (e : Engine) (c : Cfg) (r : Sample) (track : Bool) (cause : Nat) (ticket : U32) : Engine × List EngineEvent :=
  let goal := if track then c.scanEnd else c.int Id.HOLD_ANGLE
  let start := r.at_.floor.toNat
  let e1 := e.setMode .homing
  ({ e1 with
      goalTrack := track, homingSince := start, move := some (c.startMove r.angle 0 goal start), fromPark := e.mode == .park },
   [.modeChanged e.mode .homing cause ticket])

/-- A mode request at a sample (Table 10.2 steps 5, 7, 10, 11): blocked tells that a condition of step 1 holds. A request for the
present mode, or for the goal of a running HOMING, completes with no change; one that no row serves is refused.
DEDUCED: log entry 61. -/
def Engine.request (e : Engine) (c : Cfg) (r : Sample) (blocked : Bool) (mode : Nat) (k : U32) : Engine × List EngineEvent :=
  let goal := if e.goalTrack then 1 else 2
  if mode = e.mode.code ∨ (e.mode = .homing ∧ mode = goal) then (e, [])
  else if mode = 3 then e.park 1 k
  else match e.mode with
    | .park => if blocked then (e, [.refused mode 3 k]) else e.home c r (mode == 1) 1 k
    | .track => if e.holdDue.isSome then (e, []) else ({ e with holdDue := some k }, [])
    | .hold => e.home c r true 1 k
    | .homing => (e, [.refused mode 0 k])

/-! ### One sample (R220) -/

/-- The law of R220 at set-point r with vq, aq; y is the angle used and handover tells that this sample is one. -/
def Engine.law (e : Engine) (c : Cfg) (r : Sample) (g : Nat) (vq aq err : Int) (handover : Bool) : Engine × List EngineEvent :=
  let gs := gainsOf (c.bytes Id.GAIN_TABLE) g
  let bq := filterError c e.biquads (angleQ15 err)
  let ef := bq.1
  let uPrev := if e.fromPark then sat16 ((2 * r.vCoil * 25 * 32768 + 11000000) / 22000000) else e.uPrev
  let p := gs.kp * ef * (2 ^ gs.sp : Nat)
  let d := gs.kd * (ef - e.efPrev) * (2 ^ gs.sd : Nat)
  let fv := gs.kfv * vq * (2 ^ gs.sfv : Nat)
  let fa := gs.kfa * aq * (2 ^ gs.sfa : Nat)
  let pdf := accAdd (accAdd (accAdd (accAdd (0, false) p) d) fv) fa
  let lim : Int := c.nat Id.I_LIMIT * 32768
  let pre := if handover then accAdd (uPrev * 32768, false) (-pdf.1) else accAdd (e.i, false) (gs.ki * ef * (2 ^ gs.si : Nat))
  let i := clampInt (-lim) lim pre.1
  let sum := accAdd pdf i
  let fin := accAdd sum 16384
  let u0 := sat16 (fin.1 / 32768)
  let ramp := c.nat Id.HANDOVER_RAMP
  let rho := if handover then uPrev - u0 else e.rho
  let j := if handover then 0 else e.j
  let u1 := if j < ramp then sat16 (u0 + (2 * rho * (ramp - j : Nat) + ramp) / (2 * ramp)) else u0
  let ul : Int := c.nat Id.U_LIMIT
  let out := clampInt (-ul) ul u1
  let residual := handover && decide ((c.nat Id.HANDOVER_LIMIT : Int) < rho.natAbs)
  let log := le 4 r.index.toNat ++ leInt 2 uPrev ++ leInt 2 u0 ++ le 1 e.oldMode.code ++ le 1 e.mode.code ++ le 1 e.gainSet ++
    le 1 g ++ leInt 4 rho
  ({ e with i := i, biquads := bq.2, efPrev := ef, uPrev := out, rho := rho, j := if j < ramp then j + 1 else j, gainSet := g,
            handoverDue := false, fromPark := false, outLast := out, window := e.window ++ [out],
            log := if residual then log else e.log, errorLast := err },
   (if pdf.2 || pre.2 || sum.2 || fin.2 then [EngineEvent.saturated] else []) ++ (if handover then [EngineEvent.handover] else []) ++
     (if residual then [EngineEvent.residual uPrev u0 r.index] else []))

/-- The oscillation detector (R232) on e of a sample: the new state, and the response where a detection occurs.
DEDUCED: log entry 62. -/
def Engine.detect (e : Engine) (c : Cfg) (r : Sample) (err : Int) : Engine × Option Nat :=
  let o := c.bytes Id.OSC_CONFIG
  let action := u8At o 5
  if action = 0 ∨ err.natAbs < u16At o 0 then (e, none)
  else
    let sign := decide (0 < err)
    let rev := match e.oscSign with
      | some b => b != sign
      | none => false
    let recent := e.reversals.filter fun k => r.index.toNat < k + u16At o 2
    let revs := if rev then r.index.toNat :: recent else recent
    if u8At o 4 ≤ revs.length then ({ e with oscSign := some sign, reversals := [] }, some action)
    else ({ e with oscSign := some sign, reversals := revs }, none)

/-- The response of R232 to a detection: with OSC_ACTION 2 the hold set serves from the first one on, in HOMING and HOLD as before,
and a second one on it follows step 3 of Table 10.2. DEDUCED: log entry 62. -/
def Engine.oscillate (e : Engine) (response : Option Nat) : Engine × List EngineEvent := match response with
  | none => (e, [])
  | some a =>
    let ev := EngineEvent.oscillation a e.gainSet
    if a = 3 ∨ (a = 2 ∧ e.oscHold) then
      let p := e.park 6
      (p.1, ev :: p.2)
    else if a = 2 then ({ e with oscHold := true }, [ev])
    else (e, [ev])

/-- Step 8 of Table 10.2: the move ended, and |e| within HOME_TOL on 16 consecutive samples that are neither UNSETTLED nor
INVALID. -/
def Engine.homed (e : Engine) (c : Cfg) (r : Sample) (err : Int) : Engine × List EngineEvent :=
  if e.mode ≠ .homing ∨ e.arrived then (e, [])
  else
    let ended := match e.move with
      | some m => m.ended r.at_
      | none => true
    let good := ended && err.natAbs ≤ c.nat Id.HOME_TOL && !r.unsettled && !r.invalid
    let e1 := { e with settled := if good then e.settled + 1 else 0 }
    if e1.settled < 16 then (e1, [])
    else if e1.goalTrack then ({ e1 with arrived := true }, [])
    else ({ (e1.setMode .hold) with move := e1.move }, [.modeChanged .homing .hold 3 0])

/-- Keep what the header of the column takes from the engine (Table 10.8). -/
def Engine.keepColumn (e : Engine) (r : Sample) (err : Int) (handover : Bool) : Engine := match r.column with
  | none => e
  | some n =>
    if r.sub = 0 then
      { e with cols := ({ frame := r.frame, column := n, gain := e.gainSet, error := err, handover } :: e.cols).take 8 }
    else
      { e with cols := e.cols.map fun k =>
          if k.frame = r.frame ∧ k.column = n then { k with handover := k.handover || handover } else k }

/-- A sample in HOMING, TRACK or HOLD (R220), with the detector and step 8. -/
def Engine.track (e : Engine) (c : Cfg) (x : Section) (r : Sample) : Engine × List EngineEvent :=
  let pt := e.point c x r.sub
  let ri := roundHalfUp pt.r
  let tc : Rat := (x.period : Rat) / x.k
  let vq := sat16 (roundHalfUp (pt.v * tc / 16))
  let aq := sat16 (roundHalfUp (pt.a * tc * tc / 16))
  let y := if r.invalid then e.yLast + (e.invalidRun + 1 : Nat) * (e.yLast - e.yPrev) else if r.unsettled then ri else r.angle
  let err := ri - y
  let g := e.gainFor c ri
  let handover := e.handoverDue || g != e.gainSet
  let p := e.law c r g vq aq err handover
  let e1 := { p.1 with
    yPrev := if r.invalid then e.yPrev else e.yLast
    yLast := if r.invalid then e.yLast else y
    invalidRun := if r.invalid then e.invalidRun + 1 else 0
    setpoint := (ri, roundHalfUp (pt.v / degPerSec * 10), roundHalfUp (pt.a / degPerSec2)) }
  let q := e1.detect c r err
  let o := (q.1.keepColumn r err handover).oscillate q.2
  let h := o.1.homed c r err
  ({ h.1 with oldMode := e.mode }, p.2 ++ o.2 ++ h.2)

/-- The overrun rule (R234): two consecutive overruns, or 8 within any 1024 consecutive samples. -/
def Engine.overrunStep (e : Engine) (r : Sample) : Engine × List EngineEvent :=
  let i := r.index.toNat
  let recent := e.overruns.filter fun k => i < k + 1024
  let consecutive := recent.headD (i + 1) + 1 == i
  let list := i :: recent
  let kind := if consecutive then 1 else if 8 ≤ list.length then 2 else 0
  if kind = 0 then ({ e with overruns := list }, [.overrun])
  else
    let p := { e with overruns := [] }.park 5
    (p.1, .overrun :: .overrunRule r.index kind :: p.2)

/-- One sample in one lane: the rows of Table 10.2 in their order, then the computation of R220. cause is the cause of step 1 that
holds, 0 for none; requests are the requests to be served, oldest first. -/
def Engine.sample (e0 : Engine) (c : Cfg) (x : Section) (r : Sample) (cause : Nat) (late : Bool) (requests : List (Nat × U32)) :
    Engine × List EngineEvent :=
  let third := r.invalid && decide (2 ≤ e0.invalidRun)
  let cause := if cause ≠ 0 then cause else if third ∧ e0.mode ≠ .park then 7 else 0
  let p0 := if cause ≠ 0 then e0.park cause else (e0, [])
  let p1 := if late && p0.1.mode != .park then p0.1.overrunStep r else (p0.1, [])
  let p2 : Engine × List EngineEvent :=
    if p1.1.autostart then
      let e := { p1.1 with autostart := false }
      if e.mode = .park ∧ c.nat Id.SCAN_AUTOSTART = 1 ∧ cause = 0 then e.home c r true 2 0 else (e, [])
    else (p1.1, [])
  let p3 := requests.foldl (fun (p : Engine × List EngineEvent) q =>
    let a := p.1.request c r (cause ≠ 0) q.1 q.2
    (a.1, p.2 ++ a.2)) (p2.1, [])
  let p4 : Engine × List EngineEvent :=
    if p3.1.mode = .park then
      ({ p3.1 with
          oldMode := .park
          invalidRun := if r.invalid then p3.1.invalidRun + 1 else 0
          yPrev := if r.invalid then p3.1.yPrev else p3.1.yLast
          yLast := if r.invalid then p3.1.yLast else r.angle }, [])
    else if late then (p3.1, [])
    else p3.1.track c x r
  (p4.1, p0.2 ++ p1.2 ++ p2.2 ++ p3.2 ++ p4.2)

/-- The engine at a frame boundary, with the configuration of the frame that ends (c) and of the one that begins (cNew): the
temperature region (R223), the boundary state (R226), TRACK and HOLD (Table 10.2 steps 8 and 10). -/
def Engine.boundary (e : Engine) (c cNew : Cfg) (tm : Int) (columns period : Nat) (now : Time) : Engine × List EngineEvent :=
  let e := { e with region := regionNext (cNew.bytes Id.REGION_TEMPS) e.region tm }
  match e.mode with
  | .homing =>
    if e.arrived then
      ({ (e.setMode .track) with rb := (e.move.map (·.goal)).getD c.scanEnd, vb := 0, move := none }, [.modeChanged .homing .track 3 0])
    else (e, [])
  | .track =>
    let vs := c.sweep columns period
    match e.holdDue with
    | some k =>
      ({ (e.setMode .hold) with
          holdDue := none, move := some (cNew.startMove c.scanEnd vs (cNew.int Id.HOLD_ANGLE) now) }, [.modeChanged .track .hold 1 k])
    | none => ({ e with rb := c.scanEnd, vb := vs }, [])
  | .hold | .park => (e, [])

/-- A flip that changes an object of chapter 10: a handover at the next sample, and the schedule serves again (R224, R232). -/
def Engine.flip (e : Engine) (changed : Bool) : Engine := { e with oscHold := false, handoverDue := e.handoverDue || (changed && e.mode != .park) }

/-! ### Budget and profile checks (R228, R233) -/

/-- CYCLE_COST (Table 10.3). -/
def Cfg.cycleCost (c : Cfg) : Nat :=
  let on := c.nat Id.BIQUAD_ENABLE
  let table := c.bytes Id.GAIN_TABLE
  let ff := (List.range 13).any fun n => let g := gainsOf table n; g.kfv != 0 || g.kfa != 0
  1220 + 180 * (b2n (bit on 0) + b2n (bit on 1)) + 90 * b2n ff + 160 * b2n (u8At (c.bytes Id.OSC_CONFIG) 5 != 0)

/-- SAMPLE_BUDGET (R233): floor(200 × c_min / K) − 200 with c_min in µs. -/
def Cfg.sampleBudget (c : Cfg) : Int := (200 * c.cMin / 32000 / (c.nat Id.CONTROL_K : Nat)).floor - 200

/-- CYCLE_BUDGET passes. -/
def Cfg.cycleOk (c : Cfg) : Bool := c.cycleCost ≤ c.sampleBudget

/-- The peaks of the steady flyback at c_min and FLYBACK. -/
def Cfg.steadyPeaks (c : Cfg) : Rat × Rat × Rat :=
  let vs := c.sweep c.columns c.cMin
  quinticPeaks c.scanEnd vs c.scanStart vs c.flyback

/-- CONTROL_RATE passes (R228); live is the configuration that the flip replaces. -/
def Cfg.controlRateOk (c live : Cfg) : Bool :=
  let vs := c.sweep c.columns c.cMin
  let h := thresholds (c.bytes Id.THRESHOLDS)
  let lo := h.winLo + h.winHyst
  let hi := h.winHi - h.winHyst
  let hold := c.int Id.HOLD_ANGLE
  let moved := c.scanStart ≠ live.scanStart ∨ c.scanEnd ≠ live.scanEnd ∨ c.columns ≠ live.columns ∨ c.cNom ≠ live.cNom ∨
    c.flyback ≠ live.flyback
  (c.nat Id.CONTROL_K : Rat) * 32000000000 ≤ 120000 * c.cMin && vs.abs ≤ c.nat Id.VEL_MAX * degPerSec && c.peaksOk c.steadyPeaks &&
    (!decide moved ||
      c.peaksOk (quinticPeaks live.scanEnd (live.sweep live.columns live.cMin) c.scanStart vs c.flyback)) &&
    c.scanStart != c.scanEnd && lo ≤ c.scanStart && c.scanStart ≤ hi && lo ≤ c.scanEnd && c.scanEnd ≤ hi &&
    h.otLo + h.otHyst ≤ hold && hold ≤ h.otHi - h.otHyst

/-- PROFILE_PEAKS (R228): °/s, °/s² and 1000 °/s³, rounded half up. -/
def Cfg.profilePeaks (c : Cfg) : Bytes :=
  let p := c.steadyPeaks
  le 4 (roundHalfUp (p.1 / degPerSec)).toNat ++ le 4 (roundHalfUp (p.2.1 / degPerSec2)).toNat ++
    le 4 (roundHalfUp (p.2.2 / kdegPerSec3)).toNat

end Sys2Proof.Machine
end

