-- ==== Sys2Proof/Machine/Receiver.lean ====
section
/-! DEFINITION. The receiver bands (R128 to R141): listening windows, stops, coincidence adaptation, what a band hands over at
COLUMN_TICK, the built-in test, masks and band states. -/

namespace Sys2Proof.Machine

open Sys2Proof

/-! ### Bands -/

/-- A band. -/
def State.band (s : State) (b : Nat) : Band := s.rx.bands.getD b .reset

/-- Change a band. -/
def State.modBand (s : State) (b : Nat) (f : Band → Band) : State := { s with rx := { s.rx with bands := modAt s.rx.bands b f } }

/-- Domain of a band. -/
def bandDom (b : Nat) : Nat := 16 + b

/-- Band of a row (R14). -/
def bandOf (row : Nat) : Nat := row / 32

/-- CHANNEL_MASK_HOST masks the row. -/
def Cfg.hostMasks (c : Cfg) (row : Nat) : Bool := bit (u8At (c.bytes Id.CHANNEL_MASK_HOST) (row / 8)) (row % 8)

/-- The row is masked (Table 06.6). -/
def State.masked (s : State) (row : Nat) : Bool := s.rx.maskTest.getLsbD row || s.conf.hostMasks row

/-- All masked rows. -/
def State.maskedRows (s : State) : BitVec 512 := BitVec.ofNat 512 (maskOf 512 s.masked)

/-- Masked rows of a band. -/
def State.maskCount (s : State) (b : Nat) : Nat := ((List.range 32).filter fun c => s.masked (32 * b + c)).length

/-- BAND_VALID holds for the running column (Table 06.3, Table 06.8). -/
def State.bandValid (s : State) (b : Nat) : Bool :=
  let x := s.band b
  s.isOn (bandDom b) && x.state != .failed && !x.unlocked && x.invalidCols == 0 && x.restart.isNone

/-- The depth of a band that wakes or restarts, and what a flip of coincidence objects makes of a depth (R132). -/
def Cfg.clampDepth (c : Cfg) (d : Nat) : Nat :=
  let hi := c.nat Id.COINC_MAX
  let d := if c.nat Id.COINC_MODE = 0 then c.nat Id.COINC_FIXED else d
  if c.nat Id.COINC_MODE = 0 then d else clampNat (min (c.nat Id.COINC_MIN) hi) hi d

/-- A band when its domain wakes: it awaits its first test, with its depth at COINC_FIXED under the clamp (R132). -/
def Band.wake (x : Band) (c : Cfg) : Band :=
  let d := c.clampDepth (c.nat Id.COINC_FIXED)
  { Band.reset with
    depth := d, depthNext := d, depthLater := d, depthLast := x.depthLast, untested := true, restart := x.restart,
    bias := x.bias, biasGoal := x.biasGoal, testLast := x.testLast, clearNext := x.clearNext }

/-- A band when its domain is switched off. -/
def Band.powerDown (x : Band) : Band := { x with state := if x.state = .failed then .failed else .off, untested := true }

/-- A flip that changes a coincidence object: clamp and COINC_FIXED from the first slot after it (R132). -/
def State.coincFlip (s : State) : State :=
  let f := fun (x : Band) => { x with
    depth := s.conf.clampDepth x.depth, depthNext := s.conf.clampDepth x.depthNext, depthLater := s.conf.clampDepth x.depthLater }
  { s with rx := { s.rx with bands := s.rx.bands.map f } }

/-! ### Masks and band states -/

/-- A band whose masks changed moves between OK and DEGRADED (Table 06.8 steps 2 and 3). -/
def State.refreshBand (s : State) (b : Nat) : State :=
  let n := s.maskCount b
  match (s.band b).state with
  | .ok => if n = 0 then s else (s.modBand b fun x => { x with state := .degraded }).raise 0x3001 2 (u32 b) (u32 n)
  | .degraded => if n = 0 then s.modBand b fun x => { x with state := .ok } else s
  | .off | .failed => s

/-- All bands after a change of CHANNEL_MASK_HOST. -/
def State.refreshBands (s : State) : State := (List.range 16).foldl State.refreshBand s

/-- A row is set in CHANNEL_MASK_TEST (R140): CHANNEL_MASKED and its count. -/
def State.maskRow (s : State) (row cause : Nat) : State :=
  if s.rx.maskTest.getLsbD row then s
  else
    let s1 := { s with rx := { s.rx with maskTest := withBit s.rx.maskTest row true } }
    ((s1.count Id.CHANNEL_MASK_EVENTS).raise 0x3005 2 (u32 row) (u32 cause)).refreshBand (bandOf row)

/-- Mark a domain FAILED with a cause (R299): isolated, powered down, DOMAIN_FAILED_EVT. -/
def State.markFailed (s : State) (d cause : Nat) : State :=
  let s1 := { s with pwr := { s.pwr with doms := setAt s.pwr.doms d .failed, causes := setAt s.pwr.causes d cause } }
  s1.raise 0x1006 3 (u32 d) (u32 cause)

/-- A band becomes FAILED by its own faults (Table 06.8 step 5): cause 1 unlock, 2 relock, 4 test. -/
def State.bandFail (s : State) (b cause : Nat) (ticket : U32 := 0) : State :=
  if (s.band b).state = .failed then s
  else
    let s1 := s.modBand b fun x => { x with state := .failed, unlocked := false, restart := none, untested := true }
    (s1.markFailed (bandDom b) 4).raise 0x3002 3 (u32 b) (u32 cause) 0 ticket

/-- A band whose domain failed (Table 06.8 step 6): cause 3 no response, 5 wake. -/
def State.bandLost (s : State) (b cause : Nat) : State :=
  let ticket := (s.band b).restart.getD 0
  let s1 := s.modBand b fun x => { x with state := .failed, unlocked := false, restart := none, untested := true }
  s1.raise 0x3002 3 (u32 b) (u32 cause) 0 ticket

/-! ### Listening windows (R129, R130) -/

/-- Bin width in LSB (R150). -/
def Cfg.binLsb (c : Cfg) : Nat := 16 * 2 ^ c.nat Id.HIST_BIN_WIDTH

/-- The histogram span S in LSB (R150). -/
def Cfg.histSpan (c : Cfg) : Nat := 1536 * c.binLsb

/-- RX_GATE_ON in LSB (Table 06.4 counts 0.5 ns). -/
def Cfg.gateOn (c : Cfg) : Nat := 16 * c.nat Id.RX_GATE_ON

/-- t_n of a slot: the next slot start, or the COLUMN_TICK that ends the column after the last used slot (R108). -/
def slotEnd (tick shotPeriod used endTick k : Nat) : Time := if k + 1 < used then tick + (k + 1) * shotPeriod * 32 else endTick

/-- The listening window of a slot: its opening and the instant at which it closes. -/
def Cfg.listen (c : Cfg) (x : SlotRec) (tn : Time) : Time × Time := (x.fire + c.gateOn, min (x.fire + c.histSpan) tn)

/-- The slot is lit for a band (R130). -/
def SlotRec.lit (x : SlotRec) (b : Nat) : Bool := x.fired && !x.lent && x.mask.getLsbD b

/-- The slot is unlit for a band: neither lit nor lent (R130). -/
def SlotRec.unlit (x : SlotRec) (b : Nat) : Bool := !x.lent && !(x.fired && x.mask.getLsbD b)

/-- UNLIT_TIME of a band in ns, rounded down (Table 06.3). -/
def Cfg.unlitTime (c : Cfg) (slots : List SlotRec) (b tick shotPeriod used endTick : Nat) : Nat :=
  sumNat (slots.map fun x =>
    let w := c.listen x (slotEnd tick shotPeriod used endTick x.num)
    if x.unlit b then w.2 - w.1 else 0) / 32

/-! ### STOP (R131 to R136, R150) -/

/-- Enter a stop of a lit window: the flight count, the raw stamp word and the histogram bin. DEDUCED: log entry 45. -/
def State.litStop (s : State) (row : Nat) (x : SlotRec) (t : Time) (spads : Nat) : State :=
  let c := s.conf
  let stamp : Int := ((t - s.scan.tick) % 1048576 : Nat)
  let launch : Int := ((x.launch.getD (bandOf row) 0xFFFFF).toNat : Nat)
  let f := ((stamp - launch - s.cal.vals.skew.getD row 0) % 1048576).toNat
  let held := (s.rx.acc.stamps.filter fun p => p.1 == row && p.2.toNat / 67108864 == x.num).length
  let acc := s.rx.acc
  if 524288 ≤ f then s
  else if 8 ≤ held then
    let limited := if row ∈ acc.limited then acc.limited else acc.limited ++ [row]
    ({ s with rx := { s.rx with acc := { acc with limited } } }).count Id.STOPS_LOST
  else
    let word := u32 (x.num * 67108864 + held * 8388608 + f)
    let bin := f / c.binLsb
    let raise_ := (if c.nat Id.HIST_WEIGHT = 0 then 1 else min 32 spads) * 2 ^ c.nat Id.HIST_SHIFT
    let hist := if bin < 1536 then bumpAt acc.hist (row * 1536 + bin) raise_ 0xFFFFF else acc.hist
    { s with rx := { s.rx with acc := { acc with stamps := acc.stamps ++ [(row, word)], hist } } }

/-- STOP: d or more SPADs of a macropixel avalanche within the coincidence window (R131). A stop in no window, within the dead time,
of a masked channel or of a band that is off or FAILED is not recorded; in a lent slot it goes to the ticket (R130).
DEDUCED: log entry 45. -/
def doStop (t : Time) (row : Fin 512) (spads : Nat) (s0 : State) : State :=
  let s := s0.at t
  let b := bandOf row.val
  let p := s.planFor s.scan.column
  let used := planUsed p.image
  let hit := s.rx.acc.slots.find? fun x =>
    let w := s.conf.listen x (slotEnd s.scan.tick p.shotPeriod used (s.scan.tick + s.scan.period) x.num)
    w.1 ≤ s.now && s.now < w.2
  let dead := match s.rx.acc.lastStop.find? fun q => q.1 == row.val with
    | some q => s.now < q.2 + 64
    | none => false
  if !s.scan.timer || s.scan.flyback || !s.isOn (bandDom b) || (s.band b).state == .failed || s.masked row.val ||
      spads < (s.band b).depth || dead then s
  else
    match hit with
    | none => s
    | some x =>
      let last := (row.val, s.now) :: s.rx.acc.lastStop.filter fun q => q.1 != row.val
      let s1 := { s with rx := { s.rx with acc := { s.rx.acc with lastStop := last } } }
      if x.lent then s1
      else if x.lit b then s1.litStop row.val x s1.now spads
      else { s1 with rx := { s1.rx with acc := { s1.rx.acc with ambient := bumpAt s1.rx.acc.ambient row.val 1 0xFFFF } } }

/-! ### Coincidence adaptation (R132) -/

/-- λ in kcps per SPAD from the unlit windows, exact; none where they are too short or nothing measures. -/
def bandLambda (valid : Bool) (m p t amb : Nat) (est : Nat) : Option Rat :=
  if !valid ∨ m = 0 then none
  else if amb ≤ t ∧ t ≠ 0 then some ((p * 1000000 : Nat) / ((32 * m * t : Nat) : Rat))
  else if est ≠ 0xFFFFFFFF then some est
  else none

/-- d_next of R132 from the depth used in the column that ended. DEDUCED: log entry 46. -/
def Cfg.depthNext (c : Cfg) (d : Nat) (lam : Option Rat) : Nat :=
  let u2 := c.nat Id.COINC_UP_2
  let u3 := max (c.nat Id.COINC_UP_3) u2
  let u4 := max (c.nat Id.COINC_UP_4) u3
  let up := fun k => if k = 2 then u2 else if k = 3 then u3 else u4
  let n := match lam with
    | none => d
    | some l =>
      if d < 4 ∧ (up (d + 1) : Rat) ≤ l then d + 1
      else if 1 < d ∧ l < (up d * c.nat Id.COINC_DOWN_PCT : Nat) / (100 : Rat) then d - 1
      else d
  c.clampDepth n

/-- One band at the end of a column: its depth for the second column that begins after the tick, and BAND_AMBIENT. In a flyback
that decision waits one more tick (depthLater). DEDUCED: log entry 46. -/
def State.adaptBand (s : State) (x : TickIn) (endTick : Time) (boundary : Bool) (b : Nat) : State :=
  let p := s.planFor s.scan.column
  let t := s.conf.unlitTime s.rx.acc.slots b s.scan.tick p.shotPeriod (planUsed p.image) endTick
  let m := 32 - s.maskCount b
  let y := s.band b
  let lam := bandLambda (s.bandValid b) m (x.primary.getD b 0) t (s.cfgN Id.AMB_MIN_TIME) y.laneEst
  let d := s.conf.depthNext y.depth lam
  let shown := match lam with
    | some l => min 0xFFFFFFFE l.floor.toNat
    | none => 0xFFFFFFFF
  s.modBand b fun z => { z with
    depthLast := z.depth, lambda := shown, invalidCols := z.invalidCols - 1,
    depth := if boundary then z.depth else z.depthNext,
    depthNext := if boundary then z.depthNext else d,
    depthLater := d }

/-- PARITY of a column (R137, R140): counted per channel, and three within 256 columns mask the row. -/
def State.parityRow (s : State) (row : Nat) : State :=
  let b := bandOf row
  let n := s.rx.columnCount
  let seen := n :: (((s.band b).parity.getD (row % 32) []).filter fun k => n < k + 256)
  let full := decide (3 ≤ seen.length)
  let s1 := s.modBand b fun z => { z with parity := setAt z.parity (row % 32) (if full then [] else seen) }
  let s2 := s1.count Id.PARITY_ERRORS
  if full then s2.maskRow row 5 else s2

/-- The bands at the end of a column (R137): adaptation, parity and an empty bank for the next column. -/
def State.bandsEnd (s : State) (x : TickIn) (endTick : Time) (boundary : Bool) : State :=
  let s1 := (List.range 16).foldl (fun y b => y.adaptBand x endTick boundary b) s
  let s2 := (x.parity.map (·.val)).eraseDups.foldl State.parityRow s1
  { s2 with rx := { s2.rx with acc := .empty, columnCount := s2.rx.columnCount + 1 } }

/-- The bands when a flyback ends: the depths decided before it come into force. -/
def State.bandsStart (s : State) : State :=
  { s with rx := { s.rx with bands := s.rx.bands.map fun z => { z with depth := z.depthNext, depthNext := z.depthLater },
                             acc := .empty } }

/-! ### Bias (R128) -/

/-- BIAS_UPDATE: the band recomputes its bias from the Dreas anchor; it is applied at the next COLUMN_TICK. Only bands that are on
have a bias. -/
def State.biasGoalOf (s : State) (b : Nat) : Int :=
  let td := match (s.therm.anchors.getD 2 none) with
    | some (v, _) => v
    | none => 250
  (s.fac.vbd.getD b 0 * 1000 : Nat) + (s.fac.tc.getD b 0 : Nat) * (td - 250) * 100 + (s.cfgN Id.RX_EXCESS_BIAS * 1000 : Nat) +
    s.therm.biasTrim

/-- BIAS_UPDATE (R128). -/
def doBiasUpdate (t : Time) (s0 : State) : State :=
  let s := s0.at t
  (List.range 16).foldl (fun y b =>
    if y.isOn (bandDom b) then y.modBand b fun z => { z with biasGoal := s.biasGoalOf b } else y) s

/-- A COLUMN_TICK moves the bias toward its goal by at most 20 mV (R128). -/
def State.stepBias (s : State) : State :=
  { s with rx := { s.rx with bands := s.rx.bands.map fun z =>
      { z with bias := z.bias + clampInt (-20000) 20000 (z.biasGoal - z.bias) } } }

/-- A flip of RX_EXCESS_BIAS applies with no step limit (R128). -/
def State.biasFlip (s : State) : State :=
  (List.range 16).foldl (fun y b => y.modBand b fun z => { z with biasGoal := s.biasGoalOf b, bias := s.biasGoalOf b }) s

/-! ### Lock of the band PLL -/

/-- PLL_UNLOCK: BAND_VALID false for this column and the next; the third within 16 frames makes the band FAILED (Table 06.8). -/
def doPllUnlock (t : Time) (b : Fin 16) (s0 : State) : State :=
  let s := s0.at t
  let x := s.band b.val
  if !s.isOn (bandDom b.val) ∨ x.state = .failed then s
  else
    let f := s.scan.frame.toNat
    let frames := f :: x.unlockFrames.filter fun k => f < k + 16
    let s1 := s.modBand b.val fun z => { z with unlocked := true, invalidCols := if s.scan.flyback then 1 else 2, unlockFrames := frames }
    let s2 := (s1.count Id.PLL_UNLOCKS).raise 0x3004 1 (u32 b.val) s.scan.frame (u32 s.scan.column)
    if 3 ≤ frames.length then s2.bandFail b.val 1 else s2

/-- PLL_RELOCK: in the next flyback the band regains lock, or its relock fails (Table 06.8 steps 4 and 5). -/
def doPllRelock (t : Time) (b : Fin 16) (ok : Bool) (s0 : State) : State :=
  let s := s0.at t
  if !(s.band b.val).unlocked || !s.scan.flyback then s
  else if ok then s.modBand b.val fun z => { z with unlocked := false }
  else s.bandFail b.val 2

/-! ### Built-in test (R139, R140) -/

/-- Failures of T_HOT: a channel whose primary events exceed 8 times the band median. -/
def hotFails (hot : List Nat) : BitVec 32 :=
  let med := (lowerMedian (fun a b => decide (a < b)) hot).getD 0
  BitVec.ofNat 32 (maskOf 32 fun c => decide (8 * med < hot.getD c 0))

/-- Failure masks of the four tests, in order. DEDUCED: log entry 44. -/
def BandTests (r : BandResult) : List (BitVec 32) := [r.inj, r.multi, r.coinc, hotFails r.hot]

/-- The first test that a channel failed, 1 to 4; 0 for none. -/
def firstFail (fails : List (BitVec 32)) (c : Nat) : Nat :=
  ((List.range 4).find? fun k => (fails.getD k 0).getLsbD c).elim 0 (· + 1)

/-- The verdict on one channel of a test run: masked again at once where it was cleared, else masked on the second failure of the
same test in succession. -/
def State.judgeChannel (s : State) (b : Nat) (fails last : List (BitVec 32)) (cleared : BitVec 32) (c : Nat) : State :=
  let twice := fails.zipWith (· &&& ·) last
  if cleared.getLsbD c then
    let k := firstFail fails c
    if k = 0 then s else s.maskRow (32 * b + c) k
  else
    let k := firstFail twice c
    if k = 0 then s else s.maskRow (32 * b + c) k

/-- Tickets of CHANNEL_UNMASK after a run of a band's test: CHANNEL_RETESTED once every band has run. -/
def State.unmaskRun (s : State) (b : Nat) (failed : BitVec 32) : State :=
  let upd := s.rx.unmasks.map fun u =>
    let rows := (List.range 32).filter fun c => u.named.getLsbD (32 * b + c)
    if b ∈ u.bands then
      { u with bands := u.bands.filter (· != b), rows := u.rows + rows.length,
               again := u.again + (rows.filter fun c => failed.getLsbD c).length }
    else u
  let done := upd.filter fun u => u.bands.isEmpty
  let s1 := { s with rx := { s.rx with unmasks := upd.filter fun u => !u.bands.isEmpty } }
  done.foldl (fun y u => (y.dequeue u.num).raise 0x3006 0 (u32 u.rows) (u32 u.again) 0 u.num) s1

/-- One run of a band's test (Table 06.7, R140, Table 06.8 steps 1, 5 and 7). DEDUCED: log entry 44. -/
def State.testBand (s : State) (b : Nat) (r : BandResult) : State :=
  let x := s.band b
  let fails := BandTests r
  let all := r.inj == BitVec.allOnes 32 || r.coinc == BitVec.allOnes 32
  let cleared := x.clearNext
  let any := fails.foldl (· ||| ·) 0
  let test := maskOf 4 fun k => fails.getD k 0 != 0
  let mask := (List.range 32).foldl (fun m c => if cleared.getLsbD c then withBit m (32 * b + c) false else m) s.rx.maskTest
  let s1 := { s with rx := { s.rx with maskTest := mask } }
  let s2 := (s1.modBand b fun z => { z with
    clearNext := 0, lastFail := fails, allFailed := all,
    testLast := (s.scan.frame.toNat, test, ((List.range 32).filter fun c => any.getLsbD c).length) }).refreshBand b
  let s3 := (List.range 32).foldl (fun y c => y.judgeChannel b fails x.lastFail cleared c) s2
  let s4 := s3.unmaskRun b any
  match x.restart with
  | some k =>
    if all then s4.bandFail b 4 k
    else
      let s5 := s4.modBand b fun z => { z with
        restart := none, untested := false, unlockFrames := [], state := if s4.maskCount b = 0 then .ok else .degraded }
      s5.raise 0x3003 0 (u32 b) 0 0 k
  | none =>
    if all && x.allFailed then s4.bandFail b 4
    else if x.untested && !all then
      s4.modBand b fun z => { z with untested := false, state := if s4.maskCount b = 0 then .ok else .degraded }
    else s4

/-- BAND_TEST: in the last 200 µs of a flyback in RUN, for band FRAME_COUNTER mod 16 and for a band that awaits its first test. -/
def doBandTest (t : Time) (b : Fin 16) (r : BandResult) (s0 : State) : State :=
  let s := s0.at t
  let x := s.band b.val
  let due := b.val == s.scan.frame.toNat % 16 || x.untested || x.restart.isSome
  if s.pwr.state == .run && s.scan.timer && s.scan.flyback && s.isOn (bandDom b.val) && x.state != .failed && due then
    s.testBand b.val r
  else s

/-- Rows that a CHANNEL_UNMASK names and that the test masks. -/
def State.unmaskRows (s : State) (value : Nat) : List Nat :=
  if value = 0xFFFF then (List.range 512).filter fun r => s.rx.maskTest.getLsbD r
  else if s.rx.maskTest.getLsbD value then [value] else []

/-- CHANNEL_UNMASK accepted with a ticket (R140): at once where no named row is test-masked, else at the bands' next runs. -/
def channelUnmaskAction (value : Nat) (k : U32) (s : State) : State :=
  let rows := s.unmaskRows value
  if rows = [] then (s.dequeue k).raise 0x3006 0 0 0 0 k
  else
    let u : Unmask := { num := k, named := BitVec.ofNat 512 (maskOf 512 fun r => decide (r ∈ rows)),
                        bands := (rows.map bandOf).eraseDups, rows := 0, again := 0 }
    let s1 := rows.foldl (fun y r => y.modBand (bandOf r) fun z => { z with clearNext := withBit z.clearNext (r % 32) true }) s
    { s1 with rx := { s1.rx with unmasks := s1.rx.unmasks ++ [u] } }

/-- BAND_RESTART accepted with a ticket (Table 06.8 step 7): the band is powered down, which clears a FAILED mark. -/
def bandRestartAction (b : Nat) (k : U32) (s : State) : State :=
  let s1 := { s with pwr := { s.pwr with doms := setAt s.pwr.doms (bandDom b) .off, causes := setAt s.pwr.causes (bandDom b) 0 } }
  s1.modBand b fun x => { x with state := .off, unlocked := false, restart := some k, untested := true }

/-- Bands under restart are woken in the flyback (Table 06.8 step 7). -/
def State.wakeRestarted (s : State) : State :=
  (List.range 16).foldl (fun y b =>
    if (y.band b).restart.isSome && y.dom (bandDom b) == .off then
      (y.setDom (bandDom b) .on).modBand b fun x => { x.wake y.conf with bias := y.biasGoalOf b, biasGoal := y.biasGoalOf b }
    else y) s

/-! ### Commands -/

/-- STOP (R131). -/
def execStop (t : Time) (row : Fin 512) (spads : Nat) (s : State) : Host.Outcome State Fault Refusal := .next (doStop t row spads s)

/-- BIAS_UPDATE (R128). -/
def execBiasUpdate (t : Time) (s : State) : Host.Outcome State Fault Refusal := .next (doBiasUpdate t s)

/-- PLL_UNLOCK (R141). -/
def execPllUnlock (t : Time) (band : Fin 16) (s : State) : Host.Outcome State Fault Refusal := .next (doPllUnlock t band s)

/-- BAND_TEST (R139). -/
def execBandTest (t : Time) (band : Fin 16) (r : BandResult) (s : State) : Host.Outcome State Fault Refusal := .next (doBandTest t band r s)

/-- PLL_RELOCK (R141). -/
def execPllRelock (t : Time) (band : Fin 16) (ok : Bool) (s : State) : Host.Outcome State Fault Refusal := .next (doPllRelock t band ok s)

end Sys2Proof.Machine
end

