-- ==== Sys2Proof/Machine/Echo.lean ====
section
/-! DEFINITION. What a lane makes of a finished column (R152 to R168): ambient, launch correction, candidates, refinement, range,
measures, classes and echo queues. Exact integers and rationals, rounded half up where the spec rounds. -/

namespace Sys2Proof.Machine

open Sys2Proof

/-- The configuration that the lanes hold for a column. -/
def ColumnRec.conf (x : ColumnRec) (f : Factory) : Cfg := { fac := f, store := x.cfg }

/-! ### Launch correction (R155) -/

/-- LAUNCH of a slot for a band. -/
def SlotRec.launchOf (x : SlotRec) (b : Nat) : Nat := (x.launch.getD b 0xFFFFF).toNat

/-- ε_s of a slot for a band. DEDUCED: log entry 51. -/
def launchResidual (c : Cfg) (x : ColumnRec) (s : SlotRec) (b : Nat) : Nat :=
  (((s.launchOf b : Nat) - (32 * s.num * x.shotPeriod : Nat) - (c.launchOffset x.frame x.column s.num : Nat) : Int) % 1048576).toNat

/-- What a lane knows of the launches of a band in a column. -/
structure Launches where
  /-- Slot and ε_s for every slot with a launch. -/
  eps : List (Nat × Nat)
  /-- m, the lower median of ε_s. -/
  median : Nat
  deriving DecidableEq, Repr

/-- The launches of a band. -/
def launchesOf (c : Cfg) (x : ColumnRec) (b : Nat) : Launches :=
  let eps := (x.acc.slots.filter fun s => s.launchOf b != 0xFFFFF).map fun s => (s.num, launchResidual c x s b)
  { eps, median := (lowerMedian (fun a b => decide (a < b)) (eps.map (·.2))).getD 0 }

/-- δ_s of a slot; 0 for a slot without a launch. -/
def Launches.delta (l : Launches) (s : Nat) : Int := match l.eps.find? fun p => p.1 == s with
  | some p => (p.2 : Int) - l.median
  | none => 0

/-- ε_s of a slot; 0 for a slot without a launch. DEDUCED: log entry 51. -/
def Launches.epsOf (l : Launches) (s : Nat) : Nat := ((l.eps.find? fun p => p.1 == s).map (·.2)).getD 0

/-- The slot has a launch. -/
def Launches.has (l : Launches) (s : Nat) : Bool := l.eps.any fun p => p.1 == s

/-- The slot is excluded in the band: |δ_s| > LAUNCH_TOL. -/
def Launches.excluded (l : Launches) (tol s : Nat) : Bool := l.has s && decide (tol < (l.delta s).natAbs)

/-! ### Rows -/

/-- Histogram entries of a row: bin and value, bins rising. -/
def ColumnAcc.histRow (a : ColumnAcc) (row : Nat) : List (Nat × Nat) :=
  (a.hist.filter fun p => p.1 / 1536 == row).map fun p => (p.1 % 1536, p.2)

/-- Raw stamp words of a row in order of arrival. -/
def ColumnAcc.stampRow (a : ColumnAcc) (row : Nat) : List U32 := (a.stamps.filter fun p => p.1 == row).map (·.2)

/-- The row counts for ambient and echoes: valid band, unmasked, no PARITY (R153). -/
def ColumnRec.usable (x : ColumnRec) (row : Nat) : Bool :=
  x.valid.getLsbD (bandOf row) && !x.masked.getLsbD row && row ∉ x.parity

/-- Slots lit for a band. -/
def ColumnRec.litSlots (x : ColumnRec) (b : Nat) : List SlotRec := x.acc.slots.filter fun s => s.lit b

/-- lo_s and hi_s of a lit slot for a row (R153). -/
def coverOf (c : Cfg) (x : ColumnRec) (l : Launches) (row : Nat) (s : SlotRec) : Int × Int :=
  let w := slotEnd x.opened x.shotPeriod x.used x.ended s.num - s.fire
  let off : Int := (l.epsOf s.num : Nat) + x.skew.getD row 0
  ((c.gateOn : Nat) - off, (min c.histSpan w : Nat) - off)

/-- v_a (R153). -/
def ambientWeight (c : Cfg) (depth : Nat) : Nat := (if c.nat Id.HIST_WEIGHT = 0 then 1 else depth) * 2 ^ c.nat Id.HIST_SHIFT

/-- Sum of the histogram over the bins from a up to but not including b. -/
def binSum (h : List (Nat × Nat)) (a b : Nat) : Nat := sumNat ((h.filter fun p => a ≤ p.1 && p.1 < b).map (·.2))

/-- ρ of a row by source 1 or 2, with the source's code: 0 UNLIT, 1 FLOOR (R153). -/
def rowRate (c : Cfg) (x : ColumnRec) (unlit : Nat) (covers : List (Int × Int)) (row : Nat) : Option (Rat × Nat) :=
  let b := bandOf row
  let amb := c.nat Id.AMB_MIN_TIME
  if amb ≤ unlit ∧ unlit ≠ 0 then
    some ((natAt x.acc.ambient row * ambientWeight c (x.depth.getD b 1) : Nat) / (unlit : Rat), 0)
  else
    let w : Nat := c.binLsb
    let lo := covers.foldl (fun m p => max m p.1) ((covers.headD (0, 0)).1)
    let hi := covers.foldl (fun m p => min m p.2) ((covers.headD (0, 0)).2)
    let h := x.acc.histRow row
    let open_ := (List.range 16).filter fun j => lo ≤ (96 * j * w : Nat) && ((96 * j + 96) * w : Nat) ≤ hi
    let sums := sortBy (fun a b => decide (a < b)) (open_.map fun j => binSum h (96 * j) (96 * j + 96))
    if covers = [] ∨ open_.length < 4 then none
    else some ((sums.getD 1 0 * 32 : Nat) / ((96 * w * covers.length : Nat) : Rat), 1)

/-- b_k of a row in 1/256 of a histogram unit. -/
def ambientBin (rho : Rat) (w : Nat) (covers : List (Int × Int)) (k : Nat) : Nat :=
  let e := (covers.filter fun p => decide (p.1 ≤ ((k * w : Nat) : Int)) && decide ((((k + 1) * w : Nat) : Int) ≤ p.2)).length
  (roundHalfUp (rho * w / 32 * e * 256)).toNat

/-! ### Candidates (R156) -/

/-- Run length m: bins of the widest pulse among the lit slots, plus 1; width in quarter nanoseconds. -/
def runLength (w quarter : Nat) : Nat := cdiv (quarter * 8) w + 1

/-- Sums of m consecutive entries. -/
def runSums (m : Nat) (l : List Nat) : List Nat := (List.range (l.length + 1 - m)).map fun k => sumNat ((l.drop k).take m)

/-- Kept candidates of a row: h and 256 b by bin, m, v, PEAK_K and ECHO_MIN_NET. Net counts n are held as n × 256 × v. -/
def candidates (h b256 : List Nat) (m v peakK minNet : Nat) : List Nat :=
  let sums := (runSums m h).zip (runSums m b256)
  let net := (sums.map fun p => (256 * p.1 : Nat) - (p.2 : Int)).toArray
  let amb := (sums.map (·.2)).toArray
  let ok := fun (k : Nat) =>
    let n := net.getD k 0
    (k = 0 || decide (net.getD (k - 1) 0 < n)) && (net.size ≤ k + 1 || decide (net.getD (k + 1) 0 ≤ n)) && decide (0 < n) &&
      decide (((peakK * peakK * ((amb.getD k 0) + 256 * v) * (256 * v) : Nat) : Int) ≤ 256 * n * n) &&
      decide (((minNet * 256 * v : Nat) : Int) ≤ 16 * n)
  let cand := (List.range net.size).filter ok
  let sorted := sortBy (fun a b => decide (net.getD b 0 < net.getD a 0) || (net.getD a 0 == net.getD b 0 && decide (a < b))) cand
  sorted.foldl (fun kept k =>
    if kept.length < 8 ∧ kept.all (fun q => m + 1 < q - k ∨ m + 1 < k - q) then kept ++ [k] else kept) []

/-! ### Refinement, range and measures (R157 to R160) -/

/-- A candidate that survives phase 1. -/
structure Cand where
  /-- Row. -/
  row : Nat
  /-- k. -/
  k : Nat
  /-- Window in flight counts, lo and hi. -/
  lo : Int
  /-- As lo. -/
  hi : Int
  /-- t_q, 1/16 LSB. -/
  tq : Int
  /-- R, 0.25 mm. -/
  range : Nat
  /-- N. -/
  net : Rat
  /-- INTENSITY. -/
  intensity : Nat
  /-- WIDTH. -/
  width : Nat
  /-- CONF. -/
  conf : Nat
  /-- BIN_SAT. -/
  binSat : Bool
  /-- FALLBACK. -/
  fallback : Bool
  deriving DecidableEq, Repr

/-- What a lane reads to refine the candidates of a row. -/
structure RowView where
  /-- Row. -/
  row : Nat
  /-- Histogram entries. -/
  hist : List (Nat × Nat)
  /-- Stamp words. -/
  stamps : List U32
  /-- 256 b_k by bin. -/
  amb : List Nat
  /-- Launches of its band. -/
  launches : Launches
  /-- L_r. -/
  lit : Nat
  /-- v_a. -/
  va : Nat
  /-- Run length m. -/
  run : Nat
  deriving DecidableEq, Repr

/-- Slot of a stamp word. -/
def stampSlot (w : U32) : Nat := w.toNat / 67108864

/-- FLIGHT of a stamp word. -/
def stampFlight (w : U32) : Nat := w.toNat % 1048576

/-- Corrected flights g of the stamps in a window, with their slots; excluded slots take no part. -/
def RowView.window (v : RowView) (tol : Nat) (lo hi : Int) : List (Int × Nat) :=
  ((v.stamps.filter fun w => !v.launches.excluded tol (stampSlot w)).map fun w =>
    ((stampFlight w : Int) + v.launches.delta (stampSlot w), stampSlot w)).filter fun p => lo ≤ p.1 && p.1 < hi

/-- t_s of R158. -/
def scaled (tq sigma : Int) : Int := tq + (tq * sigma + 2147483648) / 4294967296

/-- R of R158 from t_z. -/
def rangeField (tz : Int) : Int := (tz * 314263097 + 134217728) / 268435456

/-- Refine a kept candidate; none where it is dropped (R157 to R159). -/
def refine (c : Cfg) (x : ColumnRec) (v : RowView) (k : Nat) : Option Cand :=
  let w := c.binLsb
  let rh := c.nat Id.REFINE_HALF
  let bins := (List.range 1536).filter fun j => k ≤ j + rh && j < k + v.run + rh
  let lo : Int := ((k : Int) - rh) * w
  let hi : Int := (k + v.run + rh : Nat) * w
  let unit := 2 ^ c.nat Id.HIST_SHIFT
  let hOf := fun (j : Nat) => (v.hist.find? fun p => p.1 == j).elim 0 (·.2)
  let b256 := sumNat (bins.map fun j => v.amb.getD j 0)
  let net256 : Int := (256 * sumNat (bins.map hOf) : Nat) - (b256 : Nat)
  if net256 ≤ 0 then none
  else
    let gs := (v.window (c.nat Id.LAUNCH_TOL) lo hi).map (·.1)
    let n : Rat := gs.length
    let s1 : Int := gs.foldl (· + ·) 0
    let s2 : Int := gs.foldl (fun a g => a + g * g) 0
    let nAmb : Rat := roundHalfUp ((b256 : Nat) / (v.va : Rat)) / 256
    let mid : Rat := (lo + hi - 1 : Int) / 2
    let nEff := n - nAmb
    let full := decide (2 ≤ nEff)
    let pos := bins.map fun j => (j, max 0 ((256 * hOf j : Nat) - (v.amb.getD j 0 : Int)))
    let wsum : Int := pos.foldl (fun a p => a + p.2) 0
    let t : Rat :=
      if full then (s1 - nAmb * mid) / nEff
      else (pos.foldl (fun (a : Rat) p => a + ((p.1 : Rat) + 1 / 2) * w * (p.2 : Int)) 0) / (wsum : Int)
    let span : Rat := (hi - lo : Int)
    let var : Rat := if full then (s2 - nAmb * (mid * mid + span * span / 12)) / nEff - t * t else 0
    let tq := roundHalfUp (16 * t)
    let tz := scaled tq x.scale - x.zero
    let r := rangeField tz
    let net : Rat := (net256 : Int) / ((256 * unit : Nat) : Rat)
    if tz < 0 ∨ r < 1200 ∨ (4 * c.nat Id.RANGE_MAX : Nat) < r then none
    else
      some
        { row := v.row, k, lo, hi, tq, range := r.toNat, net,
          intensity := min 4095 (roundHalfUp (64 * net / v.lit)).toNat,
          width := min 255 ((1 + ratSqrtFloor (4 * max 0 var)) / 2),
          conf := min 15 (ratSqrtFloor (4 * net * net / (net + nAmb))),
          binSat := bins.any fun j => hOf j == 0xFFFFF, fallback := !full }

/-- FOLD of a candidate (R162): the window's stamps cluster better about the previous launch. -/
def foldTest (c : Cfg) (x : ColumnRec) (v : RowView) (k : Cand) : Bool :=
  let b := bandOf v.row
  let tol := c.nat Id.LAUNCH_TOL
  let lit := ((x.litSlots b).filter fun s => s.launchOf b != 0xFFFFF && !v.launches.excluded tol s.num).map fun s => (s.num, s.launchOf b)
  let prev := fun (s : Nat) => (lit.filter fun p => p.1 < s).foldl (fun (m : Option (Nat × Nat)) p => match m with
    | some q => if q.1 < p.1 then some p else m
    | none => some p) none
  let launch := fun (s : Nat) => ((x.acc.slots.find? fun r => r.num == s).map (·.launchOf b)).getD 0
  let pairs := (v.window tol k.lo k.hi).filterMap fun g => (prev g.2).map fun p =>
    (g.1, g.1 + ((((launch g.2 : Nat) - (p.2 : Nat) : Int) % 1048576 : Int)))
  let n : Int := pairs.length
  let spread := fun (l : List Int) => n * l.foldl (fun a g => a + g * g) 0 - (l.foldl (· + ·) 0) ^ 2
  c.nat Id.FOLD_TEST = 1 && 4 ≤ n && 4 * spread (pairs.map (·.2)) < spread (pairs.map (·.1))

/-! ### Phase 2 (R162 to R165) -/

/-- A candidate's window overlaps that of a stronger one of its row. -/
def overlaps (row : List Cand) (k : Cand) : Bool :=
  row.any fun o => decide (k.net < o.net) && o.lo < k.hi && k.lo < o.hi

/-- Two candidates at the same range. -/
def sameRange (c : Cfg) (a b : Cand) : Bool := (a.tq - b.tq).natAbs ≤ c.nat Id.CLASS_RANGE_TOL * c.binLsb * 16

/-- The class of a candidate (Table 07.1); all holds every surviving candidate of the column. -/
def classOf (c : Cfg) (all : List Cand) (k : Cand) (ambiguous : Bool) : Nat :=
  let near := fun (d : Nat) => all.filter fun o => o.row != k.row && o.row ≤ k.row + d && k.row ≤ o.row + d && sameRange c o k
  if ambiguous then 4
  else if (near (c.nat Id.BLOOM_ROWS)).any fun o => o.binSat || decide (k.net * c.nat Id.BLOOM_RATIO ≤ o.net) then 3
  else if (near 1).any fun o => decide (k.net * c.nat Id.XTALK_RATIO ≤ o.net) then 2
  else if k.range < 4 * c.nat Id.SPRAY_RANGE ∧ c.nat Id.SPRAY_WIDTH ≤ k.width then 1
  else 0

/-- An echo of a queue: its candidate with class and flags. -/
structure EchoOut where
  /-- Candidate. -/
  cand : Cand
  /-- CLASS. -/
  cls : Nat
  /-- FOLD. -/
  fold : Bool
  /-- OVERLAP. -/
  overlap : Bool
  deriving DecidableEq, Repr

/-- Choose at most 4 echoes (R163) and order them by R. -/
def chooseEchoes (select : Nat) (l : List EchoOut) : List EchoOut :=
  let byN := fun (a b : EchoOut) => decide (b.cand.net < a.cand.net) || (a.cand.net == b.cand.net && decide (a.cand.k < b.cand.k))
  let group := fun (e : EchoOut) => if select = 0 ∧ e.cls ≠ 0 then 1 else 0
  let order := sortBy (fun a b => decide (group a < group b) || (group a == group b && byN a b)) l
  sortBy (fun a b => decide (a.cand.range < b.cand.range) || (a.cand.range == b.cand.range && decide (a.cand.k < b.cand.k)))
    (order.take 4)

/-- One echo record (Table 07.2) without the fields of record 0. -/
def echoRecord (e : EchoOut) (stopLimit : Bool) : Nat :=
  e.cand.range * 2 ^ 44 + e.cand.intensity * 2 ^ 32 + e.cand.width * 2 ^ 24 + e.cand.conf * 2 ^ 20 + e.cls * 2 ^ 17 +
    b2n e.cand.binSat * 65536 + b2n stopLimit * 32768 + b2n e.cand.fallback * 16384 + b2n e.fold * 8192 + b2n e.overlap * 4096 + 8

/-- The 32 bytes of an echo queue (R164); flags are the POINT_FLAGS bits [4:0]. -/
def queueBytes (echoes : List EchoOut) (stopLimit : Bool) (flags : Nat) : Bytes :=
  let recs := echoes.map fun e => echoRecord e stopLimit
  ((List.range 4).map fun i => le 8 (recs.getD i 0 + if i = 0 then flags * 128 + echoes.length * 16 else 0)).flatten

/-- POINT_FLAGS of a row (R165): UNLIT 1, PARITY 2, MASKED 4, BAND_FAILED 8, NOT_PROCESSED 16. -/
def pointFlags (x : ColumnRec) (cut : Bool) (row : Nat) : Nat :=
  b2n (x.litSlots (bandOf row)).isEmpty + 2 * b2n (decide (row ∈ x.parity)) + 4 * b2n (x.masked.getLsbD row) +
    8 * b2n (!x.valid.getLsbD (bandOf row)) + 16 * b2n cut

/-! ### Column budget (R167, R168) -/

/-- ENGINE_BUDGET (R167). -/
def Cfg.engineBudget (c : Cfg) : Nat := (640 * c.cMin / 32000).floor.toNat

/-- Rows of engine e in its order of processing for column n (R152). DESIGN CHOICE: log entry 50. -/
def engineRows (n e : Nat) : List Nat := (List.range 16).map fun i => 32 * ((n + i) % 16) + e

/-- Rows that the budget cuts in one engine: the first that could take it past its budget, and the later ones. The cost of a row is
the implementation's (log entry 5). -/
def engineCut (a : ColumnAcc) (budget : Nat) : List Nat → Nat → List Nat
  | [], _ => []
  | r :: rest, spent =>
    let cost := spent + Config.rowCost (a.histRow r) (a.stampRow r)
    if budget < cost then r :: rest else engineCut a budget rest cost

/-- Rows that the budget cuts. -/
def budgetCut (c : Cfg) (x : ColumnRec) : List Nat :=
  ((List.range 32).map fun e => engineCut x.acc c.engineBudget (engineRows x.column e) 0).flatten

/-- Rows that a lane had finished when the next tick cut it, of the count n: in the order in which the engines take them (R168). -/
def unfinished (column n : Nat) : List Nat :=
  (((List.range 16).map fun i => (List.range 32).map fun e => 32 * ((column + i) % 16) + e).flatten).drop n

/-! ### The whole column -/

/-- λ in kcps of a FLOOR row (R154): r = 32 λ C(31, d − 1) (λ × 1 ns)^(d − 1) solved for λ, rounded down; r in stops per ns.
In kcps, λ = L × 10^-6 per ns. -/
def lambdaOf (r : Rat) (d : Nat) : Nat :=
  let c : Nat := [1, 31, 465, 4495].getD (d - 1) 1
  let target : Rat := r * (10 ^ (6 * d) : Nat) / ((32 * c : Nat) : Rat)
  (List.range 40).foldl (fun l k => let t := l + 2 ^ (39 - k); if ((t ^ d : Nat) : Rat) ≤ target then t else l) 0

/-- The R154 estimate of a band from its FLOOR rows: the lower median, valid with at least 8 rows. -/
def bandEstimate (lams : List Nat) : Nat :=
  if lams.length < 8 then 0xFFFFFFFF else min 0xFFFFFFFE ((lowerMedian (fun a b => decide (a < b)) lams).getD 0)

/-- Ambient of a band: for each of its 32 rows ρ and source, 3 where it takes none (R153). -/
def bandAmbient (c : Cfg) (x : ColumnRec) (l : Launches) (b : Nat) : List (Option Rat × Nat) :=
  let unlit := c.unlitTime x.acc.slots b x.opened x.shotPeriod x.used x.ended
  let slots := x.litSlots b
  let first := (List.range 32).map fun i =>
    let row := 32 * b + i
    if x.usable row then rowRate c x unlit (slots.map (coverOf c x l row)) row else none
  (List.range 32).map fun i =>
    if !x.usable (32 * b + i) then (none, 4)
    else match first.getD i none with
      | some (r, src) => (some r, src)
      | none =>
        let others := first.filterMap fun o => o.map (·.1)
        match lowerMedian (fun a b => decide (a < b)) others with
        | some m => (some m, 2)
        | none => (some 0, 3)

/-- Phase 1 of a row: its view and its surviving candidates. -/
def phase1 (c : Cfg) (x : ColumnRec) (l : Launches) (rho : Rat) (row : Nat) : RowView × List Cand :=
  let b := bandOf row
  let slots := x.litSlots b
  let covers := slots.map (coverOf c x l row)
  let w := c.binLsb
  let h := x.acc.histRow row
  let quarter := maxNat (slots.map fun s => quarterNs s.width)
  let amb := if h.isEmpty then [] else (List.range 1536).map (ambientBin rho w covers)
  let v : RowView :=
    { row, hist := h, stamps := x.acc.stampRow row, amb, launches := l, lit := slots.length,
      va := ambientWeight c (x.depth.getD b 1), run := runLength w quarter }
  if h.isEmpty ∨ slots.isEmpty then (v, [])
  else
    let bins := (List.range 1536).map fun j => (h.find? fun p => p.1 == j).elim 0 (·.2)
    let ks := candidates bins amb v.run (2 ^ c.nat Id.HIST_SHIFT) (c.nat Id.PEAK_K) (c.nat Id.ECHO_MIN_NET)
    (v, ks.filterMap (refine c x v))

/-- What a lane makes of a column; cut holds the rows that the next COLUMN_TICK left unfinished (R168). -/
def laneColumn (f : Factory) (x : ColumnRec) (late : List Nat) : LaneColumn :=
  let c := x.conf f
  let cut := if x.selftest then List.range 512 else budgetCut c x ++ late
  let ls := (List.range 16).map (launchesOf c x)
  let ambs := (List.range 16).map fun b => bandAmbient c x (ls.getD b { eps := [], median := 0 }) b
  let ambOf := fun (row : Nat) => (ambs.getD (bandOf row) []).getD (row % 32) (none, 4)
  let rows := (List.range 512).map fun row =>
    let l := ls.getD (bandOf row) { eps := [], median := 0 }
    if x.usable row && !(row ∈ cut) then some (phase1 c x l ((ambOf row).1.getD 0) row) else none
  let all := (rows.filterMap fun o => o.map (·.2)).flatten
  let outs := (List.range 512).map fun row => match rows.getD row none with
    | none => ([], 0)
    | some (v, cands) =>
      let es := cands.map fun k =>
        let fold := foldTest c x v k
        let above := overlaps cands k
        { cand := k, cls := classOf c all k (fold || above), fold, overlap := above : EchoOut }
      let kept := chooseEchoes (c.nat Id.ECHO_SELECT) es
      (kept, es.length - kept.length)
  let tol := c.nat Id.LAUNCH_TOL
  { queues := ((List.range 512).map fun row =>
      queueBytes (outs.getD row ([], 0)).1 (decide (row ∈ x.acc.limited)) (pointFlags x (decide (row ∈ cut)) row)).flatten
    incomplete := !cut.isEmpty || x.wordLost
    histSat := x.acc.hist.any fun p => p.2 == 0xFFFFF
    cutRows := cut.eraseDups.length
    ambSource := (List.range 16).foldl (fun m b =>
      let srcs := (ambs.getD b []).map (·.2)
      let took := srcs.filter (· < 4)
      m + (if took.isEmpty then 3 else maxNat took) * 4 ^ b) 0
    ambient := (List.range 16).map fun b =>
      let d := x.depth.getD b 1
      bandEstimate (((ambs.getD b []).filter fun p => p.2 == 1).filterMap fun p =>
        p.1.map fun r => lambdaOf (r / ambientWeight c d) d)
    dropped := sumNat (outs.map (·.2))
    excluded := (x.acc.slots.filter fun s => (List.range 16).any fun b =>
      (ls.getD b { eps := [], median := 0 }).excluded tol s.num).length
    saturations := ((x.acc.hist.filter fun p => p.2 == 0xFFFFF).map fun p => p.1 / 1536).eraseDups.length }

/-- The place of a queue in the echo store (R166): its byte offset. -/
def queueOffset (frame : U32) (columns column row : Nat) : Nat :=
  32 * (((frame.toNat % (2048 / columns)) * columns + column) * 512 + row)

/-- HISTOGRAM_SPAN passes (R151): S ≥ 2 × RANGE_MAX / c_air + RX_GATE_ON + 25 ns. -/
def Cfg.histSpanOk (c : Cfg) : Bool :=
  let span : Rat := (c.histSpan : Rat) / 32
  decide ((2 : Rat) * c.nat Id.RANGE_MAX * 1000000 / (2997046445 / 10) + (c.nat Id.RX_GATE_ON : Rat) / 2 + 25 ≤ span)

end Sys2Proof.Machine
end

