-- ==== Sys2Proof/Machine/Formats.lean ====
section
/-! DEFINITION. What the LM512 sends outside Baspo, byte by byte (chapter 13): stream headers, frame and column headers, rows, capture
records with their reductions, marks, record fragments and segment images. -/

namespace Sys2Proof.Machine

open Sys2Proof

/-! ### Datagrams (R271, R272) -/

/-- The 16-byte stream header of Table 13.1. -/
def streamHead (kind id off column len : Nat) : Bytes :=
  le 2 0xBA53 ++ le 1 1 ++ le 1 kind ++ le 4 id ++ le 4 off ++ le 2 column ++ le 2 len

/-- A unit cut into datagrams of 1436 data bytes in ascending OFFSET. -/
def unitDatagrams (kind id column : Nat) (bs : Bytes) : List Bytes :=
  (cut 1436 bs).zipIdx.map fun p => streamHead kind id (1436 * p.2) column p.1.length ++ p.1

/-- W for E echoes (R264). -/
def unitBytes (e : Nat) : Nat := 64 + 512 * (4 + 8 * e)

/-- D for E echoes, or D_c with coding (R264, R289). -/
def columnBytes (e : Nat) (coded : Bool) : Nat :=
  let n := unitBytes e + if coded then 20 else 0
  n + 16 * cdiv n 1436

/-- F_w for N columns (R265). -/
def frameBytes (e : Nat) (coded : Bool) (n : Nat) : Nat := 80 + n * columnBytes e coded

/-! ### Columns (R274, R275) -/

/-- A column as the holder releases it. -/
structure Released where
  /-- The column. -/
  col : ColumnRec
  /-- What the holder made of it; none for a column released header-only (R250). -/
  result : Option LaneColumn
  /-- HOLDER. -/
  holder : LaneId
  /-- COMPARE. -/
  compare : Nat
  /-- TAKEOVER. -/
  takeover : Bool
  /-- LANE_GAP. -/
  gap : Bool
  /-- ANGLE and its flags. -/
  angle : ColAngle
  /-- GAIN_SET, TRACK_ERROR and HANDOVER. -/
  ctl : ColCtl
  deriving DecidableEq, Repr

/-- AMB_SOURCE of a column: 3 for every band where no row was processed. -/
def Released.ambSource (r : Released) : Nat := (r.result.map (·.ambSource)).getD 0xFFFFFFFF

/-- A bin of the column saturated. -/
def Released.histSat (r : Released) : Bool := r.col.acc.hist.any fun p => p.2 == 0xFFFFF

/-- INCOMPLETE. -/
def Released.incomplete (r : Released) : Bool := (r.result.map (·.incomplete)).getD true

/-- CUT_ROWS. -/
def Released.cutRows (r : Released) : Nat := (r.result.map (·.cutRows)).getD 512

/-- FLAGS of Table 13.5. -/
def Released.flags (r : Released) : Nat :=
  b2n r.incomplete + 2 * b2n r.histSat + 4 * b2n r.angle.unsettled + 8 * b2n r.angle.invalid + 16 * b2n r.ctl.handover +
    32 * r.compare + 128 * b2n (r.holder == .b) + 256 * b2n r.takeover + 512 * b2n r.gap + 1024 * b2n (r.col.borrowed != 0) +
    2048 * b2n r.col.unsync + 4096 * b2n r.col.previous + 8192 * b2n r.col.dark

/-- The 64-byte column header (Table 13.4). -/
def Released.header (r : Released) : Bytes :=
  let x := r.col
  let depths := (List.range 16).foldl (fun m b => m + (x.depth.getD b 1 - 1) * 4 ^ b) 0
  le 4 x.frame.toNat ++ le 2 x.column ++ le 1 x.pattern ++ le 1 x.heldCount ++ le 8 x.time.toNat ++ le 4 x.camera.toNat ++
    leInt 4 r.angle.angle ++ leInt 4 (sat20 r.ctl.error) ++ le 4 depths ++ le 4 r.ambSource ++ le 2 x.valid.toNat ++ le 2 x.heldReason ++
    le 2 r.cutRows ++ le 1 r.ctl.gain ++ [0] ++ le 4 r.flags ++ le 4 x.seq.toNat ++ zeros 12

/-- ECHO_COUNT of an echo queue, from its record 0 (R164). -/
def queueCount (q : Bytes) : Nat := leNat (q.take 8) / 16 % 8

/-- POINT_FLAGS of an echo queue. -/
def queueFlags (q : Bytes) : Nat := leNat (q.take 8) / 128 % 32

/-- One row of a column unit (R275): point word and E echo records; a record beyond ECHO_COUNT is zero. -/
def rowBytes (row e : Nat) (q : Bytes) : Bytes :=
  let n := queueCount q
  le 4 (row * 512 + (if e < n then 256 else 0) + n * 32 + queueFlags q) ++ slice q 0 (8 * min n e) ++ zeros (8 * (e - n))

/-- The echo queue of a row in a block of 512. -/
def queueOf (queues : Bytes) (row : Nat) : Bytes := slice queues (32 * row) 32

/-- Cut the block of 512 queues. -/
def queueList (queues : Bytes) : List Bytes := cut 32 queues

/-- The column unit with E echoes (R274); in a LANE_GAP column every row reads zero except ROW (R275). -/
def Released.unit (r : Released) (e : Nat) : Bytes :=
  r.header ++ match r.result with
    | some l => ((queueList l.queues).zipIdx.map fun p => rowBytes p.2 e p.1).flatten
    | none => ((List.range 512).map fun row => le 4 (row * 512) ++ zeros (8 * e)).flatten

/-! ### Capture records (R256, R280) -/

/-- Bands of CAP_BANDS. -/
def bandsOf (m : Nat) : List Nat := (List.range 16).filter fun b => bit m b

/-- LIT_SLOTS of a band (Table 06.3). -/
def ColumnRec.litMask (x : ColumnRec) (b : Nat) : Nat := (x.litSlots b).foldl (fun m s => m ||| 2 ^ s.num) 0

/-- CHANNEL_FLAGS of a row (Table 06.3). -/
def ColumnRec.channelFlags (x : ColumnRec) (row : Nat) : Nat :=
  b2n (x.masked.getLsbD row) + 2 * b2n (decide (row ∈ x.acc.limited)) + 4 * b2n (decide (row ∈ x.parity))

/-- The 384-byte side block of a band (R280). -/
def sideBlock (f : Factory) (x : ColumnRec) (b : Nat) : Bytes :=
  let c := x.conf f
  le 1 (b2n (x.valid.getLsbD b)) ++ le 1 (x.depth.getD b 1) ++ le 2 b ++
    le 4 (min 0xFFFFFFFF (c.unlitTime x.acc.slots b x.opened x.shotPeriod x.used x.ended)) ++ le 4 (min 0xFFFFFFFF (x.primary.getD b 0)) ++
    zeros 4 ++ le 8 (x.litMask b) ++
    ((List.range 64).map fun k => le 4 ((x.acc.slots.find? fun s => s.num == k).elim 0xFFFFF fun s => s.launchOf b)).flatten ++
    ((List.range 32).map fun i => le 2 (natAt x.acc.ambient (32 * b + i))).flatten ++
    ((List.range 32).map fun i => le 1 (x.channelFlags (32 * b + i))).flatten ++ zeros 8

/-- Bins of a row from a first bin on. -/
def histBytes (a : ColumnAcc) (row first n : Nat) : Bytes :=
  let h := a.histRow row
  ((List.range n).map fun i => le 4 ((h.find? fun p => p.1 == first + i).elim 0 (·.2))).flatten

/-- The 512 stamp words of a row; unused entries read 0xFFFF_FFFF. -/
def stampBytes (a : ColumnAcc) (row : Nat) : Bytes :=
  let ws := (a.stampRow row).map (·.toNat)
  ((ws ++ rep (512 - ws.length) 0xFFFFFFFF).map (le 4)).flatten

/-- Bytes of a record (Table 12.2). -/
def recordBytes (source bands bins : Nat) : Nat :=
  let n := (bandsOf bands).length
  if source = 0 then 16448 else if source = 1 then 64 + n * (384 + 128 * bins) else if source = 2 then 64 + n * 65920 else 64

/-- Bursts of a record (Table 12.2). -/
def recordBursts (source bands bins : Nat) : Nat :=
  let n := (bandsOf bands).length
  if source = 0 then 257 else if source = 1 then 1 + n * (6 + 2 * bins) else if source = 2 then 1 + n * 1030 else 1

/-- A column record (R256); a column released header-only is stored with its data area zero. -/
def Released.record (r : Released) (f : Factory) (g : Segment) : Bytes :=
  r.header ++ match r.result with
    | none => zeros (recordBytes g.source g.bands g.binCount - 64)
    | some l =>
      if g.source = 0 then l.queues
      else ((bandsOf g.bands).map fun b =>
        sideBlock f r.col b ++ ((List.range 32).map fun i =>
          if g.source = 1 then histBytes r.col.acc (32 * b + i) g.binFirst g.binCount else stampBytes r.col.acc (32 * b + i)).flatten).flatten

/-- A sample record: Table 09.8, u_out as Q15, 26 zero bytes (Table 12.2). -/
def sampleRecord (r : Sample) (u : Int) : Bytes := r.bytes ++ leInt 2 u ++ zeros 26

/-! ### Reductions (R260, Table 12.4) -/

/-- The echo records of a queue that hold an echo. -/
def queueEchoes (q : Bytes) : List Nat := (List.range (queueCount q)).map fun k => leNat (slice q (8 * k) 8)

/-- The reduction of a POINTS record. -/
def reducePoints (b : Bytes) : Bytes :=
  let qs := queueList (b.drop 64)
  let es := (qs.map queueEchoes).flatten
  let targets := (es.filter fun e => e / 131072 % 8 == 0).map fun e => e / 2 ^ 44
  le 2 (qs.filter fun q => queueCount q != 0).length ++ le 2 es.length ++ le 4 (targets.foldl min 0xFFFFFFFF) ++
    le 2 (maxNat (es.map fun e => e / 2 ^ 32 % 4096)) ++ le 1 (qs.foldl (fun m q => m ||| queueFlags q) 0) ++
    le 1 (u32At b 44 / 32 % 4) ++ le 2 (u16At b 4) ++ zeros 2

/-- U32 words of a byte string. -/
def words32 (b : Bytes) : List Nat := (cut 4 b).map leNat

/-- The reduction of a HISTOGRAMS record: the largest bin, the first of equals. -/
def reduceHist (bands first n : Nat) (b : Bytes) : Bytes :=
  let bs := bandsOf bands
  let parts := (cut (384 + 128 * n) (b.drop 64)).zip bs
  let rows := (parts.map fun p => (List.range 32).map fun i => (32 * p.2 + i, words32 (slice p.1 (384 + 4 * n * i) (4 * n)))).flatten
  let bins := (rows.map fun r => r.2.zipIdx.map fun q => (q.1, first + q.2, r.1)).flatten
  let best := bins.foldl (fun (m : Nat × Nat × Nat) q => if m.1 < q.1 then q else m) (bins.headD (0, first, 0))
  le 4 best.1 ++ le 2 best.2.1 ++ le 2 best.2.2 ++ le 4 (min 0xFFFFFFFF (sumNat (bins.map (·.1)))) ++
    le 2 (min 65535 (bins.filter fun q => q.1 == 0xFFFFF).length) ++ le 2 (u16At b 4)

/-- The reduction of a STAMPS record. -/
def reduceStamps (bands : Nat) (b : Bytes) : Bytes :=
  let parts := cut 65920 (b.drop 64)
  let sides := parts.map (·.take 384)
  let held := sumNat (parts.map fun p => ((words32 (p.drop 384)).filter fun w => w != 0xFFFFFFFF).length)
  let gap := bands = 0 ∨ (b.drop 64).all (· == 0)
  let lit := sides.foldl (fun m s => m ||| leNat (slice s 16 8)) 0
  le 4 (if gap then 0 else held) ++
    le 2 (sumNat (sides.map fun s => ((slice s 344 32).filter fun x => x.getLsbD 1).length)) ++
    le 2 ((List.range 64).filter fun k => bit lit k).length ++ le 4 (min 0xFFFFFFFF (sumNat (sides.map fun s => u32At s 8))) ++
    le 2 (u16At b 4) ++ zeros 2

/-- The reduction of up to 64 SAMPLES records. -/
def reduceSamples (l : List Bytes) : Bytes :=
  let angles := l.map fun b => i32At b 32
  let a0 := angles.headD 0
  leInt 4 (angles.foldl min a0) ++ leInt 4 (angles.foldl max a0) ++ le 2 (maxNat (l.map fun b => (i16At b 36).natAbs)) ++
    le 1 (l.foldl (fun m b => m ||| u8At b 7) 0) ++ le 1 l.length ++ le 4 (u32At (l.headD []) 0)

/-- Groups of 64 records. -/
def groups64 : Nat → List Bytes → List (List Bytes)
  | 0, _ => []
  | k + 1, l => if l.isEmpty then [] else l.take 64 :: groups64 k (l.drop 64)

/-- The reductions of a segment, oldest first. -/
def Segment.reductions (g : Segment) : List Bytes :=
  if g.source = 0 then g.records.map reducePoints
  else if g.source = 1 then g.records.map (reduceHist g.bands g.binFirst g.binCount)
  else if g.source = 2 then g.records.map (reduceStamps g.bands)
  else (groups64 g.records.length g.records).map reduceSamples

/-! ### Segments (R279) -/

/-- U64 ns and U8 FINE of a time in 31.25 ps, rounded down (R142). -/
def timeBytes (t : Int) : Bytes := leInt 8 (t / 32) ++ le 1 (t % 32).toNat

/-- UNSYNC and UNPLACED of a trigger at bits [3:2]. -/
def Trigger.flags (g : Trigger) : Nat := 4 * b2n g.unsync + 8 * b2n g.unplaced

/-- FLAGS of a segment header. -/
def Segment.flags (g : Segment) : Nat :=
  b2n (decide (g.preValid < g.pre)) + 2 * b2n g.shortPost + (g.trigger.map (·.flags)).getD 0 + 16 * b2n g.overSlot

/-- Bytes 0 to 251 of the segment header (Table 13.8). -/
def Segment.headBody (g : Segment) : Bytes :=
  let t := g.trigger.map (·.time)
  let samples := g.source = 3
  le 2 0x5347 ++ le 1 1 ++ le 1 g.source ++ le 4 g.num.toNat ++ timeBytes (t.getD 0) ++
    le 1 ((g.trigger.map (·.source)).getD 0) ++ le 2 g.flags ++ le 2 g.preValid ++ le 2 g.postValid ++ le 2 g.pre ++ le 2 g.post ++
    le 4 (recordBytes g.source g.bands g.binCount) ++ le 4 (if samples then 0 else g.frame.toNat) ++
    le 2 (if samples then 0xFFFF else g.column) ++ le 2 g.bands ++ le 4 (if samples then g.index.toNat else 0) ++ le 2 g.binFirst ++
    le 2 g.binCount ++ le 4 g.extra ++ le 4 g.reductions.length ++ le 4 g.lockId.toNat ++ le 4 g.markSeq.toNat ++
    (g.extras.map fun e => timeBytes e.time ++ le 1 e.source ++ le 2 e.flags ++ zeros 4).flatten ++
    zeros (16 * (8 - g.extras.length)) ++ zeros 60

/-- The 256-byte segment header with its CRC. -/
def Segment.header (g : Segment) : Bytes := g.headBody ++ le 4 (crc32 g.headBody).toNat

/-- The segment image (R279). -/
def Segment.image (g : Segment) : Bytes := g.header ++ g.reductions.flatten ++ g.records.flatten

/-! ### Marks and fragments (R277, R278) -/

/-- The 32-byte mark item (Table 13.6). -/
def markItem (seq : U32) (g : Trigger) (outcome : Nat) (frame : U32) (column : Nat) (camera segment : U32) : Bytes :=
  le 1 1 ++ le 1 g.source ++ le 1 (b2n g.unsync + 2 * b2n g.unplaced) ++ le 1 outcome ++ le 4 seq.toNat ++ timeBytes g.time ++ [0] ++
    le 2 column ++ le 4 frame.toNat ++ le 4 camera.toNat ++ le 4 segment.toNat

/-- Groups of n entries. -/
def groupsOf {α : Type} (n : Nat) : Nat → List α → List (List α)
  | 0, _ => []
  | k + 1, l => if l.isEmpty then [] else l.take n :: groupsOf n k (l.drop n)

/-- The fragments of a timing-input record (R278): heads of Table 13.7 and edge words. -/
def TinRec.fragments (r : TinRec) : List Bytes :=
  let parts := if r.edges.isEmpty then [[]] else groupsOf 351 r.edges.length r.edges
  parts.zipIdx.map fun p =>
    le 1 2 ++ le 1 r.kind ++
      le 1 (b2n r.gapMark + 2 * b2n r.unsync + 4 * b2n r.holdover + 8 * b2n r.close + 16 * b2n r.lost) ++ le 1 r.reason ++
      le 4 r.seq.toNat ++ timeBytes r.anchor ++ le 1 p.2 ++ le 2 (r.edges.length + 1) ++ le 4 r.gap ++ le 2 p.1.length ++ zeros 6 ++
      (p.1.map fun w => le 4 w.toNat).flatten

/-! ### The frame header (R273) -/

/-- FSYNC_STATE as a number. -/
def Phasing.code : Phasing → Nat
  | .free => 0
  | .locked => 1
  | .lull => 2
  | .relock => 3

/-- FLAGS of Table 13.3, but for CODED and SELFTEST. DEDUCED: log entry 34. -/
def State.frameFlags (s : State) : Nat :=
  b2n s.scan.lullFlag + 2 * b2n s.scan.relockFlag + 4 * b2n s.scan.swapFlag + 8 * b2n s.scan.fade.isSome +
    16 * b2n s.emit.resume.isSome + 32 * b2n s.front.tempFlag + 64 * b2n s.arb.redundancyLost +
    256 * b2n (s.cfgN Id.BUS_ROLE == 2 && s.bus.state != 2) + 512 * b2n s.scan.info.unsync

/-- The 64-byte frame header (Table 13.2) at the release of column 0. -/
def State.frameHeader (s : State) (x : ColumnRec) (echoMax gap : Nat) (coded : Bool) : Bytes :=
  let i := s.scan.info
  le 4 x.frame.toNat ++ le 1 i.mode ++ le 1 i.fsync ++ le 1 i.control ++ le 1 gap ++ le 8 i.time.toNat ++
    le 4 (planTag s.activePlan.image).toNat ++ le 4 s.scan.frameCamera.toNat ++ le 4 x.period ++ le 4 ((s.scan.flyLen + 16) / 32) ++
    le 2 s.emit.retired.toNat ++ le 1 s.emit.derate.applied.toNat ++ le 1 i.range ++ leInt 2 i.temp ++
    le 2 (s.frameFlags + 128 * b2n x.selftest + 1024 * b2n coded) ++ le 4 i.lockId.toNat ++ le 1 echoMax ++
    le 1 ((x.conf s.fac).nat Id.HIST_BIN_WIDTH) ++ zeros 2 ++ le 4 i.fleet ++ zeros 12

end Sys2Proof.Machine
end

