-- ==== Sys2Proof/Machine/Stream.lean ====
section
/-! DEFINITION. The point stream (chapter 12): subscriptions, the Weir, marks and items, the offload of segments, and the datagrams
that leave on the link. -/

namespace Sys2Proof.Machine

open Sys2Proof

/-! ### The link and its subscriptions -/

/-- NET can send stream datagrams. -/
def State.streaming (s : State) : Bool := s.net.link && s.isOn 2

/-- Subscriptions of a stream. -/
def State.subsOf (s : State) (stream : Nat) : List StreamSub := s.stream.subs.filter fun b => b.stream == stream

/-- Send a datagram to the destinations that are still subscribed; NET sends one copy to each (R263). -/
def State.sendStream (s : State) (dests : List U32) (bs : Bytes) : State :=
  (s.stream.subs.filter fun b => b.num ∈ dests).foldl (fun y b => y.send (.stream b.num.toNat bs)) s

/-- Bytes of a queue of datagrams. -/
def queueLength (l : List Datagram) : Nat := sumNat (l.map fun d => d.bytes.length)

/-- Stream buffer for frames: 19 MiB. -/
def streamBuffer : Nat := 19922944

/-- STREAM_BUFFER_USED: held and reserved. -/
def State.bufferUsed (s : State) : Nat := queueLength s.stream.queue0 + s.stream.reserved

/-! ### Items (R266, R276) -/

/-- Mark queue: 1 MiB. -/
def itemBuffer : Nat := 1048576

/-- A mark is lost: counted, and MARKS_DROPPED at most once per second (R266). -/
def State.loseMark (s : State) (seq : U32) : State :=
  let s1 := s.count Id.MARKS_LOST
  let t := s1.stream
  let first := t.lostFirst.getD seq
  let n := t.lostCount + 1
  let quiet : Bool := match t.lostAt with
    | some a => a + Sys2Proof.sec 1 ≤ s.now
    | none => true
  let due : Bool := match t.lostEvent with
    | some a => a + Sys2Proof.sec 1 ≤ s.now
    | none => true
  if quiet || due then
    let s2 := { s1 with stream := { t with lostFirst := none, lostCount := 0, lostAt := some s.now, lostEvent := some s.now } }
    s2.raise 0x6006 1 first (u32 n)
  else { s1 with stream := { t with lostFirst := some first, lostCount := n, lostAt := some s.now } }

/-- Drop the oldest items of a full queue; a mark dropped is lost. Fuel bounds the items dropped. -/
def State.trimItems : Nat → State → State
  | 0, s => s
  | n + 1, s =>
    if sumNat (s.stream.items.map (·.length)) ≤ itemBuffer then s
    else match s.stream.items with
      | [] => s
      | i :: r =>
        let s1 := { s with stream := { s.stream with items := r } }
        (if u8At i 0 = 1 then s1.loseMark (u32 (u32At i 4)) else s1).trimItems n

/-- Enter items into the mark queue. -/
def State.pushItems (s : State) (l : List Bytes) : State :=
  let s1 := { s with stream := { s.stream with items := s.stream.items ++ l } }
  s1.trimItems s1.stream.items.length

/-- Mark a trigger (R266): its MARK_SEQ, 0xFFFF_FFFF where STREAM_MARK_MASK does not name its source. -/
def State.mark (s : State) (g : Trigger) (outcome : Nat) (frame : U32) (column : Nat) (camera segment : U32) : State × U32 :=
  if bit (s.cfgN Id.STREAM_MARK_MASK) g.source then
    let n := s.stream.markSeq + 1
    let s1 := { s with stream := { s.stream with markSeq := n } }
    (s1.pushItems [markItem n g outcome frame column camera segment], n)
  else (s, 0xFFFFFFFF)

/-- Items of the next ITEMS datagram: at most 40, at most 1436 bytes (R276). -/
def takeItems : Nat → Nat → List Bytes → List Bytes × List Bytes
  | 0, _, l => ([], l)
  | _, _, [] => ([], [])
  | n + 1, room, i :: r =>
    if i.length ≤ room then
      let p := takeItems n (room - i.length) r
      (i :: p.1, p.2)
    else ([], i :: r)

/-- MARKS_SEND: one ITEMS datagram leaves. Without items, link or subscription to stream 0, nothing leaves. -/
def doMarksSend (t : Time) (s0 : State) : State :=
  let s := s0.at t
  let subs := s.subsOf 0
  if s.stream.items.isEmpty || subs.isEmpty || !s.streaming then s
  else
    let p := takeItems 40 1436 s.stream.items
    let n := s.stream.itemsSeq + 1
    let s1 := { s with stream := { s.stream with items := p.2, itemsSeq := n } }
    s1.sendStream (subs.map StreamSub.num) (streamHead 4 n.toNat 0 0xFFFF p.1.flatten.length ++ p.1.flatten)

/-! ### The Weir (R265) -/

/-- WEIR_DROP at most once per second, with the first frame dropped and the count since the last event. -/
def State.weirEvent (s : State) : State :=
  let due : Bool := match s.stream.dropEvent with
    | some a => a + Sys2Proof.sec 1 ≤ s.now
    | none => true
  if due then
    let s1 := { s with stream := { s.stream with dropFirst := none, dropCount := 0, dropEvent := some s.now } }
    s1.raise 0x6005 1 (s.stream.dropFirst.getD 0) (u32 s.stream.dropCount)
  else s

/-- A frame counts as dropped. -/
def State.weirDrop (s : State) (frame : U32) : State :=
  let s1 := s.count Id.WEIR_DROPPED_FRAMES
  let t := s1.stream
  { s1 with stream := { t with
      gap := min 255 (t.gap + 1), lastDrop := frame, dropFirst := some (t.dropFirst.getD frame), dropCount := t.dropCount + 1 } }.weirEvent

/-- Put datagrams of the admitted frame into the stream buffer. -/
def State.pushFrame (s : State) (frame : U32) (ds : List Bytes) : State :=
  let l := ds.map fun b => { bytes := b, last := false, id := frame, dests := s.stream.dests : Datagram }
  { s with stream := { s.stream with queue0 := s.stream.queue0 ++ l } }

/-- Release of column 0: the Weir admits the frame or drops it whole (Table 12.5 steps 1, 2 and 6). With STREAM_ENABLE 0 there is no
stream, and no frame is admitted or dropped. DEDUCED: log entry 73. -/
def State.weirAdmit (s : State) (x : ColumnRec) : State :=
  let e := s.cfgN Id.STREAM_ECHO_MAX
  let coded := s.cfgN Id.STREAM_CODING == 1
  let s1 := { s with stream := { s.stream with admitted := none, reserved := 0 } }
  let subs := s1.subsOf 0
  if s.cfgN Id.STREAM_ENABLE = 0 then s1
  else
    let fw := frameBytes e coded x.columns
    if s1.streaming && !subs.isEmpty && s1.bufferUsed + fw ≤ streamBuffer then
      let head := s1.frameHeader x e s1.stream.gap coded
      let s2 := { s1 with stream := { s1.stream with
        admitted := some x.frame, reserved := fw - 80, dests := subs.map StreamSub.num, written := 0, gap := 0,
        format := (e, b2n coded, s1.cfgN Id.CODE_DELTA) } }
      s2.pushFrame x.frame [streamHead 1 x.frame.toNat 0 0xFFFF 64 ++ head]
    else s1.weirDrop x.frame

/-- The unit of a column as it is sent: KIND and bytes, with the coding counters (R289). DEDUCED: log entry 25. -/
def State.columnUnit (s : State) (r : Released) : State × Nat × Bytes :=
  let (e, coded, delta) := s.stream.format
  let u := r.unit e
  if coded = 0 then (s, 2, u)
  else
    let b := codeBlock u true (if delta = 1 then some (64, 4 + 8 * e) else none)
    let s1 := (s.count Id.CODE_BLOCKS).count Id.CODE_RAW_BLOCKS (b2n b.2)
    ({ s1 with stream := { s1.stream with ratio := b.1.length * 1000 / (20 + unitBytes e) } }, 3, b.1)

/-- A released column enters the stream where its frame is admitted; its unused reservation is returned (Table 12.5 step 3). -/
def State.streamColumn (s : State) (r : Released) : State :=
  let s1 := if r.col.column = 0 then s.weirAdmit r.col else s
  if s1.stream.admitted = some r.col.frame then
    let p := s1.columnUnit r
    let d := columnBytes p.1.stream.format.1 (p.1.stream.format.2.1 == 1)
    let s3 := p.1.pushFrame r.col.frame (unitDatagrams p.2.1 r.col.frame.toNat r.col.column p.2.2)
    let n := s3.stream.written + 1
    let done := decide (r.col.columns ≤ n)
    { s3 with stream := { s3.stream with
        written := n, reserved := if done then 0 else s3.stream.reserved - d, admitted := if done then none else s3.stream.admitted } }
  else s1

/-- Frames with datagrams not yet sent, and the admitted frame. -/
def State.openFrames (s : State) : List U32 :=
  ((s.stream.queue0.map (·.id)) ++ s.stream.admitted.toList).eraseDups

/-- The link or NET is lost: datagrams waiting are discarded, their frames count as dropped (Table 12.5 step 5), and a segment
being offloaded is sent again as a whole later. -/
def State.streamLost (s : State) : State :=
  let fs := s.openFrames
  let s1 := { s with stream := { s.stream with
    queue0 := [], queue1 := [], admitted := none, reserved := 0, offload := none } }
  fs.foldl State.weirDrop s1

/-! ### Stream 1: segments (R263, R272) -/

/-- The oldest closed segment not yet sent. -/
def State.nextOffload (s : State) : Option Segment := s.cap.held.find? fun g => !g.offloaded

/-- Begin the offload of the oldest closed segment where none runs, the link is up and stream 1 is subscribed. -/
def State.startOffload (s : State) : State :=
  let subs := s.subsOf 1
  if s.stream.offload.isSome || subs.isEmpty || !s.streaming then s
  else match s.nextOffload with
    | none => s
    | some g =>
      let ds := unitDatagrams 5 g.num.toNat 0xFFFF g.image
      let l := ds.zipIdx.map fun p =>
        { bytes := p.1, last := p.2 + 1 == ds.length, id := g.num, dests := subs.map StreamSub.num : Datagram }
      { s with stream := { s.stream with offload := some g.num, queue1 := l } }

/-- Change a held segment. -/
def State.modHeld (s : State) (num : U32) (f : Segment → Segment) : State :=
  { s with cap := { s.cap with held := s.cap.held.map fun x => if x.num = num then f x else x } }

/-- A slot becomes free: capture that is FULL is armed in it 1 µs later (Table 12.3 step 7). -/
def State.slotFreed (s : State) : State :=
  if s.cap.state = 4 ∧ s.cap.due.isNone then { s with cap := { s.cap with due := some (s.now + usec 1) } } else s

/-- A closed segment leaves the partition; a running offload of it ends. -/
def State.dropSegment (s : State) (num : U32) : State :=
  let s1 := { s with cap := { s.cap with held := s.cap.held.filter fun g => g.num != num } }
  if s.stream.offload = some num then { s1 with stream := { s1.stream with offload := none, queue1 := [] } } else s1

/-- Release a closed segment; one that waits for copying is released when its copy ends (R339). -/
def State.freeSegment (s : State) (num : U32) : State :=
  match s.cap.held.find? fun g => g.num == num with
  | none => s
  | some g =>
    if g.copyQueued then
      s.modHeld num fun x => { x with releaseDue := true }
    else (s.dropSegment num).slotFreed

/-- The last datagram of a segment has left: automatic release, then the next segment (R261). -/
def State.offloadDone (s : State) (num : U32) : State :=
  let s1 := { s with stream := { s.stream with offload := none } }.modHeld num fun x => { x with offloaded := true }
  let auto := s.cap.held.any fun g => g.num == num && g.autoRelease
  (if auto then s1.freeSegment num else s1).startOffload

/-- DATAGRAM_SENT: the next datagram of a stream leaves and its space is freed (Table 12.5 step 4). -/
def doDatagramSent (t : Time) (stream : Fin 2) (s0 : State) : State :=
  let s := s0.at t
  if !s.streaming then s
  else if stream.val = 0 then
    match s.stream.queue0 with
    | [] => s
    | d :: r => { s with stream := { s.stream with queue0 := r } }.sendStream d.dests d.bytes
  else
    match s.stream.queue1 with
    | [] => s
    | d :: r =>
      let s1 := { s with stream := { s.stream with queue1 := r } }.sendStream d.dests d.bytes
      if d.last then s1.offloadDone d.id else s1

/-! ### Link (R54, R265) -/

/-- GPTP_STATE once the link is lost: an end station that was acquiring is unsynchronised. -/
def Net.unlinked (n : Net) : Net := { n with link := false, gptp := if n.gptp = 1 then 0 else n.gptp }

/-- LINK_UP: subscribed data flows again, and an unsynchronised end station begins to acquire. -/
def doLinkUp (t : Time) (s0 : State) : State :=
  let s := s0.at t
  if s.net.link || !s.isOn 2 then s
  else
    let s1 := { s with net := { s.net with link := true, gptp := if s.net.gptp = 0 then 1 else s.net.gptp } }
    (s1.raise 0xA001 0 (u32 (s.cfgN Id.ETH_MODE))).startOffload

/-- LINK_DOWN: the link is lost. -/
def doLinkDown (t : Time) (s0 : State) : State :=
  let s := s0.at t
  if !s.net.link then s
  else { s with net := s.net.unlinked }.streamLost.raise 0xA002 1

/-! ### Subscriptions -/

/-- End the subscriptions of a session (R263). A segment under way to nobody is sent again later. -/
def State.endSubs (s : State) (tr : Transport) (num : Byte) : State :=
  let keep := s.stream.subs.filter fun b => !(b.transport == tr && b.session == num)
  { s with stream := { s.stream with subs := keep } }

/-- STREAM_SUBSCRIBERS: 4 entries of 24 bytes (R269). -/
def State.subscriberTable (s : State) : Bytes :=
  (s.stream.subs.map fun b => le 4 b.num.toNat ++ le 1 b.stream ++ [b.flags] ++ le 2 b.port.toNat ++ be 16 b.addr.toNat).flatten ++
    zeros (24 * (4 - s.stream.subs.length))

/-! ### Bandwidth (R267, R268) -/

/-- slots(d) = ceil(d × 2.56 µs / c_min). -/
def Cfg.slotsFor (c : Cfg) (d : Nat) : Nat := ((d : Rat) * 81920 / c.cMin).ceil.toNat

/-- S_stream. -/
def Cfg.streamSlots (c : Cfg) : Nat :=
  let e := c.nat Id.STREAM_ECHO_MAX
  if c.nat Id.STREAM_ENABLE = 0 then 0
  else if c.nat Id.STREAM_CODING = 0 then c.slotsFor (256 + 2 * cdiv (columnBytes e false) 64) + 4
  else c.slotsFor (256 + cdiv (columnBytes e true) 64) + 4

/-- The coding engine's write fits 7 of its 8 slots. -/
def Cfg.codingOk (c : Cfg) : Bool :=
  c.nat Id.STREAM_ENABLE == 0 || c.nat Id.STREAM_CODING == 0 ||
    decide (c.slotsFor (cdiv (columnBytes (c.nat Id.STREAM_ECHO_MAX) true) 64) ≤ 7)

/-- Bytes of a record of the configuration. -/
def Cfg.recordSize (c : Cfg) : Nat := recordBytes (c.nat Id.CAP_SOURCE) (c.nat Id.CAP_BANDS) (c.nat Id.CAP_BIN_COUNT)

/-- S_cap. -/
def Cfg.captureSlots (c : Cfg) : Nat :=
  if c.nat Id.CAP_ENABLE = 0 then 0
  else if c.nat Id.CAP_SOURCE = 3 then c.slotsFor (c.nat Id.CONTROL_K) + 4
  else c.slotsFor (recordBursts (c.nat Id.CAP_SOURCE) (c.nat Id.CAP_BANDS) (c.nat Id.CAP_BIN_COUNT)) + 4

/-- BANDWIDTH passes (R267). -/
def Cfg.bandwidthOk (c : Cfg) : Bool := c.codingOk && c.streamSlots + c.captureSlots ≤ 186

/-- CAPTURE_POST_TOO_LONG passes (R268). -/
def Cfg.postOk (c : Cfg) : Bool := (c.nat Id.CAP_PRE + c.nat Id.CAP_POST) * c.recordSize ≤ c.nat Id.CAP_SEGMENT_SIZE * 65536

/-- STREAM_LINK_LOAD in 0.1 %, rounded down, saturating. -/
def Cfg.linkLoad (c : Cfg) : Nat :=
  let fw := frameBytes (c.nat Id.STREAM_ECHO_MAX) (c.nat Id.STREAM_CODING == 1) c.columns
  let rate : Rat := if c.nat Id.ETH_MODE = 0 then 5 / 2 else 1
  if c.nat Id.STREAM_ENABLE = 0 then 0 else min 65535 ((fw * 8 * 1000 : Nat) / (c.tMin * rate)).floor.toNat

/-! ### Commands -/

/-- DATAGRAM_SENT (R265). -/
def execDatagramSent (t : Time) (stream : Fin 2) (s : State) : Host.Outcome State Fault Refusal := .next (doDatagramSent t stream s)

/-- MARKS_SEND (R266). -/
def execMarksSend (t : Time) (s : State) : Host.Outcome State Fault Refusal := .next (doMarksSend t s)

/-- LINK_UP (R54). -/
def execLinkUp (t : Time) (s : State) : Host.Outcome State Fault Refusal := .next (doLinkUp t s)

/-- LINK_DOWN (R265). -/
def execLinkDown (t : Time) (s : State) : Host.Outcome State Fault Refusal := .next (doLinkDown t s)

end Sys2Proof.Machine
end

