-- ==== Sys2Proof/Machine/Capture.lean ====
section
/-! DEFINITION. Capture (chapter 12): arming, triggers and their records, the pre-trigger ring, segments, release and discard. -/

namespace Sys2Proof.Machine

open Sys2Proof

/-- The hold-offs of an entry into a lower state are in force (R293 step 2). -/
def State.holdOff (s : State) : Bool := match s.pwr.entry with
  | some e => decide (1 ≤ e.step)
  | none => false

/-- Segment slots of the partition (R255). -/
def Cfg.segmentSlots (c : Cfg) : Nat := min 256 (c.nat Id.CAP_PARTITION_SIZE * 16 / c.nat Id.CAP_SEGMENT_SIZE)

/-- Records that the ring keeps beyond CAP_PRE (R254). -/
def State.ringExtra (s : State) (source : Nat) : Nat :=
  if source = 3 then cdiv (usec 70 * s.cfgN Id.CONTROL_K) s.scan.period + 1 else 4

/-- A segment newly armed: the configuration that it keeps. -/
def State.newSegment (s : State) (above : Bool) : Segment :=
  { num := 0, source := s.cfgN Id.CAP_SOURCE, bands := s.cfgN Id.CAP_BANDS, binFirst := s.cfgN Id.CAP_BIN_FIRST,
    binCount := s.cfgN Id.CAP_BIN_COUNT, pre := s.cfgN Id.CAP_PRE, post := s.cfgN Id.CAP_POST, mask := s.cfgN Id.CAP_TRIGGER_MASK,
    autoRelease := s.cfgN Id.CAP_AUTO_RELEASE == 1, overSlot := above, lockId := s.baspo.appliedId, trigger := none, frame := 0,
    column := 0, index := 0, markSeq := 0xFFFFFFFF, version := 0, found := false, preValid := 0, postValid := 0, shortPost := false,
    extra := 0, extras := [], records := [], copyQueued := false, releaseDue := false, offloaded := false }

/-- ARMED with an empty ring. -/
def State.armed (s : State) (above : Bool) : State :=
  { s with cap := { s.cap with state := 1, ring := [], current := some (s.newSegment above), due := none, closing := false } }

/-- A segment that waits for copying is taken from the recorder's queue. -/
def State.skipCopy (s : State) (num : U32) : State :=
  { s with flash := { s.flash with copies := s.flash.copies.filter (· != num) } }

/-- The oldest held segment is overwritten under CAP_FULL_POLICY 1 (R259). -/
def State.overwriteOldest (s : State) : State := match s.cap.held with
  | [] => s
  | g :: _ =>
    let s1 := s.dropSegment g.num
    let s2 := { s1 with cap := { s1.cap with overwritten := g.num :: s1.cap.overwritten } }
    let s3 := if g.copyQueued then (s2.skipCopy g.num).count Id.REC_SKIPPED else s2
    (s3.count Id.CAP_OVERWRITTEN).raise 0x6004 1 g.num

/-- Arm in the oldest free slot, else overwrite or FULL (Table 12.3 steps 1, 5, 6, 7). During the hold-offs of an entry arming waits.
DEDUCED: log entry 72. -/
def State.capArm (s : State) : State :=
  if s.holdOff then { s with cap := { s.cap with due := some (s.cap.due.getD s.now) } }
  else if s.cap.held.length < s.conf.segmentSlots then s.armed false
  else if s.cfgN Id.CAP_FULL_POLICY = 1 ∧ s.cap.held ≠ [] then s.overwriteOldest.armed true
  else
    let s1 := { s with cap := { s.cap with state := 4, current := none, due := none } }
    if s.cap.state = 4 then s1 else s1.raise 0x6002 1 (u32 s.cap.held.length)

/-- A rearming that has fallen due takes place. DEDUCED: log entry 72. -/
def State.capService (s : State) : State := match s.cap.due with
  | some t => if t ≤ s.now && !s.holdOff then s.capArm else s
  | none => s

/-- Capture is armed where it is enabled and OFF (Table 12.3 step 1). -/
def State.capEnable (s : State) : State :=
  if s.cap.state = 0 ∧ s.cfgN Id.CAP_ENABLE = 1 ∧ s.isOn 4 then s.capArm else s

/-- A closed segment is offered to the recorder: at most 2 wait (R339). -/
def State.offerRecorder (s : State) (g : Segment) : State :=
  let src := (g.trigger.map (·.source)).getD 0
  if s.cfgN Id.REC_ENABLE = 1 ∧ bit (s.cfgN Id.REC_SOURCES) src then
    if s.flash.copies.length < 2 then
      { s with flash := { s.flash with copies := s.flash.copies ++ [g.num] } }.modHeld g.num fun x => { x with copyQueued := true }
    else s.count Id.REC_SKIPPED
  else s

/-- The segment in POST closes (Table 12.3 steps 4 and 8): REARM, or FULL where no slot is free and CAP_FULL_POLICY is 0.
DEDUCED: log entry 94. -/
def State.closeSegment (s : State) (short : Bool) : State := match s.cap.current with
  | none => s
  | some g0 =>
    let g := { g0 with shortPost := short }
    let s1 : State := { s with cap := { s.cap with
      held := s.cap.held ++ [g], current := none, ring := [], newest := g.num, state := 3, due := some (s.now + usec 1), closing := false } }
    let s2 : State := (s1.count Id.CAP_SEGMENTS).raise 0x6001 0 g.num (u32 g.flags) (u32 ((g.trigger.map (·.source)).getD 0))
    let s3 : State := (s2.offerRecorder g).startOffload
    if s3.conf.segmentSlots ≤ s3.cap.held.length ∧ s3.cfgN Id.CAP_FULL_POLICY = 0 then
      { s3 with cap := { s3.cap with state := 4, due := none } }.raise 0x6002 1 (u32 s3.cap.held.length)
    else s3

/-- The last n entries of a list. -/
def lastN {α : Type} (n : Nat) (l : List α) : List α := l.drop (l.length - n)

/-- The segment after a record in POST: before the trigger record it joins the CAP_PRE latest, from it on it counts (R257, R258). -/
def Segment.take (g : Segment) (r : RingRec) (inst : Int) : Segment :=
  if !g.found ∧ r.stop ≤ inst then
    let pre := lastN g.pre (g.records ++ [r.bytes])
    { g with records := pre, preValid := pre.length }
  else if !g.found then
    { g with records := g.records ++ [r.bytes], postValid := 1, found := true, frame := r.frame, column := r.column, index := r.key }
  else { g with records := g.records ++ [r.bytes], postValid := g.postValid + 1 }

/-- A record is written to the ring or to the segment; the segment closes with its CAP_POST-th record (R256, R257 step 4). -/
def State.storeRecord (s : State) (r : RingRec) : State := match s.cap.current with
  | none => s
  | some g => match g.trigger with
    | none => { s with cap := { s.cap with ring := lastN (g.pre + s.ringExtra g.source) (s.cap.ring ++ [r]) } }
    | some tr =>
      let g1 := g.take r tr.inst
      let s1 := { s with cap := { s.cap with current := some g1 } }
      if g1.post ≤ g1.postValid then s1.closeSegment false else s1

/-- Frame, column and CAMERA_INDEX at a trigger (R254, R266): the column whose interval holds its instant; a time in flyback, or
without a running column timer, belongs to column 0 of the next frame. The last component tells flyback. -/
def State.placeOf (s : State) (g : Trigger) : U32 × Nat × Bool :=
  match s.arb.columns.find? fun x => (x.opened : Int) ≤ g.inst && g.inst < (x.ended : Int) with
  | some x => (x.frame, x.column, false)
  | none =>
    if s.scan.timer && !s.scan.flyback && decide ((s.scan.tick : Int) ≤ g.inst) then (s.scan.frame, s.scan.column, false)
    else (s.scan.frame, 0, true)

/-- CAMERA_INDEX at an instant of the recent past. -/
def State.cameraAt (s : State) (inst : Int) : U32 := if inst < (s.scan.cameraSince : Int) then s.scan.cameraBefore else s.scan.camera

/-- The trigger mask that applies: as armed, else as configured. -/
def State.triggerMask (s : State) : Nat := match s.cap.current with
  | some x => x.mask
  | none => s.cfgN Id.CAP_TRIGGER_MASK

/-- What a trigger does to capture (R257, R259): 0 starts a segment, 1 falls in POST, 2 during rearming, 3 while FULL, 4 not in the mask,
5 capture OFF. -/
def State.captureOutcome (s : State) (g : Trigger) : Nat :=
  if s.cap.state = 0 then 5
  else if !bit s.triggerMask g.source then 4
  else if s.cap.state = 3 then 2
  else if s.cap.state = 4 then 3
  else if s.cap.state = 2 then 1
  else 0

/-- Mark a trigger with its capture outcome (R266). -/
def State.markTrigger (s : State) (g : Trigger) (outcome : Nat) : State × U32 :=
  let p := s.placeOf g
  let source := (s.cap.current.map (·.source)).getD (s.cfgN Id.CAP_SOURCE)
  let segment : U32 := if outcome = 0 then s.cap.seq + 1 else if outcome = 1 then (s.cap.current.map (·.num)).getD 0 else 0
  s.mark g outcome p.1 (if p.2.2 ∧ source = 3 then 0xFFFF else p.2.1) (s.cameraAt g.inst) segment

/-- A trigger in POST is noted in the segment (R259). -/
def Segment.note (x : Segment) (g : Trigger) : Segment :=
  { x with extra := x.extra + 1, extras := if x.extras.length < 8 then x.extras ++ [g] else x.extras }

/-- A trigger starts the armed segment: its number, and the records that the ring already holds (R256, R257). -/
def State.startSegment (s : State) (g : Trigger) (x : Segment) (place : U32 × Nat × Bool) (markSeq : U32) : State :=
  let n := s.cap.seq + 1
  let x1 := { x with num := n, trigger := some g, frame := place.1, column := place.2.1, markSeq, version := s.flash.current }
  let ring := s.cap.ring
  ring.foldl State.storeRecord { s with cap := { s.cap with state := 2, seq := n, ring := [], current := some x1 } }

/-- CAPTURE_TRIGGER on a trigger: its mark and what it does to capture. -/
def State.takeTrigger (s0 : State) (g : Trigger) : State :=
  let s := s0.capService
  let outcome := s.captureOutcome g
  let m := s.markTrigger g outcome
  let s1 := m.1
  if outcome = 2 then s1.count Id.MISSED_REARM
  else if outcome = 3 then s1.count Id.MISSED_FULL
  else match s.cap.current with
    | none => s1
    | some x =>
      if outcome = 1 then { s1 with cap := { s1.cap with current := some (x.note g) } }
      else if outcome = 0 then s1.startSegment g x (s.placeOf g) m.2
      else s1

/-- CAPTURE_TRIGGER: the first trigger on offer is taken (R254). -/
def doCaptureTrigger (t : Time) (s0 : State) : State :=
  let s := s0.at t
  match s.cap.offers with
  | [] => s.capService
  | g :: r => { s with cap := { s.cap with offers := r } }.takeTrigger g

/-- Offer a host trigger (Table 12.1 bit 6). -/
def State.hostTrigger (s : State) : State :=
  s.offer { source := 6, time := s.deviceTicks s.now, inst := s.now, unsync := s.unsync, unplaced := false }

/-- A released column is written to the ring or the segment (R256). -/
def State.captureColumn (s0 : State) (r : Released) : State :=
  let s := s0.capService
  match s.cap.current with
  | none => s
  | some g =>
    if g.source = 3 then s
    else s.storeRecord { key := r.col.seq, frame := r.col.frame, column := r.col.column, stop := r.col.ended, bytes := r.record s.fac g }

/-- A delivered sample is written to the ring or the segment (R256); u is the holder's u_out. -/
def State.captureSample (s0 : State) (r : Sample) (u : Int) : State :=
  let s := s0.capService
  match s.cap.current with
  | none => s
  | some g =>
    if g.source = 3 then
      s.storeRecord { key := r.index, frame := r.frame, column := 0xFFFF, stop := r.at_.floor + 1, bytes := sampleRecord r u }
    else s

/-- The column timer starts: the ring is emptied (R258). -/
def State.capTimerStart (s : State) : State := { s with cap := { s.cap with ring := [] } }

/-- The segment in POST closes once the last column released before the stop of the column timer is written (Table 12.3 step 8). -/
def State.capSettle (s : State) : State :=
  if s.cap.closing && s.arb.columns.isEmpty then
    (if s.cap.state = 2 then s.closeSegment true else { s with cap := { s.cap with closing := false } })
  else s

/-- The column timer stops. -/
def State.capTimerStop (s : State) : State :=
  if s.cap.state = 2 then { s with cap := { s.cap with closing := true } }.capSettle else s

/-- CAP_CONTROL 2: a segment in POST closes with SHORT_POST, and capture is OFF (Table 12.3 steps 8 and 9). -/
def State.capDisarm (s0 : State) : State :=
  let s := s0.capService
  let s1 := if s.cap.state = 2 then s.closeSegment true else s
  { s1 with cap := { s1.cap with state := 0, ring := [], current := none, due := none, closing := false } }

/-- Every held segment and the one being filled are discarded (R262): reason 1 flip, 2 SLEEP, 3 MEM lost. -/
def State.capDiscard (s : State) (reason : Nat) : State :=
  let n := s.cap.held.length + b2n (s.cap.state == 2)
  let s1 := { s with
    cap := { s.cap with held := [], current := none, ring := [], state := 0, due := none, closing := false }
    stream := { s.stream with offload := none, queue1 := [] }
    flash := { s.flash with copies := [] } }
  let s2 := if n = 0 then s1 else s1.raise 0x6003 1 (u32 n) (u32 reason)
  if reason = 1 then s2.capEnable else s2

/-- A closed segment held under a number (R261). DEDUCED: log entry 94. -/
def State.findSegment (s : State) (num : U32) : Option Segment := s.cap.held.find? fun g => g.num == num

/-- Objects whose change at a flip discards the segments (R262). -/
def discardObjects : List Nat :=
  [Id.CAP_SOURCE, Id.CAP_BANDS, Id.CAP_BIN_FIRST, Id.CAP_BIN_COUNT, Id.CAP_PARTITION_SIZE, Id.CAP_SEGMENT_SIZE]

/-- A flip of capture objects (R257 step 1, R262): a change of layout discards; CAP_ENABLE 1 arms; CAP_ENABLE 0 disarms. -/
def State.captureFlip (s : State) (changed : List Nat) : State :=
  let s1 := if discardObjects.any (· ∈ changed) then s.capDiscard 1 else s
  if Id.CAP_ENABLE ∈ changed then (if s1.cfgN Id.CAP_ENABLE = 1 then s1.capEnable else s1.capDisarm) else s1

/-! ### Commands -/

/-- CAPTURE_TRIGGER (R253). -/
def execCaptureTrigger (t : Time) (s : State) : Host.Outcome State Fault Refusal := .next (doCaptureTrigger t s)

end Sys2Proof.Machine
end

