-- ==== Sys2Proof/Machine/Fsync.lean ====
section
/-! DEFINITION. Phasing to camera frames (R96 to R102): FSYNC edges, target instants, the period rule, the phasing states and the
camera index. Times in 31.25 ps. -/

namespace Sys2Proof.Machine

open Sys2Proof

/-! ### Intervals and targets (R97) -/

/-- D. -/
def Cfg.divider (c : Cfg) : Nat := c.nat Id.FSYNC_DIVIDER

/-- t_fsync: the mean of the last D stored intervals; none while none is stored. DEDUCED: log entry 33. -/
def fsyncMean (intervals : List Nat) (d : Nat) : Option Rat :=
  let l := intervals.take d
  if l.isEmpty then none else some ((sumNat l : Nat) / (l.length : Rat))

/-- t_fsync of the live configuration. -/
def State.tFsync (s : State) : Option Rat := fsyncMean s.scan.intervals s.conf.divider

/-- c_fsync. -/
def State.cFsync (s : State) : Option Rat :=
  s.tFsync.map fun t => (s.conf.divider * t - s.conf.flyback) / s.conf.columns

/-- An interval is stored and c_fsync lies inside the window. -/
def State.fsyncInside (s : State) : Bool := match s.cFsync with
  | some c => decide ((c - s.conf.cNom).abs ≤ s.conf.window * s.conf.cNom)
  | none => false

/-- e and camera index of the target instant nearest an instant, and p (R97, R98): e is wrapped into (−p/2, +p/2]. -/
def State.nearestTarget (s : State) (t : Rat) : Option (Rat × U32 × Rat) := match s.tFsync, s.scan.lastEdge with
  | some tf, some last =>
    let d := s.conf.divider
    let off : Int := s.conf.int Id.FSYNC_OFFSET * 32
    let k := (d - s.scan.realIndex.toNat % d) % d
    let p := d * tf
    let t0 : Rat := (last + off : Int) + k * tf
    let n := ((t - t0) / p - 1 / 2).ceil
    let idx := s.scan.realIndex + u32i (k + n * d)
    let e := t - t0 - n * p
    match s.scan.target with
    | some (stamp, i) =>
      if i = idx then
        let e1 := t - (stamp + off : Int)
        (some (e1 - ((e1 / p - 1 / 2).ceil : Int) * p, idx, p))
      else some (e, idx, p)
    | none => some (e, idx, p)
  | _, _ => none

/-! ### The camera index (R101) -/

/-- CAMERA_INDEX changes at an instant. -/
def State.setCamera (s : State) (idx : U32) (at_ : Time) : State :=
  { s with scan := { s.scan with camera := idx, cameraBefore := s.scan.camera, cameraSince := at_ } }

/-- Virtual edges that have fallen since the last accepted edge, at an instant. -/
def Scan.virtualsAt (x : Scan) (t : Time) : Nat := match x.lastEdge with
  | some l => if x.fsyncPeriod = 0 then 0 else ((t : Int) - l).toNat / x.fsyncPeriod
  | none => 0

/-! ### Phasing states (Table 04.7) -/

/-- Enter LULL: the virtual edges that have fallen are counted, and the next accepted edge is the first after the Lull. -/
def State.enterLull (s : State) : State :=
  let n := s.scan.virtualsAt s.now
  let s1 := if n = 0 then s else s.setCamera (s.scan.camera + u32 n) s.now
  { s1 with scan := { s1.scan with
      phasing := .lull, chainBroken := true, virtuals := n, outRaised := false, outCount := 0, firstFrame := false,
      lullFlag := s1.scan.lullFlag || s1.scan.timer } }

/-- Enter RELOCK. -/
def State.enterRelock (s : State) : State :=
  { s with scan := { s.scan with
      phasing := .relock, outCount := 0, firstFrame := false, relockFlag := s.scan.relockFlag || s.scan.timer } }

/-- FSYNC_OUT_OF_RANGE. -/
def State.outOfRange (s : State) : State :=
  { s with scan := { s.scan with outRaised := true } }.raise 0x4C04 1 (u32 ((s.scan.fsyncPeriod + 16) / 32))
    (u32i (roundHalfUp (s.cFsync.getD 0)))

/-- Steps 4 and 5 of Table 04.7 at an accepted edge in LULL: three edges whose two intervals agree within 1 %. -/
def State.lullEdge (s : State) : State := match s.scan.intervals with
  | b :: a :: _ =>
    if 100 * ((a : Int) - b).natAbs ≤ a ∧ s.cfgN Id.FSYNC_SOURCE ≠ 0 then
      if s.fsyncInside then
        let e := ((s.nearestTarget (s.scan.tick : Nat)).map (·.1)).getD 0
        s.enterRelock.raise 0x4C03 0 (u32i (roundHalfUp (e / 32))) (u32 (min 0xFFFFFFFF (s.scan.gap.toNat / 32)))
      else if s.scan.outRaised then s
      else s.outOfRange
    else s
  | _ => s

/-- The index that an accepted edge takes without a CAMERA_INDEX_SET ticket. -/
def State.nextIndex (s : State) (stamp : Int) : U32 :=
  let real := s.scan.realIndex
  let camera := s.scan.camera
  match s.scan.phasing with
  | .lull =>
    if s.scan.chainBroken then match s.scan.lastEdge with
      | some l =>
        let n := if s.scan.fsyncPeriod = 0 then 1 else (roundHalfUp ((stamp - l : Int) / (s.scan.fsyncPeriod : Rat))).toNat
        if camera.toNat + 1 ≤ real.toNat + n then real + u32 n else camera + 1
      | none => camera + 1
    else if camera.toNat < real.toNat + 1 then real + 1 else camera
  | .free | .locked | .relock => camera + 1

/-- The interval that ends at an accepted edge is stored; after a Lull the stored ones are discarded instead (R97).
DEDUCED: log entry 33. -/
def Scan.storeInterval (x : Scan) (stamp : Int) : Scan := match x.lastEdge with
  | some l =>
    if x.chainBroken then { x with intervals := [], gap := stamp - l }
    else { x with intervals := ((stamp - l).toNat :: x.intervals).take 8, fsyncPeriod := (stamp - l).toNat }
  | none => x

/-- An accepted edge's index: that of the first CAMERA_INDEX_SET ticket waiting, which it serves, or the next one (R101). -/
def State.takeIndex (s : State) (stamp : Int) : State × U32 := match s.queued Id.CAMERA_INDEX_SET with
  | k :: _ => ((s.dequeue k.num).raise 0x4C06 0 (u32 k.value) 0 0 k.num, u32 k.value)
  | [] => (s, s.nextIndex stamp)

/-- Accept an edge (R97, R101): an early one is counted and ignored. -/
def State.acceptEdge (s : State) (stamp : Int) : State :=
  let early := (s.scan.phasing == .locked || s.scan.phasing == .relock) && (match s.scan.lastEdge with
    | some l => decide (2 * (stamp - l) < (s.scan.fsyncPeriod : Int))
    | none => false)
  if early then s.count Id.FSYNC_EARLY_COUNT
  else
    let p := s.takeIndex stamp
    let idx := p.2
    let s2 := p.1.setCamera idx stamp.toNat
    let x := s2.scan.storeInterval stamp
    let s3 : State := { s2 with scan := { x with
      lastEdge := some stamp, realIndex := idx, virtuals := 0, chainBroken := false,
      target := if idx.toNat % s.conf.divider = 0 then some (stamp, idx) else x.target } }
    if s3.scan.phasing = .lull then s3.lullEdge else s3

/-- FSYNC edges reach TIMX: TIMX is on and TIMIN is not latched (R50). DEDUCED: log entry 49. -/
def State.timinLive (s : State) : Bool := s.isOn 15 && !s.pwr.pads.getLsbD 0

/-- FSYNC_EDGE: an edge of the FSYNC pin (R96, R97). -/
def doFsyncEdge (t : Time) (rising : Bool) (s0 : State) : State :=
  let s := s0.at t
  if s.timinLive && s.cfgN Id.FSYNC_SOURCE != 2 && rising == (s.cfgN Id.FSYNC_EDGE == 0) then s.acceptEdge s.now else s

/-- FSYNC_LULL: no accepted edge for 1.5 × FSYNC_PERIOD in LOCKED or RELOCK (Table 04.7 step 3). -/
def doFsyncLull (t : Time) (s0 : State) : State :=
  let s := s0.at t
  let silent := match s.scan.lastEdge with
    | some l => decide (3 * (s.scan.fsyncPeriod : Int) ≤ 2 * ((s.now : Int) - l))
    | none => true
  if (s.scan.phasing == .locked || s.scan.phasing == .relock) && silent then
    (s.enterLull.count Id.FSYNC_LULL_COUNT).raise 0x4C02 1 (u32 s.scan.period) s.scan.realIndex
  else s

/-- CAMERA_VIRTUAL_EDGE: the next virtual edge of a Lull falls (R101). -/
def doCameraVirtualEdge (t : Time) (s0 : State) : State :=
  let s := s0.at t
  if s.scan.phasing = .lull ∧ s.scan.virtuals < s.scan.virtualsAt s.now then
    let s1 := s.setCamera (s.scan.camera + 1) s.now
    { s1 with scan := { s1.scan with virtuals := s1.scan.virtuals + 1 } }
  else s

/-! ### The boundary rule (R98) -/

/-- Limit to a range of rationals. -/
def clampRat (lo hi v : Rat) : Rat := if v < lo then lo else if hi < v then hi else v

/-- c_next of R98 in 31.25 ps from c_prev, p and e. -/
def Cfg.nextPeriod (c : Cfg) (prev : Nat) (p e : Rat) : Nat :=
  let nom : Rat := c.cNom
  let w := c.window
  let want := (p - c.flyback) / c.columns - e / c.columns
  let lo := max (nom * (1 - w)) (min (prev * (98 / 100)) (nom * (1 + w)))
  let hi := min (nom * (1 + w)) (max (prev * (102 / 100)) (nom * (1 - w)))
  (roundAway (clampRat lo hi want)).toNat

/-- The phasing at a frame boundary whose stamp is t: the period of the frame that begins, steps 6, 7 and 8 of Table 04.7.
DEDUCED: log entry 34. -/
def State.phaseBoundary (s : State) (t : Time) : State :=
  let prev := s.scan.period
  match s.scan.phasing with
  | .free => { s with scan := { s.scan with period := s.conf.cNom } }
  | .lull => s
  | .locked | .relock => match s.nearestTarget (t : Nat) with
    | none => s
    | some (e, idx, p) =>
      let out := if s.fsyncInside then 0 else s.scan.outCount + 1
      let s1 : State := { s with scan := { s.scan with
        period := s.conf.nextPeriod prev p e, phaseError := e / 32, outCount := out } }
      if 2 ≤ out then s1.enterLull.outOfRange
      else if s.scan.phasing = .relock then
        if e.abs < prev ∨ s.scan.firstFrame then
          { s1 with scan := { s1.scan with phasing := .locked, firstFrame := false } }.raise 0x4C01 0 idx (u32i (roundHalfUp (e / 32)))
        else s1
      else if (prev : Rat) ≤ e.abs then s1.enterRelock
      else s1

/-- The first frame after the column timer starts (Table 04.7 steps 1 and 2): its period and the length of its flyback. -/
def State.phaseStart (s : State) (t : Time) : State :=
  let fly := s.conf.flyback
  let plain : State := { s with scan := { s.scan with period := s.conf.cNom, flyLen := fly, firstFrame := false } }
  if s.cfgN Id.FSYNC_SOURCE = 0 then { plain with scan := { plain.scan with phasing := .free } }
  else if !s.fsyncInside then plain.enterLull
  else
    let c := (roundAway (s.cFsync.getD 0)).toNat
    let second : Rat := (t + fly + s.conf.columns * c : Nat)
    let x := match s.nearestTarget second with
      | some (e, _, p) => (roundHalfUp (if e ≤ 0 then -e else p - e)).toNat
      | none => 0
    let s1 : State := { s with scan := { s.scan with period := c, flyLen := fly + x } }.enterRelock
    { s1 with scan := { s1.scan with firstFrame := true } }

/-- Objects of Table 04.7 step 9. -/
def phasingObjects : List Nat :=
  [Id.FSYNC_SOURCE, Id.FSYNC_EDGE, Id.FSYNC_DIVIDER, Id.FSYNC_OFFSET, Id.FSYNC_TRACK_RANGE, Id.FRAME_MODE, Id.COLUMN_PERIOD, Id.FLYBACK]

/-- A flip (R97, Table 04.7 step 9). -/
def State.phaseFlip (s : State) (changed : List Nat) : State :=
  let fresh := Id.FSYNC_SOURCE ∈ changed ∨ Id.FSYNC_EDGE ∈ changed
  let s1 : State := if fresh then { s with scan := { s.scan with intervals := [] } } else s
  let s2 : State := if Id.FSYNC_DIVIDER ∈ changed then { s1 with scan := { s1.scan with target := none } } else s1
  if phasingObjects.any (· ∈ changed) then
    if s2.cfgN Id.FSYNC_SOURCE = 0 then { s2 with scan := { s2.scan with phasing := .free, firstFrame := false } }
    else if s2.fsyncInside then s2.enterRelock
    else
      let s3 := s2.enterLull
      { s3 with scan := { s3.scan with period := s3.conf.cNom } }
  else s2

/-- Camera index that the frame header carries (R101), at a boundary's stamp. -/
def State.headerCamera (s : State) (t : Time) : U32 := match s.scan.phasing with
  | .locked | .relock => ((s.nearestTarget (t : Nat)).map (·.2.1)).getD s.scan.camera
  | .free | .lull => s.scan.camera

/-- TIMX powers up: no edge has been stamped since. -/
def State.fsyncWake (s : State) : State :=
  { s with scan := { s.scan with intervals := [], fsyncPeriod := 0, lastEdge := none, target := none } }

/-! ### Commands -/

/-- FSYNC_EDGE (R97). -/
def execFsyncEdge (t : Time) (rising : Bool) (s : State) : Host.Outcome State Fault Refusal := .next (doFsyncEdge t rising s)

/-- FSYNC_LULL (R99). -/
def execFsyncLull (t : Time) (s : State) : Host.Outcome State Fault Refusal := .next (doFsyncLull t s)

/-- CAMERA_VIRTUAL_EDGE (R101). -/
def execCameraVirtualEdge (t : Time) (s : State) : Host.Outcome State Fault Refusal := .next (doCameraVirtualEdge t s)

end Sys2Proof.Machine
end

