-- ==== Sys2Proof/Machine/Bus.lean ====
section
/-! DEFINITION. The vehicle trigger bus (chapter 08): messages, windows, delay compensation, the clock and the bus states, with the
Femon checks of R178 and R179. -/

namespace Sys2Proof.Machine

open Sys2Proof

/-! ### Femon checks (R178, R179) -/

/-- O + S_D − 1 ns. -/
def Cfg.launchSpan (c : Cfg) : Nat := c.interleave + c.ditherSpan - 1

/-- DITHER_SPAN passes (R178). -/
def Cfg.ditherOk (c : Cfg) : Bool :=
  decide (c.launchSpan + 600 ≤ c.nat Id.SHOT_PERIOD) &&
    !(c.nat Id.BUS_INTERLEAVE == 1 && c.nat Id.BUS_ROLE != 0 && decide (c.nat Id.BUS_SPACING < c.ditherSpan + 10))

/-- FEMON_CLEAR_RANGE in mm (R179): c_air / 2 is 149.85232225 mm/ns; RX_GATE_ON counts 0.5 ns. -/
def Cfg.clearRange (c : Cfg) : Nat :=
  let span : Rat := (c.nat Id.SHOT_PERIOD : Rat) - (c.launchSpan : Nat) - (c.nat Id.RX_GATE_ON : Rat) / 2
  min (c.nat Id.RANGE_MAX) ((14985232225 / 100000000 : Rat) * span).floor.toNat

/-! ### Messages (R182) -/

/-- The 40 data bits of a message (Table 08.2). -/
def busData (kind source payload : Nat) : BitVec 40 := BitVec.ofNat 40 (kind * 2 ^ 36 + source % 16 * 2 ^ 32 + payload % 2 ^ 32)

/-- Send a message. -/
def State.busPut (s : State) (kind payload : Nat) : State :=
  let d := busData kind (s.cfgN Id.BUS_POSITION) payload
  s.send (.bus d (crc8 d))

/-- A peer. -/
def State.peer (s : State) (p : Nat) : BusPeer := s.bus.peers.getD p { heard := none, delays := [], probed := none, duplicate := false }

/-- Change a peer. -/
def State.modPeer (s : State) (p : Nat) (f : BusPeer → BusPeer) : State := { s with bus := { s.bus with peers := modAt s.bus.peers p f } }

/-- BUS_DELAY of a peer in 31.25 ps: the mean of the last 16 values, valid after 4 (Table 08.4 step 5). -/
def BusPeer.delay (p : BusPeer) : Option Int :=
  if p.delays.length < 4 then none else some (roundHalfUp (p.delays.foldl (· + ·) 0 / (p.delays.length : Rat)))

/-- Peers heard within the last second. -/
def State.peersNow (s : State) : List Nat := (List.range 16).filter fun p => match (s.peer p).heard with
  | some t => decide (s.now ≤ t + Sys2Proof.sec 1)
  | none => false

/-- The unit listens on the bus: a role, TIMX powered, TBUS not latched (R43, R47). -/
def State.busListens (s : State) : Bool := s.cfgN Id.BUS_ROLE != 0 && s.isOn 15 && !s.pwr.pads.getLsbD 1

/-- The unit may drive the bus. -/
def State.busDrives (s : State) : Bool := s.busListens && s.bus.state != 4

/-- BUS_CONFLICT (Table 08.5 step 6). -/
def State.busConflict (s : State) (kind position : Nat) : State :=
  if s.bus.state = 4 then s
  else { s with bus := { s.bus with state := 4 } }.raise 0x3413 1 (u32 kind) (u32 position)

/-- Triggers that can no longer be sent are counted late (R184). -/
def State.busPurge (s : State) : State :=
  let keep := s.bus.trigs.filter fun g => decide (s.now - g.at_ ≤ 2097151)
  let n := s.bus.trigs.length - keep.length
  { s with bus := { s.bus with trigs := keep } }.count Id.BUS_TRIG_LATE n

/-- A trigger is queued for TRIGGER where BUS_TRIG_SEND names its kind (R184, R189). -/
def State.busSend (s0 : State) (kind : Nat) (at_ : Time) : State :=
  if s0.busListens && bit (s0.cfgN Id.BUS_TRIG_SEND) kind then
    let s := s0.busPurge
    if 4 ≤ s.bus.trigs.length then s.count Id.BUS_TRIG_LATE
    else
      let n := s.bus.trigCount + 1
      { s with bus := { s.bus with trigs := s.bus.trigs ++ [{ kind, seq := n % 128, at_ }], trigCount := n } }
  else s0

/-- What every received message does first (R182, R188): a bad CRC is counted and discarded; the sender is heard; a foreign use of the
own position is a conflict. The message goes on where the second component is true. -/
def State.busReceive (s : State) (own : Bool) (kind : Nat) (source : BitVec 4) (payload : U32) (crc : Byte) : State × Bool :=
  if !s.busListens then (s, false)
  else if crc8 (busData kind source.toNat payload.toNat) ≠ crc then (s.count Id.BUS_CRC_ERRORS, false)
  else if own then (s, true)
  else if source.toNat = s.cfgN Id.BUS_POSITION then (s.busConflict 2 source.toNat, false)
  else (s.modPeer source.toNat fun p => { p with heard := some s.now }, true)

/-! ### FRAME (R183, R187) -/

/-- BUS_MISMATCH once per change of the master's fields. -/
def State.busMismatch (s : State) (mode shot : Nat) : State :=
  if mode = s.cfgN Id.FRAME_MODE ∧ shot = s.cfgN Id.SHOT_PERIOD then { s with bus := { s.bus with mismatch := none } }
  else if s.bus.mismatch = some (mode, shot) then s
  else { s with bus := { s.bus with mismatch := some (mode, shot) } }.raise 0x3414 1 (u32 mode) (u32 shot)

/-- BUS_FRAME. DESIGN CHOICE: log entry 53. -/
def doBusFrame (t : Time) (own : Bool) (source : BitVec 4) (payload : U32) (crc : Byte) (s0 : State) : State :=
  let r := (s0.at t).busReceive own 1 source payload crc
  let s := r.1
  if !r.2 then s
  else if !own && s.cfgN Id.BUS_ROLE == 1 then s.busConflict 1 source.toNat
  else
    let s1 : State := { s with bus := { s.bus with frames := s.now :: s.bus.frames.take 1, alive := true, master := source.toNat } }
    if own || s.cfgN Id.BUS_ROLE != 2 then s1
    else
      let p := payload.toNat
      let s2 := s1.busMismatch (p / 2 ^ 30) (p / 2 ^ 18 % 4096 * 5)
      match (s2.peer source.toNat).delay with
      | some d => if s2.cfgN Id.FSYNC_SOURCE = 2 then s2.acceptEdge ((s2.now : Int) - d - (p % 2048 : Nat)) else s2
      | none => s2

/-- The frame period that the FRAME messages show: between the last two, else the nominal one. -/
def State.busPeriod (s : State) : Nat := match s.bus.frames with
  | a :: b :: _ => a - b
  | _ => s.conf.columns * s.conf.cNom + s.conf.flyback

/-- BUS_FRAME_SILENCE: 1.5 frame periods without a FRAME message (R183). -/
def doBusFrameSilence (t : Time) (s0 : State) : State :=
  let s := s0.at t
  match s.bus.frames with
  | f :: _ => if s.bus.alive ∧ 3 * s.busPeriod ≤ 2 * (s.now - f) then { s with bus := { s.bus with alive := false } } else s
  | [] => s

/-- A master sends FRAME after its frame boundary (R183), and is ALIGNED with the first (Table 08.5 step 2). The phase of CLK against
the boundary, DELAY, is open. DEDUCED: log entry 54. -/
def State.busBoundary (s : State) : State :=
  if s.busDrives && s.cfgN Id.BUS_ROLE == 1 then
    let d := s.draw
    let s1 := d.1
    let payload := s1.cfgN Id.FRAME_MODE * 2 ^ 30 + s1.cfgN Id.SHOT_PERIOD / 5 * 2 ^ 18 + s1.scan.frame.toNat % 128 * 2 ^ 11 +
      Config.freeNat d.2 % 1280
    let s2 := s1.busPut 1 payload
    { s2 with bus := { s2.bus with state := 2 } }
  else s

/-! ### TRIGGER, PROBE, REPLY and ANNOUNCE (R177, R185, R186) -/

/-- BUS_TRIGGER_MESSAGE: placed at T_a − BUS_DELAY − DELAY and offered as the bus trigger. -/
def doBusTriggerMessage (t : Time) (own : Bool) (source : BitVec 4) (payload : U32) (crc : Byte) (s0 : State) : State :=
  let r := (s0.at t).busReceive own 2 source payload crc
  let s := r.1
  if !r.2 || own then s
  else
    let d := (s.peer source.toNat).delay
    let back : Int := d.getD 0 + (payload.toNat % 2097152 : Nat)
    s.offer { source := 5, time := s.deviceTicks s.now - back, inst := (s.now : Int) - back, unsync := s.unsync, unplaced := d.isNone }

/-- BUS_PROBE: the target stamps its arrival; the prober stamps its own start bit. -/
def doBusProbe (t : Time) (own : Bool) (source : BitVec 4) (payload : U32) (crc : Byte) (s0 : State) : State :=
  let r := (s0.at t).busReceive own 3 source payload crc
  let s := r.1
  let target := payload.toNat / 2 ^ 28
  if !r.2 then s
  else if own then { s with bus := { s.bus with probe := some (target, s.now) } }
  else if target = s.cfgN Id.BUS_POSITION then { s with bus := { s.bus with reply := some (source.toNat, s.now) } }
  else s

/-- BUS_REPLY to this unit: d enters the last 16 values of the peer; a late one is discarded (Table 08.4 step 4). -/
def doBusReply (t : Time) (own : Bool) (source : BitVec 4) (payload : U32) (crc : Byte) (s0 : State) : State :=
  let r := (s0.at t).busReceive own 4 source payload crc
  let s := r.1
  if !r.2 || own || payload.toNat / 2 ^ 28 != s.cfgN Id.BUS_POSITION then s
  else match s.bus.probe with
    | some (target, t0) =>
      if target ≠ source.toNat then s
      else
        let s1 : State := { s with bus := { s.bus with probe := none } }
        if t0 + usec 100 < s1.now then s1
        else
          let d : Rat := (((s1.now : Int) - (t0 : Int) - (payload.toNat % 2 ^ 28 : Nat) : Int) : Rat) / 2
          s1.modPeer target fun p => { p with delays := (d :: p.delays).take 16 }
    | none => s

/-- BUS_ANNOUNCE: the own FLEET_CODE from another position raises FLEET_DUPLICATE once per peer and wake (R177). -/
def doBusAnnounce (t : Time) (own : Bool) (source : BitVec 4) (payload : U32) (crc : Byte) (s0 : State) : State :=
  let r := (s0.at t).busReceive own 5 source payload crc
  let s := r.1
  let code := payload.toNat % 262144
  if !r.2 || own || code != s.cfgN Id.FLEET_CODE || (s.peer source.toNat).duplicate then s
  else (s.modPeer source.toNat fun p => { p with duplicate := true }).raise 0x3601 1 (u32 code) (u32 source.toNat)

/-! ### Windows (R183, R184) -/

/-- The number of the window that holds an instant, counted from T_F, where it is the own one: 2.56 µs is 81,920 units. -/
def State.ownWindow (s : State) : Option (Time × Nat) := match s.bus.frames with
  | f :: _ =>
    let k := (s.now - f) / 81920
    let next := s.busPeriod
    let free := s.bus.frames.length < 2 || decide (s.now + 209920 < f + next) || decide (f + next ≤ s.now)
    if 1 ≤ k ∧ (k - 1) % 16 = s.cfgN Id.BUS_POSITION ∧ free then some (f, k) else none
  | [] => none

/-- The peer to be probed: heard within a second and not probed for half a second. -/
def State.probeNext (s : State) : Option Nat := s.peersNow.find? fun p => match (s.peer p).probed with
  | some t => decide (t + msec 500 ≤ s.now)
  | none => true

/-- One message in the own window, in order of precedence (R183). -/
def State.busMessage (s : State) : State := match s.bus.trigs with
  | g :: r => { s with bus := { s.bus with trigs := r } }.busPut 2 (g.kind * 2 ^ 28 + g.seq * 2 ^ 21 + (s.now - g.at_))
  | [] => match s.bus.reply with
    | some (dst, t1) => { s with bus := { s.bus with reply := none } }.busPut 4 (dst * 2 ^ 28 + (s.now - t1) % 2 ^ 28)
    | none => match s.probeNext with
      | some p =>
        let s1 := s.modPeer p fun x => { x with probed := some s.now }
        { s1 with bus := { s1.bus with probe := some (p, s1.now) } }.busPut 3 (p * 2 ^ 28)
      | none =>
        let due : Bool := match s.bus.announced with
          | some t => decide (t + Sys2Proof.sec 1 ≤ s.now)
          | none => true
        if due then { s with bus := { s.bus with announced := some s.now } }.busPut 5 (s.cfgN Id.FLEET_CODE) else s

/-- BUS_WINDOW: the own window opens and one message leaves. -/
def doBusWindow (t : Time) (s0 : State) : State :=
  let s := (s0.at t).busPurge
  match s.ownWindow with
  | some w =>
    if s.busDrives && s.bus.alive && s.bus.window != some w then { s with bus := { s.bus with window := some w } }.busMessage else s
  | none => s

/-- BUS_TRIGGER accepted: a host trigger, and a TRIGGER of KIND 5 (R189, Table 12.1 bit 6). -/
def busTriggerAction (s : State) : State := s.hostTrigger.busSend 5 s.now

/-! ### The clock (R181) -/

/-- The reference net becomes the bus clock. -/
def State.busAdopt (s : State) : State := { s with bus := { s.bus with onClk := true, adoptPending := false } }

/-- BUS_CLOCK_ADOPT: CLK has shown 1000 periods; the follower adopts it in a flyback, or at once while no column timer runs. -/
def doBusClockAdopt (t : Time) (s0 : State) : State :=
  let s := s0.at t
  if s.busListens && s.cfgN Id.BUS_ROLE == 2 && !s.bus.onClk then
    if s.scan.timer && !s.scan.flyback then { s with bus := { s.bus with adoptPending := true } } else s.busAdopt
  else s

/-- The follower returns to its crystal. -/
def State.busCrystal (s : State) : State :=
  { s with bus := { s.bus with
      onClk := false, adoptPending := false, within := 0, state := if s.bus.state = 2 then 3 else s.bus.state } }

/-- BUS_CLOCK_LOST: no CLK edge for 1 µs. -/
def doBusClockLost (t : Time) (s0 : State) : State :=
  let s := s0.at t
  if s.bus.onClk ∧ s.cfgN Id.BUS_ROLE = 2 then s.busCrystal.raise 0x3411 1 s.scan.frame
  else { s with bus := { s.bus with adoptPending := false } }

/-! ### Bus states (Table 08.5) -/

/-- A follower at a frame boundary at which R98 gave e (steps 3 to 5); otherwise no boundary counts.
DEDUCED: log entry 54. -/
def State.busAlign (s : State) (ran : Bool) : State :=
  let s1 := if s.bus.adoptPending then s.busAdopt else s
  if s1.cfgN Id.BUS_ROLE = 2 ∧ s1.bus.state ≠ 0 ∧ s1.bus.state ≠ 4 then
    let small := ran && decide (s1.scan.phaseError.abs ≤ 2)
    let large := ran && !small
    let within := if small then s1.bus.within + 1 else 0
    let beyond := if large then s1.bus.beyond + 1 else 0
    let s2 : State := { s1 with bus := { s1.bus with within := min 2 within, beyond := min 2 beyond } }
    let ready := s2.bus.onClk && (s2.peer s2.bus.master).delay.isSome && decide (2 ≤ within)
    if s2.bus.state ≠ 2 ∧ ready then
      { s2 with bus := { s2.bus with state := 2 } }.raise 0x3412 0 (u32i (roundHalfUp s2.scan.phaseError))
    else if s2.bus.state = 2 ∧ 2 ≤ beyond then { s2 with bus := { s2.bus with state := 3 } }
    else s2
  else s1

/-- A flip of the bus role or position (steps 1 and 7). -/
def State.busFlip (s : State) (changed : List Nat) : State :=
  if Id.BUS_ROLE ∈ changed ∨ Id.BUS_POSITION ∈ changed then
    let on := s.cfgN Id.BUS_ROLE ≠ 0 ∧ s.isOn 15
    { s with bus := { s.bus with
        state := if on then 1 else 0, onClk := s.bus.onClk && s.cfgN Id.BUS_ROLE == 2, adoptPending := false, within := 0, beyond := 0,
        trigs := if on then s.bus.trigs else [], reply := none, probe := none } }
  else s

/-- TIMX powers up: nothing has been heard since; a CONFLICT is left only at a flip. -/
def State.busWake (s : State) : State :=
  { s with bus := { Bus.reset with
      state := if s.bus.state = 4 then 4 else if s.cfgN Id.BUS_ROLE = 0 then 0 else 1, trigCount := s.bus.trigCount } }

/-- TIMX powers down: the module is on its crystal and holds no messages. -/
def State.busSleep (s : State) : State :=
  { s with bus := { s.busCrystal.bus with trigs := [], reply := none, probe := none, frames := [], alive := false, window := none } }

/-! ### Commands -/

/-- BUS_FRAME (R183). -/
def execBusFrame (t : Time) (own : Bool) (source : BitVec 4) (payload : U32) (crc : Byte) (s : State) : Host.Outcome State Fault Refusal :=
  .next (doBusFrame t own source payload crc s)

/-- BUS_TRIGGER_MESSAGE (R186). -/
def execBusTriggerMessage (t : Time) (own : Bool) (source : BitVec 4) (payload : U32) (crc : Byte) (s : State) : Host.Outcome State Fault Refusal :=
  .next (doBusTriggerMessage t own source payload crc s)

/-- BUS_PROBE (R185). -/
def execBusProbe (t : Time) (own : Bool) (source : BitVec 4) (payload : U32) (crc : Byte) (s : State) : Host.Outcome State Fault Refusal :=
  .next (doBusProbe t own source payload crc s)

/-- BUS_REPLY (R185). -/
def execBusReply (t : Time) (own : Bool) (source : BitVec 4) (payload : U32) (crc : Byte) (s : State) : Host.Outcome State Fault Refusal :=
  .next (doBusReply t own source payload crc s)

/-- BUS_ANNOUNCE (R177). -/
def execBusAnnounce (t : Time) (own : Bool) (source : BitVec 4) (payload : U32) (crc : Byte) (s : State) : Host.Outcome State Fault Refusal :=
  .next (doBusAnnounce t own source payload crc s)

/-- BUS_WINDOW (R183). -/
def execBusWindow (t : Time) (s : State) : Host.Outcome State Fault Refusal := .next (doBusWindow t s)

/-- BUS_CLOCK_ADOPT (R181). -/
def execBusClockAdopt (t : Time) (s : State) : Host.Outcome State Fault Refusal := .next (doBusClockAdopt t s)

/-- BUS_CLOCK_LOST (R181). -/
def execBusClockLost (t : Time) (s : State) : Host.Outcome State Fault Refusal := .next (doBusClockLost t s)

/-- BUS_FRAME_SILENCE (R183). -/
def execBusFrameSilence (t : Time) (s : State) : Host.Outcome State Fault Refusal := .next (doBusFrameSilence t s)

end Sys2Proof.Machine
end

