-- ==== Sys2Proof/Machine/Tin.lean ====
section
/-! DEFINITION. The timing inputs (R40, R41, R142 to R147): TIN and GATE edges, records, the FIFO and REFIN. -/

namespace Sys2Proof.Machine

open Sys2Proof

/-- One timing input. -/
def State.input (s : State) (i : Nat) : TinInput :=
  s.tin.inputs.getD i { openRec := none, stamped := none, last := none, seen := false, lastEdge := (0, false) }

/-- Change an input. -/
def State.modInput (s : State) (i : Nat) (f : TinInput → TinInput) : State := { s with tin := { s.tin with inputs := modAt s.tin.inputs i f } }

/-- The FIFO drains one edge per microsecond (R146). DESIGN CHOICE: log entry 48. -/
def State.tinDrain (s : State) : State :=
  let n := (s.now - s.tin.fifoAt) / usec 1
  if s.tin.fifo ≤ n then { s with tin := { s.tin with fifo := 0, fifoAt := s.now } }
  else { s with tin := { s.tin with fifo := s.tin.fifo - n, fifoAt := s.tin.fifoAt + n * usec 1 } }

/-- One more edge in the FIFO. DESIGN CHOICE: log entry 48. -/
def State.tinFill (s : State) : State := { s with tin := { s.tin with fifo := min 1024 (s.tin.fifo + 1) } }

/-- A record awaits delivery. -/
def State.tinQueue (s : State) (r : TinRec) : State := { s with tin := { s.tin with closed := s.tin.closed ++ [r] } }

/-- Close the open record of an input (R145); a record that lost edges raises TIN_EDGES_LOST. -/
def State.tinClose (s : State) (i reason : Nat) : State := match (s.input i).openRec with
  | none => s
  | some r =>
    let s1 := (s.modInput i fun x => { x with openRec := none }).tinQueue { r with reason }
    if r.lost then s1.raise 0x3401 1 (u32 i) r.seq (u32 r.lostCount) else s1

/-- Close every open record. -/
def State.tinCloseAll (s : State) (reason : Nat) : State := (List.range 4).foldl (fun y i => y.tinClose i reason) s

/-- GAP in ns, saturating; none was seen since wake where prev is none. -/
def tinGap (prev : Option Int) (t : Int) : Nat := match prev with
  | some p => min 0xFFFFFFFF ((t - p) / 32).toNat
  | none => 0xFFFFFFFF

/-- A record opens: RECORD_SEQ, its fields, and the trigger for marking, capture and the bus (R144). -/
def State.tinOpen (s : State) (kind : Nat) (t : Int) (back : Int) (rising : Bool) (prev : Option Int) (seen : Bool) : State × TinRec :=
  let n := s.tin.seq + 1
  let r : TinRec :=
    { kind, seq := n, anchor := t, anchorRising := rising, gap := tinGap prev t, gapMark := seen, unsync := s.unsync,
      holdover := s.net.gptp == 3, close := false, lost := false, lostCount := 0, reason := 0, edges := [] }
  let s1 : State := { s with tin := { s.tin with seq := n } }
  let inst : Int := (s.now : Int) - back
  let s2 := (s1.offer { source := kind, time := t, inst, unsync := s.unsync, unplaced := false }).busSend kind inst.toNat
  (s2.tinFill, r)

/-- The edge is the anchor of a new record of an input. -/
def State.tinAnchor (s : State) (i : Nat) (t back : Int) (rising : Bool) : State :=
  let x := s.input i
  let p := s.tinOpen i t back rising x.last x.seen
  let s2 := p.1.modInput i fun y => { y with openRec := some p.2, last := some t, seen := true }
  if s2.cfgN Id.TIN_RECORD_MAX ≤ 1 then s2.tinClose i 3 else s2

/-- The edge is appended to the open record, or lost where the FIFO has no room for it (R146). -/
def State.tinAppend (s : State) (i : Nat) (r : TinRec) (t : Int) (rising : Bool) : State :=
  if 1020 ≤ s.tin.fifo then
    (s.modInput i fun y => { y with openRec := some { r with lost := true, lostCount := r.lostCount + 1 }, last := some t }).count Id.TIN_LOST
  else
    let w := u32 ((t - r.anchor).toNat * 2 + b2n rising)
    let r1 := { r with edges := r.edges ++ [w] }
    let s1 := (s.modInput i fun y => { y with openRec := some r1, last := some t }).tinFill
    if s1.cfgN Id.TIN_RECORD_MAX ≤ r1.edges.length + 1 then s1.tinClose i 3 else s1

/-- An accepted edge (R144, R145). DEDUCED: log entry 47. -/
def State.tinAccept (s : State) (i : Nat) (t back : Int) (rising : Bool) : State :=
  let s1 := (s.modInput i fun y => { y with lastEdge := (t, rising) }).count Id.TIN_EDGES
  let x := s1.input i
  match x.openRec with
  | none => s1.tinAnchor i t back rising
  | some r =>
    let idle : Int := (usec (s1.cfgN Id.TIN_IDLE_TIMEOUT) : Nat)
    if x.last.getD t + idle ≤ t then (s1.tinClose i 1).tinAnchor i t back rising
    else if 2147483647 < t - r.anchor then (s1.tinClose i 4).tinAnchor i t back rising
    else s1.tinAppend i r t rising

/-- TIN_EDGE of input i selects the polarity. -/
def Cfg.tinSelects (c : Cfg) (i : Nat) (rising : Bool) : Bool :=
  let code := c.nat Id.TIN_EDGE / 4 ^ i % 4
  code == 2 || (code == 0) == rising

/-- TIN_EDGE: an edge of a timing input (R40, R142, R143). DEDUCED: log entry 47. -/
def doTinEdge (t : Time) (input : Fin 4) (rising : Bool) (s0 : State) : State :=
  let s := (s0.at t).tinDrain
  let i := input.val
  let x := s.input i
  let blind := match x.stamped with
    | some u => decide (s.now < u + 128)
    | none => false
  if !s.timinLive || !bit (s.cfgN Id.TIN_ENABLE) i then s
  else if blind then
    (s.modInput i fun y => { y with openRec := y.openRec.map fun r => { r with close := true } }).count Id.TIN_CLOSE_COUNT
  else
    let s1 := s.modInput i fun y => { y with stamped := some s.now }
    let skew := s1.cal.vals.tin.getD i 0
    if s1.tin.gate && s1.conf.tinSelects i rising then s1.tinAccept i (s1.deviceTicks s1.now - skew) skew rising else s1

/-- A GATE record (R146): one edge with a 1 ns stamp. It is closed as it opens, holding all the edges that it may. -/
def State.gateRecord (s : State) (rising : Bool) : State :=
  let t := s.deviceTicks s.now / 32 * 32
  let p := s.tinOpen 4 t (s.deviceTicks s.now % 32) rising s.tin.gateLast s.tin.gateSeen
  { p.1 with tin := { p.1.tin with gateLast := some t, gateSeen := true } }.tinQueue { p.2 with reason := 3 }

/-- GATE_EDGE: arms or disarms the inputs; a fall closes the open records (R40, R145, R146). -/
def doGateEdge (t : Time) (rising : Bool) (s0 : State) : State :=
  let s := (s0.at t).tinDrain
  if s.tin.gatePin = rising then s
  else
    let s1 : State := { s with tin := { s.tin with gatePin := rising } }
    if !s1.timinLive then s1
    else
      let s2 : State := { s1 with tin := { s1.tin with gate := rising } }
      let s3 := if rising then s2 else s2.tinCloseAll 2
      if s3.cfgN Id.GATE_MARKS = 1 then s3.gateRecord rising else s3

/-- TIN_RECORD_CLOSE_IDLE: TIN_IDLE_TIMEOUT has expired with no edge. -/
def doTinRecordCloseIdle (t : Time) (input : Fin 4) (s0 : State) : State :=
  let s := s0.at t
  let i := input.val
  let x := s.input i
  let idle : Int := (usec (s.cfgN Id.TIN_IDLE_TIMEOUT) : Nat)
  if x.last.getD 0 + idle ≤ s.deviceTicks s.now - s.cal.vals.tin.getD i 0 then s.tinClose i 1 else s

/-- TIN_RECORD_DELIVERY: the oldest closed record enters the stream (R144, R266). -/
def doTinRecordDelivery (t : Time) (s0 : State) : State :=
  let s := (s0.at t).tinDrain
  match s.tin.closed with
  | [] => s
  | r :: rest =>
    let s1 : State := { s with tin := { s.tin with closed := rest } }
    if s1.cfgN Id.STREAM_RECORDS = 1 then s1.pushItems r.fragments else s1

/-- REFIN_EDGE: present after 1000 consecutive periods from 95 ns to 105 ns (R41). -/
def doRefinEdge (t : Time) (s0 : State) : State :=
  let s := s0.at t
  if !s.timinLive then s
  else
    let ok := match s.tin.refinLast with
      | some u => decide (3040 ≤ s.now - u) && decide (s.now - u ≤ 3360)
      | none => false
    let run := if ok then min 1000 (s.tin.refinRun + 1) else 0
    { s with tin := { s.tin with refinLast := some s.now, refinRun := run, refin := s.tin.refin || run == 1000 } }

/-- REFIN is absent. -/
def State.refinGone (s : State) : State := { s with tin := { s.tin with refin := false, refinRun := 0, refinLast := none } }

/-- No REFIN edge for 1 µs. DEDUCED: log entry 49. -/
def State.refinSilent (s : State) : Bool := match s.tin.refinLast with
  | some u => decide (u + usec 1 ≤ s.now)
  | none => true

/-- A flip of timing-input objects closes the open records as IDLE (R147). -/
def State.tinFlip (s : State) (changed : List Nat) : State :=
  if [Id.TIN_ENABLE, Id.TIN_EDGE, Id.TIN_IDLE_TIMEOUT, Id.TIN_RECORD_MAX, Id.GATE_MARKS].any (· ∈ changed) then s.tinCloseAll 1 else s

/-- TIMX powers up: no edge has been seen since; GATE stands at its pin's level, unless TIMIN is latched. -/
def State.tinWake (s : State) : State :=
  { s with tin := { Tin.reset with gatePin := s.tin.gatePin, gate := s.tin.gatePin && !s.pwr.pads.getLsbD 0, seq := s.tin.seq, fifoAt := s.now } }

/-- Isolation of TIMX: the open records close by POWER (R145); pads latch where their mode says so (R49). -/
def State.timxIsolate (s : State) : State :=
  let s1 := s.tinCloseAll 5
  let p := s1.pwr.pads
  let p1 := if s1.cfgN Id.PAD_MODE_TIMIN = 1 then withBit p 0 true else p
  let p2 := if s1.cfgN Id.PAD_MODE_TBUS = 1 then withBit p1 1 true else p1
  { s1.refinGone.busSleep with pwr := { s1.pwr with pads := p2 } }

/-- PAD_RELEASE on a mask (R49): the inputs see the pins' levels without an edge. -/
def padReleaseAction (m : Nat) (s : State) : State :=
  let p := s.pwr.pads
  let p1 := if bit m 0 then withBit p 0 false else p
  let p2 := if bit m 1 then withBit p1 1 false else p1
  let live := bit m 0 && p.getLsbD 0
  { s with pwr := { s.pwr with pads := p2 }, tin := { s.tin with gate := if live then s.tin.gatePin else s.tin.gate } }

/-! ### Commands -/

/-- TIN_EDGE (R144). -/
def execTinEdge (t : Time) (input : Fin 4) (rising : Bool) (s : State) : Host.Outcome State Fault Refusal := .next (doTinEdge t input rising s)

/-- GATE_EDGE (R40). -/
def execGateEdge (t : Time) (rising : Bool) (s : State) : Host.Outcome State Fault Refusal := .next (doGateEdge t rising s)

/-- TIN_RECORD_CLOSE_IDLE (R145). -/
def execTinRecordCloseIdle (t : Time) (input : Fin 4) (s : State) : Host.Outcome State Fault Refusal := .next (doTinRecordCloseIdle t input s)

/-- TIN_RECORD_DELIVERY (R144). -/
def execTinRecordDelivery (t : Time) (s : State) : Host.Outcome State Fault Refusal := .next (doTinRecordDelivery t s)

/-- REFIN_EDGE (R41). -/
def execRefinEdge (t : Time) (s : State) : Host.Outcome State Fault Refusal := .next (doRefinEdge t s)

end Sys2Proof.Machine
end

