-- ==== Sys2Proof/Machine/Control.lean ====
section
/-! DEFINITION. The control samples of both lanes (R201, R209, R220, R229 to R234): delivery, the engines in step, the coil driver and
the mode requests. -/

namespace Sys2Proof.Machine

open Sys2Proof

/-! ### Lanes and their engines -/

/-- A lane that runs in step. -/
def Lane.runs (x : Lane) : Bool := x.state == .active || x.state == .standby || x.state == .qualified || x.state == .moored

/-- Change a lane. -/
def State.modLane (s : State) (l : LaneId) (f : Lane → Lane) : State := s.setLane l (f (s.lane l))

/-- Change the engine of a lane. -/
def State.modEngine (s : State) (l : LaneId) (f : Engine → Engine) : State := s.modLane l fun x => { x with engine := f x.engine }

/-- What an engine's report brings about in the device (Table 10.7, Table 10.4). DEDUCED: log entry 64. -/
def State.engineEvent (s : State) (e : EngineEvent) : State := match e with
  | .modeChanged old new cause ticket => s.raise 0x4301 0 (u32 old.code) (u32 new.code) (u32 cause) ticket
  | .refused mode held ticket => s.raise 0x4308 1 (u32 mode) (u32 held) 0 ticket
  | .overrun => s.count Id.OVERRUN_COUNT
  | .overrunRule index kind => s.raise 0x4303 3 index (u32 kind)
  | .oscillation response gain => (s.count Id.OSC_DETECTIONS).raise 0x4304 1 (u32 response) (u32 gain)
  | .handover => s.count Id.HANDOVERS
  | .residual uPrev u index => s.raise 0x4302 1 (u32i uPrev) (u32i u) index
  | .saturated => s.count Id.ACC_SATURATIONS
  | .homingFailed e => s.raise 0x4305 3 (u32i e)

/-- The reports of the serving lane's engine. DEDUCED: log entry 64. -/
def State.engineEvents (s : State) (l : List EngineEvent) : State := l.foldl State.engineEvent s

/-- A step of the engines of both running lanes; the serving lane's reports are raised. -/
def State.bothEngines (s : State) (f : LaneId → Engine → Engine × List EngineEvent) : State :=
  let one := fun (y : State) (l : LaneId) =>
    if (y.lane l).runs then y.modEngine l fun e => (f l e).1 else y
  let reports := if (s.lane s.servingLane).runs then (f s.servingLane s.engine).2 else []
  (one (one s .a) .b).engineEvents reports

/-- What the modes and the lease ask of governor and coil driver: LANE_REQUEST (Table 05.4 bit 1), the park ramp (R230) and the
commands of the lease holder through the MIRR gate (R25). -/
def State.follow (s : State) : State :=
  let s1 := s.trip 1 (!s.tracking)
  if s1.parkNet || s1.engine.mode == .park then s1.parkCoil
  else if s1.coil.state = 4 ∨ !s1.isOn 11 then s1
  else { s1 with coil := { state := 1, command := s1.engine.outLast, highZ := false } }

/-! ### Samples -/

/-- Mode requests waiting, oldest first. DEDUCED: log entry 61. -/
def State.modeRequests (s : State) : List (Nat × U32) := (s.queued Id.CONTROL_MODE_REQUEST).map fun k => (k.value, k.num)

/-- Take tickets out of their queues. -/
def State.dequeueAll (s : State) (l : List U32) : State := l.foldl State.dequeue s

/-- The cause of step 1 of Table 10.2 that holds before a sample: coil trip 8, PARK net or latch 4; 0 for none. -/
def State.parkCause (s : State) : Nat := if s.coil.state = 4 then 8 else if s.parkNet then 4 else 0

/-- A lane receives a sample record and serves its watchdog where it completes the sample (R237, R239). -/
def Lane.receive (x : Lane) (r : Sample) (late : Bool) (t : Time) : Lane :=
  { x with samples := (r.bytes :: x.samples).take 8, watchdog := if late then x.watchdog else t }

/-- A delivered sample in both lanes. -/
def State.laneSample (s : State) (x : Section) (r : Sample) (lateA lateB : Bool) : State :=
  let c := x.conf s.fac
  let cause := s.parkCause
  let late := fun (l : LaneId) => match l with
    | .a => lateA
    | .b => lateB
  let reqs := s.modeRequests
  let step := fun (l : LaneId) (e : Engine) =>
    let e1 := if r.sub = 0 then match x.flip with
      | some changed => e.flip changed
      | none => e
      else e
    e1.sample c x r cause (late l) reqs
  let served := (s.lane s.servingLane).runs
  let s1 := s.bothEngines step
  let s2 := if served then s1.dequeueAll (reqs.map (·.2)) else s1
  let recv := fun (y : State) (l : LaneId) => if (y.lane l).runs then y.modLane l fun z => z.receive r (late l) s.now else y
  recv (recv s2 .a) .b

/-- CONTROL_SAMPLE: the next sample is delivered to both lanes at t_i + FILTER_LATENCY (R202, R209). -/
def doControlSample (t : Time) (x : SampleIn) (above lateA lateB : Bool) (s0 : State) : State :=
  let s := s0.at t
  match s.dueSample with
  | none => s
  | some (sec, i) =>
    let due : Rat := sec.offset i + (sec.tick + s.fac.filterLatency * 32 : Nat)
    if !s.isOn 12 || !s.isOn 13 || decide ((s.now : Rat) < due) then s
    else
      let s1 := match sec.change with
        | some code => if sec.boundary && i == 1 then s.applyRange code else s
        | none => s
      let p := s1.convert sec i x
      let q := p.1.formSample sec i p.2 above
      let r := q.2
      let s4 : State := { q.1 with front := q.1.front.keepAngle r }
      let s5 := s4.afterSample p.1.front r
      let s6 := (s5.laneSample sec r lateA lateB).follow
      let s7 := s6.captureSample r s6.engine.outLast
      { s7 with front := s7.front.advance }.emitAdvance

/-! ### Requests and ends of modes -/

/-- A mode request accepted with a ticket: refused at once in BECALMED, where no sample serves it (Table 10.2). -/
def modeRequestAction (mode : Nat) (k : U32) (s : State) : State :=
  if s.isBecalmed then (s.dequeue k).raise 0x4308 1 (u32 mode) (u32 s.engine.mode.code) 0 k else s

/-- HOMING_FAILED: HOMING for HOMING_TIMEOUT without step 8 (Table 10.2 step 9). -/
def doHomingFailed (t : Time) (s0 : State) : State :=
  let s := s0.at t
  let limit := msec (s.cfgN Id.HOMING_TIMEOUT)
  (s.bothEngines fun _ e =>
    if e.mode = .homing ∧ !e.arrived ∧ e.homingSince + limit ≤ s.now then
      let p := e.park 9
      (p.1, .homingFailed e.errorLast :: p.2)
    else (e, [])).follow

/-- COIL_TRIP: an overcurrent latches the trip and asserts STALL (R45, R231). -/
def doCoilTrip (t : Time) (iCoil : W20) (s0 : State) : State :=
  let s := s0.at t
  if !s.isOn 11 ∨ s.coil.state = 4 then s
  else
    let s1 : State := { s with coil := { state := 4, command := 0, highZ := true } }
    ((s1.count Id.COIL_TRIPS).tripSet 2).raise 0x4306 3 (u32i iCoil.toInt)

/-- I_COIL of the latest sample, 4 µA. -/
def Front.coilCurrent (f : Front) : Int := i32At f.last 20

/-- COIL_TRIP_CLEAR may succeed: the engine in PARK and I_COIL below 50 mA (R231). -/
def State.coilClearable (s : State) : Bool := s.engine.mode == .park && decide (s.front.coilCurrent.natAbs < 12500)

/-- COIL_TRIP_CLEAR accepted with a ticket: the bridge stays at high impedance until the engine leaves PARK.
DEDUCED: log entry 63. -/
def coilTripClearAction (k : U32) (s : State) : State :=
  let s1 : State := if s.coil.state = 4 then { s with coil := { s.coil with state := 0 } } else s
  ((s1.trip 2 s1.front.stall).dequeue k).raise 0x4307 0 0 0 0 k

/-- PARK_RAMP_DONE: the coil current reaches 0 A and both low-side switches turn on (R230). -/
def doParkRampDone (t : Time) (s0 : State) : State :=
  let s := s0.at t
  if s.coil.state = 2 then { s with coil := { s.coil with state := 3 } } else s

/-- The engines at a frame boundary (Table 10.2 steps 8 and 10, R223): old and new hold the configuration before and after it; columns and
period are those of the frame that ends. -/
def State.engineBoundary (s : State) (old : Cfg) (columns period : Nat) : State :=
  let tm := (s.mirrorTemp s.conf).1
  (s.bothEngines fun _ e => e.boundary old s.conf tm columns period s.now).follow

/-- Entry to RUN or a cold start of the lanes: SCAN_AUTOSTART acts at the first sample (Table 10.2 step 6). -/
def State.engineAutostart (s : State) : State :=
  (s.modEngine .a fun e => { e with autostart := true }).modEngine .b fun e => { e with autostart := true }

/-- Entry into a lower state parks the mirror (Table 10.2 step 4). -/
def State.enginePark (s : State) (cause : Nat) : State := (s.bothEngines fun _ e => e.park cause).follow

/-- PARK without a lease: MIRR runs the park ramp whatever the engines hold (R244). -/
def State.mirrPark (s : State) : State := (s.trip 1 (!s.tracking)).parkCoil

/-- The engine of a lane that cold-starts: PARK, with the temperature region of its first T_M (R223). -/
def State.coldEngine (s : State) : Engine :=
  { Engine.reset with region := regionCold (s.conf.bytes Id.REGION_TEMPS) (s.mirrorTemp s.conf).1 }

/-! ### Commands -/

/-- CONTROL_SAMPLE (R220). -/
def execControlSample (t : Time) (x : SampleIn) (above lateA lateB : Bool) (s : State) : Host.Outcome State Fault Refusal :=
  .next (doControlSample t x above lateA lateB s)

/-- HOMING_FAILED (R229). -/
def execHomingFailed (t : Time) (s : State) : Host.Outcome State Fault Refusal := .next (doHomingFailed t s)

/-- COIL_TRIP (R45). -/
def execCoilTrip (t : Time) (iCoil : W20) (s : State) : Host.Outcome State Fault Refusal := .next (doCoilTrip t iCoil s)

/-- PARK_RAMP_DONE (R230). -/
def execParkRampDone (t : Time) (s : State) : Host.Outcome State Fault Refusal := .next (doParkRampDone t s)

end Sys2Proof.Machine
end

