-- ==== Sys2Proof/Machine/Flash.lean ====
section
/-! DEFINITION. The flash array (R326 to R333): the hold-up check, groups and their queue, retirement of blocks, scrub and wear levelling,
and what each item is made of. -/

namespace Sys2Proof.Machine

open Sys2Proof

/-! ### The hold-up check (R332) -/

/-- C in µF. -/
def State.flashCap (s : State) : Nat := min 470 s.flash.capacitance

/-- HOLDUP_ENERGY in mJ, rounded down: ½ × C × (V² − 100 V²). -/
def State.holdupEnergy (s : State) : Nat := s.flashCap * (s.flash.holdupMv * s.flash.holdupMv - 100000000) / 2000000000

/-- Requirement of a group in mJ (Table 16.2). -/
def GroupKind.required : GroupKind → Nat
  | .program => 75
  | .erase => 60
  | .commit => 80

/-- The checks of R332 before a group: none where all pass, else the abort of R333. -/
def State.flashCheck (s : State) (k : GroupKind) : Option Abort :=
  if !s.therm.flashOk then some .writeInhibitTemp
  else if s.therm.anchors.any Option.isNone ∨ !s.isOn 14 ∨ s.holdupEnergy < k.required then some .holdupLow
  else none

/-- A group may start: FLSH serves, no hold-off, no supply loss, the input switch closed (R293 step 2, R333, Table 14.11).
DEDUCED: log entry 89. -/
def State.flashReady (s : State) : Bool := s.isOn 5 && !s.holdOff && !s.pwr.losing && !s.pwr.switchOpen

/-- The next waiting group starts once its checks pass; otherwise it waits, from the instant of the check that failed (R333).
DEDUCED: log entry 89. -/
def State.flashKick (s : State) : State := match s.flash.running, s.flash.queue with
  | none, g :: r =>
    if s.flashReady && (s.flashCheck g.kind).isNone then
      { s with flash := { s.flash with running := some { g with waits := none }, queue := r } }
    else
      let waits := if (s.flashCheck g.kind).isSome then some (g.waits.getD s.now) else none
      { s with flash := { s.flash with queue := { g with waits } :: r } }
  | _, _ => s

/-- FLASH_STATE (Table 16.7). -/
def State.flashState (s : State) : Nat :=
  if s.isFailed 5 then 4
  else match s.flash.running, s.flash.queue with
    | some _, _ => 1
    | none, g :: _ => if s.flashCheck g.kind = some .writeInhibitTemp then 3 else 2
    | none, [] => 0

/-- FLASH_GROUP_START: a waiting group starts once its checks pass. -/
def doFlashGroupStart (t : Time) (s0 : State) : State := (s0.at t).flashKick

/-! ### Items (R331) -/

/-- The groups of an item: program groups of 16 pages, then the commit group with at most 15 data pages. -/
def itemGroups (work : FlashWork) (host : Bool) (pages : Nat) : List FlashGroup :=
  rep (cdiv (pages - 15) 16) { kind := .program, work, host, waits := none } ++ [{ kind := .commit, work, host, waits := none }]

/-- Queue groups; the first starts at once where it may. -/
def State.flashQueue (s : State) (l : List FlashGroup) : State :=
  { s with flash := { s.flash with queue := s.flash.queue ++ l } }.flashKick

/-- Queue an item of a number of pages. -/
def State.flashItem (s : State) (work : FlashWork) (host : Bool) (pages : Nat) : State := s.flashQueue (itemGroups work host pages)

/-- Pages of a byte count. -/
def pagesOf (n : Nat) : Nat := cdiv n 4096

/-! ### Configuration versions (R334) -/

/-- Objects of a configuration version: configuration objects that are not RO. -/
def versionObjects : List Obj := dictionary.filter fun o => o.kind == .cfg

/-- Values of a version for a configuration. -/
def versionValues (c : Cfg) : List (Nat × Bytes) := versionObjects.map fun o => (o.id, c.bytes o.id)

/-- One entry: index, subindex, length, value padded to 4 bytes. -/
def versionEntry (p : Nat × Bytes) : Bytes :=
  le 2 (p.1 / 256) ++ le 1 (p.1 % 256) ++ [0] ++ le 4 p.2.length ++ p.2 ++ zeros (4 * cdiv p.2.length 4 - p.2.length)

/-- The image of a version. -/
def versionImage (num lockId fw parent : U32) (time : U64) (c : Cfg) : Bytes :=
  le 4 num.toNat ++ le 4 lockId.toNat ++ le 4 fw.toNat ++ le 4 parent.toNat ++ le 8 time.toNat ++ zeros 40 ++
    ((versionValues c).map versionEntry).flatten

/-- Firmware version that runs. -/
def State.fwVersion (s : State) : U32 := ((s.flash.slots[s.flash.activeSlot]?).map (·.version)).getD 0

/-- The newest version number held. -/
def State.versionNewest (s : State) : U32 := s.flash.versions.foldl (fun m v => if m < v.num then v.num else m) 0

/-- Write the live configuration as a new version, copy 1 then copy 2 (R335). A FAILED FLSH or a coded unit above 1 MiB
fails the write. -/
def State.writeVersion (s : State) : State :=
  let n := s.versionNewest + 1
  let time := s.stampNow
  let unit := (codeUnit (versionImage n s.baspo.appliedId s.fwVersion s.flash.current time s.conf)).1
  if s.isFailed 5 ∨ 1048576 < unit.length then { s with flash := { s.flash with persist := 3 } }
  else
    let p := pagesOf unit.length
    let s1 : State := { s with flash := { s.flash with persist := 1 } }
    (s1.flashItem (.version n s.baspo.appliedId time s.cfg 1) true p).flashItem (.version n s.baspo.appliedId time s.cfg 2) true p

/-- Make room for a version: with 16 held the oldest goes, but never the current or the newest CONFIRMED one. Versions stand newest
first. -/
def dropVersion (l : List Version) (current : U32) : List Version :=
  if l.length < 16 then l
  else
    let keep := (l.find? fun v => v.confirmed).map (·.num)
    match (l.reverse.find? fun v => v.num != current && some v.num != keep) with
    | some o => l.filter fun v => v.num != o.num
    | none => l

/-- VERSION_LIST (R346). -/
def State.versionList (s : State) : Bytes :=
  ((s.flash.versions.take 16).map fun v =>
    le 4 v.num.toNat ++ le 4 v.lockId.toNat ++ le 4 v.fw.toNat ++
      le 1 (b2n (v.num == s.flash.current) + 2 * b2n v.confirmed + 4 * b2n v.rejected + 8 * b2n (v.copies == 1) + 16 * b2n (v.copies == 0)) ++
      zeros 3).flatten ++ zeros (16 * (16 - s.flash.versions.length))

/-! ### The calibration record (R322, R338) -/

/-- Write the calibration record where FLSH and the checks permit; else CAL_STORE_STATE 2, retried every 10 s (R322). -/
def State.storeCal (s : State) (ticket : U32) (mask : Nat) (host : Bool) : State :=
  let fail := fun (a : Abort) =>
    { s with cal := { s.cal with store := 2, retryAt := some s.now } }.raise 0x9005 1 (u32 a.code)
  if s.isFailed 5 then fail .domainFailed
  else match s.flashCheck .commit with
    | some a => fail a
    | none =>
      let s1 : State := { s with cal := { s.cal with store := 1, retryAt := none } }
      s1.flashItem (.calRecord ticket mask) host 1

/-- CAL_STORE_RETRY: a failed write is retried every 10 s. -/
def doCalStoreRetry (t : Time) (s0 : State) : State :=
  let s := s0.at t
  match s.cal.retryAt with
  | some r => if s.cal.store = 2 ∧ r + Sys2Proof.sec 10 ≤ s.now then s.storeCal 0 0 false else s
  | none => s

/-! ### Blocks (R327 to R330) -/

/-- Pages of the RECORDER ring. -/
def State.recPages (s : State) : Nat := s.flash.recBlocks * 64

/-- Pages of an entry. -/
def RecEntry.pages (e : RecEntry) : Nat := pagesOf (e.header.length + e.data.length)

/-- RECORDER gives up its oldest block with the entries that start in it (R327). -/
def State.recShrink (s : State) : State := match s.flash.entries with
  | [] => { s with flash := { s.flash with recBlocks := s.flash.recBlocks - 1 } }
  | e :: _ =>
    let keep := s.flash.entries.filter fun x => e.page / 64 != x.page / 64
    { s with flash := { s.flash with recBlocks := s.flash.recBlocks - 1, entries := keep } }

/-- Retire a physical block (R327): cause 1 program, 2 erase, 3 wear, 4 uncorrectable. The second component is false where no space is
left for the write. DESIGN CHOICE: log entry 88. -/
def State.retireBlock (s : State) (block cause : Nat) : State × Bool :=
  let s1 : State := { s with flash := { s.flash with retired := s.flash.retired + 1 } }.raise 0x7005 2 (u32 block) (u32 cause)
  if 0 < s1.flash.spare then
    let n := s1.flash.spare - 1
    let s2 : State := { s1 with flash := { s1.flash with spare := n } }
    if n = 32 ∧ !s2.flash.lowRaised then ({ s2 with flash := { s2.flash with lowRaised := true } }.raise 0x7006 1 (u32 n), true)
    else (s2, true)
  else if 64 < s1.flash.recBlocks then (s1.recShrink, true)
  else (s1, false)

/-- Move a block's valid data to a fresh block and erase it (R328, R330). DESIGN CHOICE: log entry 88. -/
def State.relocate (s : State) (block : Nat) : State :=
  s.flashQueue [{ kind := .program, work := .relocate block, host := false, waits := none },
                { kind := .erase, work := .relocate block, host := false, waits := none }]

/-- A damaged recorder entry: FLAGS bit 0, with the header's CRC anew. -/
def RecEntry.damage (e : RecEntry) : RecEntry :=
  let h := setAt (e.header.take 60) 13 (1 : Byte)
  { e with header := h ++ le 4 (crc32 h).toNat }

/-- An uncorrectable sector (R328): items with two copies are rewritten from the other; a firmware slot becomes INVALID; a recorder entry
is marked DAMAGED. -/
def State.uncorrectable (s : State) (r : ScrubRead) : State :=
  let s1 := s.raise 0x7008 3 (u32 r.part.val) (u32 r.block)
  let s2 := (s1.retireBlock r.phys 4).1
  if r.part.val = 1 ∨ r.part.val = 2 then
    { s2 with flash := { s2.flash with slots := modAt s2.flash.slots (r.part.val - 1) fun x => { x with state := if x.state = 0 then 0 else 4 } } }
  else if r.part.val = 5 then
    { s2 with flash := { s2.flash with entries := s2.flash.entries.map fun e =>
        if e.page / 64 ≤ r.block && r.block ≤ (e.page + e.pages - 1) / 64 then e.damage else e } }
  else s2

/-- SCRUB: a written page is read (R328, R329). -/
def doScrub (t : Time) (r : ScrubRead) (s0 : State) : State :=
  let s := s0.at t
  if !s.awake || !s.isOn 5 then s
  else
    let s1 : State := { s with flash := { s.flash with eraseMax := max s.flash.eraseMax r.erases } }
    let s2 := s1.count Id.CORRECTED_BITS r.corrected
    if 8 < r.errors then s2.uncorrectable r
    else
      let s3 := if 5 ≤ r.errors then s2.relocate r.phys else s2
      if 57000 ≤ r.erases then (s3.retireBlock r.phys 3).1 else s3

/-- WEAR_MOVE: data moves from the least-worn block to the most-worn free one (R330). -/
def doWearMove (t : Time) (least most : Nat) (s0 : State) : State :=
  let s := s0.at t
  if s.isOn 5 ∧ least + 2000 < s.flash.eraseMax ∧ most ≤ s.flash.eraseMax then s.relocate 4096 else s

/-! ### The event recorder (R339) -/

/-- The header of a recorder entry (Table 16.3). -/
def recHeader (g : Segment) (seq : U32) (raw coded : Nat) (fw : U32) : Bytes :=
  let h := le 2 0x5245 ++ le 1 1 ++ le 1 g.source ++ le 4 seq.toNat ++ le 4 g.num.toNat ++ le 1 ((g.trigger.map (·.source)).getD 0) ++ [0] ++
    zeros 2 ++ leInt 8 ((g.trigger.map (·.time)).getD 0 / 32) ++ le 4 raw ++ le 4 coded ++ le 4 g.version.toNat ++ le 4 fw.toNat ++ zeros 20
  h ++ le 4 (crc32 h).toNat

/-- DELTA of a recorder entry by CAP_SOURCE. -/
def recDelta (source : Nat) : Option (Nat × Nat) := if source = 0 then some (0, 32) else if source = 3 then some (0, 64) else none

/-- The page at which the next entry starts. -/
def State.recNextPage (s : State) : Nat := match s.flash.entries.getLast? with
  | some e => (e.page + e.pages) % max 1 s.recPages
  | none => 0

/-- Pages of the ring that a run of pages covers: a page lies in it. -/
def inRing (start n total p : Nat) : Bool := decide ((p + total - start) % max 1 total < n)

/-- Enter a copied segment; entries under the write point's blocks are discarded, and the segment is released where that was asked
for. -/
def State.recorderStore (s : State) (num : U32) : State := match s.cap.held.find? fun g => g.num == num with
  | none => s
  | some g =>
    let raw := g.image
    let unit := codeUnit raw (recDelta g.source)
    let seq := s.flash.recSeq + 1
    let e : RecEntry :=
      { seq, page := s.recNextPage, header := recHeader g seq raw.length unit.1.length s.fwVersion, data := unit.1 }
    let first := e.page / 64 * 64
    let span := 64 * cdiv (e.page - first + e.pages) 64
    let keep := s.flash.entries.filter fun x => !(inRing first span s.recPages x.page) || (x.page / 64 == e.page / 64 && decide (x.page < e.page))
    let s1 : State := { s with
      flash := { s.flash with recSeq := seq, entries := keep ++ [e], copies := s.flash.copies.filter (· != num) } }
    let s2 : State := s1.modHeld num fun x => { x with copyQueued := false }
    if g.releaseDue then s2.freeSegment num else s2

/-- RECORDER_COPY: the oldest segment that waits is copied. Erase groups clear the blocks ahead, program groups and a commit follow. -/
def doRecorderCopy (t : Time) (s0 : State) : State :=
  let s := s0.at t
  match s.flash.copies with
  | [] => s
  | n :: _ =>
    let busy := (s.flash.running.toList ++ s.flash.queue).any fun g => g.work == .recorder n
    if busy || !s.isOn 5 then s
    else match s.cap.held.find? fun g => g.num == n with
      | none => s.skipCopy n
      | some g =>
        let pages := pagesOf (64 + (codeUnit g.image (recDelta g.source)).1.length)
        let blocks := cdiv (s.recNextPage % 64 + pages) 64
        let erase : FlashGroup := { kind := .erase, work := .recorder n, host := false, waits := none }
        s.flashQueue (rep blocks erase ++ itemGroups (.recorder n) false pages)

/-! ### Firmware slots -/

/-- Change a firmware slot. -/
def State.modSlot (s : State) (i : Nat) (f : FwSlot → FwSlot) : State := { s with flash := { s.flash with slots := modAt s.flash.slots i f } }

/-- An empty slot. -/
def FwSlot.empty : FwSlot := { version := 0, index := 0, state := 0, length := 0, boots := 0 }

/-- The slot that an update writes: the one that is not ACTIVE; slot A in recovery (R342, R343). -/
def State.targetSlot (s : State) : Nat := if s.flash.activeSlot = 0 then 1 else 0

/-- FW_SLOT_STATE (R346). -/
def State.slotTable (s : State) : Bytes :=
  (s.flash.slots.map fun x =>
    le 4 x.version.toNat ++ le 1 x.index ++ le 1 x.state ++ zeros 2 ++ le 4 x.length ++ le 4 x.boots).flatten

/-! ### Commands -/

/-- CAL_STORE_RETRY (R322). -/
def execCalStoreRetry (t : Time) (s : State) : Host.Outcome State Fault Refusal := .next (doCalStoreRetry t s)

/-- FLASH_GROUP_START (R332). -/
def execFlashGroupStart (t : Time) (s : State) : Host.Outcome State Fault Refusal := .next (doFlashGroupStart t s)

/-- SCRUB (R329). -/
def execScrub (t : Time) (r : ScrubRead) (s : State) : Host.Outcome State Fault Refusal := .next (doScrub t r s)

/-- WEAR_MOVE (R330). -/
def execWearMove (t : Time) (least most : Nat) (s : State) : Host.Outcome State Fault Refusal := .next (doWearMove t least most s)

/-- RECORDER_COPY (R339). -/
def execRecorderCopy (t : Time) (s : State) : Host.Outcome State Fault Refusal := .next (doRecorderCopy t s)

end Sys2Proof.Machine
end

