-- ==== Sys2Proof/Machine/Cal.lean ====
section
/-! DEFINITION. Calibration (chapter 15): runs and their arithmetic, repeat agreement, tickets, application at a frame boundary, traces. -/

namespace Sys2Proof.Machine

open Sys2Proof

/-! ### Arithmetic (R315) -/

/-- Lower median of integers. -/
def medianInt (l : List Int) : Option Int := lowerMedian (fun a b => decide (a < b)) l

/-- round(2^32 × (v − nominal) / nominal), half up. -/
def deviation (v nominal : Rat) : Int := roundHalfUp ((2 ^ 32 : Nat) * (v - nominal) / nominal)

/-- rho of a band from the sum of its 12 flight counts. -/
def scaleRho (xtal : Int) (sum : Nat) : Int :=
  deviation ((sum : Nat) / 12) 512000 - roundHalfUp (xtal * (4294967296 / 1000000000 : Rat))

/-- r: the lower median of rho over the valid bands. -/
def scaleR (xtal : Int) (sums : List (Option Nat)) : Option Int := medianInt (sums.filterMap fun o => o.map (scaleRho xtal))

/-- sigma of the field. -/
def CalValues.fieldScale (v : CalValues) (r : Int) : Int := v.scaleTrace - (r - v.residual)

/-- sigma_t of a REFIN run. -/
def refinScale (m : Nat) : Int := roundHalfUp ((2 ^ 32 : Nat) * (320000000 - (m : Rat)) / m)

/-- t_exp of a distance in mm, in 1/16 LSB. -/
def targetTime (mm : Nat) : Int := roundHalfUp ((4 * mm * 2 ^ 28 : Nat) / (314263097 : Rat))

/-- z_t of a TARGET run: the lower median of the medians of the rows with at least 64 values, of which there are at least 64. -/
def targetZero (mm : Nat) (rows : List (List Int)) : Option Int :=
  let meds := (rows.filter fun l => 64 ≤ l.length).filterMap medianInt
  if meds.length < 64 then none else (medianInt meds).map fun m => m - targetTime mm

/-- Kind of a run's result, as the tickets list their runs. -/
def RunKind : RunResult → Nat
  | .skew _ => 1
  | .scale _ => 2
  | .zero _ => 3
  | .tin _ => 4
  | .psd _ => 5
  | .refin _ _ => 6
  | .target _ _ => 7

/-- Runs that a result stands for: a REFIN or TARGET run comes paired. -/
def runCount (r : RunResult) : Nat := if 6 ≤ RunKind r then 2 else 1

/-- The value of one run (Table 15.2); none where the run has no result. DESIGN CHOICE: log entry 87. -/
def State.runValue (s : State) (r : RunResult) : Option CalValue := match r with
  | .skew rows => some (.skew ((List.range 512).map fun i => if s.masked i then none else rows.getD i none))
  | .scale sums => (scaleR s.therm.xtal sums).map fun r => .scale (s.cal.vals.fieldScale r) r
  | .zero cs => (medianInt cs).map fun t => .zero (t + s.cal.vals.offset) t
  | .tin l => some (.tin ((List.range 4).map fun i => s.fac.tinPad.getD i 0 + l.getD i 0))
  | .psd l => some (.psd ((List.range 4).map fun i => ((l.getD i 0 : Nat) : Int)))
  | .refin m sums => (scaleR s.therm.xtal sums).map fun r => .refin (refinScale m) r
  | .target rows cs => match targetZero (s.cfgN Id.CAL_TARGET_DISTANCE) rows, medianInt cs with
    | some z, some t => some (.target (z - t) t)
    | _, _ => none

/-! ### Agreement (R316, R317) -/

/-- floor((a + b + 1) / 2). -/
def meanUp (a b : Int) : Int := (a + b + 1) / 2

/-- |a − b|. -/
def gapOf (a b : Int) : Nat := (a - b).natAbs

/-- The verdict on a pair. -/
structure Verdict where
  /-- The accepted value; none where the pair is rejected. -/
  value : Option CalValue
  /-- Quantity bit of CAL_REJECTED. -/
  quantity : Nat
  /-- Difference of CAL_REJECTED. -/
  diff : Nat
  deriving DecidableEq, Repr

/-- A zero or offset difference passes: |Δ| × 314,263,097 ≤ CAL_ZERO_TOL × 2^30. -/
def zeroAgrees (tol d : Nat) : Bool := d * 314263097 ≤ tol * 2 ^ 30

/-- A zero difference in 0.01 mm. -/
def zeroDiff (d : Nat) : Nat := (roundHalfUp ((d * 314263097 * 25 : Nat) / ((2 ^ 28 : Nat) : Rat))).toNat

/-- A scale difference in 0.01 ppm. -/
def scaleDiff (d : Nat) : Nat := (roundHalfUp ((d * 100000000 : Nat) / ((2 ^ 32 : Nat) : Rat))).toNat

/-- The largest difference between the entries of two lists. -/
def worstGap (a b : List Int) : Nat := maxNat (a.zipWith gapOf b)

/-- Judge two runs of a quantity (Table 15.3). -/
def judgePair (scaleTol zeroTol : Nat) (a b : CalValue) : Verdict := match a, b with
  | .scale s1 r1, .scale s2 r2 =>
    { value := if gapOf s1 s2 ≤ scaleTol * 4295 then some (.scale (meanUp s1 s2) (meanUp r1 r2)) else none,
      quantity := 0, diff := scaleDiff (gapOf s1 s2) }
  | .refin s1 r1, .refin s2 r2 =>
    { value := if gapOf s1 s2 ≤ scaleTol * 4295 then some (.refin (meanUp s1 s2) (meanUp r1 r2)) else none,
      quantity := 0, diff := scaleDiff (gapOf s1 s2) }
  | .zero z1 t1, .zero z2 t2 =>
    { value := if zeroAgrees zeroTol (gapOf z1 z2) then some (.zero (meanUp z1 z2) (meanUp t1 t2)) else none,
      quantity := 1, diff := zeroDiff (gapOf z1 z2) }
  | .target o1 t1, .target o2 t2 =>
    let good := zeroAgrees zeroTol (gapOf o1 o2) && zeroAgrees zeroTol (gapOf t1 t2)
    { value := if good then some (.target (meanUp o1 o2) (meanUp t1 t2)) else none,
      quantity := 5, diff := zeroDiff (if zeroAgrees zeroTol (gapOf o1 o2) then gapOf t1 t2 else gapOf o1 o2) }
  | .skew x, .skew y =>
    let both := (x.zip y).filterMap fun p => match p.1, p.2 with
      | some u, some v => some (u, v)
      | _, _ => none
    let good := both.all fun p => gapOf p.1 p.2 ≤ 2 && p.1.natAbs ≤ 640 && p.2.natAbs ≤ 640
    let vals := x.zipWith (fun u v => match u, v with
      | some m, some n => some (meanUp m n)
      | _, _ => none) y
    { value := if good then some (.skew vals) else none, quantity := 2, diff := maxNat (both.map fun p => gapOf p.1 p.2) }
  | .tin x, .tin y =>
    { value := if worstGap x y ≤ 2 then some (.tin (x.zipWith meanUp y)) else none, quantity := 3, diff := worstGap x y }
  | .psd x, .psd y =>
    let within := (x ++ y).all fun v => 9 * 1048576 ≤ 10 * v && 10 * v ≤ 11 * 1048576
    { value := if decide (worstGap x y ≤ 1049) && within then some (.psd (x.zipWith meanUp y)) else none,
      quantity := 4, diff := worstGap x y }
  | _, _ => { value := none, quantity := 0, diff := 0 }

/-! ### Values in use (R318) -/

/-- One accepted value put in use. -/
def CalValues.apply (v : CalValues) (x : CalValue) : CalValues := match x with
  | .scale sigma _ => { v with scale := sigma }
  | .zero z tzp => { v with zero := z, path := tzp }
  | .skew rows => { v with skew := v.skew.zipWith (fun o n => n.getD o) rows }
  | .tin l => { v with tin := l }
  | .psd l => { v with psd := l }
  | .refin sigma r => { v with scaleTrace := sigma, residual := r }
  | .target offset _ => { v with offset }

/-- Quantity bit of a value. -/
def CalValue.bit : CalValue → Nat
  | .scale _ _ => 0
  | .zero _ _ => 1
  | .skew _ => 2
  | .tin _ => 3
  | .psd _ => 4
  | .refin _ _ => 0
  | .target _ _ => 5

/-- The calibrated values once everything due has been applied. -/
def Cal.next (c : Cal) : CalValues := c.due.foldl CalValues.apply c.vals

/-- Quantity mask of CAL_APPLIED. -/
def Cal.dueMask (c : Cal) : Nat := maskOf 6 fun b => c.due.any fun x => x.bit == b

/-! ### Tickets (R319) -/

/-- Runs of a request code (Table 15.4), and whether TIN runs come alongside. -/
def calRuns (code : Nat) : List Nat × Bool :=
  if code = 1 then ([1, 2, 3], true) else if code = 2 then ([2], false) else if code = 3 then ([3], false)
  else if code = 4 then ([1], false) else if code = 5 then ([4], false) else if code = 6 then ([5], false)
  else if code = 16 then ([6], false) else if code = 17 then ([7], false) else ([], false)

/-- A new ticket. -/
def calTicket (code : Nat) (num : U32) : CalTicket :=
  { code, num, runs := (calRuns code).1, first := none, firstTin := none, tinDue := (calRuns code).2, rejected := false, accepted := [],
    startFrame := none, extended := 0, anchors := [] }

/-- The anchors' readings; none where lost: older than 100 ms, or outside −50 °C to +150 °C (R305).
DEDUCED: log entry 85. -/
def State.anchorNow (s : State) : List (Option Int) := s.therm.anchors.map fun o => match o with
  | some (v, at_) => if at_ + msec 100 < s.now ∨ v < -500 ∨ 1500 < v then none else some v
  | none => none

/-- A run that needs the flyback's windows, or borrowed slots in their place, finds them in the configuration (R94, R95). -/
def Cfg.runFits (c : Cfg) (scanning : Bool) (run : Nat) : Bool :=
  if run = 1 then c.nat Id.CAL_WINDOW_COUNT != 0
  else if run = 2 ∨ run = 6 then !scanning || c.nat Id.CAL_WINDOW_COUNT != 0
  else if run = 3 ∨ run = 7 then c.nat Id.CAL_WINDOW_COUNT != 0 || c.nat Id.CAL_BORROW_MAX != 0
  else true

/-- The frame in which a ticket's first run starts: the running one, or the next one for a run that waits for the next flyback.
DEDUCED: log entry 86. -/
def State.calStartFrame (s : State) (run : Nat) : Option U32 :=
  if !s.scan.timer then none
  else if s.scan.flyback || run ∈ [4, 5, 6] || (run = 3 && s.cfgN Id.CAL_WINDOW_COUNT == 0) then some s.scan.frame
  else some (s.scan.frame + 1)

/-- A running ticket that needs the bands in HOLD holds their domains on (R22). -/
def State.calHold (s : State) : State := match s.cal.running with
  | some k =>
    if s.pwr.state = .hold ∧ (2 ∈ k.runs ∨ 6 ∈ k.runs) then
      (List.range 16).foldl (fun y b =>
        if y.dom (bandDom b) = .off then (y.setDom (bandDom b) .held).modBand b fun x => x.wake y.conf else y) s
    else s
  | none => s

/-- The bands that a ticket held on are switched off. -/
def State.calRelease (s : State) : State :=
  (List.range 16).foldl (fun y b =>
    if y.dom (bandDom b) = .held then (y.setDom (bandDom b) .off).modBand b Band.powerDown else y) s

/-- The next ticket starts, unless an entry holds it off (R293); an automatic ticket that waits for a place enters the queue.
DEDUCED: log entry 86. -/
def State.calStart (s : State) : State := match s.cal.running, s.cal.queue with
  | none, k :: r =>
    if s.holdOff then s else
    let k1 := { k with startFrame := s.calStartFrame (k.runs.headD 0), anchors := s.anchorNow }
    let queue := match s.cal.autoDue with
      | some n => r ++ [calTicket 1 n]
      | none => r
    ({ s with cal := { s.cal with running := some k1, queue, autoDue := none } }).calHold
  | _, _ => s

/-- A ticket is queued. -/
def State.calQueue (s : State) (k : CalTicket) : State := { s with cal := { s.cal with queue := s.cal.queue ++ [k] } }.calStart

/-- CAL_DONE. -/
def State.calDone (s : State) (k : CalTicket) (result : Nat) : State :=
  s.raise 0x9001 (if result = 0 then 0 else 1) (u32 k.code) (u32 result) 0 k.num

/-- CAL_ANCHOR_LAST takes the anchors read at the start of a FIELD ticket, lost readings apart (R320). -/
def Cal.takeAnchors (c : Cal) (k : CalTicket) : Cal :=
  if k.code = 1 then { c with anchorLast := c.anchorLast.zipWith (fun o n => n.getD o) k.anchors } else c

/-- The running ticket ends (R319). -/
def State.calEnd (s : State) (result : Nat) : State := match s.cal.running with
  | none => s
  | some k =>
    let s1 : State := { s with cal := { s.cal with running := none }.takeAnchors k }
    (s1.calRelease.calDone k result).calStart

/-- Results of a completed ticket: field values fall due at the next frame boundary and go to the record, traces are pending. -/
def State.calKeep (s : State) (l : List CalValue) : State :=
  let field := l.filter fun x => match x with
    | .refin _ _ | .target _ _ => false
    | _ => true
  let s1 := l.foldl (fun (y : State) x => match x with
    | .refin sigma r => { y with cal := { y.cal with pendRefin := some (sigma, r) } }
    | .target o t => { y with cal := { y.cal with pendTarget := some (o, t) } }
    | _ => y) s
  if field = [] then s1 else { s1 with cal := { s1.cal with due := s1.cal.due ++ field } }.storeCal 0 0 false

/-- A ticket whose runs are all made completes. -/
def State.calSettle (s : State) : State := match s.cal.running with
  | some k => if k.runs = [] ∧ !k.tinDue then (s.calKeep k.accepted).calEnd (b2n k.rejected) else s
  | none => s

/-- A pair of runs is judged: the ticket keeps the value, or CAL_REJECTED (R316, R317). -/
def State.calJudge (s : State) (k : CalTicket) (a b : CalValue) : State :=
  let v := judgePair (s.cfgN Id.CAL_SCALE_TOL) (s.cfgN Id.CAL_ZERO_TOL) a b
  match v.value with
  | some x =>
    let path := match x with
      | .zero _ t => t
      | _ => s.cal.vals.path
    { s with cal := { s.cal with
        running := some { k with accepted := k.accepted ++ [x] }, vals := { s.cal.vals with path } } }
  | none =>
    let s1 : State := { s with cal := { s.cal with running := some { k with rejected := true } } }
    (s1.count Id.CAL_REJECTS).raise 0x9002 1 (u32 v.quantity) (u32 v.diff) 0 k.num

/-- What a run needs at its end (Table 15.2). -/
def State.runReady (s : State) (run : Nat) : Bool :=
  if run = 1 then s.scan.timer && s.scan.flyback
  else if run = 2 then !s.scan.timer || s.scan.flyback
  else if run = 3 then s.scan.timer && s.emit.enable != 0
  else if run = 4 then s.isOn 15 && !s.tin.gate && s.tin.inputs.all fun x => x.openRec.isNone
  else if run = 5 then s.engine.mode == .park
  else if run = 6 then s.tin.refin
  else s.scan.timer && s.tracking && s.emit.enable == 2

/-- CAL_RUN_DONE: the current run of the running ticket ends with its result; TIN runs of a FIELD ticket come alongside. -/
def doCalRunDone (t : Time) (r : RunResult) (s0 : State) : State :=
  let s := s0.at t
  match s.cal.running, s.runValue r with
  | some k, some v =>
    let run := RunKind r
    if !s.runReady run then s
    else if k.runs.head? = some run then
      let s1 := s.count Id.CAL_RUNS (runCount r)
      match k.first with
      | none => { s1 with cal := { s1.cal with running := some { k with first := some v } } }
      | some a => (s1.calJudge { k with first := none, runs := k.runs.tail } a v).calSettle
    else if k.tinDue ∧ run = 4 then
      let s1 := s.count Id.CAL_RUNS
      match k.firstTin with
      | none => { s1 with cal := { s1.cal with running := some { k with firstTin := some v } } }
      | some a => (s1.calJudge { k with firstTin := none, tinDue := false } a v).calSettle
    else s
  | _, _ => s

/-- CAL_TICKET_LIMIT: 16 frames from the frame of the first run, and its extensions, have passed (R319). -/
def doCalTicketLimit (t : Time) (s0 : State) : State :=
  let s := s0.at t
  match s.cal.running with
  | some k => match k.startFrame with
    | some f => if 16 + k.extended ≤ (s.scan.frame - f).toNat ∧ (s.scan.frame - f).toNat < 2 ^ 31 then s.calEnd 2 else s
    | none => s
  | none => s

/-- Tickets of some codes end (R319, BECALMED, HOLD, DOZE, SLEEP): the running one, then those that wait. -/
def State.calAbort (s : State) (keep : Nat → Bool) : State :=
  let ended := (s.cal.running.toList ++ s.cal.queue).filter fun k => !keep k.code
  let s1 : State := { s with cal := { s.cal with
    running := s.cal.running.filter fun k => keep k.code, queue := s.cal.queue.filter fun k => keep k.code } }
  let s2 := ended.foldl (fun (y : State) k => ({ y with cal := if s.cal.running = some k then y.cal.takeAnchors k else y.cal }).calDone k 3) s1
  (if s2.cal.running.isNone then s2.calRelease else s2).calStart

/-- BECALMED ends every ticket but TRACE_REFIN. -/
def State.calBecalm (s : State) : State := s.calAbort fun c => c == 16

/-- Entry to HOLD ends the tickets that need RUN. -/
def State.calHoldEntry (s : State) : State := s.calAbort fun c => c == 5 || c == 16

/-- Entry to DOZE or SLEEP, or loss of supply: tickets end and pending traces are discarded (R321). -/
def State.calSleep (s : State) : State :=
  let s1 : State := { s with cal := { s.cal with autoDue := none, coldDue := false } }.calAbort fun _ => false
  { s1 with cal := { s1.cal with pendRefin := none, pendTarget := none } }

/-- REFIN_ABSENT: no edge for 1 µs; a TRACE_REFIN ticket ends with result 4. -/
def doRefinAbsent (t : Time) (s0 : State) : State :=
  let s := s0.at t
  if s.refinSilent then
    let s1 := s.refinGone
    match s1.cal.running with
    | some k => if k.code = 16 then s1.calEnd 4 else s1
    | none => s1
  else s

/-! ### The frame boundary (R318, R320) -/

/-- Objects whose change at a flip restarts the current pair. -/
def calObjects : List Nat :=
  [Id.FRAME_MODE, Id.SHOT_PERIOD, Id.RX_EXCESS_BIAS, Id.RX_GATE_ON, Id.HIST_BIN_WIDTH, Id.CAL_WINDOW_START, Id.CAL_WINDOW_COUNT,
    Id.CAL_WINDOW_LENGTH, Id.CAL_BORROW_MAX]

/-- A flip restarts the current quantity's pair from run 1. -/
def State.calFlip (s : State) (changed : List Nat) : State :=
  if calObjects.any (· ∈ changed) then
    { s with cal := { s.cal with running := s.cal.running.map fun k => { k with first := none, firstTin := none } } }
  else s

/-- Before the flip of a boundary: a ticket whose needs an earlier flip removed ends, and one whose frame is taken is extended. -/
def State.calPreFlip (s : State) : State := match s.cal.running with
  | none => s
  | some k =>
    if !(k.runs.all (s.conf.runFits s.scan.timer)) then s.calEnd 2
    else
      let waits := k.runs.any fun r => r == 3 || r == 7
      let more := s.emit.fullTestDue || (waits && s.emit.enable == 0)
      { s with cal := { s.cal with running := some { k with
          startFrame := match k.startFrame with
            | some f => some f
            | none => some s.scan.frame
          extended := k.extended + b2n more } } }

/-- Values due are put in use: CAL_SEQ and CAL_APPLIED. -/
def State.calApply (s : State) : State :=
  if s.cal.due = [] then s
  else
    let mask := s.cal.dueMask
    { s with cal := { s.cal with vals := s.cal.next, due := [], seq := s.cal.seq + 1 } }.raise 0x9003 0 s.scan.frame (u32 mask)

/-- A FIELD ticket is queued, running or waiting for a place. -/
def State.fieldTicket (s : State) : Bool :=
  s.cal.autoDue.isSome || (s.cal.running.toList ++ s.cal.queue).any fun k => k.code == 1

/-- The LM512 queues a FIELD ticket of its own; the second component is its number. -/
def State.calAuto (s : State) : State × U32 :=
  let p := s.issueTicket
  let s1 := p.1
  if s1.cal.queue.length < 8 then (s1.calQueue (calTicket 1 p.2), p.2)
  else ({ s1 with cal := { s1.cal with autoDue := some p.2 } }, p.2)

/-- The first anchor that has moved by more than CAL_DELTA_T: its node and the change in 0.1 K. -/
def State.anchorMoved (s : State) : Option (Nat × Int) :=
  ((List.range 3).filterMap fun i => match s.anchorNow.getD i none with
    | some v =>
      let d := v - s.cal.anchorLast.getD i 0
      if s.cfgN Id.CAL_DELTA_T < d.natAbs then some (i, d) else none
    | none => none).head?

/-- CAL_AUTO at a frame boundary: after a cold start, and where an anchor has moved (R320). -/
def State.calTrigger (s : State) : State :=
  let s1 : State := { s with cal := { s.cal with coldDue := false } }
  if s1.cfgN Id.CAL_AUTO ≠ 1 then s1
  else if s.cal.coldDue then s1.calAuto.1
  else if s1.fieldTicket then s1
  else match s1.anchorMoved with
    | some (node, d) =>
      let p := s1.calAuto
      p.1.raise 0x9004 0 (u32 node) (u32i d) 0 p.2
    | none => s1

/-- After the flip of a boundary. -/
def State.calBoundary (s : State) : State := s.calApply.calTrigger

/-! ### Requests (R319, R321) -/

/-- Why a calibration request is not accepted; none where it is. Codes outside Table 15.4 abort with OUT_OF_RANGE. -/
def State.calCheck (s : State) (code : Nat) : Option Abort :=
  let run := s.pwr.state == .run
  let fits := (calRuns code).1.all (s.conf.runFits s.scan.timer)
  let ok : Bool :=
    if 1 ≤ code ∧ code ≤ 4 then run && !s.isBecalmed && fits
    else if code = 5 then !s.isBecalmed && !s.tin.gate && s.tin.inputs.all fun x => x.openRec.isNone
    else if code = 6 then run && !s.isBecalmed && s.engine.mode == .park
    else if code = 16 then s.tin.refin && fits
    else if code = 17 then run && s.tracking && s.emit.enable == 2 && fits
    else if code = 18 then s.cal.pendRefin.isSome || s.cal.pendTarget.isSome
    else true
  if code ∈ [1, 2, 3, 4, 5, 6, 16, 17, 18, 19] then
    if !ok then some .stateConflict
    else if code = 18 then s.flashCheck .commit
    else if code ≠ 19 ∧ 8 ≤ s.cal.queue.length then some .deferred
    else none
  else some .outOfRange

/-- TRACE_RECORD of a commit: device time, REFIN deviation in 0.01 ppm, target distance in mm. -/
def State.traceRecord (s : State) : Bytes :=
  let old := s.cal.vals.record
  let dev := match s.cal.pendRefin with
    | some (sigma, _) => leInt 4 (roundHalfUp ((sigma * 100000000 : Int) / ((2 ^ 32 : Nat) : Rat)))
    | none => slice old 8 4
  let dist := if s.cal.pendTarget.isSome then le 4 (s.cfgN Id.CAL_TARGET_DISTANCE) else slice old 12 4
  le 8 s.stampNow.toNat ++ dev ++ dist

/-- TRACE_COMMIT (R321): the trace objects are written, scale and zero fall due, and the record is stored. -/
def State.traceCommit (s : State) (k : U32) : State :=
  let v := s.cal.vals
  let rec_ := s.traceRecord
  let due1 := match s.cal.pendRefin with
    | some (sigma, r) => [CalValue.scale sigma r]
    | none => []
  let due2 := match s.cal.pendTarget with
    | some (o, t) => [CalValue.zero (t + o) t]
    | none => []
  let v1 := match s.cal.pendRefin with
    | some (sigma, r) => { v with scaleTrace := sigma, residual := r }
    | none => v
  let v2 := match s.cal.pendTarget with
    | some (o, t) => { v1 with offset := o, path := t }
    | none => v1
  let mask := b2n s.cal.pendRefin.isSome + 2 * b2n s.cal.pendTarget.isSome
  let s1 : State := { s with cal := { s.cal with
    vals := { v2 with record := rec_ }, due := s.cal.due ++ due1 ++ due2, pendRefin := none, pendTarget := none } }
  s1.storeCal k mask true

/-- A calibration request accepted with a ticket. -/
def calRequestAction (code : Nat) (k : U32) (s : State) : State :=
  if code = 18 then s.traceCommit k
  else if code = 19 then { s with cal := { s.cal with pendRefin := none, pendTarget := none } }.calDone (calTicket code k) 0
  else s.calQueue (calTicket code k)

/-- CAL_STATE (Table 15.5). -/
def Cal.stateCode (c : Cal) : Nat := match c.running with
  | some k => if k.first.isSome then 3 else 2
  | none => if c.queue ≠ [] then 1 else if c.pendRefin.isSome || c.pendTarget.isSome then 4 else 0

/-! ### Commands -/

/-- REFIN_ABSENT (R41). -/
def execRefinAbsent (t : Time) (s : State) : Host.Outcome State Fault Refusal := .next (doRefinAbsent t s)

/-- CAL_RUN_DONE (R316). -/
def execCalRunDone (t : Time) (r : RunResult) (s : State) : Host.Outcome State Fault Refusal := .next (doCalRunDone t r s)

/-- CAL_TICKET_LIMIT (R319). -/
def execCalTicketLimit (t : Time) (s : State) : Host.Outcome State Fault Refusal := .next (doCalTicketLimit t s)

end Sys2Proof.Machine
end

