-- ==== Sys2Proof/Machine/Lanes.lean ====
section
/-! DEFINITION. Dual lanes (chapter 11): lane states, signatures, verdicts and the release of columns, the lease and its lapse into
BECALMED, the Towpath, the self-test, rejoin and takeover. -/

namespace Sys2Proof.Machine

open Sys2Proof

/-! ### BECALMED (R244) -/

/-- The column timer stops: no tick and no sample follows; what the running column gathered is gone.
DEDUCED: log entry 32. -/
def State.timerStop (s : State) : State :=
  if s.scan.timer then
    let s1 : State := { s with
      scan := { s.scan with timer := false, fade := none, slot := 64 }
      rx := { s.rx with acc := .empty }
      front := { s.front with sections := [], sub := 0 } }
    s1.capTimerStop
  else s

/-- The device enters BECALMED: cause 1 lease lapse, 2 crystal, 3 essential domain. A cause of chapter 14 stays over a lapse. -/
def State.becalm (s : State) (cause : Nat) : State :=
  let keep := cause = 1 ∧ s.pwr.becalmed ≠ 0
  let s1 : State := { s with pwr := { s.pwr with becalmed := if keep then s.pwr.becalmed else cause } }
  ((s1.timerStop.tripSet 10).bankDischarge.enginePark 4).mirrPark.calBecalm

/-! ### Lane states (R237, R238) -/

/-- LANE_STATE (Table 11.1). -/
def LaneState.code : LaneState → Nat
  | .active => 0
  | .standby => 1
  | .qualified => 2
  | .rejoining => 3
  | .moored => 4
  | .failed => 5
  | .off => 6

/-- Lane number: A 0, B 1. -/
def LaneId.num : LaneId → Nat
  | .a => 0
  | .b => 1

/-- Domain of a lane. -/
def laneDom (l : LaneId) : Nat := 6 + LaneId.num l

/-- No lane is QUALIFIED: the frame carries REDUNDANCY (Table 11.10). -/
def State.noteRedundancy (s : State) : State :=
  if s.laneA.state ≠ .qualified ∧ s.laneB.state ≠ .qualified then { s with arb := { s.arb with redundancyLost := true } } else s

/-- A lane changes state: LANE_STATE_CHANGED; a lane that becomes STANDBY counts its matching columns anew. -/
def State.setLaneState (s : State) (l : LaneId) (v : LaneState) : State :=
  let old := (s.lane l).state
  if old = v then s
  else
    let s1 := s.modLane l fun x => { x with state := v, matches_ := if v = .standby then 0 else x.matches_ }
    (s1.raise 0x5001 0 (u32 (LaneId.num l)) (u32 old.code) (u32 v.code)).noteRedundancy

/-- ELIGIBLE (R242): the latest report says QUALIFIED and is at most 200 µs old, and TOWPATH_DOWN is not declared. -/
def State.eligible (s : State) (l : LaneId) : Bool :=
  (s.lane l).state == .qualified && s.arb.towpath != 2 && match (s.lane l).report with
    | some (t, q) => q && decide (s.now ≤ t + usec 200)
    | none => false

/-- A lane's domain is switched off: it is OFF. -/
def State.laneOff (s : State) (l : LaneId) : State :=
  let s1 := s.setLaneState l .off
  s1.modLane l fun x => { Lane.reset with state := x.state }

/-! ### Rejoin (R248, R249) -/

/-- A rejoin ends in a state other than QUALIFIED. -/
def State.rejoinLost (s : State) : State :=
  { s with arb := { s.arb with rejoin := none, rejoinsLeft := s.arb.rejoinsLeft - 1 } }

/-- The running rejoin is aborted: reason 1 Towpath, 2 lane fault, 3 holder lapse (Table 11.2 step 11). -/
def State.abortRejoin (s : State) (reason : Nat) : State := match s.arb.rejoin with
  | none => s
  | some r =>
    (s.rejoinLost.raise 0x500A 1 (u32 (LaneId.num r.lane)) (u32 reason)).setLaneState r.lane (if reason = 1 then .moored else .failed)

/-- A rejoin starts (Table 11.7 step 1); a FAILED lane has been power-cycled. -/
def State.startRejoin (s : State) (l : LaneId) (ticket : U32) : State :=
  let s1 := s.modLane l fun x => { x with fatal := false, report := none, toReport := none, samples := [], watchdog := s.now }
  let s2 := s1.setLaneState l .rejoining
  let s3 : State := { s2 with arb := { s2.arb with rejoin := some { lane := l, ticket, step := 2, tick := 0 } } }
  (s3.count Id.REJOINS).raise 0x5009 0 (u32 (LaneId.num l)) 0 0 ticket

/-- A Lock that is COMMITTED or flips before step 5 restarts the rejoin at step 2 (R249). -/
def State.rejoinRestart (s : State) : State := match s.arb.rejoin with
  | some r => if r.step < 6 then { s with arb := { s.arb with rejoin := some { r with step := 2 } } } else s
  | none => s

/-- A rejoin of a lane may start: the other lane is ACTIVE, TOWPATH_DOWN is not declared, the lane is MOORED or FAILED and its domain
is not, RUN or HOLD, and no hold-off (R248, R293). -/
def State.rejoinable (s : State) (l : LaneId) : Bool :=
  let st := (s.lane l).state
  (s.lane (other l)).state == .active && s.arb.towpath != 2 && (st == .moored || st == .failed) && !s.isFailed (laneDom l) && s.awake &&
    !s.holdOff && s.arb.rejoin.isNone

/-- LANE_REJOIN accepted with a ticket. -/
def laneRejoinAction (l : LaneId) (k : U32) (s : State) : State := s.startRejoin l k

/-- The lane that an automatic rejoin takes: the one that does not hold the lease; MOORED needs the Towpath up for 10 ms. -/
def State.autoRejoin (s : State) : Option LaneId := match s.arb.holder with
  | some h =>
    let l := other h
    let up := (s.lane l).state == .failed || (s.arb.towpath == 0 && decide (s.arb.towpathAt + msec 10 ≤ s.now))
    if s.cfgN Id.REJOIN_AUTO = 1 ∧ s.arb.rejoinsLeft ≠ 0 ∧ s.rejoinable l ∧ up then some l else none
  | none => none

/-- REJOIN_AUTO_START. -/
def doRejoinAutoStart (t : Time) (s0 : State) : State :=
  let s := s0.at t
  match s.autoRejoin with
  | some l => s.startRejoin l 0
  | none => s

/-- REJOIN_COPY_DONE: the rejoin waits for its commit tick (step 3). -/
def doRejoinCopyDone (t : Time) (s0 : State) : State :=
  let s := s0.at t
  match s.arb.rejoin with
  | some r => if r.step = 2 then { s with arb := { s.arb with rejoin := some { r with step := 3 } } } else s
  | none => s

/-- A COLUMN_TICK in RUN is the commit tick of a rejoin whose copy has ended. -/
def State.rejoinTick (s : State) (tick : Time) : State := match s.arb.rejoin with
  | some r => if r.step = 3 then { s with arb := { s.arb with rejoin := some { r with step := 4, tick } } } else s
  | none => s

/-- REJOIN_SNAPSHOT: staging and snapshot become live, and the lane is STANDBY from the column that ended at T (steps 4, 5). -/
def doRejoinSnapshot (t : Time) (s0 : State) : State :=
  let s := s0.at t
  match s.arb.rejoin with
  | some r =>
    if r.step = 4 then
      let x := s.lane (other r.lane)
      let s1 := s.modLane r.lane fun y => { y with engine := x.engine, joined := r.tick, watchdog := s.now, samples := x.samples }
      let s2 : State := { s1 with arb := { s1.arb with rejoin := some { r with step := 6 } } }
      s2.setLaneState r.lane .standby
    else s
  | none => s

/-! ### Columns of the lanes (R239, R240) -/

/-- The 16,496-byte signature block of a lane for a column (Table 11.3). -/
def signatureBlock (x : ColumnRec) (r : LaneColumn) (ctl : ControlColumn) (c : ColCtl) : Bytes :=
  let fold := (List.range 8).map fun j =>
    (ctl.outputs.zipIdx.filter fun p => p.2 % 8 == j).foldl (fun (a : Int) p => a + p.1) 0
  le 4 x.frame.toNat ++ le 2 x.column ++ le 1 (min 255 ctl.outputs.length) ++ [0] ++ r.queues ++ le 1 (b2n r.incomplete) ++
    le 1 (b2n r.histSat) ++ le 2 r.cutRows ++ le 4 r.ambSource ++ le 1 c.gain ++ le 1 (b2n c.handover) ++ zeros 2 ++
    leInt 4 (sat20 c.error) ++ (fold.map (leInt 2)).flatten ++ leInt 8 ctl.integrator ++ (r.ambient.map (le 4)).flatten

/-- What an engine gives the header of a column; the gain set of the engine where it saw no sample of the column. -/
def Engine.columnCtl (e : Engine) (x : ColumnRec) : ColCtl :=
  (e.cols.find? fun k => k.frame == x.frame && k.column == x.column).getD
    { frame := x.frame, column := x.column, gain := e.gainSet, error := 0, handover := false }

/-- ANGLE of a column; INVALID where no sample of it was delivered. -/
def Front.columnAngle (f : Front) (x : ColumnRec) : ColAngle :=
  (f.cols.find? fun k => k.frame == x.frame && k.column == x.column).getD
    { frame := x.frame, column := x.column, angle := 0, unsettled := false, invalid := true }

/-- A lane's result of a column. -/
def ColumnRec.resultOf (x : ColumnRec) : LaneId → Option LaneColumn
  | .a => x.laneA
  | .b => x.laneB

/-- A lane's control part of a column: the window so far where the next tick has not come. -/
def State.ctlOf (s : State) (x : ColumnRec) (l : LaneId) : ControlColumn :=
  if x.closed then match l with
    | .a => x.ctlA
    | .b => x.ctlB
  else { outputs := (s.lane l).engine.window, integrator := (s.lane l).engine.i }

/-- A lane's signature block; none where it sends no signature. -/
def State.blockOf (s : State) (x : ColumnRec) (l : LaneId) : Option Bytes :=
  if (s.lane l).runs ∧ (s.lane l).joined ≤ x.ended then
    (x.resultOf l).map fun r => signatureBlock x r (s.ctlOf x l) ((s.lane l).engine.columnCtl x)
  else none

/-- Two signatures are equal. -/
def sameSignature (a b : Bytes) : Bool := a == b || crc64 a == crc64 b

/-- Change the column with a sequence number. -/
def State.modColumn (s : State) (seq : U32) (f : ColumnRec → ColumnRec) : State :=
  { s with arb := { s.arb with columns := s.arb.columns.map fun x => if x.seq = seq then f x else x } }

/-- Turn bits of a byte string, as a memory fault of the lane does. -/
def corrupt (q : Bytes) (upset : List (Nat × Byte)) : Bytes := upset.foldl (fun l p => modAt l p.1 (· ^^^ p.2)) q

/-- LANE_COLUMN_DONE: the lane finishes its oldest column, cut where the next tick has come (R168).
DEDUCED: log entry 71. -/
def doLaneColumnDone (t : Time) (l : LaneId) (upset : List (Nat × Byte)) (s0 : State) : State :=
  let s := s0.at t
  let y := s.lane l
  match s.arb.columns.find? fun x => (x.resultOf l).isNone && decide (y.joined ≤ x.ended) with
  | none => s
  | some x =>
    if !y.runs then s
    else
      let d := s.draw
      let s1 := if x.closed then d.1 else s
      let late := if x.closed then unfinished x.column (Config.rowsFinished d.2 x.column (l == .b)) else []
      let r := laneColumn s1.fac x late
      let r1 : LaneColumn := { r with queues := corrupt r.queues upset }
      let s2 := s1.modColumn x.seq fun z => match l with
        | .a => { z with laneA := some r1 }
        | .b => { z with laneB := some r1 }
      s2.modLane l fun z => { z with watchdog := s.now }

/-- A column as its holder releases it. -/
def State.releasedOf (s : State) (x : ColumnRec) (h : LaneId) (compare : Nat) (gap : Bool) : Released :=
  { col := x, result := if gap then none else x.resultOf h, holder := h, compare, takeover := !gap && s.arb.takeover, gap,
    angle := s.front.columnAngle x, ctl := (s.lane h).engine.columnCtl x }

/-- The holder writes the estimates of R154 back to the bands and to LANE_AMBIENT. -/
def State.writeAmbient (s : State) (l : LaneColumn) : State :=
  (List.range 16).foldl (fun y b => y.modBand b fun z => { z with laneEst := l.ambient.getD b 0xFFFFFFFF }) s

/-- The holder writes the 512 echo queues of a column (R166). -/
def State.writeQueues (s : State) (x : ColumnRec) (l : LaneColumn) : State :=
  { s with echo := echoWriteAll s.echo (queueOffset x.frame x.columns x.column 0) l.queues }

/-- The counters of Table 07.5 and the sums of R170 at a release. -/
def State.countColumn (s : State) (r : Released) : State :=
  let s1 := (s.count Id.COLUMNS_INCOMPLETE (b2n r.incomplete)).count Id.ROWS_NOT_PROCESSED r.cutRows
  let s2 : State := { s1 with arb := { s1.arb with
    incomplete := s1.arb.incomplete + b2n r.incomplete, cutRows := s1.arb.cutRows + r.cutRows,
    excluded := s1.arb.excluded + (r.result.map (·.excluded)).getD 0 } }
  match r.result with
  | some l => ((s2.count Id.CANDIDATES_DROPPED l.dropped).count Id.LAUNCH_EXCLUDED l.excluded).count Id.BIN_SATURATIONS l.saturations
  | none => s2

/-- The release of a column (R240 step 4): ambient, echo store, stream and capture, counters, RELEASED_COLUMN. -/
def State.release (s : State) (x : ColumnRec) (h : LaneId) (compare : Nat) (gap : Bool) : State :=
  let r := s.releasedOf x h compare gap
  let s1 := match r.result with
    | some l => (s.writeAmbient l).writeQueues x l
    | none => s
  let s2 : State := { s1 with arb := { s1.arb with
    released := x.seq, takeover := s1.arb.takeover && gap, columns := s1.arb.columns.filter fun z => z.seq != x.seq } }
  (((s2.countColumn r).streamColumn r).captureColumn r).capSettle

/-! ### The lease (R242 to R244, R250) -/

/-- The instant at which the lease expires. -/
def State.leaseEnd (s : State) : Time := s.arb.renewed + usec (s.cfgN Id.LEASE_LENGTH)

/-- Columns whose release deadline has passed are released header-only by a new holder (R250). DEDUCED: log entry 69. -/
def State.releaseGaps (s : State) (h : LaneId) : State :=
  (s.arb.columns.filter fun x => x.judged || decide (x.ended + x.period + usec 10 ≤ s.now)).foldl
    (fun y x => y.release x h 2 true) s

/-- The token goes to a lane: LEASE_GATE names it, and the lease-valid interlock stays dropped until it renews. -/
def State.giveToken (s : State) (l : LaneId) : State :=
  let s1 : State := { s with arb := { s.arb with
    holder := some l, renewed := s.now, unconfirmed := some s.now, window := 0 } }
  ((s1.tripSet 0).setLaneState l .active).follow

/-- The lease lapses: cause 1 expiry, 2 yield, 3 mismatches, 4 confirmation missed (R244, Table 11.2 step 12). Columns not released
are lost with it. -/
def State.lapse (s : State) (cause : Nat) : State :=
  let s1 : State := { s with arb := { s.arb with
    holder := none, unconfirmed := none, window := 0, columns := [], columnSeq := s.arb.released, takeover := false } }
  let s2 := s1.abortRejoin 3
  let moor := fun (y : State) (l : LaneId) =>
    if (y.lane l).state = .failed ∨ (y.lane l).state = .off then y else y.setLaneState l .moored
  let s3 := moor (moor (s2.tripSet 0) .a) .b
  ((s3.raise 0x5005 3 (u32 cause)).becalm 1).capSettle

/-- The holder loses the token: an eligible standby takes it over in the same cycle, or the lease lapses (R242, R243). -/
def State.loseLease (s : State) (old : LaneId) (cause : Nat) : State :=
  let new := other old
  if s.eligible new then
    let s1 := s.setLaneState old .failed
    let s2 := s1.giveToken new
    let s3 : State := { s2 with arb := { s2.arb with takeover := true } }
    ((s3.count Id.TAKEOVERS).raise 0x5004 2 (u32 (LaneId.num new)) (u32 cause)).releaseGaps new
  else (if cause = 3 then s else s.setLaneState old .failed).lapse cause

/-- LEASE_EXPIRY: LEASE_LENGTH after the last renewal, in AO cycles. -/
def doLeaseExpiry (t : Time) (s0 : State) : State :=
  let s := s0.at t
  match s.arb.holder with
  | some h => if s.leaseEnd / aoCycle ≤ s.now / aoCycle then s.loseLease h 1 else s
  | none => s

/-- YIELD. -/
def doYield (t : Time) (l : LaneId) (s0 : State) : State :=
  let s := s0.at t
  if s.arb.holder = some l then s.loseLease l 2 else s

/-- LEASE_CONFIRM_TIMEOUT: no renewal within 5 µs of the grant; the lane is FAILED and the lease lapses. -/
def doLeaseConfirmTimeout (t : Time) (s0 : State) : State :=
  let s := s0.at t
  match s.arb.unconfirmed, s.arb.holder with
  | some g, some h => if g + usec 5 ≤ s.now then (s.setLaneState h .failed).lapse 4 else s
  | _, _ => s

/-- A fatal lane fault (Table 11.2 steps 6 and 7). DEDUCED: log entry 66. -/
def State.laneFatal (s : State) (l : LaneId) : State :=
  let s1 := s.modLane l fun x => { x with fatal := true }
  if s.arb.holder = some l then s1.loseLease l 2
  else match s1.arb.rejoin with
    | some r => if r.lane = l then s1.abortRejoin 2 else if (s.lane l).state = .off then s1 else s1.setLaneState l .failed
    | none => if (s.lane l).state = .off then s1 else s1.setLaneState l .failed

/-- FATAL_LANE_FAULT: an uncorrectable ECC error in a lane. -/
def doFatalLaneFault (t : Time) (l : LaneId) (s0 : State) : State :=
  let s := s0.at t
  if s.isOn (laneDom l) then s.laneFatal l else s

/-- LANE_WATCHDOG_EXPIRY: 250 µs after the last service of the sequencing core. DEDUCED: log entry 66. -/
def doLaneWatchdogExpiry (t : Time) (l : LaneId) (s0 : State) : State :=
  let s := s0.at t
  if (s.lane l).runs ∧ (s.lane l).watchdog + usec 250 ≤ s.now then s.laneFatal l else s

/-! ### Verdicts (R240, R243, R247) -/

/-- Columns counted in MISMATCH_WINDOW. -/
def windowCount (w : BitVec 16) : Nat := ((List.range 16).filter fun j => w.getLsbD j).length

/-- MISMATCH_WINDOW moved to a newer column. -/
def Arbiter.shiftWindow (x : Arbiter) (seq : Nat) : Arbiter :=
  if x.windowSeq < seq then { x with window := x.window <<< (seq - x.windowSeq), windowSeq := seq } else x

/-- SIGNATURE_MISMATCH, and the self-test that it starts where the Towpath is up and none is pending.
DEDUCED: log entry 68. -/
def State.noteMismatch (s : State) (x : ColumnRec) : State :=
  let n := windowCount (s.arb.shiftWindow x.seq.toNat).window + 1
  let s1 := (s.count Id.MISMATCHES).raise 0x5002 1 x.frame (u32 x.column) (u32 n)
  if s1.arb.selftest.isNone then { s1 with arb := { s1.arb with selftest := some x.seq.toNat } } else s1

/-- The verdict on a lane's own signature: 0 MATCH, 1 MISMATCH, 2 PEER_MISSING or UNCOMPARED; none where it sent none. -/
def State.verdictOf (s : State) (x : ColumnRec) (l : LaneId) : Option Nat := match s.blockOf x l with
  | none => none
  | some own =>
    if s.arb.towpath ≠ 0 then some 2
    else match s.blockOf x (other l) with
      | none => some 2
      | some peer => some (if sameSignature own peer then 0 else 1)

/-- A STANDBY counts matching columns; two in a row make it QUALIFIED and end its rejoin (Table 11.2 steps 2 and 3). -/
def State.qualify (s : State) (l : LaneId) (v : Option Nat) : State := match v with
  | none => s
  | some v =>
    if (s.lane l).state ≠ .standby then s
    else
      let n := if v = 0 then (s.lane l).matches_ + 1 else 0
      let s1 := s.modLane l fun x => { x with matches_ := n }
      if 2 ≤ n then
        let s2 := (s1.setLaneState l .qualified).raise 0x500B 0 (u32 (LaneId.num l))
        match s2.arb.rejoin with
        | some r => if r.lane = l then { s2 with arb := { s2.arb with rejoin := none } } else s2
        | none => s2
      else s1

/-- The verdict on a column is due: both signatures present, or t_e + c + 8 µs. Signatures are sent once the next tick has closed the
window of R239, or t_e + c has passed. -/
def State.verdictDue (s : State) (x : ColumnRec) : Bool :=
  ((s.blockOf x .a).isSome && (s.blockOf x .b).isSome && (x.closed || decide (x.ended + x.period ≤ s.now))) ||
    decide (x.ended + x.period + usec 8 ≤ s.now)

/-- COMPARE_VERDICT: the verdict on the oldest column without one, and its release by the holder. DEDUCED: log entry 68. -/
def doCompareVerdict (t : Time) (s0 : State) : State :=
  let s := s0.at t
  match s.arb.columns.find? fun x => !x.judged with
  | none => s
  | some x =>
    if !s.verdictDue x then s
    else
      let va := s.verdictOf x .a
      let vb := s.verdictOf x .b
      let tell := fun (y : State) (l : LaneId) (v : Option Nat) => match v with
        | some n => y.modLane l fun z => { z with toReport := some (x.seq.toNat, n == 1) }
        | none => y
      let s1 := tell (tell (s.modColumn x.seq fun z => { z with judged := true }) .a va) .b vb
      let s2 := if va = some 1 then s1.noteMismatch x else s1
      let vh := match s2.arb.holder with
        | some .a => va
        | some .b => vb
        | none => none
      let s3 := match s2.arb.holder, vh with
        | some h, some v => s2.release x h v false
        | _, _ => s2
      (s3.qualify .a va).qualify .b vb

/-- The mismatch rule on a report (R243): the third mismatched column of the window revokes the token. -/
def State.mismatchRule (s : State) (seq : Nat) (mismatch : Bool) : State :=
  let a := s.arb.shiftWindow seq
  let age := a.windowSeq - seq
  if mismatch ∧ age < 16 ∧ !a.window.getLsbD age then
    let s1 : State := { s with arb := { a with window := withBit a.window age true } }
    match s1.arb.holder with
    | some h => if 3 ≤ windowCount s1.arb.window then s1.loseLease h 3 else s1
    | none => s1
  else { s with arb := a }

/-- A lane is heard by the arbiter while TOWPATH_DOWN is pending (R246). DEDUCED: log entry 67. -/
def State.towpathHear (s : State) (l : LaneId) : State :=
  if s.arb.towpath = 1 ∧ l = other s.arb.reporter then { s with arb := { s.arb with peerHeard := true } } else s

/-- LANE_REPORT: state and verdict reach the arbiter; eligibility first, then the mismatch rule (R240 step 5, R242, R243). -/
def doLaneReport (t : Time) (l : LaneId) (s0 : State) : State :=
  let s := s0.at t
  let x := s.lane l
  if !x.runs || x.fatal then s
  else
    let s1 := (s.modLane l fun y => { y with
      report := some (s.now, y.state == .qualified), toReport := none, watchdog := s.now }).towpathHear l
    match x.toReport with
    | some (seq, mismatch) => s1.mismatchRule seq mismatch
    | none => s1

/-- A lane's result in SELFTEST_LAST: 0 pass, 1 fail, 2 not run; a lane that does not run has not run the test (Table 11.6).
DEDUCED: log entry 70. -/
def State.testCode (s : State) (l : LaneId) : Option Bool → Nat
  | some true => 0
  | some false => 1
  | none => if (s.lane l).runs then 1 else 2

/-- The standby fails the self-test: MOORED, and a rejoin of it ends (Table 11.6). -/
def State.testMoors (s : State) (l : LaneId) : State :=
  if (s.lane l).state = .standby ∨ (s.lane l).state = .qualified then (match s.arb.rejoin with
    | some r => if r.lane = l then s.rejoinLost else s
    | none => s).setLaneState l .moored
  else s

/-- SELFTEST_RESULT: both results, or the 250 µs limit. DEDUCED: log entry 70. -/
def doSelftestResult (t : Time) (resA resB : Option Bool) (s0 : State) : State :=
  let s := s0.at t
  match s.arb.selftest with
  | none => s
  | some seq =>
    let ca := s.testCode .a resA
    let cb := s.testCode .b resB
    let bad := fun (l : LaneId) => (if l = .a then ca else cb) ≠ 0
    let s1 : State := { s with arb := { s.arb with
      selftest := none, selftestLast := le 4 seq ++ le 1 ca ++ le 1 cb ++ zeros 2 } }
    let s2 := s1.raise 0x5003 (if ca = 0 ∧ cb = 0 then 0 else 1) (u32 ca) (u32 cb)
    match s2.arb.holder with
    | none => s2
    | some h =>
      let s3 := if bad (other h) then s2.testMoors (other h) else s2
      if bad h then s3.loseLease h 2 else s3

/-! ### The Towpath (R246) -/

/-- LINK_LOST: a lane misses valid words while its peer's domain is powered and not FAILED. -/
def doLinkLost (t : Time) (l : LaneId) (s0 : State) : State :=
  let s := s0.at t
  if s.arb.towpath = 0 ∧ (s.lane l).state ≠ .off ∧ (s.lane l).state ≠ .failed ∧ s.isOn (laneDom (other l)) then
    { s with arb := { s.arb with towpath := 1, towpathAt := s.now, reporter := l, peerHeard := false, graceRaised := false } }
  else s

/-- TOWPATH_DOWN is declared. DEDUCED: log entry 67. -/
def State.towpathDown (s : State) : State :=
  let s1 : State := { s with arb := { s.arb with towpath := 2, towpathAt := s.now } }
  let s2 := ((s1.count Id.TOWPATH_LOSSES).raise 0x5006 1 (u32 (LaneId.num s1.arb.reporter))).abortRejoin 1
  let moor := fun (y : State) (l : LaneId) =>
    if (y.lane l).state = .standby ∨ (y.lane l).state = .qualified then y.setLaneState l .moored else y
  moor (moor s2 .a) .b

/-- TOWPATH_PENDING_TIMEOUT: after 200 µs the Towpath is down where the peer was heard; else the peer has failed. -/
def doTowpathPendingTimeout (t : Time) (s0 : State) : State :=
  let s := s0.at t
  if s.arb.towpath = 1 ∧ s.arb.towpathAt + usec 200 ≤ s.now then
    if s.arb.peerHeard then s.towpathDown else { s with arb := { s.arb with towpath := 0, towpathAt := s.now } }
  else s

/-- TOWPATH_GRACE_EXPIRY. -/
def doTowpathGraceExpiry (t : Time) (s0 : State) : State :=
  let s := s0.at t
  let g := s.cfgN Id.TOWPATH_GRACE
  if s.arb.towpath = 2 ∧ !s.arb.graceRaised ∧ s.arb.towpathAt + msec g ≤ s.now then
    { s with arb := { s.arb with graceRaised := true } }.raise 0x5007 2 (u32 g)
  else s

/-- TOWPATH_UP: valid words for 10 ms end the declaration. -/
def doTowpathUp (t : Time) (s0 : State) : State :=
  let s := s0.at t
  if s.arb.towpath = 2 then { s with arb := { s.arb with towpath := 0, towpathAt := s.now } }.raise 0x5008 0 else s

/-! ### Cold start (Table 11.2 step 1) -/

/-- Lane that LANE_PREFERRED names. -/
def State.preferred (s : State) : LaneId := if s.cfgN Id.LANE_PREFERRED = 0 then .a else .b

/-- Both lanes cold-start: their engines are in PARK and they load their configuration. DEDUCED: log entry 65. -/
def State.lanesStart (s : State) : State :=
  let one := fun (y : State) (l : LaneId) =>
    y.modLane l fun x => { Lane.reset with
      state := if y.isFailed (laneDom l) then .failed else x.state, engine := y.coldEngine, joined := y.now, watchdog := y.now }
  let s1 := one (one s .a) .b
  { s1 with arb := { s1.arb with
    holder := none, unconfirmed := none, window := 0, selftest := none, towpath := 0, rejoin := none, takeover := false, columns := [],
    columnSeq := s1.arb.released } }

/-- A lane that is ready joins: as STANDBY beside a preferred holder, by rejoin where it comes late.
DEDUCED: log entry 65. -/
def State.laneJoin (s : State) (l : LaneId) : State := match s.arb.holder with
  | none => s
  | some h => if h = l then s else if l = s.preferred then s.startRejoin l 0 else s.setLaneState l .standby

/-- LANE_READY: the preferred lane takes the lease; a lane that is ready beside it is STANDBY. -/
def doLaneReady (t : Time) (l : LaneId) (s0 : State) : State :=
  let s := s0.at t
  let x := s.lane l
  if !s.isOn (laneDom l) || x.state != .off || x.ready.isSome then s
  else
    let s1 := s.modLane l fun y => { y with ready := some s.now, watchdog := s.now }
    match s1.arb.holder with
    | some _ => s1.laneJoin l
    | none =>
      if l = s1.preferred then
        let s2 := s1.giveToken l
        if (s2.lane (other l)).ready.isSome then s2.laneJoin (other l) else s2
      else s1

/-- LANE_PREFERRED_TIMEOUT: the preferred lane is not ready 50 ms after the other, which is granted the lease. With no lane ready by
the bounds of Table 11.5, a LANE_RESTART ends (step 5). -/
def doLanePreferredTimeout (t : Time) (s0 : State) : State :=
  let s := s0.at t
  let l := other s.preferred
  match s.arb.holder, (s.lane l).ready with
  | none, some r =>
    if (s.lane l).state = .off ∧ r + msec 50 ≤ s.now then (s.modLane l fun y => { y with watchdog := s.now }).giveToken l else s
  | none, none => match s.arb.restart with
    | some (k, at_) =>
      if at_ + msec 201 ≤ s.now ∧ (s.lane s.preferred).ready.isNone then
        { s with arb := { s.arb with restart := none } }.raise 0x500C 0 1 0 0 k
      else s
    | none => s
  | some _, _ => s

/-! ### Commands -/

/-- LANE_COLUMN_DONE (R152). -/
def execLaneColumnDone (t : Time) (lane : LaneId) (upset : List (Nat × Byte)) (s : State) : Host.Outcome State Fault Refusal :=
  .next (doLaneColumnDone t lane upset s)

/-- COMPARE_VERDICT (R240). -/
def execCompareVerdict (t : Time) (s : State) : Host.Outcome State Fault Refusal := .next (doCompareVerdict t s)

/-- LANE_REPORT (R243). -/
def execLaneReport (t : Time) (lane : LaneId) (s : State) : Host.Outcome State Fault Refusal := .next (doLaneReport t lane s)

/-- LEASE_EXPIRY (R242). -/
def execLeaseExpiry (t : Time) (s : State) : Host.Outcome State Fault Refusal := .next (doLeaseExpiry t s)

/-- YIELD (R242). -/
def execYield (t : Time) (lane : LaneId) (s : State) : Host.Outcome State Fault Refusal := .next (doYield t lane s)

/-- LEASE_CONFIRM_TIMEOUT (R242). -/
def execLeaseConfirmTimeout (t : Time) (s : State) : Host.Outcome State Fault Refusal := .next (doLeaseConfirmTimeout t s)

/-- FATAL_LANE_FAULT (R237). -/
def execFatalLaneFault (t : Time) (lane : LaneId) (s : State) : Host.Outcome State Fault Refusal := .next (doFatalLaneFault t lane s)

/-- LANE_WATCHDOG_EXPIRY (R237). -/
def execLaneWatchdogExpiry (t : Time) (lane : LaneId) (s : State) : Host.Outcome State Fault Refusal := .next (doLaneWatchdogExpiry t lane s)

/-- LANE_PREFERRED_TIMEOUT (R238). -/
def execLanePreferredTimeout (t : Time) (s : State) : Host.Outcome State Fault Refusal := .next (doLanePreferredTimeout t s)

/-- LINK_LOST (R246). -/
def execLinkLost (t : Time) (lane : LaneId) (s : State) : Host.Outcome State Fault Refusal := .next (doLinkLost t lane s)

/-- TOWPATH_PENDING_TIMEOUT (R246). -/
def execTowpathPendingTimeout (t : Time) (s : State) : Host.Outcome State Fault Refusal := .next (doTowpathPendingTimeout t s)

/-- TOWPATH_GRACE_EXPIRY (R246). -/
def execTowpathGraceExpiry (t : Time) (s : State) : Host.Outcome State Fault Refusal := .next (doTowpathGraceExpiry t s)

/-- TOWPATH_UP (R246). -/
def execTowpathUp (t : Time) (s : State) : Host.Outcome State Fault Refusal := .next (doTowpathUp t s)

/-- SELFTEST_RESULT (R247). -/
def execSelftestResult (t : Time) (resA resB : Option Bool) (s : State) : Host.Outcome State Fault Refusal :=
  .next (doSelftestResult t resA resB s)

/-- REJOIN_AUTO_START (R248). -/
def execRejoinAutoStart (t : Time) (s : State) : Host.Outcome State Fault Refusal := .next (doRejoinAutoStart t s)

/-- REJOIN_COPY_DONE (R248). -/
def execRejoinCopyDone (t : Time) (s : State) : Host.Outcome State Fault Refusal := .next (doRejoinCopyDone t s)

/-- REJOIN_SNAPSHOT (R248). -/
def execRejoinSnapshot (t : Time) (s : State) : Host.Outcome State Fault Refusal := .next (doRejoinSnapshot t s)

/-- LANE_READY (R238). -/
def execLaneReady (t : Time) (lane : LaneId) (s : State) : Host.Outcome State Fault Refusal := .next (doLaneReady t lane s)

end Sys2Proof.Machine
end

