-- ==== Sys2Proof/Machine/Sessions.lean ====
section
/-! DEFINITION. Sessions and their Locks as the rest of the device sees them (R54, R65, R69, R71): how a Lock is abandoned and how a
session closes. -/

namespace Sys2Proof.Machine

open Sys2Proof

/-- No Lock. -/
def Lock.none : Lock := { phase := .absent, byTimeout := false, id := 0, staged := [], budget := 0, since := 0 }

/-- LOCK_STATE (Table 03.9). -/
def LockPhase.code : LockPhase → Nat
  | .absent => 0
  | .opened => 1
  | .staged => 2
  | .equalizing => 3
  | .committed => 4
  | .abandoned => 5

/-- A session of a transport by its number. -/
def State.session? (s : State) (tr : Transport) (num : Byte) : Option Session :=
  s.baspo.sessions.find? fun x => x.transport == tr && x.num == num

/-- Change a session. -/
def State.modSession (s : State) (tr : Transport) (num : Byte) (f : Session → Session) : State :=
  { s with baspo := { s.baspo with
      sessions := s.baspo.sessions.map fun x => if x.transport = tr ∧ x.num = num then f x else x } }

/-- The Lock is OPEN or STAGED. -/
def Lock.isOpen (l : Lock) : Bool := l.phase == .opened || l.phase == .staged

/-- An abandoned Lock: its staging is discarded. -/
def Lock.drop (l : Lock) (timeout : Bool) : Lock := { l with phase := .abandoned, byTimeout := timeout, staged := [] }

/-- Step 9 of Table 03.8: an OPEN or STAGED Lock is abandoned; reason 1 host, 2 timeout, 3 session end, 4 power state.
DEDUCED: log entry 30. -/
def State.abandonLock (s : State) (tr : Transport) (num : Byte) (reason : Nat) : State := match s.session? tr num with
  | some x =>
    if x.lock.isOpen then
      (s.modSession tr num fun y => { y with lock := y.lock.drop (reason == 2) }).raise 0xA302 0 x.lock.id (u32 reason)
    else s
  | none => s

/-- A key write whose session has closed keeps no session open (R354). -/
def FlashGroup.orphan (g : FlashGroup) (tr : Transport) (num : Byte) : FlashGroup := match g.work with
  | .key role key t n => if t = tr ∧ n = num then { g with work := .key role key t 0 } else g
  | _ => g

/-- What the flash work of a session that closes forgets: nobody waits any more for an image check, and a key write spares no session. -/
def Flash.unask (f : Flash) (tr : Transport) (num : Byte) : Flash :=
  { f with
    checking := f.checking.map fun h => if h.transport = tr ∧ h.session = num then { h with session := 0 } else h
    running := f.running.map fun g => g.orphan tr num
    queue := f.queue.map fun g => g.orphan tr num }

/-- A session closes (R65): an open Lock is abandoned, its subscriptions end; a Lock past step 3 runs on to its flip. SESSION_CLOSED
carries the reason of Table 17.6. -/
def State.closeSession (s : State) (tr : Transport) (num : Byte) (reason : Nat) : State := match s.session? tr num with
  | none => s
  | some _ =>
    let s1 := (s.abandonLock tr num 3).endSubs tr num
    let s2 : State := { s1 with
      baspo := { s1.baspo with sessions := s1.baspo.sessions.filter fun x => !(x.transport == tr && x.num == num) }
      flash := s1.flash.unask tr num }
    s2.raise 0x8006 0 (u32 num.toNat) (u32 reason)

/-- Close every session of a kind. DEDUCED: log entry 30. -/
def State.closeSessions (s : State) (p : Session → Bool) (reason : Nat) : State :=
  (s.baspo.sessions.filter p).foldl (fun y x => y.closeSession x.transport x.num reason) s

/-- Objects whose change closes every UDP session (R54). -/
def udpObjects : List Nat :=
  [Id.ETH_MODE, Id.ETH_ROLE, Id.IPV4_ADDRESS, Id.IPV4_PREFIX, Id.IPV4_GATEWAY, Id.IPV6_ADDRESS, Id.IPV6_PREFIX, Id.VLAN_ID,
    Id.BASPO_PORT]

/-- The link is lost: LINK_DOWN (Table 03.14). DEDUCED: log entry 29. -/
def State.linkLost (s : State) : State :=
  if s.net.link then ({ s with net := s.net.unlinked }.streamLost).raise 0xA002 1 else s

/-- A committed change of network objects closes sessions; a change of mode or role retrains the link (R54).
DEDUCED: log entry 29. -/
def State.networkFlip (s : State) (changed : List Nat) : State :=
  let s1 := if udpObjects.any (· ∈ changed) then s.closeSessions (fun x => x.transport == .udp) 4 else s
  let s2 := if Id.ETH_MODE ∈ changed ∨ Id.ETH_ROLE ∈ changed then s1.linkLost else s1
  if [Id.CAN_NOMINAL_RATE, Id.CAN_DATA_RATE, Id.CAN_BASE_ID].any (· ∈ changed) then s2.closeSessions (fun x => x.transport == .can) 4
  else s2

end Sys2Proof.Machine
end

