-- ==== Sys2Proof/Machine/Scan.lean ====
section
/-! DEFINITION. The column timer (R21, R23, R79 to R95, R137): the end of a column, the flip of a configuration and of the plan buffers,
the frame boundary and COLUMN_TICK. -/

namespace Sys2Proof.Machine

open Sys2Proof

/-! ### The end of a column (R137) -/

/-- The running column as the bands, the governor and the timer leave it at the tick that ends it (Table 06.3). -/
def State.columnRec (s : State) (x : TickIn) (e : Time) : ColumnRec :=
  let c := s.scan.column
  let p := s.planFor c
  let old := match s.scan.fade with
    | some (j, f) => !decide (c % f < j)
    | none => false
  { seq := s.arb.columnSeq + 1, frame := s.scan.frame, column := c, columns := s.scan.columns, opened := s.scan.tick, ended := e,
    period := s.scan.period, shotPeriod := p.shotPeriod, used := planUsed p.image, cfg := s.cfg, acc := s.rx.acc,
    valid := BitVec.ofNat 16 (maskOf 16 s.bandValid), depth := s.rx.bands.map (·.depth), primary := x.primary,
    masked := s.maskedRows, parity := (x.parity.map (·.val)).eraseDups, wordLost := x.wordLost, time := s.scan.tickTime,
    unsync := s.scan.tickUnsync, previous := old, dark := s.scan.dark, pattern := planPattern p.image c, camera := s.scan.tickCamera,
    borrowed := s.scan.borrowed, heldCount := s.emit.colHeld, heldReason := s.emit.colReason, scale := s.cal.vals.scale,
    zero := s.cal.vals.zero, skew := s.cal.vals.skew, closed := false, laneA := none, laneB := none,
    ctlA := { outputs := [], integrator := 0 }, ctlB := { outputs := [], integrator := 0 }, selftest := s.scan.selftest, judged := false }

/-- A tick closes the windows of R239 of the columns that ended before it. DEDUCED: log entry 74. -/
def State.closeWindows (s : State) : State :=
  let part := fun (l : LaneId) => ({ outputs := (s.lane l).engine.window, integrator := (s.lane l).engine.i } : ControlColumn)
  let s1 : State := { s with arb := { s.arb with columns := s.arb.columns.map fun x =>
    if x.closed then x else { x with closed := true, ctlA := part .a, ctlB := part .b } } }
  (s1.modEngine .a fun e => { e with window := [] }).modEngine .b fun e => { e with window := [] }

/-- The running column ends at e: the bands swap banks and offer it to the lanes (R137). DEDUCED: log entry 69. -/
def State.endColumn (s : State) (x : TickIn) (e : Time) (boundary : Bool) : State :=
  let s1 := s.closeWindows
  let r := s1.columnRec x e
  let s2 : State := { s1 with arb := { s1.arb with columns := s1.arb.columns ++ [r], columnSeq := r.seq } }
  s2.bandsEnd x e boundary

/-- A section of control samples opens at a tick (R201). -/
def State.sectionAt (s : State) (e : Time) (column : Option Nat) (len : Nat) (flip : Option Bool) (change : Option Nat) : Section :=
  { tick := e, column, period := s.scan.period, k := s.cfgN Id.CONTROL_K, frame := s.scan.frame, len, columns := s.scan.columns,
    boundary := column.isNone, flip, change, track := s.tracking, cfg := s.cfg }

/-- A pending self-test takes column 0 where the idle period of the flyback is shorter than 200 µs (R247). -/
def State.testsColumn (s : State) (column : Nat) : Bool :=
  column == 0 && s.arb.selftest.isSome && decide (s.scan.flyLen < s.scan.period + usec 260)

/-- A column opens at e. DESIGN CHOICE: log entry 97. -/
def State.openColumn (s : State) (e : Time) (c : Nat) : State :=
  let s1 : State := { s with
    scan := { s.scan with
      flyback := false, column := c, tick := e, tickTime := BitVec.ofInt 64 (s.deviceNs e), tickUnsync := s.unsync,
      tickCamera := s.cameraAt e, dark := s.darkColumn c, selftest := s.testsColumn c, slot := 0, borrowed := 0 }
    emit := { s.emit with colHeld := 0, colReason := 0 } }
  (s1.stepBias.openSection (s1.sectionAt e (some c) s1.scan.period none none)).rejoinTick e

/-- What the frame header takes at column 0 (Table 13.2), and step 4 of Table 05.5 begins to be watched. -/
def State.openFirst (s : State) : State :=
  { s with
    scan := { s.scan with info := { s.scan.info with
      control := s.engine.mode.code, range := s.front.range, temp := (s.mirrorTemp s.conf).1, fleet := s.cfgN Id.FLEET_CODE } }
    emit := { s.emit with clearSince := true } }

/-- COLUMN_TICK: the edge that opens column 0, or that ends a column other than the last and opens the next one. It falls when the
column timer says; before that, or with no timer running, nothing happens. DESIGN CHOICE: log entry 97. -/
def doColumnTick (t : Time) (x : TickIn) (s0 : State) : State :=
  let s := s0.at t
  if !s.scan.timer then s
  else if s.scan.flyback then
    let e := s.scan.tick + s.scan.flyLen
    if s.now < e then s else (s.closeWindows.bandsStart.openColumn e 0).openFirst
  else
    let e := s.scan.tick + s.scan.period
    if s.scan.columns ≤ s.scan.column + 1 ∨ s.now < e then s
    else (s.endColumn x e false).openColumn e (s.scan.column + 1)

/-! ### Flips -/

/-- Objects whose values differ between two configurations. DEDUCED: log entry 31. -/
def changedObjects (f : Factory) (a b : Store) : List Nat :=
  ((a ++ b).map (·.1)).eraseDups.filter fun id => ({ fac := f, store := a } : Cfg).bytes id != ({ fac := f, store := b } : Cfg).bytes id

/-- Bars that the equalization counted are restored (R120): BAR_RESTORED once all bars of a ticket are.
DEDUCED: log entry 42. -/
def State.restoreBars (s : State) (counted : BitVec 16) : State :=
  let g := s.emit.restorePending &&& counted
  if g = 0 then s
  else
    let retired := s.emit.retired &&& ~~~ g
    let done := s.emit.restoreTickets.filter fun k => k.1 &&& retired == 0
    let s1 : State := { s with emit := { s.emit with
      retired, restorePending := s.emit.restorePending &&& ~~~ g,
      restoreTickets := s.emit.restoreTickets.filter fun k => k.1 &&& retired != 0 } }
    done.foldl (fun y k => y.raise 0x2008 0 (u32 k.1.toNat) 0 0 k.2) s1

/-- The old plan fits the new columns, and its frame mode is the new one (R92). -/
def fadeAllowed (old new : Cfg) (p : PlanBuf) : Bool :=
  old.nat Id.FRAME_MODE == new.nat Id.FRAME_MODE && decide ((planUsed p.image * p.shotPeriod * 32 : Nat) ≤ new.cMin)

/-- A new plan is loaded into the buffer that does not drive columns (R89 to R93). old is the configuration before the flip.
DEDUCED: log entry 31. -/
def State.planFlip (s : State) (old : Cfg) (idle : Bool) (changed : List Nat) : State :=
  if !(Id.PLAN_IMAGE ∈ changed || Id.SHOT_PERIOD ∈ changed) then s
  else
    let c := s.conf
    let new : PlanBuf := { image := c.bytes Id.PLAN_IMAGE, shotPeriod := c.nat Id.SHOT_PERIOD }
    let f := c.nat Id.FADE_FRAMES
    let fades := !idle && fadeAllowed old c s.activePlan && decide (1 < f)
    let other := 1 - s.scan.active
    let s1 : State := { s with scan := { s.scan with
      buffers := setAt s.scan.buffers other new, active := other, fade := if fades then some (1, f) else none,
      swapPending := true, swapFrame := 0xFFFFFFFF, swapCamera := 0xFFFFFFFF } }
    match s.scan.fade with
    | some (j, g) => s1.raise 0x4C05 1 (u32 (g - 1 - j)) (planTag new.image)
    | none => s1

/-- A flip of the front end's range and LED current (R193): at control sample 1 of the flyback that begins, or at once at an idle
boundary. DEDUCED: log entry 57. -/
def State.rangeFlip (s : State) (idle : Bool) (changed : List Nat) : State :=
  let s1 : State := { s with front := { s.front with blockedRaised := false } }
  let ranged := Id.TIA_RANGE ∈ changed ∨ Id.TIA_RANGE_MODE ∈ changed
  if ranged ∨ Id.LED_CURRENT ∈ changed then
    let code := if ranged then s1.cfgN Id.TIA_RANGE else s1.front.range
    let s2 : State := { s1 with front := { s1.front with flipRange := some code } }
    if !idle then s2
    else if s2.isOn 12 then s2.applyRange code
    else s1
  else s1

/-- An object of chapter 10 changed (R224). DEDUCED: log entry 60. -/
def changesControl (changed : List Nat) : Bool := changed.any fun id => id / 65536 == 0x43

/-- Every domain's values take effect together (R75, Table 03.11). The second component lists what changed. -/
def State.applyCfg (s : State) (new : Store) (counted : BitVec 16) (idle : Bool) : State × List Nat :=
  let old := s.conf
  let changed := changedObjects s.fac s.cfg new
  let s1 : State := { s with cfg := new }
  let s2 := (s1.restoreBars counted).planFlip old idle changed
  let s3 : State := { s2 with emit := { s2.emit with shunts := shuntTable s2.conf s2.emit.retired.toNat } }
  let s4 := (((s3.bankRetarget.phaseFlip changed).busFlip changed).tinFlip changed).captureFlip changed
  let s5 := s4.coincFlip
  let s6 := if Id.RX_EXCESS_BIAS ∈ changed then s5.biasFlip else s5
  let s7 := ((s6.refreshBands.calFlip changed).rejoinRestart.rangeFlip idle changed).networkFlip changed
  let engine := fun (e : Engine) => e.flip (changesControl changed)
  (if idle then (s7.modEngine .a engine).modEngine .b engine else s7, changed)

/-- The Lock flips (Table 03.8 step 6): LOCK_APPLIED, the Lock ends, and PERSIST writes a version (R76). -/
def State.lockFlip (s : State) (k : Commit) (idle : Bool) : State × List Nat :=
  let new := k.staged.foldl (fun st p => putCfg s.fac st p.1 p.2) s.cfg
  let frame : U32 := if idle then 0xFFFFFFFF else s.scan.frame
  let p := s.applyCfg new k.counted idle
  let s2 := p.1.modSession k.transport k.num fun x => if x.lock.id = k.id then { x with lock := { Lock.none with id := k.id } } else x
  let s3 : State := { s2 with baspo := { s2.baspo with commit := none, appliedId := k.id, appliedFrame := frame } }
  let s4 := s3.raise 0xA301 0 k.id frame
  (if k.persist then s4.writeVersion else s4, p.2)

/-- The values of the current version; the defaults where none is held (R337). -/
def State.currentValues (s : State) : Store :=
  ((s.flash.versions.find? fun v => v.num == s.flash.current).map (·.values)).getD []

/-- The values of a revert are applied (R336): VERSION_REVERTED carries the ticket. -/
def State.revertFlip (s : State) (left num ticket : U32) (idle : Bool) : State × List Nat :=
  let p := s.applyCfg s.currentValues 0 idle
  let s2 : State := { p.1 with flash := { p.1.flash with revert := none } }
  (s2.raise 0x7002 0 left num 0 ticket, p.2)

/-- LOCK_IDLE_FLIP: with no column timer running, a COMMITTED Lock, or a revert whose pointer is written, flips (R70, R336). -/
def doLockIdleFlip (t : Time) (s0 : State) : State :=
  let s := s0.at t
  if s.scan.timer then s
  else
    let s1 := match s.baspo.commit with
      | some k => if k.committed then (s.lockFlip k true).1 else s
      | none => s
    match s1.flash.revert with
    | some (left, num, ticket) => (s1.revertFlip left num ticket true).1
    | none => s1

/-- Banks not confirmed 50 µs before the boundary: the flip moves, or after two moves the Lock is abandoned (steps 7 and 8). -/
def State.lockMove (s : State) (k : Commit) (dom : Nat) : State :=
  if k.moves < 2 then
    ({ s with baspo := { s.baspo with commit := some { k with moves := k.moves + 1 } } }).raise 0xA303 1 k.id (u32 dom) (u32 (k.moves + 1))
  else
    let s1 := s.modSession k.transport k.num fun x => if x.lock.id = k.id then { x with lock := x.lock.drop false } else x
    ({ s1 with baspo := { s1.baspo with commit := none } }).raise 0xA302 0 k.id 5

/-- A COMMITTED Lock at a frame boundary at e: what it changed; none where it does not flip. COMMITTED in the boundary's AO cycle
counts as after it (R21). -/
def State.boundaryLock (s : State) (e : Time) (unconfirmed : Option Nat) : State × Option (List Nat) := match s.baspo.commit with
  | some k =>
    if k.committed ∧ k.at_ / aoCycle < e / aoCycle then match unconfirmed with
      | none => ((s.lockFlip k false).1, some (s.lockFlip k false).2)
      | some d => (s.lockMove k d, none)
    else (s, none)
  | none => (s, none)

/-- The flips of a frame boundary at e: what they changed; none where nothing flips. -/
def State.boundaryFlips (s : State) (e : Time) (unconfirmed : Option Nat) : State × Option (List Nat) :=
  let p := s.boundaryLock e unconfirmed
  match p.1.flash.revert with
  | some (left, num, ticket) =>
    let q := p.1.revertFlip left num ticket false
    (q.1, some (p.2.getD [] ++ q.2))
  | none => p

/-! ### The frame boundary -/

/-- COLUMN_INCOMPLETE and LAUNCH_ANOMALY, at the boundary that ends the frame (R170). -/
def State.frameEvents (s : State) : State :=
  let a := s.arb
  let s1 : State := { s with arb := { a with incomplete := 0, cutRows := 0, excluded := 0 } }
  let s2 := if a.incomplete = 0 then s1 else s1.raise 0x3501 1 s1.scan.frame (u32 a.incomplete) (u32 a.cutRows)
  if a.excluded = 0 then s2 else s2.raise 0x3502 1 s2.scan.frame (u32 a.excluded)

/-- Truncation toward the start of a ramp (R307). -/
def towardStart (r : Ramp) (q : Rat) : Int := if r.start ≤ r.goal then q.floor else q.ceil

/-- THROTTLE is set on a node. -/
def Thermal.throttles (x : Thermal) : Bool := (List.range 8).any fun n => x.flags.getLsbD (3 * n + 1)

/-- Throttling at a frame boundary (R307): the running ramp goes on, or a new one starts; THROTTLED_FRAMES. -/
def State.throttleBoundary (s : State) : State :=
  let r := s.therm.throttle
  let l := r.applied
  let up := s.therm.throttles
  let start := fun (goal : Int) => ({ start := l, goal, j := 0, frames := s.cfgN Id.FADE_FRAMES, applied := l } : Ramp)
  let r1 := if r.frames ≠ 0 then r else if up then start (min 12 (l + 2)) else if 0 < l then start (max 0 (l - 2)) else r
  let r2 := r1.next (towardStart r1)
  { s with therm := { s.therm with throttle := r2 } }.count Id.THROTTLED_FRAMES (b2n (decide (0 < r2.applied)))

/-- A correction for crystal drift that waited for the boundary is applied, unless the bus clock is the reference (R310).
DEDUCED: log entry 84. -/
def State.xtalBoundary (s : State) : State := match s.therm.xtalNext with
  | some v => { s with therm := { s.therm with xtal := if s.bus.onClk then s.therm.xtal else v, xtalNext := none } }
  | none => s

/-- The fade at a frame boundary: a fade that began with this flip runs its frame 1; another one goes on (R91). -/
def Scan.fadeStep (x : Scan) : Scan :=
  if x.swapPending then x
  else match x.fade with
    | some (j, f) => { x with fade := if j + 1 < f then some (j + 1, f) else none }
    | none => x

/-- The frame that begins at e, its timing being fixed: the header's fields, the plan swap, the fade and the flyback. -/
def State.beginFrame (s : State) (e : Time) : State :=
  let camera := s.headerCamera e
  let x := s.scan.fadeStep
  let info : FrameInfo := { x.info with
    frame := x.frame, mode := s.cfgN Id.FRAME_MODE, fsync := x.phasing.code, time := BitVec.ofInt 64 (s.deviceNs e), unsync := s.unsync,
    lockId := s.baspo.appliedId }
  let y : Scan := { x with
    flyback := true, column := 0, columns := s.conf.columns, tick := e, slot := 0, borrowed := 0, windowEnergy := [],
    lullFlag := x.phasing == .lull, relockFlag := x.phasing == .relock, frameCamera := camera, info,
    swapFrame := if x.swapPending then x.frame else x.swapFrame, swapCamera := if x.swapPending then camera else x.swapCamera,
    swapFlag := x.swapPending, swapPending := false }
  { s with scan := y, arb := { s.arb with redundancyLost := false } }.noteRedundancy

/-- The frame that begins at e, its mirror and its section of control samples. old, columns and period are the configuration and the
timing of the frame that ends; flip is what a flip changed. -/
def State.frameOpens (s : State) (old : Cfg) (columns period : Nat) (flip : Option (List Nat)) (e : Time) : State :=
  let s1 := (s.beginFrame e).engineBoundary old columns period
  let p := s1.rangeBoundary s1.scan.period (s1.cfgN Id.CONTROL_K)
  p.1.openSection (p.1.sectionAt e none p.1.scan.flyLen (flip.map changesControl) p.2)

/-- Everything that a frame boundary at e applies after the flips and the phasing; ran tells that R98 ran. -/
def State.frameUpdates (s : State) (old : Cfg) (columns period : Nat) (ran : Bool) (flip : Option (List Nat)) (e : Time) : State :=
  let s1 := (s.frameOpens old columns period flip e).emitBoundary.throttleBoundary
  ((s1.busBoundary.busAlign ran).calBoundary.xtalBoundary.wakeRestarted.stepBias).rejoinTick e

/-- The frame boundary at e, the last column having ended: the flips, the phasing, and the frame that begins (R21, Table 01.10). -/
def State.frameTurn (s : State) (e : Time) (unconfirmed : Option Nat) : State :=
  let old := s.conf
  let columns := s.scan.columns
  let period := s.scan.period
  let s1 := s.frameEvents.calPreFlip
  let s2 : State := { s1 with scan := { s1.scan with frame := s1.scan.frame + 1 } }
  let p := s2.boundaryFlips e unconfirmed
  let s3 := p.1
  let ran := (s3.scan.phasing == .locked || s3.scan.phasing == .relock) && (s3.nearestTarget (e : Nat)).isSome
  let s4 := s3.phaseBoundary e
  let s5 : State := { s4 with scan := { s4.scan with flyLen := s4.conf.flyback } }
  s5.frameUpdates old columns period ran p.2 e

/-- The column timer starts with a frame boundary at e (Table 14.6 step 4, Table 04.7 steps 1 and 2). The first frame since power was
applied is frame 0. DEDUCED: log entry 8. -/
def State.timerStart (s : State) (e : Time) : State :=
  if s.scan.timer ∨ !s.isOn 8 then s
  else
    let s1 : State := { s with
      scan := { s.scan with timer := true, started := true, frame := if s.scan.started then s.scan.frame + 1 else s.scan.frame }
      front := { s.front with peak := none } }
    let s2 := s1.capTimerStart.phaseStart e
    s2.frameUpdates s.conf s2.conf.columns s2.scan.period false none e

/-- The boundary is the last of an entry into a lower state: no flyback follows, and the column timer stops (Table 14.3 step 3). Samples
taken before it are still delivered. DEDUCED: log entry 32. -/
def State.timerEnd (s : State) : State :=
  { s with scan := { s.scan with timer := false, fade := none, slot := 64 } }.capTimerStop

/-! ### Commands -/

/-- LOCK_IDLE_FLIP (R70). -/
def execLockIdleFlip (t : Time) (s : State) : Host.Outcome State Fault Refusal := .next (doLockIdleFlip t s)

/-- COLUMN_TICK (R137). -/
def execColumnTick (t : Time) (x : TickIn) (s : State) : Host.Outcome State Fault Refusal := .next (doColumnTick t x s)

end Sys2Proof.Machine
end

