-- ==== Sys2Proof/Machine/Values.lean ====
section
/-! DEFINITION. What a value of an object may be (R4, R87, R205, R211, R221 to R223) and the equalization checks of a configuration
(R73, Table 03.10, R303). -/

namespace Sys2Proof.Machine

open Sys2Proof

/-! ### Sizes and ranges (R4) -/

/-- The smallest and the largest size of a type's value. -/
def ObjType.sizes : ObjType → Nat × Nat
  | .u8 => (1, 1)
  | .u16 => (2, 2)
  | .u32 => (4, 4)
  | .i16 => (2, 2)
  | .i32 => (4, 4)
  | .dom lo hi => (lo, hi)

/-- The number that a value of a numeric type spells. -/
def ObjType.value : ObjType → Bytes → Int
  | .i16, v => leSigned v
  | .i32, v => leSigned v
  | _, v => leNat v

/-- The type is a DOMAIN. -/
def ObjType.isDom : ObjType → Bool
  | .dom _ _ => true
  | _ => false

/-- A DOMAIN value longer than its largest size, judged at the transfer step of R7. -/
def Obj.tooLong (o : Obj) (n : Nat) : Bool := o.ty.isDom && decide (o.ty.sizes.2 < n)

/-- The length is one of the type's (TYPE_MISMATCH otherwise). -/
def Obj.sizeOk (o : Obj) (n : Nat) : Bool := o.ty.sizes.1 ≤ n && n ≤ o.ty.sizes.2

/-- A numeric value lies in the object's stated range. -/
def Obj.inRange (o : Obj) (v : Bytes) : Bool :=
  let x := o.ty.value v
  o.ty.isDom || (o.zero && x == 0) || (decide (o.lo ≤ x ∧ x ≤ o.hi) && x % (max 1 o.step : Nat) == 0)

/-- HK_SEQUENCE holds inputs 0, 4, 5 and 6, and no input above 15 before its terminator (R211). -/
def hkSequenceOk (v : Bytes) : Bool :=
  let l := v.takeWhile (· != 0xFF)
  l.all (fun b => b.toNat ≤ 15) && [(0 : Byte), 4, 5, 6].all (· ∈ l)

/-- What the owning rule asks of a value beyond its range; view gives the other objects of the same configuration.
DEDUCED: log entry 93. -/
def ownRule (view : Cfg) (id : Nat) (v : Bytes) : Bool :=
  if id = Id.PLAN_IMAGE then planOk v
  else if id = Id.THRESHOLDS then thresholdsOk v
  else if id = Id.HK_SEQUENCE then hkSequenceOk v
  else if id = Id.BIQUAD_COEFF then biquadOk v
  else if id = Id.GAIN_TABLE then gainTableOk v
  else if id = Id.REGION_ANGLES then regionAnglesOk v
  else if id = Id.REGION_TEMPS then regionTempsOk v
  else if id = Id.OSC_CONFIG then oscOk v
  else if id = Id.TIN_EDGE then (List.range 4).all fun i => leNat v / 4 ^ i % 4 != 3
  else if id = Id.CHANNEL_UNMASK then leNat v ≤ 511 || leNat v == 0xFFFF
  else if id = Id.CAL_REQUEST then leNat v ≤ 6 || 16 ≤ leNat v
  else if id = Id.CODE_SOURCE then leNat v % 256 == 0 && ((lookup (leNat v / 256)).map fun o => o.ty.isDom).getD true
  else if id = Id.CAP_BIN_COUNT then view.nat Id.CAP_BIN_FIRST + leNat v ≤ 1536
  else true

/-- The value is in range and keeps its owning rule (OUT_OF_RANGE otherwise). DEDUCED: log entry 24. -/
def Obj.valueOk (o : Obj) (view : Cfg) (v : Bytes) : Bool := o.inRange v && ownRule view o.id v

/-! ### Equalization checks (Table 03.10) -/

/-- The tracking window's longest column period c_nom × (1 + w), 31.25 ps. -/
def Cfg.cMax (c : Cfg) : Rat := (c.cNom : Rat) * (1 + c.window)

/-- FRAME_TIMING (R81): column period from 60 µs to 1280 µs, frame rate by mode, FSYNC_DIVIDER 1 with FSYNC_SOURCE 2. -/
def Cfg.frameTimingOk (c : Cfg) : Bool :=
  (usec 60 : Rat) ≤ c.cMin && c.cMax ≤ (usec 1280 : Rat) && ((20000000 * 2 ^ c.nat Id.FRAME_MODE : Nat) : Rat) ≤ c.tMin &&
    (c.nat Id.FSYNC_SOURCE != 2 || c.nat Id.FSYNC_DIVIDER == 1)

/-- CAL_SLOTS (R94). -/
def Cfg.calSlotsOk (c : Cfg) : Bool :=
  let n := c.nat Id.CAL_WINDOW_COUNT
  let start := c.nat Id.CAL_WINDOW_START
  (n == 0 || (c.cMax + (usec 10 : Nat) ≤ ((start * 32 : Nat) : Rat) &&
      decide (start + n * c.nat Id.CAL_WINDOW_LENGTH + 200000 ≤ c.nat Id.FLYBACK))) &&
    decide (c.nat Id.CAL_BORROW_MAX < planUsed (c.bytes Id.PLAN_IMAGE))

/-- PLAN_SLOTS (R88). -/
def Cfg.planSlotsOk (c : Cfg) : Bool :=
  let p := c.bytes Id.PLAN_IMAGE
  planMode p == c.nat Id.FRAME_MODE && decide (planUsed p ≤ c.usable)

/-- The modelled load of R303 in mW. DEDUCED: log entry 82. -/
def Cfg.modelledLoad (c : Cfg) (retired : Nat) : Rat :=
  let str : Rat := (c.eCheck retired (c.bytes Id.PLAN_IMAGE) : Nat) * 1000 / c.tMin
  let q : Rat := (512 * c.columns : Nat) * 1000000000 / (c.tMin * 6553600)
  str * 10 / 9 + 2400 + 5400 * q

/-- POWER_MODELLED in mW. DEDUCED: log entry 82. -/
def Cfg.powerModelled (c : Cfg) (retired : Nat) : Nat := (c.modelledLoad retired * 13000 / 11800).ceil.toNat

/-- The fade that a flip to a configuration would start: none where no column timer runs, no plan changes, or R92 rules it out. -/
def State.fadeCase (s : State) (c : Cfg) : Option FadeCase :=
  let l := s.conf
  let same := l.bytes Id.PLAN_IMAGE == c.bytes Id.PLAN_IMAGE && l.nat Id.SHOT_PERIOD == c.nat Id.SHOT_PERIOD
  if s.scan.timer && !same && fadeAllowed l c s.activePlan then
    some { old := s.activePlan.image, spOld := s.activePlan.shotPeriod, frames := c.nat Id.FADE_FRAMES }
  else none

/-- The configuration that a store would make. -/
def State.confOf (s : State) (new : Store) : Cfg := { fac := s.fac, store := new }

/-- The checks of Table 03.10 in its order on a configuration: the evaluation of EMITTER_CAP and the details of the failures. live is the
configuration that it would replace. -/
def Cfg.checks (c live : Cfg) (retired : Nat) (fade : Option FadeCase) : CapResult × List Nat :=
  let cap := emitterCap c retired fade
  let list : List (Nat × Bool) :=
    [(0x30000001, c.frameTimingOk), (0x30000002, c.calSlotsOk), (0x31000001, c.planSlotsOk), (0x32000001, cap.result == 0),
     (0x35000001, c.histSpanOk), (0x36000001, c.ditherOk), (0x43000001, c.controlRateOk live), (0x43000002, c.cycleOk),
     (0x20000001, decide (c.modelledLoad retired ≤ 11800)), (0x50000001, c.bandwidthOk), (0x50000002, c.postOk)]
  (cap, (list.filter fun p => !p.2).map (·.1))

/-- The bars that an equalization counts as retired: restore-pending bars are not (R120). -/
def State.countedRetired (s : State) : Nat := (s.emit.retired &&& ~~~ s.emit.restorePending).toNat

/-- The equalization checks of the configuration that a store would make. -/
def State.lockChecks (s : State) (new : Store) : CapResult × List Nat :=
  let c := s.confOf new
  c.checks s.conf s.countedRetired (s.fadeCase c)

/-- EMITTER_CAP_RESULT keeps the last evaluation (R362). -/
def State.keepCap (s : State) (r : CapResult) : State := { s with emit := { s.emit with capResult := r.bytes } }

end Sys2Proof.Machine
end

