-- ==== Sys2Proof/Machine/Security.lean ====
section
/-! DEFINITION. Security states and BACKOFF (chapter 17): the keys that authenticate, the classes, failed authentications, transitions and
key changes once their commit group has ended. -/

namespace Sys2Proof.Machine

open Sys2Proof

/-- The key under which a role authenticates (R348, R349): K_T in BLANK, the role's own key elsewhere. -/
def State.roleKey (s : State) (role : Nat) : Option Bytes :=
  if s.sec.state = 0 then some s.fac.kT else s.sec.keys.getD (role - 1) none

/-- SECURITY_STATE: the state in [1:0], BACKOFF in [7] (R348). -/
def State.securityByte (s : State) : Nat := s.sec.state + 128 * b2n s.sec.backoff.isSome

/-- KEY_STATE: a bit for each role key held. -/
def State.keyState (s : State) : Nat := maskOf 3 fun i => (s.sec.keys.getD i none).isSome

/-- Diagnostic class of a role (Table 17.3): D2 for INTEGRATOR in SEALED, D0 in recovery. -/
def State.classOf (s : State) (role : Nat) : Nat :=
  if s.pwr.recovery then 0 else if s.sec.state = 2 then min 2 role else role

/-- The serial number and a prefix for the CMACs of R350. -/
def State.authInput (s : State) (label role : Nat) (challenge : Bytes) : Bytes :=
  [BitVec.ofNat 8 label, BitVec.ofNat 8 role] ++ le 4 s.fac.serial.toNat ++ challenge

/-- Duration of BACKOFF at a level: 60 s × 2^L. -/
def backoffSeconds (level : Nat) : Nat := 60 * 2 ^ level

/-- BACKOFF is entered at a level; the level rises by 1 up to 6, and a mark goes to the CAL ring (R355).
DEDUCED: log entry 15. -/
def State.enterBackoff (s : State) (level : Nat) : State :=
  let d := backoffSeconds level
  let s1 : State := { s with sec := { s.sec with
    backoff := some (s.now + Sys2Proof.sec d), level := min 6 (level + 1) } }
  let s2 := s1.raise 0x8002 1 (u32 level) (u32 d)
  s2.flashQueue [{ kind := .program, work := .backoff level, host := false, waits := none }]

/-- An authentication fails (R355): counted, and the fifth in succession enters BACKOFF. DEDUCED: log entry 15. -/
def State.authFail (s : State) (role : Nat) (tr : Transport) : State :=
  let n := s.sec.failures + 1
  let s1 : State := { s with sec := { s.sec with failures := n } }
  let s2 := (s1.count Id.AUTH_FAILURES).raise 0x8001 1 (u32 role) (u32 (b2n (tr == .can))) (u32 n)
  if 5 ≤ n then s2.enterBackoff s2.sec.level else s2

/-- BACKOFF_END. -/
def doBackoffEnd (t : Time) (s0 : State) : State :=
  let s := s0.at t
  match s.sec.backoff with
  | some e =>
    if e ≤ s.now then
      { s with sec := { s.sec with backoff := none, failures := 0, mark := none } }.raise 0x8003 0
    else s
  | none => s

/-- A security transition's commit has ended (Table 17.2): new state 1, 0, or 2 where the fuse is blown after the intent. Every session
closes. -/
def State.securityCommit (s : State) (new : Nat) (ticket : U32) : State :=
  if new = 2 ∧ !s.isOn 1 then { s with sec := { s.sec with sealIntent := true } }
  else
    let old := s.sec.state
    let s1 : State := { s with sec := { s.sec with
      state := new, sealIntent := s.sec.sealIntent || new == 2, keys := if new = 0 then rep 3 none else s.sec.keys } }
    (s1.raise 0x8004 0 (u32 old) (u32 new) 0 ticket).closeSessions (fun _ => true) 5

/-- A wrapped key's commit has ended (R354): every other session of the role closes, and its challenges become void. -/
def State.keyCommit (s : State) (role : Nat) (key : Bytes) (tr : Transport) (num : Byte) : State :=
  let s1 : State := { s with sec := { s.sec with
    keys := setAt s.sec.keys (role - 1) (some key)
    challenges := s.sec.challenges.map fun c => if c.role = role then { c with void := true } else c } }
  (s1.raise 0x8005 0 (u32 role)).closeSessions (fun x => x.role == role && !(x.transport == tr && x.num == num)) 6

/-- SEC powers down: challenges are gone (Table 17.4). -/
def State.secSleep (s : State) : State := { s with sec := { s.sec with challenges := [] } }

/-- SEC at a cold start: a committed seal intent blows the fuse (Table 17.2 step 7); at a power-on an unresolved mark starts BACKOFF again
at its level (R355). -/
def State.secBoot (s : State) (powerOn : Bool) : State :=
  let s1 : State := { s with sec := { s.sec with
    state := if s.sec.sealIntent then 2 else s.sec.state, challenges := [] } }
  match s1.sec.mark with
  | some l => if powerOn then { s1 with sec := { s1.sec with backoff := none, failures := 0 } }.enterBackoff l else s1
  | none => if powerOn then { s1 with sec := { s1.sec with backoff := none, failures := 0 } } else s1

/-- SEC works on a key, a transition or a firmware signature: the SEC refuser (Table 14.4). -/
def State.secBusy (s : State) : Bool :=
  s.flash.checking.isSome || (s.flash.running.toList ++ s.flash.queue).any fun g => match g.work with
    | .security _ _ => true
    | .key _ _ _ _ => true
    | _ => false

/-! ### Commands -/

/-- BACKOFF_END (R355). -/
def execBackoffEnd (t : Time) (s : State) : Host.Outcome State Fault Refusal := .next (doBackoffEnd t s)

end Sys2Proof.Machine
end

