-- ==== Sys2Proof/Machine/Storage.lean ====
section
/-! DEFINITION. What flash work does when it ends or fails (R331, R333), the loading and confirmation of configuration versions (R337),
firmware images, trials and their confirmation (R341 to R344), and the supply-loss record (R338). -/

namespace Sys2Proof.Machine

open Sys2Proof

/-! ### Items that end (R331, R335 to R338, R342, R343) -/

/-- Copy 1 of a version is committed: it becomes current (R334, R335). -/
def State.versionCommit (s : State) (num lockId : U32) (time : U64) (values : Store) : State :=
  let v : Version :=
    { num, lockId, fw := s.fwVersion, parent := s.flash.current, time, values, confirmed := false, rejected := false, copies := 1 }
  let s1 : State := { s with flash := { s.flash with
    versions := v :: dropVersion s.flash.versions s.flash.current, current := num, versionState := 1, persist := 2 } }
  (s1.count Id.VERSION_WRITES).raise 0x7001 0 num lockId

/-- Change a version held. -/
def State.modVersion (s : State) (num : U32) (f : Version → Version) : State :=
  { s with flash := { s.flash with versions := s.flash.versions.map fun v => if v.num = num then f v else v } }

/-- A version held. -/
def State.version? (s : State) (num : U32) : Option Version := s.flash.versions.find? fun v => v.num == num

/-- The current pointer of a revert is committed: its values await their boundary (R336). -/
def State.pointerCommit (s : State) (num ticket : U32) : State :=
  let good := ((s.version? num).map (·.confirmed)).getD true
  { s with flash := { s.flash with
      revert := some (s.flash.current, num, ticket), current := num, versionState := if good then 0 else 1 } }

/-- The CONFIRMED flag is committed (R337). -/
def State.confirmCommit (s : State) (num : U32) : State :=
  let s1 := s.modVersion num fun v => { v with confirmed := true }
  if s1.flash.current = num then { s1 with flash := { s1.flash with versionState := 0 } } else s1

/-- The calibration record is committed (R322, R338); TRACE_COMMIT completes with it (R321). -/
def State.calCommit (s : State) (ticket : U32) (mask : Nat) : State :=
  let s1 : State := { s with
    flash := { s.flash with calRecord := some (s.emit.retired, s.emit.paired, s.cal.next) }
    cal := { s.cal with store := 0, retryAt := none } }
  if ticket = 0 then s1 else (s1.raise 0x9006 0 (u32 mask) 0 0 ticket).calDone (calTicket 18 ticket) 0

/-- A trial image is confirmed (R343): ACTIVE, ROLLBACK_COUNTER raised, the other slot INVALID where its index lies below. -/
def State.fwConfirmed (s : State) (slot : Nat) : State :=
  let index := ((s.flash.slots[slot]?).map (·.index)).getD 0
  let counter := max s.flash.rollback index
  let s1 := s.modSlot slot fun x => { x with state := 2, boots := 0 }
  let s2 := s1.modSlot (1 - slot) fun x =>
    { x with state := if x.state = 0 then 0 else if x.index < counter then 4 else if x.state = 2 then 1 else x.state }
  let s3 : State := { s2 with flash := { s2.flash with rollback := counter, trial := 1, update := 0 } }
  s3.raise 0x700B 0 (u32 slot) (u32 counter)

/-- The effect of an item that has ended. -/
def State.itemDone (s : State) (work : FlashWork) : State := match work with
  | .version num lockId time values copy =>
    if copy = 1 then s.versionCommit num lockId time values else s.modVersion num fun v => { v with copies := 2 }
  | .pointer num ticket => s.pointerCommit num ticket
  | .confirm num => s.confirmCommit num
  | .calRecord ticket mask => s.calCommit ticket mask
  | .recorder segment => s.recorderStore segment
  | .fwErase _ => if s.flash.update = 1 then { s with flash := { s.flash with update := 2 } } else s
  | .fwProgram _ => s
  | .fwActivate slot ticket =>
    let s1 := s.modSlot slot fun x => { x with state := 3, boots := 0 }
    { s1 with flash := { s1.flash with update := 5 } }.raise 0x700A 0 (u32 slot) 0 0 ticket
  | .fwConfirm slot => s.fwConfirmed slot
  | .security state ticket => s.securityCommit state ticket
  | .key role key tr num => s.keyCommit role key tr num
  | .backoff level => if s.sec.backoff.isSome then { s with sec := { s.sec with mark := some level } } else s
  | .relocate _ => s.count Id.RELOCATIONS

/-! ### Items that fail (R327, R333) -/

/-- Two pieces of work belong to one operation: the two copies of a version do. -/
def FlashWork.same (a b : FlashWork) : Bool := match a, b with
  | .version n _ _ _ _, .version m _ _ _ _ => n == m
  | _, _ => a == b

/-- Drop the groups that wait for an operation. -/
def State.dropWork (s : State) (work : FlashWork) : State :=
  { s with flash := { s.flash with queue := s.flash.queue.filter fun g => !work.same g.work } }

/-- Work of a firmware update. -/
def FlashWork.isFw : FlashWork → Bool
  | .fwErase _ => true
  | .fwProgram _ => true
  | .fwActivate _ _ => true
  | _ => false

/-- A firmware update ends without an image: the target slot is empty, FW_UPDATE_STATE 0. A check under way still ends, and answers. -/
def State.fwAbandon (s : State) : State :=
  let s1 : State := { s with flash := { s.flash with
    update := 0, image := [], queue := s.flash.queue.filter fun g => !g.work.isFw } }
  s1.modSlot s1.targetSlot fun _ => .empty

/-- What the failure of an operation leaves: LOCK_PERSIST_RESULT 3 for a version write, FW_UPDATE_STATE 0 for firmware work. -/
def State.workFailed (s : State) (work : FlashWork) : State :=
  let s1 := s.dropWork work
  match work with
  | .version _ _ _ _ _ => { s1 with flash := { s1.flash with persist := 3 } }
  | .calRecord ticket _ =>
    let s2 : State := { s1 with cal := { s1.cal with store := 2, retryAt := some s1.now } }
    if ticket = 0 then s2 else s2.calDone (calTicket 18 ticket) 2
  | .recorder n => s1.skipCopy n
  | .fwErase _ => s1.fwAbandon
  | .fwProgram _ => s1.fwAbandon
  | .fwActivate _ _ => { s1 with flash := { s1.flash with update := 0 } }
  | _ => s1

/-- The running group ends. A group whose block failed is written again in a fresh block, or its write fails where no
block is left (R327); a group that completed is followed by the rest of its item, and the last one gives the item its effect. -/
def State.groupDone (s : State) (e : GroupEnd) : State := match s.flash.running with
  | none => s
  | some g =>
    let s1 : State := { s with flash := { s.flash with running := none } }
    match e with
    | .bad block =>
      let p := s1.retireBlock block (if g.kind = .erase then 2 else 1)
      let s2 := p.1
      if p.2 then { s2 with flash := { s2.flash with queue := g :: s2.flash.queue } }.flashKick
      else
        let s3 := s2.workFailed g.work
        (if g.host then s3 else s3.raise 0x7006 1 (u32 s3.flash.spare)).flashKick
    | .good =>
      let more := s1.flash.queue.any fun x => x.work == g.work
      (if g.kind = .commit ∨ !more then s1.itemDone g.work else s1).flashKick

/-- FLASH_GROUP_DONE. In the supply-loss sequence FLSH and MEM go off with it (Table 14.11 step 5). -/
def doFlashGroupDone (t : Time) (e : GroupEnd) (s0 : State) : State :=
  let s := s0.at t
  let s1 := s.groupDone e
  if s.pwr.losing ∧ s1.flash.running.isNone then (s1.setDom 4 .off).setDom 5 .off else s1

/-- FLASH_WAIT_TIMEOUT: a group of a host operation has waited for its checks for 1 s, and the operation fails (R333). -/
def doFlashWaitTimeout (t : Time) (s0 : State) : State :=
  let s := s0.at t
  match s.flash.running, s.flash.queue with
  | none, g :: _ => match g.waits with
    | some w => if g.host ∧ w + Sys2Proof.sec 1 ≤ s.now then (s.workFailed g.work).flashKick else s
    | none => s
  | _, _ => s

/-! ### Requests -/

/-- REC_CLEAR: every entry is gone; the blocks that held them are erased. -/
def recClearAction (s : State) : State :=
  let blocks := ((s.flash.entries.map fun e => (List.range (cdiv (e.page % 64 + e.pages) 64)).map fun i => e.page / 64 + i).flatten).eraseDups
  let s1 : State := { s with flash := { s.flash with entries := [] } }
  s1.flashQueue (blocks.map fun b => { kind := .erase, work := .relocate (4096 + b), host := false, waits := none })

/-- The version that a VERSION_REVERT value names (R336): 0 the newest CONFIRMED one older than the current. -/
def State.revertTarget (s : State) (value : Nat) : Option Version :=
  if value = 0 then s.flash.versions.find? fun v => v.confirmed && v.num < s.flash.current
  else s.version? (u32 value)

/-- A Lock is EQUALIZING or COMMITTED, or a revert applies as one does (R336). -/
def State.lockBusy (s : State) : Bool :=
  s.baspo.commit.isSome || s.flash.revert.isSome || (s.flash.running.toList ++ s.flash.queue).any fun g => match g.work with
    | .pointer _ _ => true
    | _ => false

/-- A configuration's CAP_SOURCE is 1 or 2. -/
def Cfg.rawSource (c : Cfg) : Bool := c.nat Id.CAP_SOURCE == 1 || c.nat Id.CAP_SOURCE == 2

/-- Why a VERSION_REVERT aborts, in the order of R7; none where it is accepted. The details of the failed checks stand beside it.
DEDUCED: log entry 90. -/
def State.revertCheck (s : State) (value : Nat) : Option (Abort × List Nat) :=
  let target := s.revertTarget value
  if s.sec.state = 2 ∧ target.any (fun v => (s.confOf v.values).rawSource) then some (.securityState, [])
  else if s.lockBusy then some (.lockBusy, [])
  else match target with
    | none => some (.versionAbsent, [])
    | some v =>
      let bad := (s.lockChecks v.values).2
      if bad ≠ [] then some (.lockValidation, bad) else (s.flashCheck .commit).map fun a => (a, [])

/-- VERSION_REVERT accepted with a ticket: the evaluation of EMITTER_CAP is kept and the pointer is written. -/
def versionRevertAction (value : Nat) (k : U32) (s : State) : State := match s.revertTarget value with
  | none => s
  | some v => (s.keepCap (s.lockChecks v.values).1).flashItem (.pointer v.num k) true 1

/-! ### Configuration versions at a cold start (R337) -/

/-- Entries of a version that the firmware knows and whose values are valid; whether any was skipped. -/
def State.validEntries (s : State) (values : Store) : Store × Bool :=
  let view := s.confOf values
  let keep := values.filter fun p => match lookup p.1 with
    | some o => o.sizeOk p.2.length && o.valueOk view p.2
    | none => false
  (keep, decide (keep.length < values.length))

/-- What a sealed module makes of a version with CAP_SOURCE 1 or 2 (Table 17.2): CAP_SOURCE 0 and CAP_ENABLE 0. -/
def State.sealedValues (s : State) (values : Store) : Store × Bool :=
  if s.sec.state = 2 ∧ (s.confOf values).rawSource then
    (putCfg s.fac (putCfg s.fac values Id.CAP_SOURCE (le 1 0)) Id.CAP_ENABLE (le 1 0), true)
  else (values, false)

/-- The checks of Table 03.10 on a loaded configuration, against itself and without a fade. -/
def State.bootChecks (s : State) (values : Store) : CapResult × List Nat :=
  (s.confOf values).checks (s.confOf values) s.emit.retired.toNat none

/-- The newest CONFIRMED version that has not been rejected. -/
def State.newestConfirmed (s : State) : Option Version := s.flash.versions.find? fun v => v.confirmed && !v.rejected

/-- A version is REJECTED: the newest CONFIRMED version becomes current, else the built-in defaults (R337). -/
def State.rejectVersion (s : State) (num : U32) : State :=
  let s1 := s.modVersion num fun v => { v with rejected := true }
  let next : U32 := (s1.newestConfirmed.map (·.num)).getD 0
  { s1 with flash := { s1.flash with current := next, versionState := 2, revert := none } }.raise 0x7003 1 num next

/-- Load the current version: its values become live, or it is rejected and the newest CONFIRMED one is tried. Fuel bounds the
versions. -/
def State.loadVersion : Nat → State → State
  | 0, s => { s with cfg := [], flash := { s.flash with current := 0 } }
  | n + 1, s => match s.version? s.flash.current with
    | none =>
      let s1 : State := { s with cfg := [], flash := { s.flash with current := 0 } }
      s1.keepCap (s1.bootChecks []).1
    | some v =>
      let (l, skipped) := s.validEntries v.values
      let (values, fixed) := s.sealedValues l
      let s1 := if skipped || fixed then s.raise 0x7004 2 v.num 3 else s
      let r := s1.bootChecks values
      if r.2 = [] then
        let s2 : State := { s1 with cfg := values, flash := { s1.flash with
          versionState := if s1.flash.versionState = 2 then 2 else if v.confirmed then 0 else 1 } }
        s2.keepCap r.1
      else State.loadVersion n ((s1.keepCap r.1).rejectVersion v.num)

/-- A lost copy of the current version is rewritten at start-up (R335). -/
def State.repairCopy (s : State) : State := match s.version? s.flash.current with
  | some v =>
    if v.copies = 1 then
      (s.raise 0x7004 2 v.num 1).flashItem (.version v.num v.lockId v.time v.values 2) false
        (pagesOf (codeUnit (versionImage v.num v.lockId v.fw v.parent v.time (s.confOf v.values))).1.length)
    else if v.copies = 0 then s.raise 0x7004 2 v.num 2
    else s
  | none => s

/-- Restore the calibration record (R322) with BAR_RETIRED and BAR_PAIRED; factory values where none is held. -/
def State.restoreCal (s : State) : State :=
  let (retired, paired, vals) := s.flash.calRecord.getD (0, 0, .reset)
  { s with
    emit := { s.emit with retired, paired, restorePending := 0, restoreTickets := [] }
    cal := { s.cal with vals, due := [], store := 0, retryAt := none } }

/-- The device has reached its WAKE_TARGET, not BECALMED: version and firmware trial are confirmed where that is within 5 s of the start
threshold crossing or the wake event (R337, R343). -/
def State.confirmBoot (s : State) : State := match s.pwr.coldStart with
  | none => s
  | some c =>
    if s.isBecalmed then s
    else if c + Sys2Proof.sec 5 < s.now then s
    else
      let s1 : State := { s with pwr := { s.pwr with coldStart := none } }
      let s2 := match s1.version? s1.flash.current with
        | some v => if v.confirmed then s1 else s1.flashItem (.confirm v.num) false 0
        | none => s1
      match s2.flash.slots[s2.flash.activeSlot]? with
      | some x => if x.state = 3 then s2.flashItem (.fwConfirm s2.flash.activeSlot) false 0 else s2
      | none => s2

/-! ### Firmware images (R341 to R343) -/

/-- A firmware image is accepted by its header, hash and signature (Table 16.4, Table 16.5 steps 3 and 4); else the abort. -/
def State.imageCheck (s : State) (b : Bytes) : Option Abort :=
  let len := u32At b 12
  if b.length < 128 ∨ u32At b 0 ≠ 0x4C4D4657 ∨ u8At b 4 ≠ 1 ∨ len ≠ b.length ∨ len < 4096 ∨ 33554432 < len ∨ len % 4096 ≠ 0 ∨
      s.fac.hwRev < u16At b 6 then some .imageInvalid
  else if sha256 (b.drop 128) ≠ slice b 16 32 then some .imageInvalid
  else if !ecdsaVerify s.fac.verifyX s.fac.verifyY (sha256 (b.take 48)) (beNat (slice b 48 32)) (beNat (slice b 80 32)) then
    some .imageInvalid
  else if u8At b 5 < s.flash.rollback then some .rollback
  else none

/-- FW_UPDATE 1 may run: RUN or HOLD, and no update under way (R342). -/
def State.fwBeginOk (s : State) : Bool := s.awake && (s.flash.update == 0 || s.flash.update == 4) && s.flash.checking.isNone

/-- FW_UPDATE 1: the target slot is erased (Table 16.5 step 1). -/
def fwBeginAction (s : State) : State :=
  let slot := s.targetSlot
  let s1 := s.modSlot slot fun _ => .empty
  let s2 : State := { s1 with flash := { s1.flash with update := 1, image := [] } }
  s2.flashQueue (rep 128 { kind := .erase, work := .fwErase slot, host := true, waits := none })

/-- Pages of the image are programmed as they fill, 16 to a group. -/
def State.fwPages (s : State) (before after : Nat) : State :=
  s.flashQueue (rep (after / 65536 - before / 65536) { kind := .program, work := .fwProgram s.targetSlot, host := true, waits := none })

/-- FW_UPDATE 2 may run: state 4, and no activation under way. -/
def State.fwActivateOk (s : State) : Bool :=
  s.flash.update == 4 && !(s.flash.running.toList ++ s.flash.queue).any fun g => match g.work with
    | .fwActivate _ _ => true
    | _ => false

/-- FW_UPDATE 2: the boot record marks the slot TRIAL (Table 16.5 step 6). -/
def fwActivateAction (k : U32) (s : State) : State := s.flashItem (.fwActivate s.targetSlot k) true 0

/-- FW_UPDATE 3 may run: an update under way before step 5 (R342). -/
def State.fwCancelOk (s : State) : Bool := 1 ≤ s.flash.update && s.flash.update ≤ 3

/-- The verdict on an image received: the slot becomes VALID, or stays empty (Table 16.5 steps 4 and 5). An update that ended while its
image was checked leaves none: STORAGE_FULL where no block is left (R327), else STATE_CONFLICT. -/
def State.imageVerdict (s0 : State) : State × Option Abort :=
  let s : State := { s0 with flash := { s0.flash with checking := none } }
  if s.flash.update ≠ 3 then (s, some (if s.flash.spare = 0 ∧ s.flash.recBlocks ≤ 64 then .storageFull else .stateConflict))
  else match s.imageCheck s.flash.image with
  | some a => (s.fwAbandon, some a)
  | none =>
    let b := s.flash.image
    let slot := s.targetSlot
    let s1 := s.modSlot slot fun _ =>
      { version := u32 (u32At b 8), index := u8At b 5, state := 1, length := u32At b 12, boots := 0 }
    let s2 : State := { s1 with flash := { s1.flash with update := 4, image := [] } }
    (s2.raise 0x7009 0 (u32 slot) (u32 (u32At b 8)), none)

/-- A firmware trial fails: the slot is FAILED; cause 1 check, 2 watchdog, 3 target not reached, 4 third boot (R343). -/
def State.trialFailed (s : State) (slot cause : Nat) : State :=
  let s1 := s.modSlot slot fun x => { x with state := 5 }
  { s1 with flash := { s1.flash with trial := 2, update := 0 } }.raise 0x700C 3 (u32 slot) (u32 cause)

/-- The slot in TRIAL. -/
def State.trialSlot (s : State) : Option Nat := [0, 1].find? fun i => ((s.flash.slots[i]?).map (·.state)) == some 3

/-- The ACTIVE slot. -/
def State.activeFw (s : State) : Option Nat := [0, 1].find? fun i => ((s.flash.slots[i]?).map (·.state)) == some 2

/-- Boot the ACTIVE slot where its image passes the check; else recovery. -/
def State.bootActive (s : State) (good : Nat → Bool) : State := match s.activeFw with
  | some i =>
    if good i then { s with flash := { s.flash with activeSlot := i } }
    else
      let s1 : State := { s with
        flash := { s.flash with activeSlot := 255 }, pwr := { s.pwr with recovery := true } }
      s1.raise 0x700D 3
  | none =>
    let s1 : State := { s with flash := { s.flash with activeSlot := 255 }, pwr := { s.pwr with recovery := true } }
    s1.raise 0x700D 3

/-- SEC verifies and selects the firmware image (R343): the TRIAL slot, on its first and second boot, else the ACTIVE one. -/
def State.bootFirmware (s0 : State) (x : BootIn) : State :=
  let s : State := { s0 with pwr := { s0.pwr with recovery := false } }
  let good := fun (i : Nat) => if i = 0 then x.slotAok else x.slotBok
  match s.trialSlot with
  | none => s.bootActive good
  | some i =>
    let s1 := s.modSlot i fun z => { z with boots := z.boots + 1 }
    let boots : Nat := ((s1.flash.slots[i]?).map (·.boots)).getD 0
    if !good i then (s1.trialFailed i 1).bootActive good
    else if 3 ≤ boots then (s1.trialFailed i 4).bootActive good
    else { s1 with flash := { s1.flash with activeSlot := i, update := 6 } }

/-! ### Loss of supply (R338, R345, Table 14.11) -/

/-- The supply-loss record of 16 bytes: device time, trigger, POWER_STATE, EMIT_TRIP_LATCH. DEDUCED: log entry 91. -/
def State.lossRecord (s : State) (trigger : Nat) : Bytes :=
  le 8 s.stampNow.toNat ++ le 1 trigger ++ le 1 s.pwr.state.code ++ le 2 s.emit.latch.toNat ++ zeros 4

/-- FLSH writes the record where 5 mJ are there (Table 16.2). DEDUCED: log entry 91. -/
def State.writeLoss (s : State) (trigger : Nat) : State :=
  if s.isOn 5 ∧ s.therm.flashOk ∧ s.therm.anchors.all Option.isSome ∧ 5 ≤ s.holdupEnergy then
    { s with flash := { s.flash with losses := (s.lossRecord trigger :: s.flash.losses).take 64 } }
  else s

/-- SUPPLY_LOSS_LOG: 64 entries, newest first. -/
def State.lossLog (s : State) : Bytes := s.flash.losses.flatten ++ zeros (16 * (64 - s.flash.losses.length))

/-- Flash work that had not ended when FLSH lost its power is lost before its commit (Table 16.6). -/
def State.flashLost (s : State) : State :=
  let f := s.flash
  let part := 1 ≤ f.update ∧ f.update ≤ 3
  let slots := if part then modAt f.slots s.targetSlot fun _ => .empty else f.slots
  { s with flash := { f with
      running := none, queue := [], persist := if f.persist = 1 then 0 else f.persist, revert := none, copies := [],
      update := if part then 0 else f.update, image := [], checking := none, slots } }

/-! ### Commands -/

/-- FLASH_GROUP_DONE (R331). -/
def execFlashGroupDone (t : Time) (e : GroupEnd) (s : State) : Host.Outcome State Fault Refusal := .next (doFlashGroupDone t e s)

/-- FLASH_WAIT_TIMEOUT (R333). -/
def execFlashWaitTimeout (t : Time) (s : State) : Host.Outcome State Fault Refusal := .next (doFlashWaitTimeout t s)

end Sys2Proof.Machine
end

