-- ==== Sys2Proof/Machine/Power.lean ====
section
/-! DEFINITION. Domains and what switching them does (Table 01.5, R298 to R301), entering a lower power state (R292 to R295), waking
(R296), start-up (R297) and what a configuration version and a firmware trial have to do with it (R337, R343). -/

namespace Sys2Proof.Machine

open Sys2Proof

/-! ### Domains -/

/-- Domains that are off in HOLD: BANK, EMIT, MIRR, AFE, SDF and the bands (Table 01.5). -/
def scanDoms : List Nat := [9, 10, 11, 12, 13] ++ bandDoms

/-- Domains that are on in HOLD and off in DOZE, in the order in which start-up powers them (Table 14.7 steps 3 and 5). -/
def baseDoms : List Nat := [1, 5, 4, 2, 3, 14, 15, 8, 6, 7]

/-- Essential domains: their failure means BECALMED (R301); the lanes only together. -/
def essentialDom (d : Nat) : Bool := d ∈ [0, 4, 8, 9, 10, 11, 12, 13]

/-- The governor when SHOT is powered (R112, R115): buckets empty, EMIT_ENABLE low, and the sources that stand asserted. -/
def State.shotUp (s : State) : State :=
  let c := s.conf
  let plan : PlanBuf := { image := c.bytes Id.PLAN_IMAGE, shotPeriod := c.nat Id.SHOT_PERIOD }
  let hot := (List.range 8).any fun n => s.therm.flags.getLsbD (3 * n + 2)
  let source := fun (b : Nat) => match b with
    | 0 => s.arb.holder.isNone || s.arb.unconfirmed.isSome
    | 1 => !s.tracking
    | 2 => s.front.stall || s.coil.state == 4
    | 3 => s.front.overtravel
    | 4 => s.front.breakLatch != 0
    | 5 => hot
    | 10 => s.pwr.state != .run || s.isBecalmed
    | _ => false
  let active : BitVec 16 := BitVec.ofNat 16 (maskOf 11 source)
  let first := ((List.range 11).find? source).getD 255
  let e : Emit := { s.emit with
    enable := 0, resume := none, clearSince := false, active, first := if s.emit.latch = 0 then BitVec.ofNat 8 first else s.emit.first,
    buckets := rep 16 0, bucketAt := s.now, acc := 0, bankState := 0, chargeSince := none,
    shunts := shuntTable c s.emit.retired.toNat, derate := .rest 64 }
  { s with emit := e, scan := { s.scan with buffers := setAt s.scan.buffers s.scan.active plan, fade := none } }

/-- HK_LOW_POWER asks for low-power mode: in HOLD (1), or always (2) (R213). -/
def State.hkLow (s : State) : Bool := s.cfgN Id.HK_LOW_POWER == 2 || (s.cfgN Id.HK_LOW_POWER == 1 && s.pwr.state == .hold)

/-- The HKA and the thermal anchors when HKA is powered (R212, R305): it calibrates itself, and every θ restarts from first readings. -/
def State.hkaUp (s : State) : State :=
  { s with
    hka := { Hka.reset with
      input := u8At (s.conf.bytes Id.HK_SEQUENCE) 0, lowPower := s.hkLow
      offset := s.hka.offset, gain := s.hka.gain, calState := 1, calTicket := some 0 }
    therm := { s.therm with
      anchors := rep 3 none, lost := rep 3 false, theta := rep 5 0, ready := false, flashOk := true, bankOk := false, stringEnergy := 0 } }

/-- A band when its domain is powered: it awaits its first test, its bias at the goal (R128, Table 06.8 step 1). -/
def State.bandUp (s : State) (b : Nat) : State :=
  s.modBand b fun x => { x.wake s.conf with bias := s.biasGoalOf b, biasGoal := s.biasGoalOf b }

/-- Switch a domain on, with the shadow values in force before its first use (R75). A FAILED domain stays off. -/
def State.domOn (s : State) (d : Nat) : State := match s.dom d with
  | .failed => s
  | .on => s
  | .held => s.setDom d .on
  | .off =>
    let s1 := s.setDom d .on
    let s2 : State := { s1 with pwr := { s1.pwr with tries := setAt s1.pwr.tries d 0 } }
    if d = 2 then { s2 with net := { s2.net with link := false, gptp := 0 } }
    else if d = 3 then { s2 with net := { s2.net with busOff := false } }
    else if d = 8 then s2.shotUp
    else if d = 11 then { s2 with coil := .reset }
    else if d = 12 then { s2 with front := s2.front.powerUp s2.conf }
    else if d = 14 then s2.hkaUp
    else if d = 15 then s2.tinWake.fsyncWake.busWake
    else if 16 ≤ d then s2.bandUp (d - 16)
    else s2

/-- What the loss of a domain's power does to what it holds. mem: 0 the DRAM keeps its refresh, else the reason of CAPTURE_DISCARDED. -/
def State.domDown (s : State) (d mem : Nat) : State :=
  if d = 1 then s.secSleep
  else if d = 2 then { s with net := { s.net with link := false, gptp := if s.net.gptp = 2 then 3 else s.net.gptp } }.streamLost
  else if d = 4 then (if mem = 0 then s else s.capDiscard mem)
  else if d = 5 then s.flashLost
  else if d = 6 then s.laneOff .a
  else if d = 7 then s.laneOff .b
  else if d = 8 then { s with emit := { s.emit with enable := 0, resume := none, clearSince := false } }
  else if d = 9 then s.bankDischarge
  else if d = 11 then { s with coil := .reset }
  else if d = 14 then { s with hka := { s.hka with results := rep 16 none, calTicket := none, mirror := none, ntcBad := false } }
  else if d = 15 then s.timxIsolate
  else if 16 ≤ d then s.modBand (d - 16) Band.powerDown
  else s

/-- Isolate a domain and switch it off. -/
def State.domOff (s : State) (mem d : Nat) : State := match s.dom d with
  | .on | .held => (s.domDown d mem).setDom d .off
  | .off | .failed => s

/-- Switch a list of domains on. -/
def State.domsOn (s : State) (l : List Nat) : State := l.foldl State.domOn s

/-- Switch a list of domains off. -/
def State.domsOff (s : State) (mem : Nat) (l : List Nat) : State := l.foldl (State.domOff · mem) s

/-- BECALMED by a crystal or a domain (R301): a running wake ends. -/
def State.becalmPower (s : State) (cause dom : Nat) : State :=
  (({ s with pwr := { s.pwr with wake := none } }).becalm cause).raise 0x1008 3 (u32 cause) (u32 dom)

/-- A domain is marked FAILED (R299, R300, Table 14.10): cause 1 power-good, 2 clock, 3 NO_RESPONSE. -/
def State.domainFailed (s : State) (d cause : Nat) : State :=
  let lane := d = 6 ∨ d = 7
  let s1 := (if lane then s else s.domDown d 3).markFailed d cause
  if essentialDom d then s1.becalmPower 3 d
  else if d = 1 then s1.closeSessions (fun _ => true) 8
  else if d = 6 ∨ d = 7 then
    let l : LaneId := if d = 6 then .a else .b
    let s2 := s1.laneFatal l
    let s3 := s2.setLaneState l .failed
    if s3.isFailed 6 ∧ s3.isFailed 7 then s3.becalmPower 3 d else s3
  else if 16 ≤ d then s1.bandLost (d - 16) (if cause = 3 then 3 else 5)
  else s1

/-- CROSSING_NO_RESPONSE: no acknowledge for 16 µs (R17, R299). -/
def doCrossingNoResponse (t : Time) (d : Fin 32) (s0 : State) : State :=
  let s := s0.at t
  if d.val = 0 ∨ !s.isOn d.val then s else (s.count Id.NO_RESPONSES).domainFailed d.val 3

/-- A domain is being switched on: a wake runs, or its band restarts. -/
def State.waking (s : State) (d : Nat) : Bool :=
  s.isOn d && (s.pwr.wake.isSome || (decide (16 ≤ d) && (s.band (d - 16)).untested))

/-- DOMAIN_POWER_GOOD_FAIL: an attempt to switch a domain on fails; two retries, then FAILED with cause 1 or 2 (Table 14.9). -/
def doDomainPowerGoodFail (t : Time) (d : Fin 32) (clock : Bool) (s0 : State) : State :=
  let s := s0.at t
  if d.val = 0 ∨ !s.waking d.val then s
  else
    let n := s.pwr.tries.getD d.val 0 + 1
    let s1 : State := { s with pwr := { s.pwr with tries := setAt s.pwr.tries d.val n } }
    if n < 3 then s1.count Id.DOMAIN_RETRIES else s1.domainFailed d.val (if clock then 2 else 1)

/-- XTAL_FALLBACK: the reference net is taken from the RC oscillator, and the device is BECALMED (Table 14.9 step 5). -/
def State.xtalFallback (s : State) : State :=
  ({ s with pwr := { s.pwr with xtalFailed := true } }.raise 0x1007 3).becalmPower 2 255

/-- XTAL_FALLBACK as it comes later than start-up. -/
def doXtalFallback (t : Time) (s0 : State) : State :=
  let s := s0.at t
  if s.awake && s.pwr.served && !s.pwr.xtalFailed then s.xtalFallback else s

/-! ### Requesters (R292) -/

/-- Cause code of POWER_STATE_CHANGED. DEDUCED: log entry 75. -/
def Requester.cause : Requester → Nat
  | .host _ => 1
  | .pin => 2
  | .can => 3
  | .thermal => 4
  | .timer => 5
  | .startup => 6

/-- LAST_WAKE_CAUSE of a wake. -/
def Requester.wakeCause : Requester → Nat
  | .pin => 1
  | .can => 2
  | .host _ => 3
  | .thermal => 4
  | .timer => 0
  | .startup => 0

/-- Ticket of a requester. -/
def Requester.ticket : Requester → U32
  | .host k => k
  | _ => 0

/-- A host asked. -/
def Requester.isHost : Requester → Bool
  | .host _ => true
  | _ => false

/-- POWER_STATE_CHANGED. OFF has no code, so that what a power-on names as the old state is a free value.
DEDUCED: log entry 75. -/
def State.stateChanged (s : State) (old new : Power) (who : Requester) : State :=
  let tell := fun (y : State) (n : Nat) => y.raise 0x1001 0 (u32 n) (u32 new.code) (u32 who.cause) who.ticket
  if old = .off then tell s.draw.1 (Config.freeNat s.draw.2) else tell s old.code

/-- Level of a state: a higher number is a lower state. -/
def Power.below (a b : Power) : Bool := decide (b.code < a.code)

/-! ### Waking (R296) -/

/-- Table 14.6 steps 1 and 2: the domains of RUN that are not FAILED. -/
def State.scanUp (s : State) : State := s.domsOn scanDoms

/-- A wake begins (Table 14.5). From SLEEP, start-up runs from its step 2 until the wake completes. -/
def State.wakeStart (s : State) (goal : Power) (who : Requester) : State :=
  let w : Wake := { goal, origin := s.pwr.state, who, since := s.now }
  let s1 : State := { s with pwr := { s.pwr with wake := some w, lastWake := who.wakeCause } }
  match s.pwr.state with
  | .hold => s1.scanUp
  | .doze => (s1.domsOn baseDoms).lanesStart
  | .sleep => { s1 with pwr := { s1.pwr with coldStart := some s1.now } }
  | .run => s1
  | .off => s1

/-- Goal of a wake event: WAKE_TARGET. -/
def State.wakeTarget (s : State) : Power := if s.cfgN Id.WAKE_TARGET = 0 then .run else .hold

/-- A refusal is counted and raised (R295). -/
def State.refusal (s : State) (target : Power) (code : Nat) (ticket : U32) : State :=
  (s.count (0x200200 + code)).raise 0x1002 1 (u32 target.code) (u32 code) 0 ticket

/-! ### Entering a lower state (R293 to R295) -/

/-- The refusers of an entry, by code (Table 14.4). DEDUCED: log entry 77. -/
def State.refusers (s : State) (target : Power) (who : Requester) : List Nat :=
  let deep := target != .hold
  let lane := fun (l : LaneId) => (s.lane l).state == .rejoining || (s.arb.selftest.isSome && (s.lane l).runs)
  let flash := s.flash.running.isSome || s.flash.queue != [] || s.flash.persist == 1 || s.flash.copies != []
  let cal := s.cal.running.isSome || s.cal.queue != [] || s.cal.autoDue.isSome
  let list : List (Nat × Bool) :=
    [(1, deep && lane .a), (2, deep && lane .b), (3, s.baspo.commit.isSome), (4, deep && flash),
     (5, deep && (s.cap.state == 2 || s.stream.offload.isSome)), (6, deep && cal), (7, deep && s.secBusy),
     (9, deep && s.cfgN Id.STAY_AWAKE == 1 && who == .pin)]
  (list.filter (·.2)).map (·.1)

/-- The running entry changes. -/
def State.setEntry (s : State) (e : Option Entry) : State := { s with pwr := { s.pwr with entry := e } }

/-- Refusers refuse an entry: each counts once per request, at its first refusal. DEDUCED: log entry 77. -/
def State.refuseEntry (s : State) (e : Entry) (codes : List Nat) : State :=
  let fresh := codes.filter fun k => !bit e.refused (k - 1)
  let mask := fresh.foldl (fun m k => m + 2 ^ (k - 1)) e.refused
  fresh.foldl (fun y k => y.refusal e.target k e.who.ticket) (s.setEntry (some { e with refused := mask }))

/-- WAKE's request failed. -/
def State.pinFails (s : State) (who : Requester) : State :=
  if who = .pin then { s with pwr := { s.pwr with pinFailed := some s.now } } else s

/-- An entry is abandoned at an abort point (R294): reason 0 a wake, else the refuser. At P3 and P4 the device returns to the state that
it held; from DOZE the wake is served. The hold-offs end. -/
def State.abandonEntry (s : State) (e : Entry) (point reason : Nat) : State :=
  let s1 := (s.setEntry none).count Id.ABORTED_WAKE
  let s2 := if reason ≠ 0 ∧ !bit e.refused (reason - 1) then s1.count (0x200200 + reason) else s1
  let s3 := (s2.raise 0x1003 0 (u32 e.target.code) (u32 point) (u32 reason)).pinFails e.who
  let s4 := s3.flashKick.calStart
  if e.origin = .run ∧ s4.pwr.state = .hold then s4.wakeStart .run (e.wake.getD e.who)
  else if e.origin = .doze ∧ e.wake.isSome then s4.wakeStart s4.wakeTarget (e.wake.getD e.who)
  else s4

/-- What ends an entry at an abort point: a recorded wake, or a refuser whose condition has arisen. -/
def State.abortReason (s : State) (e : Entry) : Option Nat :=
  if e.forced then none
  else if e.wake.isSome then some 0
  else (s.refusers e.target e.who).head?

/-- P3 and what follows it: POWER_ENTERING (Table 14.3 step 5). -/
def State.entryP3 (s : State) (e : Entry) : State := match s.abortReason e with
  | some r => s.abandonEntry e 3 r
  | none => (s.setEntry (some { e with step := 5 })).raise 0x1005 0 (u32 e.target.code)

/-- P2 and what follows it (Table 14.3 step 3): STATE, PARK, the bank's discharge, and the end of the column timer. With origin HOLD or
DOZE steps 3 and 4 are skipped. The second component tells that the entry went on. -/
def State.entryP2 (s : State) (e : Entry) : State × Bool := match s.abortReason e with
  | some r => (s.abandonEntry e 2 r, false)
  | none =>
    if e.origin = .run then
      let s1 := (((s.tripSet 10).enginePark 10).mirrPark).bankDischarge
      ((s1.timerEnd.calHoldEntry).setEntry (some { e with step := 3 }), true)
    else ((s.setEntry (some { e with step := 3 })).entryP3 e, true)

/-- Step 1: the refusers are evaluated; without one, P1 is passed and the hold-offs begin. With the column timer stopped P2 follows at
once. -/
def State.entryTry (s : State) : State := match s.pwr.entry with
  | none => s
  | some e =>
    if e.step ≠ 0 then s
    else
      let codes := if e.forced then [] else s.refusers e.target e.who
      if codes ≠ [] then s.refuseEntry e codes
      else if e.wake.isSome ∧ !e.forced then s.abandonEntry e 1 0
      else
        let e1 := { e with step := 2 }
        let s1 := s.setEntry (some e1)
        if s1.scan.timer then s1 else (s1.entryP2 e1).1

/-- A request for a lower state, with no entry and no wake running. -/
def State.enterRequest (s : State) (target : Power) (who : Requester) (forced : Bool) : State :=
  (s.setEntry (some { target, origin := s.pwr.state, who, since := s.now, step := 0, forced, refused := 0, wake := none })).entryTry

/-- Serve a request that waited: the present state completes at once, a lower one is entered, a higher one woken to. -/
def State.serveRequest (s : State) (target : Power) (who : Requester) : State :=
  if who.isHost ∧ s.isBecalmed ∧ target ≠ .sleep then s
  else if target = s.pwr.state then s
  else if target.below s.pwr.state then s.enterRequest target who (who == .thermal)
  else if s.therm.cooldown.isSome ∧ who ≠ .thermal then s.refusal target 8 who.ticket
  else s.wakeStart target who

/-- Serve the requests that wait, oldest first, until one starts an entry or a wake. DEDUCED: log entry 76. -/
def State.serveRequests : Nat → State → State
  | 0, s => s
  | n + 1, s =>
    if s.pwr.entry.isSome || s.pwr.wake.isSome then s
    else match s.pwr.afterWake with
      | [] => s
      | (target, who) :: r => State.serveRequests n (({ s with pwr := { s.pwr with afterWake := r } }).serveRequest target who)

/-- At most 9 requests wait. -/
def State.serveAll (s : State) : State := State.serveRequests 9 s

/-- A power state is reached. -/
def State.reach (s : State) (v : Power) : State :=
  let s1 : State := { s with pwr := { s.pwr with state := v, since := s.now } }
  if v = .hold ∧ s1.therm.cooldown.isSome ∧ s1.therm.holdSince.isNone then
    { s1 with therm := { s1.therm with holdSince := some s1.now } }
  else if v = .run then { s1 with therm := { s1.therm with holdSince := none } }
  else s1

/-- The entry is complete. -/
def State.entryComplete (s : State) (e : Entry) : State :=
  (((s.reach e.target).setEntry none).stateChanged e.origin e.target e.who).calStart.serveAll

/-- A running ticket holds the bands on in HOLD (R22). -/
def State.bandsHeld (s : State) : Bool := match s.cal.running with
  | some k => 2 ∈ k.runs || 6 ∈ k.runs
  | none => false

/-- Step 4: the domains that HOLD marks off are powered down; bands that a ticket needs are HELD. With target HOLD the entry is
complete. -/
def State.entryHold (s : State) (e : Entry) : State :=
  let off := if s.bandsHeld then [9, 10, 11, 12, 13] else scanDoms
  let s1 := s.domsOff 0 off
  let s2 := if s.bandsHeld then bandDoms.foldl (fun y d => if y.dom d = .on then y.setDom d .held else y) s1 else s1
  let s3 : State := { s2 with coil := .reset }.reach .hold
  if e.target = .hold then s3.entryComplete e else s3.entryP3 e

/-- Sessions, Locks, tickets and stream queues end before the device sleeps (Table 14.3 step 7, R65, R69 step 9). -/
def State.quiesce (s : State) : State :=
  let s1 := s.baspo.sessions.foldl (fun y x => y.abandonLock x.transport x.num 4) s
  let s2 := match s1.baspo.commit with
    | some k => { s1 with baspo := { s1.baspo with commit := none } }.raise 0xA302 0 k.id 4
    | none => s1
  let s3 := s2.closeSessions (fun _ => true) 7
  let s4 := s3.calSleep
  { s4 with
    baspo := { s4.baspo with tickets := [] }
    stream := { s4.stream with queue0 := [], queue1 := [], admitted := none, reserved := 0, offload := none }
    pwr := { s4.pwr with served := false } }

/-- The arbiter with both lanes off. -/
def State.lanesLost (s : State) : State :=
  { s with arb := { s.arb with
      holder := none, unconfirmed := none, window := 0, selftest := none, towpath := 0, rejoin := none, takeover := false, columns := [],
      columnSeq := s.arb.released, restart := none } }

/-- Step 7: DOZE keeps the DRAM in self-refresh, SLEEP does not; every domain but AO is powered down.
DEDUCED: log entry 80. -/
def State.entrySleep (s : State) (e : Entry) : State :=
  let mem := if e.target = .sleep then 2 else 0
  let s1 := s.quiesce
  let s2 := if mem = 2 ∧ s1.dom 4 = .off then s1.capDiscard 2 else s1
  (((s2.domsOff mem (List.range 31 |>.map (· + 1))).lanesLost).setEntry (some { e with step := 7 })).entryComplete e

/-- ENTRY_STEP_DONE: the step that waited is done: park and discharge (step 4), then the notification (step 5 and P4). -/
def doEntryStepDone (t : Time) (s0 : State) : State :=
  let s := s0.at t
  match s.pwr.entry with
  | none => s
  | some e =>
    if e.step = 2 ∧ !s.scan.timer then ((s.entryP2 e).1).serveAll
    else if e.step = 3 then (s.entryHold e).serveAll
    else if e.step = 5 then match s.abortReason e with
      | some r => (s.abandonEntry e 4 r).serveAll
      | none => s.entrySleep e
    else s

/-- ENTRY_RECHECK: a pending entry is evaluated again (R295). -/
def doEntryRecheck (t : Time) (s0 : State) : State :=
  let s := s0.at t
  match s.pwr.entry with
  | none => s
  | some e =>
    if e.step = 0 then s.entryTry.serveAll
    else if e.step = 2 ∧ !s.scan.timer then ((s.entryP2 e).1).serveAll
    else s

/-- ENTRY_TIMEOUT: an entry still pending fails; the ticket completes with POWER_ENTRY_FAILED. -/
def doEntryTimeout (t : Time) (s0 : State) : State :=
  let s := s0.at t
  match s.pwr.entry with
  | none => s
  | some e =>
    if e.step = 0 ∧ e.since + msec (s.cfgN Id.ENTRY_TIMEOUT) ≤ s.now then
      (((s.setEntry none).raise 0x1004 1 (u32 e.target.code) (u32 e.refused) 0 e.who.ticket).pinFails e.who).serveAll
    else s

/-! ### Requests -/

/-- Why a POWER_REQUEST aborts; none where it is accepted (R292, R295). -/
def State.powerCheck (s : State) (target : Power) : Option Abort :=
  if s.isBecalmed ∧ target ≠ .sleep then some .stateConflict
  else if target = .run ∧ s.therm.cooldown.isSome ∧ !(s.pwr.state == .run && s.pwr.entry.isNone) then some .stateConflict
  else match s.pwr.entry with
    | some e => if target.below e.target ∨ target = e.target then some .stateConflict
      else if 8 ≤ s.pwr.afterWake.length then some .deferred else none
    | none => if s.pwr.wake.isSome ∧ 8 ≤ s.pwr.afterWake.length then some .deferred else none

/-- A RUN request that a cool-down refuses counts once (R295). -/
def State.powerRefused (s : State) (target : Power) : State :=
  if !s.isBecalmed ∧ target = .run ∧ s.therm.cooldown.isSome then s.refusal .run 8 0 else s

/-- A request is put off until the wake or the entry is over. DEDUCED: log entry 76. -/
def State.deferRequest (s : State) (target : Power) (who : Requester) : State :=
  { s with pwr := { s.pwr with afterWake := s.pwr.afterWake ++ [(target, who)] } }

/-- POWER_REQUEST accepted with a ticket: a higher state is a wake under R294 while an entry runs. -/
def powerRequestAction (target : Power) (k : U32) (s : State) : State := match s.pwr.entry with
  | some e =>
    let e1 := if e.forced then e else { e with wake := some (e.wake.getD (.host k)) }
    (s.setEntry (some e1)).deferRequest target (.host k)
  | none => if s.pwr.wake.isSome then s.deferRequest target (.host k) else s.serveRequest target (.host k)

/-- A wake event (R294, R296, R308). -/
def State.wakeEvent (s : State) (who : Requester) : State :=
  if s.pwr.losing || s.pwr.recovery || s.pwr.state == .off then s
  else if s.therm.cooldown.isSome then { s with therm := { s.therm with wakes := s.therm.wakes ++ [who] } }
  else match s.pwr.entry with
    | some e => if e.forced then s else s.setEntry (some { e with wake := some (e.wake.getD who) })
    | none =>
      if s.pwr.wake.isSome then s
      else if s.pwr.state = .doze ∨ s.pwr.state = .sleep then s.wakeStart s.wakeTarget who
      else s

/-- WAKE_PIN: WAKE has stayed high through its debounce. -/
def doWakePin (t : Time) (s0 : State) : State :=
  let s1 := s0.at t
  let s : State := { s1 with pwr := { s1.pwr with pinAsked := false, pinFailed := none } }
  if bit (s.cfgN Id.WAKE_SOURCES) 0 then s.wakeEvent .pin else s

/-- WAKE_PIN_LOW: WAKE has stayed low for WAKE_PIN_DELAY; one request per low period, and another after a further delay where it failed
(R292). -/
def doWakePinLow (t : Time) (s0 : State) : State :=
  let s := s0.at t
  let mode := s.cfgN Id.WAKE_PIN_SLEEP
  let due := !s.pwr.pinAsked || match s.pwr.pinFailed with
    | some f => decide (f + msec (s.cfgN Id.WAKE_PIN_DELAY) ≤ s.now)
    | none => false
  if mode = 0 || !due || !s.awake || s.pwr.losing || s.pwr.recovery then s
  else
    let target : Power := if mode = 1 then .doze else .sleep
    let s1 : State := { s with pwr := { s.pwr with pinAsked := true, pinFailed := none } }
    if s1.pwr.entry.isSome then s1.pinFails .pin
    else if s1.pwr.wake.isSome then s1.deferRequest target .pin
    else s1.serveRequest target .pin

/-- CAN_WAKE_FRAME: a classical frame with the identifier, whose masked data equals the mask (Table 03.2).
DEDUCED: log entry 81. -/
def doCanWakeFrame (t : Time) (ident : BitVec 11) (data : U64) (s0 : State) : State :=
  let s := s0.at t
  let mask : U64 := BitVec.ofNat 64 (s.cfgN Id.CAN_WAKE_MASK)
  if bit (s.cfgN Id.WAKE_SOURCES) 1 ∧ ident.toNat = s.cfgN Id.CAN_WAKE_ID ∧ data &&& mask = mask then s.wakeEvent .can else s

/-- DOZE_SLEEP_AFTER. -/
def doDozeSleepAfter (t : Time) (s0 : State) : State :=
  let s := s0.at t
  let n := s.cfgN Id.DOZE_SLEEP_AFTER
  if s.pwr.state = .doze ∧ s.pwr.entry.isNone ∧ s.pwr.wake.isNone ∧ n ≠ 0 ∧ s.pwr.since + Sys2Proof.sec n ≤ s.now then
    s.enterRequest .sleep .timer false
  else s

/-! ### Start-up (R297) -/

/-- Domains that fail while start-up powers them: DOMAIN_RETRIES counts two retries, then FAILED (Table 14.9). -/
def State.bootFail (s : State) (x : BootIn) : State :=
  (x.failed.filter fun p => p.1.val ∈ baseDoms).foldl (fun y p =>
    if y.isFailed p.1.val then y else (y.count Id.DOMAIN_RETRIES 2).markFailed p.1.val (if p.2 then 2 else 1)) s

/-- A wake to RUN that is complete: the column timer starts, and the state is RUN (Table 14.6 step 4). -/
def State.enterRun (s : State) : State :=
  let s1 : State := { s.reach .run with pwr := { (s.reach .run).pwr with wake := none } }
  ((s1.tripClear 10).engineAutostart.follow).timerStart s1.now

/-- A wake completes at its goal. -/
def State.wakeComplete (s : State) (w : Wake) : State :=
  let s1 := if w.goal = .run then s.enterRun else { s.reach .hold with pwr := { (s.reach .hold).pwr with wake := none } }
  ((s1.stateChanged w.origin w.goal w.who).confirmBoot).serveAll

/-- Recovery (R343): AO, SEC, FLSH, NET and CANX are powered. -/
def State.bootRecovery (s : State) (old : Power) : State :=
  let s1 := (s.domsOn [2, 3]).reach .hold
  ({ s1 with pwr := { s1.pwr with served := true, wake := none } }).stateChanged old .hold .startup

/-- Steps 4 to 6 of Table 14.7. DEDUCED: log entry 79. -/
def State.bootLoad (s : State) (x : BootIn) : State :=
  let s1 := s.restoreCal
  let s2 := if s1.isOn 5 then (State.loadVersion (s1.flash.versions.length + 1) s1).repairCopy
    else { s1 with cfg := [] }.keepCap (s1.bootChecks []).1
  let s3 : State := { s2 with
    echo := []
    hka := { s2.hka with offset := s2.fac.hkOffset, gain := s2.fac.hkGain }
    cal := { s2.cal with coldDue := true } }
  let s4 := (s3.bootFail x).domsOn baseDoms
  let s5 := s4.lanesStart
  { s5 with pwr := { s5.pwr with served := true } }.capEnable

/-- The end of start-up: the fall-back of the crystal, failed essential domains, and the state reached or woken to. -/
def State.bootEnd (s : State) (x : BootIn) (old : Power) (who : Requester) : State :=
  let s1 := s.reach .hold
  let s2 := if x.crystal then s1 else s1.xtalFallback
  let bad := [4, 8].filter s2.isFailed ++ (if s2.isFailed 6 ∧ s2.isFailed 7 then [7] else [])
  let s3 := match bad.head? with
    | some d => s2.becalmPower 3 d
    | none => s2
  let w : Wake := { goal := s3.wakeTarget, origin := old, who, since := s3.now }
  if s3.isBecalmed then { s3 with pwr := { s3.pwr with wake := none } }.stateChanged old .hold who
  else if w.goal = .hold then s3.wakeComplete w
  else { s3 with pwr := { s3.pwr with wake := some w } }.scanUp

/-- Start-up from step 3 of Table 14.7, with SEC and FLSH powered. DEDUCED: log entry 79. -/
def State.boot (s : State) (x : BootIn) (powerOn : Bool) (old : Power) (who : Requester) : State :=
  let failed := s.bootFail { x with failed := x.failed.filter fun p => p.1.val ∈ [1, 5] }
  let s1 := ((failed.secBoot powerOn).domsOn [1, 5]).bootFirmware x
  if s1.pwr.recovery then s1.bootRecovery old else ((s1.bootLoad x).bootEnd x old who).serveAll

/-- What a cold start clears in AO: FAILED marks, BECALMED, entry and wake (Table 14.7 step 4, R301).
DEDUCED: log entry 80. -/
def State.coldClear (s : State) (cause : Nat) : State :=
  { s with
    pwr := { s.pwr with
      served := false, entry := none, wake := none, doms := setAt (rep 32 .off) 0 .on, causes := rep 32 0, tries := rep 32 0,
      lastWake := cause, becalmed := 0, losing := false, recovery := false, xtalFailed := false, coldStart := some s.now }
    scan := { s.scan with active := 0 }
    rx := { s.rx with unmasks := [] } }

/-- Every domain but AO loses its power at once. -/
def State.powerCut (s : State) : State :=
  let s1 := s.timerStop.quiesce
  let s2 := if s1.dom 4 = .off then s1.capDiscard 3 else s1
  let s3 := (s2.flashLost.domsOff 3 (List.range 31 |>.map (· + 1))).lanesLost
  { s3 with pwr := { s3.pwr with afterWake := [] } }

/-- A cold start other than a power-on. -/
def State.restartCold (s : State) (x : BootIn) (cause : Nat) : State :=
  (s.powerCut.coldClear cause).boot x false s.pwr.state .startup

/-- AO_WATCHDOG_EXPIRY: start-up from step 2 (R299); a firmware trial fails with it (R343). -/
def doAoWatchdogExpiry (t : Time) (x : BootIn) (s0 : State) : State :=
  let s := s0.at t
  if s.pwr.state = .off ∨ s.pwr.losing then s
  else
    let s1 := match s.flash.slots[s.flash.activeSlot]? with
      | some y => if y.state = 3 then s.trialFailed s.flash.activeSlot 2 else s
      | none => s
    s1.restartCold x 6

/-- The module leaves OFF: what is volatile starts anew; fuses and flash stay (R356). -/
def State.powerOn (s : State) : State :=
  { State.reset with
    pending := s.pending, now := s.now, out := s.out, draws := s.draws, fac := s.fac
    flash := { s.flashLost.flash with persist := 0, holdupMv := 0, capacitance := 376, chargeFrom := none, versionState := 0, trial := 0 }
    sec := { s.sec with failures := 0, backoff := none, challenges := [] }
    tin := { Tin.reset with gatePin := s.tin.gatePin }
    arb := { Arbiter.reset with rejoinsLeft := 0 } }

/-- VIN_START_RISE: the power-on start-up (Table 14.7), or the restart before OFF was reached (Table 14.11 step 6). -/
def doVinStartRise (t : Time) (x : BootIn) (s0 : State) : State :=
  let s := s0.at t
  if s.pwr.state = .off ∨ (s.pwr.losing ∧ x.off) then
    let s1 := (s.powerOn.coldClear 0).boot x true .off .startup
    { s1 with arb := { s1.arb with rejoinsLeft := s1.cfgN Id.REJOIN_LIMIT } }
  else if s.pwr.losing then s.restartCold x 5
  else s

/-- WAKE_DONE: a wake completes. From SLEEP, start-up has run from its step 2 (Table 14.5). A device that became BECALMED meanwhile stays in
HOLD. -/
def doWakeDone (t : Time) (x : BootIn) (s0 : State) : State :=
  let s := s0.at t
  match s.pwr.wake with
  | none => s
  | some w => match s.pwr.state with
    | .sleep =>
      let cause := s.pwr.lastWake
      let start := s.pwr.coldStart
      let s1 := s.coldClear cause
      ({ s1 with pwr := { s1.pwr with coldStart := start } }).boot x false .sleep w.who
    | .doze =>
      let s1 : State := { s.reach .hold with pwr := { (s.reach .hold).pwr with served := true } }
      if w.goal = .run ∧ !s1.isBecalmed then s1.scanUp.wakeComplete w else s1.wakeComplete { w with goal := .hold }
    | .hold =>
      if s.isBecalmed then ({ s.domsOff 0 scanDoms with pwr := { (s.domsOff 0 scanDoms).pwr with wake := none } }).serveAll
      else s.wakeComplete w
    | .run => s
    | .off => s

/-- VERSION_CONFIRM_TIMEOUT: 5 s after the start the target is not reached (R337, R343). A firmware trial falls back first and leaves the
version unmarked; else the version is REJECTED and start-up runs again. -/
def doVersionConfirmTimeout (t : Time) (x : BootIn) (s0 : State) : State :=
  let s := s0.at t
  match s.pwr.coldStart with
  | none => s
  | some c =>
    let trial := ((s.flash.slots[s.flash.activeSlot]?).map (·.state)) == some 3
    let open_ := ((s.version? s.flash.current).map fun v => !v.confirmed).getD false
    if s.now < c + Sys2Proof.sec 5 || s.pwr.losing || !(s.awake) then s
    else if trial then (s.trialFailed s.flash.activeSlot 3).restartCold x s.pwr.lastWake
    else if open_ then (s.rejectVersion s.flash.current).restartCold x s.pwr.lastWake
    else { s with pwr := { s.pwr with coldStart := none } }

/-! ### The frame boundary with an entry, LEASE_RENEW and LANE_RESTART -/

/-- FRAME_BOUNDARY: the COLUMN_TICK that ends the last column (R21). Where an entry waits for it, it passes P2 and is the last one. -/
def doFrameBoundary (t : Time) (x : TickIn) (unconfirmed : Option (Fin 32)) (s0 : State) : State :=
  let s := s0.at t
  let e := s.scan.tick + s.scan.period
  if !s.scan.timer || s.scan.flyback || s.scan.column + 1 != s.scan.columns || decide (s.now < e) then s
  else
    let s1 := s.endColumn x e true
    let turn := fun (y : State) => y.frameTurn e (unconfirmed.map (·.val))
    match s1.pwr.entry with
    | some en =>
      if en.step = 2 then
        let p := s1.entryP2 en
        if p.2 then p.1.frameEvents.heldEvent else (turn p.1).serveAll
      else turn s1
    | none => turn s1

/-- The column of a lane that has waited past its release deadline without a result. -/
def State.lateColumn (s : State) (l : LaneId) : Bool :=
  s.arb.columns.any fun x => (x.resultOf l).isNone && decide ((s.lane l).joined ≤ x.ended) && decide (x.ended + x.period + usec 10 < s.now)

/-- The end of BECALMED by LANE_RESTART once a lane holds the lease (Table 11.5): the column timer starts, and LANE_RESTARTED. -/
def State.restartDone (s : State) : State := match s.arb.restart with
  | none => s
  | some (k, _) =>
    let s1 : State := { s with pwr := { s.pwr with becalmed := 0 }, arb := { s.arb with restart := none } }
    let s2 := s1.engineAutostart.follow
    let s3 := if s2.pwr.state = .run ∧ s2.pwr.entry.isNone then (s2.tripClear 10).timerStart s2.now else s2
    s3.raise 0x500C 0 0 0 0 k

/-- LEASE_RENEW: the holder renews within its lease, its work in time (R242). The first renewal of a new holder completes LEASE_GATE and
lifts the LEASE trip (R244). -/
def doLeaseRenew (t : Time) (l : LaneId) (s0 : State) : State :=
  let s := s0.at t
  if s.arb.holder ≠ some l ∨ (s.lane l).fatal ∨ s.leaseEnd / aoCycle ≤ s.now / aoCycle ∨ s.lateColumn l then s
  else
    let s1 : State := { s with arb := { s.arb with renewed := s.now } }
    let s2 := (s1.modLane l fun x => { x with watchdog := s.now }).towpathHear l
    if s2.arb.unconfirmed.isNone then s2
    else
      let s3 : State := { s2 with arb := { s2.arb with unconfirmed := none } }
      ((s3.tripClear 0).emitAdvance).restartDone

/-- LANE_RESTART may run: BECALMED by a lease lapse, and none under way (R245). -/
def State.restartOk (s : State) : Bool := s.pwr.becalmed == 1 && s.arb.restart.isNone && s.awake

/-- LANE_RESTART (Table 11.5): both lanes are power-cycled, the current version becomes live at an idle boundary, the lanes cold-start. -/
def laneRestartAction (k : U32) (s : State) : State :=
  let s1 := (s.laneOff .a).laneOff .b
  let s2 := ((s1.applyCfg s1.currentValues 0 true).1).lanesLost.lanesStart
  { s2 with arb := { s2.arb with rejoinsLeft := s2.cfgN Id.REJOIN_LIMIT, restart := some (k, s2.now) } }

/-! ### Commands -/

/-- FRAME_BOUNDARY (R21). -/
def execFrameBoundary (t : Time) (x : TickIn) (unconfirmed : Option (Fin 32)) (s : State) : Host.Outcome State Fault Refusal :=
  .next (doFrameBoundary t x unconfirmed s)

/-- LEASE_RENEW (R242). -/
def execLeaseRenew (t : Time) (lane : LaneId) (s : State) : Host.Outcome State Fault Refusal := .next (doLeaseRenew t lane s)

/-- ENTRY_RECHECK (R295). -/
def execEntryRecheck (t : Time) (s : State) : Host.Outcome State Fault Refusal := .next (doEntryRecheck t s)

/-- ENTRY_TIMEOUT (R295). -/
def execEntryTimeout (t : Time) (s : State) : Host.Outcome State Fault Refusal := .next (doEntryTimeout t s)

/-- ENTRY_STEP_DONE (R293). -/
def execEntryStepDone (t : Time) (s : State) : Host.Outcome State Fault Refusal := .next (doEntryStepDone t s)

/-- WAKE_PIN (R36). -/
def execWakePin (t : Time) (s : State) : Host.Outcome State Fault Refusal := .next (doWakePin t s)

/-- WAKE_PIN_LOW (R292). -/
def execWakePinLow (t : Time) (s : State) : Host.Outcome State Fault Refusal := .next (doWakePinLow t s)

/-- CAN_WAKE_FRAME (R292). -/
def execCanWakeFrame (t : Time) (ident : BitVec 11) (data : U64) (s : State) : Host.Outcome State Fault Refusal :=
  .next (doCanWakeFrame t ident data s)

/-- DOZE_SLEEP_AFTER (R292). -/
def execDozeSleepAfter (t : Time) (s : State) : Host.Outcome State Fault Refusal := .next (doDozeSleepAfter t s)

/-- WAKE_DONE (R296). -/
def execWakeDone (t : Time) (x : BootIn) (s : State) : Host.Outcome State Fault Refusal := .next (doWakeDone t x s)

/-- DOMAIN_POWER_GOOD_FAIL (R300). -/
def execDomainPowerGoodFail (t : Time) (dom : Fin 32) (clock : Bool) (s : State) : Host.Outcome State Fault Refusal :=
  .next (doDomainPowerGoodFail t dom clock s)

/-- XTAL_FALLBACK (R300). -/
def execXtalFallback (t : Time) (s : State) : Host.Outcome State Fault Refusal := .next (doXtalFallback t s)

/-- AO_WATCHDOG_EXPIRY (R299). -/
def execAoWatchdogExpiry (t : Time) (x : BootIn) (s : State) : Host.Outcome State Fault Refusal := .next (doAoWatchdogExpiry t x s)

/-- CROSSING_NO_RESPONSE (R299). -/
def execCrossingNoResponse (t : Time) (dom : Fin 32) (s : State) : Host.Outcome State Fault Refusal := .next (doCrossingNoResponse t dom s)

/-- VIN_START_RISE (R297). -/
def execVinStartRise (t : Time) (x : BootIn) (s : State) : Host.Outcome State Fault Refusal := .next (doVinStartRise t x s)

/-- VERSION_CONFIRM_TIMEOUT (R337). -/
def execVersionConfirmTimeout (t : Time) (x : BootIn) (s : State) : Host.Outcome State Fault Refusal := .next (doVersionConfirmTimeout t x s)

end Sys2Proof.Machine
end

