-- ==== Sys2Proof/Machine/Thermal.lean ====
section
/-! DEFINITION. The thermal model and its levels (R304 to R310), the supply thresholds (Table 02.8) and the loss of supply (R302). -/

namespace Sys2Proof.Machine

open Sys2Proof

/-! ### Anchors (R305) -/

/-- The reading of an anchor is lost. -/
def State.anchorLost (s : State) (i : Nat) : Bool := (s.anchorNow.getD i none).isNone

/-- Temperature of an anchor in °C: its reading, or ANCHOR_FALLBACK, 10 K higher for ZAVEX and DREAS. -/
def State.anchorTemp (s : State) (i : Nat) : Rat := match s.anchorNow.getD i none with
  | some v => (v : Rat) / 10
  | none => (s.conf.int Id.ANCHOR_FALLBACK : Rat) / 10 + (if i = 0 then 0 else 10)

/-- ANCHOR_LOST once per loss, of a reading that existed or with HKA FAILED (Table 14.10). DEDUCED: log entry 85. -/
def State.noteAnchor (s : State) (i : Nat) : State :=
  let gone := ((s.therm.anchors.getD i none).isSome || s.isFailed 14) && s.anchorLost i
  let s1 : State := { s with therm := { s.therm with lost := setAt s.therm.lost i gone } }
  if gone && !s.therm.lost.getD i false then s1.raise 0x1015 2 (u32 i) else s1

/-! ### Nodes (R304, Table 14.12) -/

/-- R_th in K/W and τ in ms of nodes 3 to 7. -/
def nodeConstants (n : Nat) : Rat × Rat :=
  [((3 : Rat), (25 : Rat)), (6, 40), (10, 2000), (20, 5000), (4, 3000)].getD (n - 3) (0, 1)

/-- Heat of a node in W over the millisecond; string energy is in nJ, domain powers in mW. DEDUCED: log entry 83. -/
def nodeHeat (x : HeatIn) (string n : Nat) : Rat :=
  let e : Rat := (string : Rat) / 1000000
  let dom := fun (d : Nat) => ((x.domains.getD d 0 : Nat) : Rat) / 1000
  if n = 3 then e * 7 / 10
  else if n = 4 then dom 10
  else if n = 5 then dom 9 - e
  else if n = 6 then dom 5
  else (x.input : Rat) / 1000 - (sumNat x.domains : Nat) / 1000

/-- One update of θ: θ + (P × R_th − θ) × 1 ms / τ. -/
def thetaNext (x : HeatIn) (string n : Nat) (theta : Rat) : Rat :=
  let k := nodeConstants n
  theta + (nodeHeat x string n * k.1 - theta) / k.2

/-- Temperature in 0.1 °C, as THERMAL_NODES and the events state it. -/
def tenths (t : Rat) : Int := roundHalfUp (t * 10)

/-- Set and clear thresholds of a level, °C (Table 14.13). -/
def levelBounds (level : Nat) : Rat × Rat := [((95 : Rat), (90 : Rat)), (105, 100), (125, 110)].getD level (125, 110)

/-- One level of one node: its flag with THERMAL_WARN, THERMAL_THROTTLE, THERMAL_SHUTDOWN or THERMAL_CLEAR. -/
def State.judgeLevel (s : State) (n level : Nat) : State :=
  let t := s.therm.temps.getD n 0
  let b := levelBounds level
  let old := s.therm.flags.getLsbD (3 * n + level)
  let put := fun (v : Bool) => ({ s with therm := { s.therm with flags := withBit s.therm.flags (3 * n + level) v } } : State)
  if !old && decide (b.1 ≤ t) then (put true).raise (0x1010 + level) (1 + level) (u32 n) (u32i (tenths t))
  else if old && decide (t < b.2) then (put false).raise 0x1013 0 (u32 (level + 1)) (u32 n)
  else s

/-- All levels of all nodes. -/
def State.judgeNodes (s : State) : State :=
  (List.range 8).foldl (fun y n => ((y.judgeLevel n 0).judgeLevel n 1).judgeLevel n 2) s

/-- SHUTDOWN is set on a node. -/
def Thermal.shut (x : Thermal) : Bool := (List.range 8).any fun n => x.flags.getLsbD (3 * n + 2)

/-- THERMAL_LEVEL. -/
def Thermal.level (x : Thermal) : Nat :=
  if x.shut then 3 else if x.throttles then 2 else if (List.range 8).any fun n => x.flags.getLsbD (3 * n) then 1 else 0

/-- A window with its hysteresis, °C. -/
def windowOk (old fresh : Bool) (t hi back : Rat) : Bool :=
  if old || fresh then decide (-40 ≤ t) && decide (t ≤ hi) else decide (-37 ≤ t) && decide (t ≤ back)

/-- The two temperature windows (R309). fresh: these are the first readings since the wake. -/
def State.judgeWindows (s : State) (fresh : Bool) : State :=
  let flash := windowOk s.therm.flashOk fresh (s.therm.temps.getD 6 0) 100 97
  let bank := windowOk s.therm.bankOk fresh (s.therm.temps.getD 5 0) 110 107
  let s1 : State := { s with therm := { s.therm with flashOk := flash, bankOk := bank } }
  let s2 := if !bank && (s.therm.bankOk || fresh) && s1.isOn 9 then s1.bankInhibit 2 else s1
  if bank && !s.therm.bankOk then s2.bankResume.emitAdvance else s2

/-- A shutdown (R308): counted, the cool-down begins, and HOLD is forced; a running entry goes on without abort points. -/
def State.thermalShutdown (s : State) : State :=
  let s1 : State := { s with therm := { s.therm with
    cooldown := some s.now, holdSince := if s.pwr.state = .hold then some s.now else none, wakes := [] } }
  let s2 := s1.count Id.THERMAL_SHUTDOWNS
  match s2.pwr.entry with
  | some e => (s2.setEntry (some { e with forced := true, wake := none })).entryTry
  | none =>
    if s2.pwr.wake.isSome then s2.deferRequest .hold .thermal
    else if s2.pwr.state = .run then s2.enterRequest .hold .thermal true
    else s2

/-- What follows the temperatures of an update: levels, the THERMAL trip, a shutdown (R306, R308). -/
def State.judgeThermal (s : State) : State :=
  let s1 := s.judgeNodes
  let hot := s1.therm.shut
  let s2 := (s1.trip 5 hot).emitAdvance
  if hot && !s.therm.shut && s2.therm.cooldown.isNone then s2.thermalShutdown else s2

/-- With HKA FAILED the anchors are lost and θ stays (Table 14.10, R305). -/
def State.thermalLost (s0 : State) : State :=
  let s := ((s0.noteAnchor 0).noteAnchor 1).noteAnchor 2
  let case_ := s.anchorTemp 0
  let temps := [case_, s.anchorTemp 1, s.anchorTemp 2] ++ s.therm.theta.map (case_ + ·)
  let s1 := ({ s with therm := { s.therm with temps, stringEnergy := 0 } } : State).judgeThermal
  if s1.therm.ready then s1.judgeWindows false else s1

/-- THERMAL_UPDATE: the millisecond's update. Input power enters POWER_MEASURED; the model is frozen while HKA is off, and waits for the
first readings of all anchors (R305). DEDUCED: log entry 83. -/
def doThermalUpdate (t : Time) (x : HeatIn) (s0 : State) : State :=
  let s1 := s0.at t
  if s1.pwr.state = .off ∨ s1.pwr.losing then s1
  else
    let s : State := { s1 with pwr := { s1.pwr with inputs := (x.input :: s1.pwr.inputs).take 100 } }
    if s.isFailed 14 then s.thermalLost
    else if !s.isOn 14 then s
    else
      let s2 := ((s.noteAnchor 0).noteAnchor 1).noteAnchor 2
      if s2.therm.anchors.any Option.isNone then { s2 with therm := { s2.therm with stringEnergy := 0 } }
      else
        let fresh := !s2.therm.ready
        let string := s2.therm.stringEnergy
        let theta := (List.range 5).map fun i =>
          if fresh then 0 else thetaNext x string (i + 3) (s2.therm.theta.getD i 0)
        let case_ := s2.anchorTemp 0
        let temps := [case_, s2.anchorTemp 1, s2.anchorTemp 2] ++ theta.map (case_ + ·)
        let s3 : State := { s2 with therm := { s2.therm with theta, temps, ready := true, stringEnergy := 0 } }
        ((s3.judgeThermal).judgeWindows fresh).flashKick

/-- THERMAL_FORCED_DOZE: a node still at SHUTDOWN 10 s after HOLD was reached (R308). -/
def doThermalForcedDoze (t : Time) (s0 : State) : State :=
  let s := s0.at t
  match s.therm.cooldown, s.therm.holdSince with
  | some _, some h =>
    if h + Sys2Proof.sec 10 ≤ s.now ∧ s.therm.shut ∧ s.pwr.state = .hold ∧ s.pwr.entry.isNone ∧ s.pwr.wake.isNone then
      s.enterRequest .doze .thermal true
    else s
  | _, _ => s

/-- The cool-down may end: 10 s have passed and every node lies below 110 °C. With HKA off the model is frozen, and the command itself says
that the nodes have cooled. -/
def State.cooled (s : State) : Bool := match s.therm.cooldown with
  | some c => decide (c + Sys2Proof.sec 10 ≤ s.now) && (!(s.isOn 14 || s.isFailed 14) || s.therm.temps.all fun t => decide (t < 110))
  | none => false

/-- THERMAL_RESTART: the cool-down ends (R308). -/
def doThermalRestart (t : Time) (s0 : State) : State :=
  let s := s0.at t
  if !s.cooled || s.pwr.entry.isSome || s.pwr.wake.isSome || !(s.pwr.state == .hold || s.pwr.state == .doze) then s
  else
    let goal : Power := if s.cfgN Id.AUTO_RESUME = 1 ∧ !s.isBecalmed then .run else .hold
    let s1 : State := { s with therm := { s.therm with cooldown := none, holdSince := none, wakes := [] } }
    let s2 := s1.raise 0x1014 0 (u32 goal.code)
    if s2.pwr.state = goal then s2 else s2.wakeStart goal .thermal

/-- COOLDOWN_REMAINING, ms: what is left of the 10 s. -/
def State.cooldownLeft (s : State) : Nat := match s.therm.cooldown with
  | some c => cdiv (c + Sys2Proof.sec 10 - s.now) (msec 1)
  | none => 0

/-- XTAL_COMP: the lease holder's core corrects the reference for crystal drift, the band bias and the current-sense gain (R310).
DEDUCED: log entry 84. -/
def doXtalComp (t : Time) (s0 : State) : State :=
  let s := s0.at t
  if s.arb.holder.isNone ∨ !s.awake then s
  else
    let goal := Config.xtalCorrection s.fac.xtal (s.anchorTemp 0)
    let next := clampInt (s.therm.xtal - 100) (s.therm.xtal + 100) goal
    let zavex := s.anchorTemp 1
    let x : Thermal := { s.therm with biasTrim := Config.biasCorrection zavex, senseTrim := Config.senseCorrection zavex }
    if s.bus.onClk then { s with therm := x }
    else if s.scan.timer then { s with therm := { x with xtalNext := some next } }
    else { s with therm := { x with xtal := next, xtalNext := none } }

/-! ### Supply thresholds (Table 02.8) -/

/-- VIN_LOW: boost charging stops (step 2). -/
def doVinLow (t : Time) (s0 : State) : State :=
  let s := s0.at t
  if s.pwr.state = .off ∨ s.pwr.losing then s
  else
    let s1 : State := { s with pwr := { s.pwr with vinOk := false, vinLowRaised := true } }
    let s2 := s1.raise 0x1F01 1
    if s2.isOn 9 then s2.bankInhibit 1 else s2

/-- VIN_RESUME_RISE: charging restarts (step 3). -/
def doVinResumeRise (t : Time) (s0 : State) : State :=
  let s := s0.at t
  if s.pwr.state = .off ∨ s.pwr.losing then s
  else
    let s1 : State := { s with pwr := { s.pwr with vinOk := true, vinLowRaised := false } }
    let s2 := if s.pwr.vinLowRaised then s1.raise 0x1F03 0 1 else s1
    s2.bankResume.emitAdvance

/-- VIN_HIGH: the input switch opens (step 4). -/
def doVinHigh (t : Time) (s0 : State) : State :=
  let s := s0.at t
  if s.pwr.state = .off ∨ s.pwr.switchOpen then s
  else { s with pwr := { s.pwr with switchOpen := true } }.raise 0x1F02 1

/-- INPUT_SWITCH_CLOSE: the switch closes, and flash work may start again (step 6). -/
def doInputSwitchClose (t : Time) (s0 : State) : State :=
  let s := s0.at t
  if !s.pwr.switchOpen then s
  else
    let s1 : State := { s with pwr := { s.pwr with switchOpen := false } }
    (if s1.pwr.vinOk then s1.raise 0x1F03 0 2 else s1).flashKick

/-- The supply-loss sequence (Table 14.11): trigger 1 hold-up energy, 2 VIN. A flash group that runs keeps FLSH on until it completes
(R33). -/
def State.supplyLoss (s : State) (trigger : Nat) : State :=
  let s1 := (((s.tripSet 10).mirrPark).bankDischarge).setEntry none
  let s2 : State := { s1.timerStop with pwr := { s1.timerStop.pwr with losing := true, wake := none, afterWake := [] } }
  let s3 := s2.quiesce
  let s4 := s3.domsOff 0 ((List.range 31 |>.map (· + 1)).filter fun d => d != 4 && d != 5)
  let s5 := (s4.lanesLost.writeLoss trigger).raise 0x1020 3 (u32 trigger)
  if s5.flash.running.isSome then s5 else (s5.setDom 4 .off).setDom 5 .off

/-- HOLDUP_EXHAUSTED: the hold-up energy falls to 100 mJ while the input switch is open. -/
def doHoldupExhausted (t : Time) (s0 : State) : State :=
  let s := s0.at t
  if s.pwr.switchOpen ∧ !s.pwr.losing ∧ s.pwr.state ≠ .off then s.supplyLoss 1 else s

/-- VIN_SHUTDOWN_FALL: VIN falls through the shut-down threshold. -/
def doVinShutdownFall (t : Time) (s0 : State) : State :=
  let s := s0.at t
  if !s.pwr.losing ∧ s.pwr.state ≠ .off then s.supplyLoss 2 else s

/-! ### Commands -/

/-- VIN_LOW (R32). -/
def execVinLow (t : Time) (s : State) : Host.Outcome State Fault Refusal := .next (doVinLow t s)

/-- VIN_RESUME_RISE (R32). -/
def execVinResumeRise (t : Time) (s : State) : Host.Outcome State Fault Refusal := .next (doVinResumeRise t s)

/-- VIN_HIGH (R32). -/
def execVinHigh (t : Time) (s : State) : Host.Outcome State Fault Refusal := .next (doVinHigh t s)

/-- INPUT_SWITCH_CLOSE (R32). -/
def execInputSwitchClose (t : Time) (s : State) : Host.Outcome State Fault Refusal := .next (doInputSwitchClose t s)

/-- HOLDUP_EXHAUSTED (R302). -/
def execHoldupExhausted (t : Time) (s : State) : Host.Outcome State Fault Refusal := .next (doHoldupExhausted t s)

/-- VIN_SHUTDOWN_FALL (R302). -/
def execVinShutdownFall (t : Time) (s : State) : Host.Outcome State Fault Refusal := .next (doVinShutdownFall t s)

/-- THERMAL_UPDATE (R304). -/
def execThermalUpdate (t : Time) (x : HeatIn) (s : State) : Host.Outcome State Fault Refusal := .next (doThermalUpdate t x s)

/-- THERMAL_FORCED_DOZE (R308). -/
def execThermalForcedDoze (t : Time) (s : State) : Host.Outcome State Fault Refusal := .next (doThermalForcedDoze t s)

/-- THERMAL_RESTART (R308). -/
def execThermalRestart (t : Time) (s : State) : Host.Outcome State Fault Refusal := .next (doThermalRestart t s)

/-- XTAL_COMP (R310). -/
def execXtalComp (t : Time) (s : State) : Host.Outcome State Fault Refusal := .next (doXtalComp t s)

end Sys2Proof.Machine
end

