-- ==== Sys2Proof/Machine/Housekeeping.lean ====
section
/-! DEFINITION. The housekeeping ADC (R204, R210 to R214): its results and what each feeds (mirror temperature, anchors, bank and hold-up
voltages), and its self-calibration. -/

namespace Sys2Proof.Machine

open Sys2Proof

/-! ### Mirror temperature (R204) -/

/-- What a result of input 0 is: open, short or a reading. -/
inductive Ntc
  | opened
  | short
  | reading (tenths : Int)
  deriving DecidableEq, Repr

/-- T_M in 0.1 °C: 1 / (1 / 298.15 K + ln(R_ntc / NTC_RES_25C) / NTC_BETA) − 273.15 K with R_ntc = 10 kΩ × r / (1 − r).
DESIGN CHOICE: log entry 59. -/
def ntcTenths (result res25 beta : Nat) : Int :=
  let q : Rat := 20 / 5963 + (lnFix ((10000 * result : Nat) / ((1048576 - result) * res25 : Nat)) : Rat) / (2 ^ 64 * beta : Nat)
  let t := roundHalfUp (10 / q - 2731.5)
  if 0 < q ∧ -32767 ≤ t ∧ t ≤ 32767 then t else (Config.mirrorTemp result res25 beta).toInt

/-- A result of input 0: open from r = 0.990099, short up to r = 0.009901. -/
def ntcOf (result res25 beta : Nat) : Ntc :=
  if 990099 * 1048576 ≤ result * 1000000 then .opened
  else if result * 1000000 ≤ 9901 * 1048576 then .short
  else .reading (ntcTenths result res25 beta)

/-- What a reading of the thermistor does: the latest valid T_M, NTC_FAULT and NTC_RESTORED. -/
def State.ntcJudge (s : State) (reading : Ntc) : State :=
  match reading with
  | .reading v =>
    let s1 : State := { s with hka := { s.hka with mirror := some (v, s.now), ntcBad := false } }
    if s.hka.ntcBad then s1.raise 0x4007 0 (u32i v) else s1
  | bad =>
    let s1 : State := { s with hka := { s.hka with ntcBad := true } }
    if s.hka.mirror.isSome && !s.hka.ntcBad then s1.raise 0x4006 2 (u32 (if bad = .opened then 1 else 2)) else s1

/-- A result of input 0. -/
def State.ntcResult (s : State) (result : Nat) : State :=
  s.ntcJudge (ntcOf result (s.cfgN Id.NTC_RES_25C) (s.cfgN Id.NTC_BETA))

/-! ### The other inputs (Table 09.10) -/

/-- Millivolts of a result behind a divider: 2.5 V / 2^20 per count times the divider, rounded to the nearest. -/
def hkMillivolts (result divider : Nat) : Nat := (result * 2500 * divider + 524288) / 1048576

/-- Capacitance in µF from the time of a charge from 12 V to 24 V: 50 mA × Δt / 12 V, rounded to the nearest (R332).
DEDUCED: log entry 92. -/
def holdupMicrofarads (dt : Time) : Nat := (dt + 3840000) / 7680000

/-- A result of input 2: the hold-up bank's voltage; a charge from below 12 V to 24 V measures its capacitance (R332).
DEDUCED: log entry 92. -/
def State.holdupResult (s : State) (mv : Nat) : State :=
  let s1 : State := { s with flash := { s.flash with holdupMv := mv } }
  if mv < 12000 then { s1 with flash := { s1.flash with chargeFrom := some s.now } }
  else match s.flash.chargeFrom with
    | some t =>
      if 24000 ≤ mv then
        let c := min 65535 (holdupMicrofarads (s.now - t))
        let s2 : State := { s1 with flash := { s1.flash with capacitance := c, chargeFrom := none } }
        if c < 376 then s2.raise 0x7007 1 (u32 c) else s2
      else s1
    | none => s1

/-- A result of inputs 4 to 6: the reading of an anchor (R304, R305). -/
def State.anchorResult (s : State) (i result : Nat) : State :=
  { s with therm := { s.therm with anchors := setAt s.therm.anchors i (some ((Config.diodeTemp (i + 4) result).toInt, s.now)) } }

/-- The correction of a raw sum: clamp(round((raw − offset) × gain / 2^20), 0, 0xF_FFFF) (R212). -/
def Hka.correct (h : Hka) (raw : W20) : Nat :=
  (clampInt 0 0xFFFFF (roundHalfUp (((raw.toNat : Int) - h.offset) * h.gain / 1048576))).toNat

/-- The next place of HK_SEQUENCE: after the last entry before the terminator, the first (R211). DEDUCED: log entry 58. -/
def nextPlace (seq : Bytes) (pos : Nat) : Nat :=
  let n := (seq.takeWhile (· != 0xFF)).length
  if pos + 1 < n then pos + 1 else 0

/-- The next conversion begins: its input and its mode. DEDUCED: log entry 58. -/
def State.hkNext (s : State) : State :=
  let seq := s.conf.bytes Id.HK_SEQUENCE
  let p := nextPlace seq s.hka.pos
  { s with hka := { s.hka with pos := p, input := u8At seq p, lowPower := s.hkLow } }

/-- A result of input 3: the bank's voltage. -/
def State.bankResult (s : State) (mv : Nat) : State := { s with emit := { s.emit with bankMv := mv } }

/-- What a corrected result of an input feeds. -/
def State.hkFeed (s : State) (input result : Nat) : State :=
  if input = 0 then s.ntcResult result
  else if input = 2 then s.holdupResult (hkMillivolts result 16)
  else if input = 3 then s.bankResult (hkMillivolts result 80)
  else if 4 ≤ input ∧ input ≤ 6 then s.anchorResult (input - 4) result
  else s

/-- HK_RESULT: a conversion of the input in progress completes; during a self-calibration none is delivered (R211, R212). A flash group
that waits for its checks is judged again. -/
def doHkResult (t : Time) (raw : W20) (s0 : State) : State :=
  let s := s0.at t
  if s.isOn 14 && s.hka.calTicket.isNone then
    let input := s.hka.input
    let v := s.hka.correct raw
    let s1 : State := { s with hka := { s.hka with results := setAt s.hka.results input (some v) } }
    ((s1.hkFeed input v).hkNext).flashKick
  else s

/-! ### Self-calibration (R212) -/

/-- HK_CALIBRATE: a self-calibration starts, or waits for the running one. -/
def hkCalibrateAction (k : U32) (s : State) : State :=
  if s.hka.calTicket.isNone then { s with hka := { s.hka with calState := 1, calTicket := some k } }
  else s.enqueue { obj := Id.HK_CALIBRATE, num := k, value := 1 }

/-- The next ticket of HK_CALIBRATE starts. -/
def State.hkCalNext (s : State) : State := match s.queued Id.HK_CALIBRATE with
  | k :: _ => hkCalibrateAction k.num (s.dequeue k.num)
  | [] => s

/-- HK_CAL_DONE: the factors of the 8 results of input 14 and the 8 of input 15, kept where the offset lies within ±4096 and the gain
within 2^20 ± 2 %. DESIGN CHOICE: log entry 59. -/
def doHkCalDone (t : Time) (sum14 sum15 : Nat) (s0 : State) : State :=
  let s := s0.at t
  match s.hka.calTicket with
  | some k =>
    if s.isOn 14 then
      let offset := roundHalfUp ((sum14 : Rat) / 8)
      let span : Rat := (sum15 : Rat) / 8 - offset
      let drawn := s.draw
      let gain : Int := if span = 0 then Config.freeNat drawn.2 else roundHalfUp ((1048576 * 838861 : Nat) / span)
      let base : State := if span = 0 then drawn.1 else s
      let ok := span != 0 && decide (offset.natAbs ≤ 4096) && decide ((gain - 1048576).natAbs * 100 ≤ 2 * 1048576)
      let hka : Hka :=
        if ok then { s.hka with offset, gain := gain.toNat, calState := 2, calTicket := none }
        else { s.hka with calState := 3, calTicket := none }
      let s1 : State := { base with hka }
      let s2 := if ok then s1.raise 0x4008 0 (u32i offset) (u32i gain) 0 k else s1.raise 0x4009 3 (u32i offset) (u32i gain) 0 k
      s2.hkCalNext
    else s
  | none => s

/-- HK_STATE: 0 off, 1 normal, 2 low power. -/
def State.hkState (s : State) : Nat := if !s.isOn 14 then 0 else if s.hka.lowPower then 2 else 1

/-- HK_RESULTS: 16 × U32, 0xFFFF_FFFF where the input has not been converted since wake. -/
def Hka.resultsBytes (h : Hka) : Bytes := (h.results.map fun r => le 4 (r.getD 0xFFFFFFFF)).flatten

/-! ### Commands -/

/-- HK_RESULT (R211). -/
def execHkResult (t : Time) (raw : W20) (s : State) : Host.Outcome State Fault Refusal := .next (doHkResult t raw s)

/-- HK_CAL_DONE (R212). -/
def execHkCalDone (t : Time) (sum14 sum15 : Nat) (s : State) : Host.Outcome State Fault Refusal := .next (doHkCalDone t sum14 sum15 s)

end Sys2Proof.Machine
end

