-- ==== Sys2Proof/Machine/Objects.lean ====
section
/-! DEFINITION. What the objects of the dictionary read as (the object tables of every chapter): calibrated and factory values, live and
status values, the values of a session, and the domain that serves an object (R298). -/

namespace Sys2Proof.Machine

open Sys2Proof

/-- Object values by id, each computed when it is asked for. -/
abbrev Reads := List (Nat × (Unit → Bytes))

/-- The value that a table of reads holds for an object. -/
def Reads.get (l : Reads) (id : Nat) : Bytes := ((l.find? fun p => p.1 == id).map fun p => p.2 ()).getD []

/-- Little-endian U8, U16, U32 values, saturating at the type's largest. -/
def rd8 (v : Nat) : Bytes := le 1 (min 255 v)

/-- As rd8. -/
def rd16 (v : Nat) : Bytes := le 2 (min 65535 v)

/-- As rd8. -/
def rd32 (v : Nat) : Bytes := le 4 (min 4294967295 v)

/-! ### Events -/

/-- The 32 bytes of an event entry (Table 03.12); lost sets FLAGS[1]. -/
def Event.bytes (e : Event) (lost : Bool) : Bytes :=
  le 4 e.seq.toNat ++ le 8 e.time.toNat ++ le 2 e.code.toNat ++ [e.severity] ++ le 1 (b2n e.unsync + 2 * b2n lost) ++
    le 4 e.ticket.toNat ++ le 4 e.p1.toNat ++ le 4 e.p2.toNat ++ le 4 e.p3.toNat

/-- EVENT_RING: entry s at offset 32 × (s mod 256) (R77). -/
def Evt.ringBytes (x : Evt) : Bytes :=
  ((List.range 256).map fun i => match x.ring.find? fun e => e.seq.toNat % 256 == i with
    | some e => e.bytes false
    | none => zeros 32).flatten

/-! ### Calibrated and factory values (R361, Tables 15.5 and 15.6) -/

/-- BAR_BINNING: U16 V0, R, S and Ith for each bar (R124). -/
def Factory.binningBytes (f : Factory) : Bytes :=
  ((List.range 16).map fun b =>
    let x := f.bar b
    rd16 x.1 ++ rd16 x.2.1 ++ rd16 x.2.2.1 ++ rd16 x.2.2.2).flatten

/-- Objects that hold factory values or calibration results. -/
def State.facReads (s : State) : Reads :=
  let v := s.cal.vals
  [(Id.MAC_ADDRESS, fun _ => s.fac.mac),
   (Id.BAR_BINNING, fun _ => s.fac.binningBytes),
   (Id.TDC_SKEW, fun _ => (v.skew.map (leInt 2)).flatten),
   (Id.TIN_SKEW, fun _ => (v.tin.map (leInt 2)).flatten),
   (Id.FACTORY_FLEET_CODE, fun _ => le 4 (s.fac.serial.toNat % 262144)),
   (Id.PHASE_DELAY, fun _ => (s.fac.phaseDelay.map rd16).flatten),
   (Id.HK_CAL_OFFSET, fun _ => leInt 4 s.hka.offset),
   (Id.HK_CAL_GAIN, fun _ => rd32 s.hka.gain),
   (Id.SCALE_ACTIVE, fun _ => leInt 4 v.scale),
   (Id.ZERO_ACTIVE, fun _ => leInt 4 v.zero),
   (Id.SCALE_TRACE, fun _ => leInt 4 v.scaleTrace),
   (Id.RESIDUAL_TRACE, fun _ => leInt 4 v.residual),
   (Id.ZERO_OFFSET_TRACE, fun _ => leInt 4 v.offset),
   (Id.ZERO_PATH_LAST, fun _ => leInt 4 v.path),
   (Id.PSD_GAIN_TRIM, fun _ => (v.psd.map (leInt 4)).flatten),
   (Id.TRACE_RECORD, fun _ => v.record),
   (Id.BLOCKS_BAD_FACTORY, fun _ => rd16 s.fac.badBlocks),
   (Id.ROLLBACK_COUNTER, fun _ => rd8 s.flash.rollback)]

/-! ### Network, security, Lock and event objects -/

/-- Seconds of BACKOFF left, rounded up. -/
def State.backoffLeft (s : State) : Nat := match s.sec.backoff with
  | some e => cdiv (e - s.now) (Sys2Proof.sec 1)
  | none => 0

/-- SESSION_TABLE: the four UDP sessions, then the CAN session (R358). -/
def State.sessionTable (s : State) : Bytes :=
  let entry := fun (o : Option Session) => match o with
    | some x => [x.num] ++ rd8 x.role ++ rd8 (s.classOf x.role) ++ le 1 (b2n (x.transport == .can)) ++ le 4 x.rxFresh
    | none => zeros 8
  ([1, 2, 3, 4].map fun n => entry (s.session? .udp (BitVec.ofNat 8 n))).flatten ++ entry (s.session? .can 1)

/-- Objects of 0x1100 to 0x1400. -/
def State.baseReads (s : State) (x : Session) : Reads :=
  [(Id.GPTP_STATE, fun _ => rd8 s.net.gptp),
   (Id.GPTP_OFFSET, fun _ => leInt 4 s.net.offset),
   (Id.SECURITY_STATE, fun _ => rd8 s.securityByte),
   (Id.KEY_STATE, fun _ => rd8 s.keyState),
   (Id.SESSION_TABLE, fun _ => s.sessionTable),
   (Id.BACKOFF_LEVEL, fun _ => rd8 s.sec.level),
   (Id.BACKOFF_REMAINING, fun _ => rd32 s.backoffLeft),
   (Id.LOCK_STATE, fun _ => rd8 x.lock.phase.code),
   (Id.LOCK_ID, fun _ => le 4 x.lock.id.toNat),
   (Id.LOCK_STAGED_OBJECTS, fun _ => rd16 x.lock.staged.length),
   (Id.LOCK_STAGED_BYTES, fun _ => rd32 (sumNat (x.lock.staged.map fun p => p.2.length))),
   (Id.LOCK_APPLIED_ID, fun _ => le 4 s.baspo.appliedId.toNat),
   (Id.LOCK_APPLIED_FRAME, fun _ => le 4 s.baspo.appliedFrame.toNat),
   (Id.LOCK_PERSIST_RESULT, fun _ => rd8 s.flash.persist),
   (Id.LOCK_DETAIL_COUNT, fun _ => rd8 s.baspo.details.length),
   (Id.EVENT_LAST_SEQ, fun _ => le 4 s.evt.seq.toNat),
   (Id.EVENT_RING, fun _ => s.evt.ringBytes)] ++
  (List.range 8).map fun i => (Id.LOCK_DETAIL_1 + i, fun _ => le 4 (s.baspo.details.getD i 0).toNat)

/-! ### Power, thermal and lane objects -/

/-- POWER_ENTRY (Table 14.14). DEDUCED: log entry 78. -/
def Entry.code (e : Entry) : Nat :=
  if e.step = 0 then 1 else if e.step = 1 then 2 else if e.step < 5 then 3 else if e.step < 7 then 4 else 5

/-- DOMAIN_STATE of a domain. -/
def DomState.code : DomState → Nat
  | .off => 0
  | .on => 1
  | .held => 2
  | .failed => 3

/-- DEVICE_STATE: BECALMED, degraded while a domain is FAILED, or normal (R301). -/
def State.deviceState (s : State) : Nat :=
  if s.isBecalmed then 2 else if s.pwr.doms.any (· == .failed) then 1 else 0

/-- POWER_MEASURED: the mean of the latest 100 ms, mW. -/
def Pwr.measured (p : Pwr) : Nat := sumNat p.inputs / max 1 p.inputs.length

/-- LEASE_REMAINING in µs. -/
def State.leaseLeft (s : State) : Nat := if s.arb.holder.isNone then 0 else (s.leaseEnd - s.now) / usec 1

/-- Objects of 0x2000 to 0x2200. DEDUCED: log entry 78. -/
def State.powerReads (s : State) : Reads :=
  [(Id.POWER_STATE, fun _ => rd8 s.pwr.state.code),
   (Id.POWER_ENTRY, fun _ => rd8 ((s.pwr.entry.map Entry.code).getD 0)),
   (Id.POWER_TARGET, fun _ => rd8 ((s.pwr.entry.map fun e => e.target.code).getD 255)),
   (Id.LAST_WAKE_CAUSE, fun _ => rd8 s.pwr.lastWake),
   (Id.DEVICE_STATE, fun _ => rd8 s.deviceState),
   (Id.BECALMED_CAUSE, fun _ => rd8 s.pwr.becalmed),
   (Id.POWER_MODELLED, fun _ => rd32 (s.conf.powerModelled s.emit.retired.toNat)),
   (Id.POWER_MEASURED, fun _ => rd32 s.pwr.measured),
   (Id.DOMAIN_STATE, fun _ => (s.pwr.doms.map fun d => rd8 d.code).flatten),
   (Id.DOMAIN_FAIL_CAUSE, fun _ => (s.pwr.causes.map rd8).flatten),
   (Id.PAD_LATCH_STATE, fun _ => rd8 s.pwr.pads.toNat),
   (Id.THERMAL_NODES, fun _ => (s.therm.temps.map fun t => leInt 2 (sat16 (tenths t))).flatten),
   (Id.THERMAL_LEVEL, fun _ => rd8 s.therm.level),
   (Id.THERMAL_FLAGS, fun _ => le 4 s.therm.flags.toNat),
   (Id.THROTTLE_LEVEL, fun _ => rd8 s.therm.throttle.applied.toNat),
   (Id.COOLDOWN_REMAINING, fun _ => rd32 s.cooldownLeft),
   (Id.XTAL_COMP, fun _ => leInt 4 s.therm.xtal),
   (Id.LANE_STATE_A, fun _ => rd8 s.laneA.state.code),
   (Id.LANE_STATE_B, fun _ => rd8 s.laneB.state.code),
   (Id.LEASE_HOLDER, fun _ => rd8 ((s.arb.holder.map LaneId.num).getD 255)),
   (Id.REJOINS_LEFT, fun _ => rd8 s.arb.rejoinsLeft),
   (Id.TOWPATH_STATE, fun _ => rd8 s.arb.towpath),
   (Id.MISMATCH_WINDOW, fun _ => le 2 s.arb.window.toNat),
   (Id.SELFTEST_LAST, fun _ => s.arb.selftestLast),
   (Id.RELEASED_COLUMN, fun _ => le 4 s.arb.released.toNat),
   (Id.LEASE_REMAINING, fun _ => rd32 s.leaseLeft)]

/-! ### Scan, plan and emitter objects -/

/-- Objects of 0x3000 to 0x3210. -/
def State.scanReads (s : State) : Reads :=
  [(Id.FRAME_PERIOD, fun _ => rd32 ((s.conf.columns * s.conf.cNom + s.conf.flyback) / 32)),
   (Id.COLUMN_PERIOD_ACTIVE, fun _ => rd32 s.scan.period),
   (Id.FRAME_COUNTER, fun _ => le 4 s.scan.frame.toNat),
   (Id.FSYNC_STATE, fun _ => rd8 s.scan.phasing.code),
   (Id.FSYNC_PERIOD, fun _ => rd32 ((s.scan.fsyncPeriod + 16) / 32)),
   (Id.FSYNC_PHASE_ERROR, fun _ => leInt 4 (roundHalfUp s.scan.phaseError)),
   (Id.CAMERA_INDEX, fun _ => le 4 s.scan.camera.toNat),
   (Id.PLAN_ACTIVE_TAG, fun _ => le 4 (planTag s.activePlan.image).toNat),
   (Id.PLAN_ACTIVE_BUFFER, fun _ => rd8 s.scan.active),
   (Id.PLAN_SWAP_FRAME, fun _ => le 4 s.scan.swapFrame.toNat),
   (Id.PLAN_SWAP_CAMERA, fun _ => le 4 s.scan.swapCamera.toNat),
   (Id.USABLE_SLOTS, fun _ => rd8 s.conf.usable),
   (Id.BANK_VOLTAGE, fun _ => rd16 (s.emit.bankMv / 100)),
   (Id.BANK_STATE, fun _ => rd8 s.emit.bankState),
   (Id.BAR_RETIRED, fun _ => le 2 s.emit.retired.toNat),
   (Id.BAR_PAIRED, fun _ => le 2 s.emit.paired.toNat),
   (Id.DERATE_APPLIED, fun _ => rd8 s.emit.derate.applied.toNat),
   (Id.EMIT_TJ_MODEL, fun _ => leInt 2 (sat16 (tenths (s.therm.temps.getD 3 0)))),
   (Id.BAR_TEST_LAST, fun _ => (s.emit.barLast.map fun p => rd16 p.1 ++ rd16 p.2).flatten),
   (Id.BAR_SHUNT_TABLE, fun _ => s.emit.shunts),
   (Id.EMIT_ENABLE_STATE, fun _ => rd8 s.emit.enable),
   (Id.EMIT_TRIP_ACTIVE, fun _ => le 2 s.emit.active.toNat),
   (Id.EMIT_TRIP_LATCH, fun _ => le 2 s.emit.latch.toNat),
   (Id.EMIT_TRIP_FIRST, fun _ => [s.emit.first]),
   (Id.FRAME_ENERGY_LIMIT, fun _ => rd32 (s.conf.eLimit / 1000)),
   (Id.FRAME_ENERGY_LAST, fun _ => rd32 (s.emit.accLast / 1000)),
   (Id.BAR_BUCKET_RATE, fun _ => rd16 600),
   (Id.BAR_BUCKET_DEPTH, fun _ => rd16 120),
   (Id.CAL_WINDOW_ALLOWANCE, fun _ => rd16 250),
   (Id.EMITTER_CAP_RESULT, fun _ => s.emit.capResult)]

/-! ### Receiver, timing input, bus and echo objects -/

/-- BAND_STATE of a band. -/
def BandState.code : BandState → Nat
  | .off => 0
  | .ok => 1
  | .degraded => 2
  | .failed => 3

/-- TIN_STATE: [3:0] record open per input, [4] GATE high and accepted. -/
def Tin.stateCode (x : Tin) : Nat :=
  maskOf 4 (fun i => (x.inputs[i]?.bind (·.openRec)).isSome) + 16 * b2n x.gate

/-- TIN_LAST_EDGE: U64 time, U8 FINE, U8 polarity, U16 zero for each input (R149). -/
def Tin.lastEdges (x : Tin) : Bytes :=
  (x.inputs.map fun i => timeBytes i.lastEdge.1 ++ le 1 (b2n i.lastEdge.2) ++ zeros 2).flatten

/-- BUS_DELAY: 16 × I16 by position, 0x7FFF not valid (R188). -/
def State.busDelays (s : State) : Bytes :=
  ((List.range 16).map fun p => match (s.peer p).delay with
    | some d => leInt 2 (clampInt (-32768) 32766 d)
    | none => le 2 0x7FFF).flatten

/-- Objects of 0x3300 to 0x3600. -/
def State.rangeReads (s : State) : Reads :=
  [(Id.CHANNEL_MASK_TEST, fun _ => le 64 s.rx.maskTest.toNat),
   (Id.BAND_STATE, fun _ => (s.rx.bands.map fun b => rd8 b.state.code).flatten),
   (Id.BAND_COINC, fun _ => (s.rx.bands.map fun b => rd8 b.depthLast).flatten),
   (Id.BAND_AMBIENT, fun _ => (s.rx.bands.map fun b => rd32 b.lambda).flatten),
   (Id.BAND_TEST_LAST, fun _ => (s.rx.bands.map fun b => rd32 b.testLast.1 ++ rd16 b.testLast.2.1 ++ rd16 b.testLast.2.2).flatten),
   (Id.TIN_STATE, fun _ => rd8 s.tin.stateCode),
   (Id.TIN_LAST_EDGE, fun _ => s.tin.lastEdges),
   (Id.TIN_RECORD_SEQ, fun _ => le 4 s.tin.seq.toNat),
   (Id.BUS_STATE, fun _ => rd8 s.bus.state),
   (Id.BUS_CLOCK_SOURCE, fun _ => rd8 (b2n s.bus.onClk)),
   (Id.BUS_PEERS, fun _ => rd16 (sumNat (s.peersNow.map (2 ^ ·)))),
   (Id.BUS_DELAY, fun _ => s.busDelays),
   (Id.ENGINE_BUDGET, fun _ => rd32 s.conf.engineBudget),
   (Id.LANE_AMBIENT, fun _ => (s.rx.bands.map fun b => rd32 b.laneEst).flatten),
   (Id.ECHO_STORE_FRAMES, fun _ => rd8 (2048 / s.conf.columns)),
   (Id.FEMON_CLEAR_RANGE, fun _ => rd32 s.conf.clearRange)]

/-! ### Front end, housekeeping and control objects -/

/-- SWITCH_STATE (Table 09.12). -/
def Front.switches (f : Front) : Nat :=
  b2n f.inWindow + 2 * b2n f.overtravel + 4 * b2n f.stall + 8 * b2n f.unsettled + 16 * b2n f.parkLatch

/-- Objects of 0x4000 to 0x4400. -/
def State.mirrorReads (s : State) : Reads :=
  [(Id.TIA_RANGE_ACTIVE, fun _ => rd8 s.front.range),
   (Id.FE_BREAK_LATCH, fun _ => le 1 s.front.breakLatch.toNat),
   (Id.PSD_PEAK, fun _ => rd32 s.front.peakLast.1 ++ rd32 s.front.peakLast.2),
   (Id.FILTER_LATENCY, fun _ => rd32 s.fac.filterLatency),
   (Id.MIRROR_TEMP, fun _ => leInt 2 ((s.hka.mirror.map (·.1)).getD (-32768))),
   (Id.SWITCH_STATE, fun _ => rd8 s.front.switches),
   (Id.LAST_SAMPLE, fun _ => s.front.last),
   (Id.HK_RESULTS, fun _ => s.hka.resultsBytes),
   (Id.HK_CAL_STATE, fun _ => rd8 s.hka.calState),
   (Id.HK_STATE, fun _ => rd8 s.hkState),
   (Id.CONTROL_MODE, fun _ => rd8 s.engine.mode.code),
   (Id.GAIN_SET_ACTIVE, fun _ => rd8 s.engine.gainSet),
   (Id.ERROR_LAST, fun _ => leInt 4 s.engine.errorLast),
   (Id.OUTPUT_LAST, fun _ => leInt 2 s.engine.outLast),
   (Id.CYCLE_COST, fun _ => rd16 s.conf.cycleCost),
   (Id.SAMPLE_BUDGET, fun _ => rd16 s.conf.sampleBudget.toNat),
   (Id.HANDOVER_LOG, fun _ => s.engine.log),
   (Id.COIL_STATE, fun _ => rd8 s.coil.state),
   (Id.SETPOINT_LAST, fun _ => leInt 4 s.engine.setpoint.1 ++ leInt 4 s.engine.setpoint.2.1 ++ leInt 4 s.engine.setpoint.2.2),
   (Id.PROFILE_PEAKS, fun _ => s.conf.profilePeaks)]

/-! ### Capture, stream and coding objects -/

/-- Objects of 0x5000 to 0x5200, but for the readout of segments. -/
def State.streamReads (s : State) (x : Session) : Reads :=
  [(Id.CAP_STATE, fun _ => rd8 s.cap.state),
   (Id.CAP_RECORD_SIZE, fun _ => rd32 s.conf.recordSize),
   (Id.CAP_SEGMENT_SLOTS, fun _ => rd16 s.conf.segmentSlots),
   (Id.CAP_HELD, fun _ => rd16 s.cap.held.length),
   (Id.CAP_OLDEST, fun _ => le 4 ((s.cap.held.head?.map fun g => g.num.toNat).getD 0)),
   (Id.CAP_NEWEST, fun _ => le 4 s.cap.newest.toNat),
   (Id.SLOTS_CAPTURE, fun _ => rd8 s.conf.captureSlots),
   (Id.CAP_READ_SELECT, fun _ => le 4 x.readSelect.toNat),
   (Id.STREAM_SUBSCRIBERS, fun _ => s.subscriberTable),
   (Id.STREAM_BUFFER_USED, fun _ => rd32 s.bufferUsed),
   (Id.STREAM_LINK_LOAD, fun _ => rd16 s.conf.linkLoad),
   (Id.SLOTS_STREAM, fun _ => rd8 s.conf.streamSlots),
   (Id.MARK_SEQ, fun _ => le 4 s.stream.markSeq.toNat),
   (Id.WEIR_LAST_DROP, fun _ => le 4 s.stream.lastDrop.toNat),
   (Id.CODE_VIEW, fun _ => (x.codeView.map (·.bytes)).getD []),
   (Id.CODE_VIEW_SOURCE, fun _ => le 4 ((x.codeView.map fun v => v.source.toNat).getD 0)),
   (Id.CODE_RATIO_LAST, fun _ => rd16 s.stream.ratio)]

/-! ### Calibration, storage and firmware objects -/

/-- ERASE_MEAN over the 4096 blocks, rounded down. -/
def State.eraseMean (s : State) : Nat := s.flash.eraseSum / 4096

/-- Objects of 0x6000 to 0x7100, but for the readout of recorder entries. -/
def State.storeReads (s : State) (x : Session) : Reads :=
  [(Id.CAL_STATE, fun _ => rd8 s.cal.stateCode),
   (Id.CAL_ANCHOR_LAST, fun _ => (s.cal.anchorLast.map (leInt 2)).flatten ++ zeros 2),
   (Id.CAL_SEQ, fun _ => le 4 s.cal.seq.toNat),
   (Id.CAL_STORE_STATE, fun _ => rd8 s.cal.store),
   (Id.HOLDUP_ENERGY, fun _ => rd16 s.holdupEnergy),
   (Id.HOLDUP_CAPACITANCE, fun _ => rd16 s.flash.capacitance),
   (Id.FLASH_STATE, fun _ => rd8 s.flashState),
   (Id.BLOCKS_RETIRED, fun _ => rd16 s.flash.retired),
   (Id.SPARE_BLOCKS, fun _ => rd16 s.flash.spare),
   (Id.ERASE_MAX, fun _ => rd32 s.flash.eraseMax),
   (Id.ERASE_MEAN, fun _ => rd32 s.eraseMean),
   (Id.SUPPLY_LOSS_LOG, fun _ => s.lossLog),
   (Id.VERSION_CURRENT, fun _ => le 4 s.flash.current.toNat),
   (Id.VERSION_LIST, fun _ => s.versionList),
   (Id.VERSION_STATE, fun _ => rd8 s.flash.versionState),
   (Id.REC_OLDEST, fun _ => le 4 ((s.flash.entries.head?.map fun e => e.seq.toNat).getD 0)),
   (Id.REC_NEWEST, fun _ => le 4 ((s.flash.entries.getLast?.map fun e => e.seq.toNat).getD 0)),
   (Id.REC_SELECT, fun _ => le 4 x.recSelect.toNat),
   (Id.FW_SLOT_STATE, fun _ => s.slotTable),
   (Id.FW_ACTIVE_SLOT, fun _ => rd8 s.flash.activeSlot),
   (Id.FW_UPDATE_STATE, fun _ => rd8 s.flash.update),
   (Id.FW_TRIAL_RESULT, fun _ => rd8 s.flash.trial)]

/-- Live and status values for a session. -/
def State.liveReads (s : State) (x : Session) : Reads :=
  s.baseReads x ++ s.powerReads ++ s.scanReads ++ s.rangeReads ++ s.mirrorReads ++ s.streamReads x ++ s.storeReads x

/-! ### Readout of segments and recorder entries (R261, R340) -/

/-- The segment that a session selected, or why it cannot be read. DEDUCED: log entry 27. -/
def State.selectedSegment (s : State) (x : Session) : Except Abort Segment := match s.findSegment x.readSelect with
  | some g => .ok g
  | none => .error (if x.readSelect ∈ s.cap.overwritten then .segmentOverwritten else .segmentUnknown)

/-- The recorder entry that a session selected, or why it cannot be read: it has been erased since, or nothing was selected.
DEDUCED: log entry 27. -/
def State.selectedEntry (s : State) (x : Session) : Except Abort RecEntry := match s.flash.entries.find? fun e => e.seq == x.recSelect with
  | some e => .ok e
  | none => .error (if x.recSource.isSome then .segmentOverwritten else .segmentUnknown)

/-- The value of an object as it stands, for a session. -/
def State.valueOf (s : State) (x : Session) (o : Obj) : Except Abort Bytes := match o.kind with
  | .cfg => .ok (s.conf.bytes o.id)
  | .const => .ok o.dflt
  | .fac => .ok (Reads.get s.facReads o.id)
  | .counter => .ok (rd32 (s.counter o.id))
  | .satBits => .ok (rd32 (s.satWord o.id))
  | .cmd => .ok []
  | .live =>
    if o.id = Id.CAP_READ_HEADER then (s.selectedSegment x).map Segment.header
    else if o.id = Id.CAP_READ_REDUCTIONS then (s.selectedSegment x).map fun g => g.reductions.flatten
    else if o.id = Id.CAP_READ_DATA then (s.selectedSegment x).map fun g => g.records.flatten
    else if o.id = Id.REC_READ_HEADER then (s.selectedEntry x).map RecEntry.header
    else if o.id = Id.REC_READ_DATA then (s.selectedEntry x).map RecEntry.data
    else .ok (Reads.get (s.liveReads x) o.id)

/-! ### The domain that serves an object (R298, R54, R169, R215, R235, R269) -/

/-- How an object is served: by AO, by a domain, or by none, which is off or FAILED. -/
inductive Serving
  | ao
  | dom (d : Nat)
  | off
  | failed
  deriving DecidableEq, Repr

/-- PAD_RELEASE acts in TIMX (R48); every other object lives where its table says. -/
def Obj.home (o : Obj) : Owner := if o.id = Id.PAD_RELEASE then .any [15] else o.owner

/-- Who serves an object now: the first of its domains that is on; the objects of both lanes are served from the lease holder. -/
def State.serving (s : State) (o : Obj) : Serving := match o.home with
  | .ao => .ao
  | .any doms =>
    let order := if doms = [6, 7] then [laneDom s.servingLane, laneDom (other s.servingLane)] else doms
    match order.find? s.isOn with
    | some d => .dom d
    | none => if doms.any fun d => s.dom d == .off then .off else .failed

/-- A configuration object: held in the shadow, whatever its domain (Table 14.8). -/
def Obj.shadowed (o : Obj) : Bool := o.kind == .cfg || o.kind == .fac

end Sys2Proof.Machine
end

