-- ==== Sys2Proof/Machine/Wire.lean ====
section
/-! DEFINITION. Baspo on the wire (R55, R58, R59, R68, R351): what the module checks of a message, and how its own messages are built,
numbered and kept for resending (R57). -/

namespace Sys2Proof.Machine

open Sys2Proof

/-! ### Messages -/

/-- Limits of a transport (R56, R62). -/
structure Limits where
  /-- Largest LENGTH, and longest value of a READ. -/
  payload : Nat
  /-- Largest count of a BLOCK_READ. -/
  count : Nat
  /-- Most data bytes of a BLOCK_WRITE segment. -/
  segment : Nat
  /-- Entries of a NOTIFY (R78). -/
  entries : Nat
  deriving DecidableEq, Repr

/-- The limits of UDP and CAN FD. -/
def limitsOf : Transport → Limits
  | .udp => { payload := 1024, count := 1020, segment := 1008, entries := 32 }
  | .can => { payload := 48, count := 40, segment := 32, entries := 1 }

/-- First 16 bytes of a UDP message (Table 03.3). -/
def udpHead (magic : U16) (version flags svc session : Byte) (length : Nat) (transaction fresh : U32) : Bytes :=
  le 2 magic.toNat ++ [version, flags, svc, session] ++ le 2 length ++ le 4 transaction.toNat ++ le 4 fresh.toNat

/-- CMAC input over CAN FD (R59). -/
def canInput (ident : Nat) (flags svc session : Byte) (length : Nat) (transaction fresh : U32) (body : Bytes) : Bytes :=
  le 2 ident ++ [flags, svc, session] ++ le 1 length ++ le 2 transaction.toNat ++ le 4 fresh.toNat ++ body

/-- A truncated CMAC (R351). -/
def tagOf (key msg : Bytes) : Bytes := (cmac key msg).take 8

/-- A message that the module sends over UDP. -/
def udpMessage (key : Option Bytes) (flags svc session : Byte) (transaction fresh : U32) (payload : Bytes) : Bytes :=
  let body := udpHead 0xBA50 1 flags svc session payload.length transaction fresh ++ payload
  body ++ (key.map fun k => tagOf k body).getD []

/-- The data bytes of a frame that the module sends over CAN FD (Table 03.4). -/
def canMessage (key : Option Bytes) (ident : Nat) (flags svc session : Byte) (transaction fresh : U32) (payload : Bytes) : Bytes :=
  let body := payload ++ zeros (48 - payload.length)
  let tag := (key.map fun k => tagOf k (canInput ident flags svc session payload.length transaction fresh body)).getD (zeros 8)
  [flags, svc, session] ++ le 1 payload.length ++ le 2 transaction.toNat ++ le 2 fresh.toNat ++ body ++ tag

/-- The message of a transport. -/
def wireMessage (tr : Transport) (key : Option Bytes) (ident : Nat) (flags svc session : Byte) (transaction fresh : U32)
    (payload : Bytes) : Bytes := match tr with
  | .udp => udpMessage key flags svc session transaction fresh payload
  | .can => canMessage key ident flags svc session transaction fresh payload

/-! ### Sending -/

/-- FRESHNESS and key of the next message in a session; without one the counter is not defined and FRESHNESS is free (R57).
DESIGN CHOICE: log entry 11. -/
def State.nextFresh (s : State) (tr : Transport) (num : Byte) : State × U32 × Option Bytes :=
  match (if num = 0 then none else s.session? tr num) with
  | some x => (s.modSession tr num fun y => { y with txFresh := y.txFresh + 1 }, u32 (x.txFresh + 1), some x.key)
  | none => ({ s with draws := s.draws + 1 }, Config.plainFreshness s.draws, none)

/-- A session whose counter in either direction has reached 0xFFFF_FFFF closes (R57). DEDUCED: log entry 10. -/
def State.freshLimit (s : State) (tr : Transport) (num : Byte) : State := match s.session? tr num with
  | some x => if 0xFFFFFFFF ≤ x.rxFresh ∨ 0xFFFFFFFF ≤ x.txFresh then s.closeSession tr num 3 else s
  | none => s

/-- Identifier of the module's messages over CAN FD: responses CAN_BASE_ID + 1, NOTIFY + 2 (R58). -/
def State.canIdent (s : State) (k : Nat) : Nat := s.cfgN Id.CAN_BASE_ID + k

/-- Put a Baspo message on its way: to an address and port over UDP, under an identifier over CAN FD. -/
def State.sendBaspo (s : State) (tr : Transport) (addr : BitVec 128) (port : U16) (ident : Nat) (bytes : Bytes) : State :=
  match tr with
  | .udp => s.send (.baspo .udp addr port bytes)
  | .can => s.send (.baspo .can 0 (BitVec.ofNat 16 ident) bytes)

/-- The request is the last one that its session accepted. -/
def Session.isLast (x : Session) (h : Hdr) : Bool :=
  x.anyRequest && x.rxFresh == h.freshness.toNat && x.lastTransaction == h.transaction

/-- Answer a request: one message, kept for resending where the request is the session's last one (R57, R61).
DEDUCED: log entry 9. -/
def State.answer (s : State) (h : Hdr) (svc flags : Nat) (payload : Bytes) : State :=
  let p := s.nextFresh h.transport h.session
  let s1 := p.1
  let ident := s1.canIdent 1
  let bytes := wireMessage h.transport p.2.2 ident (BitVec.ofNat 8 flags) (BitVec.ofNat 8 svc) h.session h.transaction p.2.1 payload
  let s2 := s1.sendBaspo h.transport h.addr h.port ident bytes
  let s3 := if h.session = 0 then s2
    else s2.modSession h.transport h.session fun x => if x.isLast h then { x with lastResponse := some bytes } else x
  if h.session = 0 then s3 else s3.freshLimit h.transport h.session

/-- What a service answers. -/
inductive Reply
  /-- A response with its SHADOW and STAGED flags. -/
  | ok (flags : Nat) (payload : Bytes)
  /-- An abort with its detail. -/
  | abort (a : Abort) (detail : Nat)
  /-- The crossing into a domain got no acknowledge: NO_RESPONSE, and the domain fails (R299). -/
  | silent (dom : Nat)
  /-- The response, after which the session closes. -/
  | closing
  /-- The response comes later. -/
  | later
  deriving DecidableEq, Repr

/-- Payload of an abort (R68). DEDUCED: log entry 28. -/
def abortBytes (a : Abort) (idx sub detail : Nat) : Bytes := le 4 a.code ++ le 2 idx ++ le 1 sub ++ [0] ++ le 4 detail

/-- Send what a service answers: exactly one response to a request (R61), then what follows it. DEDUCED: log entry 12. -/
def State.respond (s : State) (h : Hdr) (svc idx sub : Nat) : Reply → State
  | .ok fl p => s.answer h svc (0x80 + fl) p
  | .abort a d => s.answer h svc 0xC0 (abortBytes a idx sub d)
  | .silent d => (((s.answer h svc 0xC0 (abortBytes .noResponse idx sub 0)).count Id.NO_RESPONSES).domainFailed d 3)
  | .closing => (s.answer h svc 0x80 []).closeSession h.transport h.session 1
  | .later => s

/-! ### Receiving -/

/-- A message as received: its header with the freshness reconstructed, payload and tag split by LENGTH, and the CMAC input. -/
structure Rcvd where
  /-- Header; FRESHNESS is the full value, TRANSACTION a U16 over CAN. -/
  h : Hdr
  /-- The full FRESHNESS; above 2^32 − 1 where no value that fits is left. -/
  fresh : Nat
  /-- Payload. -/
  payload : Bytes
  /-- TAG. -/
  tag : Bytes
  /-- CMAC input. -/
  input : Bytes
  deriving DecidableEq, Repr

/-- The smallest value not below the last one accepted that ends in the low bits received (R59). DEDUCED: log entry 10. -/
def fullFresh (last low : Nat) : Nat := last + (low + 65536 - last % 65536) % 65536

/-- Take a message apart; raw is all that follows its header. -/
def Hdr.receive (h : Hdr) (svc : Byte) (raw : Bytes) (last : Nat) : Rcvd := match h.transport with
  | .udp =>
    let n := h.length.toNat
    { h, fresh := h.freshness.toNat, payload := raw.take n, tag := raw.drop n,
      input := udpHead h.magic h.version h.flags svc h.session n h.transaction h.freshness ++ raw.take n }
  | .can =>
    let n := h.length.toNat
    let body := (raw ++ zeros 48).take 48
    let f := fullFresh last (h.freshness.toNat % 65536)
    let tr : U32 := u32 (h.transaction.toNat % 65536)
    { h := { h with transaction := tr, freshness := u32 f }, fresh := f, payload := body.take n, tag := (h.tag ++ zeros 8).take 8,
      input := canInput h.dest.toNat h.flags svc h.session n tr (u32 f) body }

/-- The message reaches a module that serves Baspo on its transport (R54, R58, R65, Table 14.10). -/
def State.hears (s : State) (h : Hdr) : Bool := s.pwr.served && match h.transport with
  | .udp => s.isOn 2 && s.net.link && h.dest.toNat == s.cfgN Id.BASPO_PORT
  | .can => s.isOn 3 && !s.net.busOff && h.dest.toNat == s.cfgN Id.CAN_BASE_ID && h.dlc == 15

/-- R56 discards the message and counts it in BASPO_DROPPED; raw is all that follows its header. -/
def State.drops (s : State) (h : Hdr) (raw : Bytes) : Bool :=
  let n := h.length.toNat
  let frame := match h.transport with
    | .udp => h.magic != 0xBA50 || raw.length != n + (if h.session = 0 then 0 else 8)
    | .can => false
  frame || decide ((limitsOf h.transport).payload < n) || (h.session != 0 && (s.session? h.transport h.session).isNone) ||
    h.flags &&& 0x8F != 0

end Sys2Proof.Machine
end

