-- ==== Sys2Proof/Machine/Lock.lean ====
section
/-! DEFINITION. Lock transactions (R69 to R74, R76): opening, staging, commit, the end of equalization, timeout. The flip stands in
Scan.lean. -/

namespace Sys2Proof.Machine

open Sys2Proof

/-- An abort without detail that changes nothing. -/
def State.no (s : State) (a : Abort) : State × Reply := (s, .abort a 0)

/-- What a Lock that was abandoned answers (R71). -/
def Lock.gone (l : Lock) : Abort := if l.byTimeout then .lockTimeout else .lockNotOpen

/-- The timeout of an open Lock falls in the AO clock cycle of now or before it (R71). DEDUCED: log entry 18. -/
def Lock.expired (l : Lock) (now : Time) : Bool := l.isOpen && decide ((l.since + l.budget) / aoCycle ≤ now / aoCycle)

/-- Put configuration values over a store. -/
def putAll (f : Factory) (base : Store) (l : Store) : Store := l.foldl (fun st p => putCfg f st p.1 p.2) base

/-- The live configuration with a session's staging over it (R73). -/
def State.stagedConf (s : State) (x : Session) : Cfg := s.confOf (putAll s.fac s.cfg x.lock.staged)

/-- LOCK_CONTROL 1 (Table 03.8 step 1). -/
def State.lockOpen (s : State) (x : Session) : State × Reply := match x.lock.phase with
  | .absent | .abandoned =>
    let id := s.baspo.lockSeq + 1
    let l : Lock :=
      { phase := .opened, byTimeout := false, id, staged := [], budget := msec (s.cfgN Id.LOCK_TIMEOUT), since := s.now }
    let s1 : State := { s with baspo := { s.baspo with lockSeq := id } }
    (s1.modSession x.transport x.num fun y => { y with lock := l }, .ok 0 [])
  | .opened | .staged | .equalizing | .committed => s.no .lockBusy

/-- LOCK_CONTROL 4 (Table 03.8 step 9). -/
def State.lockAbandon (s : State) (x : Session) : State × Reply := match x.lock.phase with
  | .absent => s.no .lockNotOpen
  | .abandoned => s.no x.lock.gone
  | .equalizing | .committed => s.no .lockBusy
  | .opened | .staged => (s.abandonLock x.transport x.num 1, .ok 0 [])

/-- A staged Lock goes to EQUALIZING: its timeout stops, and the response waits (Table 03.8 step 3). -/
def State.lockEqualize (s : State) (h : Hdr) (svc : Nat) (x : Session) (persist : Bool) : State × Reply :=
  let k : Commit :=
    { transport := x.transport, num := x.num, id := x.lock.id, staged := x.lock.staged, persist, committed := false, moves := 0,
      counted := s.emit.restorePending, at_ := s.now, request := h, service := svc }
  let left := x.lock.since + x.lock.budget - s.now
  let s1 : State := { s with baspo := { s.baspo with commit := some k } }
  (s1.modSession x.transport x.num fun y => { y with lock := { y.lock with phase := .equalizing, budget := left } }, .later)

/-- LOCK_CONTROL 2, and 3 with PERSIST, in the order of R7 step 10; the checks of R76 come before equalization.
DEDUCED: log entry 18. -/
def State.lockCommit (s : State) (h : Hdr) (svc : Nat) (x : Session) (persist : Bool) : State × Reply :=
  if s.holdOff then s.no .stateConflict
  else if s.lockBusy then s.no .lockBusy
  else if x.lock.expired s.now then (s.abandonLock x.transport x.num 2).no .lockTimeout
  else match x.lock.phase with
    | .absent => s.no .lockNotOpen
    | .abandoned => s.no x.lock.gone
    | .opened => s.no .lockEmpty
    | .equalizing | .committed => s.no .lockBusy
    | .staged => match (if persist then s.flashCheck .commit else none) with
      | some a => s.no a
      | none => s.lockEqualize h svc x persist

/-- LOCK_CONTROL (Table 03.9): served at once, no ticket queued. DEDUCED: log entry 20. -/
def State.lockControl (s : State) (h : Hdr) (svc : Nat) (x : Session) (v : Nat) : State × Reply :=
  if v = 1 then s.lockOpen x else if v = 4 then s.lockAbandon x else s.lockCommit h svc x (v == 3)

/-- Stage a value (R72). -/
def State.stage (s : State) (x : Session) (o : Obj) (v : Bytes) : State × Reply := match x.lock.phase with
  | .absent => s.no .lockRequired
  | .abandoned => s.no x.lock.gone
  | .equalizing | .committed => s.no .lockBusy
  | .opened | .staged =>
    let st := put x.lock.staged o.id v
    if 1024 < st.length ∨ 262144 < sumNat (st.map fun p => p.2.length) then s.no .lockCapacity
    else (s.modSession x.transport x.num fun y => { y with lock := { y.lock with phase := .staged, staged := st } }, .ok 0x10 [])

/-- The session that asked for a commit, while it is open. DEDUCED: log entry 12. -/
def State.committer (s : State) (k : Commit) : Option Session := match s.session? k.transport k.num with
  | some x => if x.lock.id = k.id then some x else none
  | none => none

/-- Equalization fails (Table 03.8 step 5): back to STAGED with the rest of the timeout. A Lock whose session has closed is abandoned.
DEDUCED: log entry 19. -/
def State.lockFails (s : State) (k : Commit) (detail : Nat) : State :=
  let s1 : State := { s with baspo := { s.baspo with commit := none } }
  match s1.committer k with
  | some _ =>
    let s2 := s1.modSession k.transport k.num fun y => { y with lock := { y.lock with phase := .staged, since := s1.now } }
    s2.respond k.request k.service 0x1300 1 (.abort .lockValidation detail)
  | none => s1.raise 0xA302 0 k.id 3

/-- Equalization passes (Table 03.8 step 4): COMMITTED, the values go to the inactive banks; a rejoin under way restarts (R249).
DEDUCED: log entry 19. -/
def State.lockPasses (s : State) (k : Commit) : State :=
  let s1 : State := { s with baspo := { s.baspo with commit := some { k with committed := true, at_ := s.now } } }
  let s2 := s1.rejoinRestart
  match s2.committer k with
  | some _ =>
    (s2.modSession k.transport k.num fun y => { y with lock := { y.lock with phase := .committed } }).respond
      k.request k.service 0x1300 1 (.ok 0 [])
  | none => s2

/-- LOCK_EQUALIZATION_DONE: the checks of Table 03.10 on the configuration as it would stand after the flip (R73, R74).
DESIGN CHOICE: log entry 96. -/
def doLockEqualizationDone (t : Time) (s0 : State) : State :=
  let s := s0.at t
  match s.baspo.commit with
  | none => s
  | some k =>
    if k.committed then s
    else
      let c := s.confOf (putAll s.fac s.cfg k.staged)
      let p := c.checks s.conf (s.emit.retired &&& ~~~ k.counted).toNat (s.fadeCase c)
      let s1 := s.keepCap p.1
      let s2 : State := { s1 with baspo := { s1.baspo with details := (p.2.take 8).map u32 } }
      match p.2 with
      | d :: _ => s2.lockFails k d
      | [] => s2.lockPasses k

/-- LOCK_TIMEOUT: the timeout of an open Lock expires (Table 03.8 step 9). -/
def doLockTimeout (t : Time) (tr : Transport) (num : Byte) (s0 : State) : State :=
  let s := s0.at t
  match s.session? tr num with
  | some x => if x.lock.isOpen ∧ x.lock.since + x.lock.budget ≤ s.now then s.abandonLock tr num 2 else s
  | none => s

/-! ### Commands -/

/-- LOCK_EQUALIZATION_DONE (R73). -/
def execLockEqualizationDone (t : Time) (s : State) : Host.Outcome State Fault Refusal := .next (doLockEqualizationDone t s)

/-- LOCK_TIMEOUT (R71). -/
def execLockTimeout (t : Time) (tr : Transport) (session : Byte) (s : State) : Host.Outcome State Fault Refusal :=
  .next (doLockTimeout t tr session s)

end Sys2Proof.Machine
end

