-- ==== Sys2Proof/Machine/Access.lean ====
section
/-! DEFINITION. Accesses to objects in the order of R7: role, class, access code, transfer, domain, type, value, state and execution
(R4, R6, R66, R261, R290, R298, R353), and the block writes of R63. -/

namespace Sys2Proof.Machine

open Sys2Proof

/-! ### Reading -/

/-- What a read finds. -/
inductive Got
  /-- A value with its SHADOW and STAGED flags. -/
  | value (flags : Nat) (v : Bytes)
  /-- An abort. -/
  | no (a : Abort)
  /-- The crossing into a domain got no acknowledge. -/
  | silent (dom : Nat)
  deriving DecidableEq, Repr

/-- The class that data of a recorded source needs; D2 where nothing was selected (R261, R340). -/
def sourceClass (source : Option Nat) : Nat := if source = some 1 ∨ source = some 2 then 3 else 2

/-- The diagnostic class that a read of an object needs. -/
def Obj.readClass (o : Obj) (x : Session) : Nat :=
  if o.id = Id.CAP_READ_HEADER ∨ o.id = Id.CAP_READ_REDUCTIONS ∨ o.id = Id.REC_READ_HEADER then 1
  else if o.id = Id.CAP_READ_DATA then sourceClass x.readSource
  else if o.id = Id.REC_READ_DATA then sourceClass x.recSource
  else 0

/-- Steps 4 and 5 of R7 for a read; every role may read. -/
def State.readCheck (s : State) (x : Session) (o : Obj) : Option Abort :=
  if s.classOf x.role < o.readClass x then some .diagClass
  else if o.acc = .wo ∨ o.acc = .cmd then some .writeOnly
  else none

/-- In recovery only the objects of 0x7100 are served (R343). -/
def State.recoveryBars (s : State) (o : Obj) : Bool := s.pwr.recovery && o.id / 256 != 0x7100

/-- The object's value as it stands, under flags. -/
def State.live (s : State) (x : Session) (o : Obj) (flags : Nat) : Got :=
  if s.recoveryBars o then .no .stateConflict
  else match s.valueOf x o with
    | .ok v => .value flags v
    | .error a => .no a

/-- Read an object (R72, R298): the session's staged value, a constant of AO (R5), the live value or the shadow. -/
def State.fetch (s : State) (h : Hdr) (x : Session) (o : Obj) : Got := match find? x.lock.staged o.id with
  | some v => .value 0x10 v
  | none =>
    if o.kind = .const then s.live x o 0
    else match s.serving o with
      | .ao => s.live x o 0
      | .dom d => if h.noAck then .silent d else s.live x o 0
      | .off => if o.shadowed then s.live x o 0x20 else .no .domainOff
      | .failed => if o.shadowed then s.live x o 0x20 else .no .domainFailed

/-- Length of the value that a read would return; 0 where there is none. -/
def State.readLength (s : State) (x : Session) (o : Obj) : Nat := match find? x.lock.staged o.id with
  | some v => v.length
  | none => match s.valueOf x o with
    | .ok v => v.length
    | .error _ => 0

/-- READ (R62). -/
def State.readObject (s : State) (h : Hdr) (x : Session) (o : Obj) : Reply := match s.readCheck x o with
  | some a => .abort a 0
  | none =>
    if (limitsOf h.transport).payload < s.readLength x o then .abort .lengthLimit 0
    else match s.fetch h x o with
      | .value fl v => .ok fl v
      | .no a => .abort a 0
      | .silent d => .silent d

/-- BLOCK_READ: total length, then the data; none at or beyond the value's end (R62). -/
def State.blockRead (s : State) (h : Hdr) (x : Session) (o : Obj) (offset count : Nat) : Reply := match s.readCheck x o with
  | some a => .abort a 0
  | none =>
    if (limitsOf h.transport).count < count then .abort .lengthLimit 0
    else match s.fetch h x o with
      | .value fl v => .ok fl (le 4 v.length ++ slice v offset count)
      | .no a => .abort a 0
      | .silent d => .silent d

/-! ### Who may write -/

/-- FW_UPDATE and FW_IMAGE: the only objects that need INTEGRATOR in SEALED (R353). -/
def Obj.isFw (o : Obj) : Bool := o.id == Id.FW_UPDATE || o.id == Id.FW_IMAGE

/-- A write that needs INTEGRATOR by its object or, for CAL_REQUEST, by its code (Table 15.4). -/
def Obj.integrator (o : Obj) (v : Bytes) : Bool := o.role == 3 || (o.id == Id.CAL_REQUEST && v.length == 1 && decide (16 ≤ leNat v))

/-- The least role for a write (R66, R353, R354). -/
def State.writeRole (s : State) (o : Obj) (v : Bytes) : Nat :=
  if o.integrator v then 3 else if o.id = Id.KEY_WRITE ∧ s.sec.state ≠ 2 then 3 else 2

/-- Steps 2 to 5 of R7 for a write. -/
def State.writeCheck (s : State) (x : Session) (o : Obj) (v : Bytes) : Option Abort :=
  if s.sec.state = 2 ∧ o.integrator v ∧ !o.isFw then some .securityState
  else if x.role < s.writeRole o v then some .accessRole
  else if o.acc = .ro then some .readOnly
  else if o.acc = .rwl ∧ x.lock.phase = .absent then some .lockRequired
  else none

/-- The action writes flash for the host, so it fails while FLSH is FAILED (Table 14.10). DEDUCED: log entry 17. -/
def Obj.needsFlash (o : Obj) (v : Bytes) : Bool :=
  o.isFw || o.id == Id.SEC_PROVISION || o.id == Id.SEC_UNPROVISION || o.id == Id.SEC_SEAL || (o.id == Id.LOCK_CONTROL && leNat v == 3)

/-- Domains of the bands whose rows a CHANNEL_UNMASK names. -/
def State.unmaskDoms (s : State) (value : Nat) : List Nat :=
  (if value = 0xFFFF then s.unmaskRows value else [value % 512]).map fun r => bandDom (bandOf r)

/-- The bands that a CHANNEL_UNMASK names must be powered (R138). -/
def State.unmaskDomain (s : State) (h : Hdr) (doms : List Nat) : Got :=
  if doms.any fun d => s.dom d == .off then .no .domainOff
  else if doms.any s.isFailed then .no .domainFailed
  else match doms with
    | d :: _ => if h.noAck then .silent d else .value 0 []
    | [] => .value 0 []

/-- Step 7 of R7 for a write: an empty value where the write may go on. Staging needs no domain (R72).
DEDUCED: log entry 17. -/
def State.writeDomain (s : State) (h : Hdr) (o : Obj) (v : Bytes) : Got :=
  if o.acc = .rwl then .value 0 []
  else if o.needsFlash v ∧ s.isFailed 5 then .no .domainFailed
  else if o.id = Id.CHANNEL_UNMASK then s.unmaskDomain h (s.unmaskDoms (leNat v))
  else match s.serving o with
    | .ao => .value 0 []
    | .dom d => if h.noAck then .silent d else .value 0 []
    | .off => if o.shadowed then .value 0x20 [] else .no .domainOff
    | .failed => if o.shadowed then .value 0x20 [] else .no .domainFailed

/-! ### Values -/

/-- Step 9 of R7 for KEY_WRITE (R354). -/
def State.keyCheck (s : State) (x : Session) (v : Bytes) : Option Abort :=
  let role := u8At v 0
  if u8At v 1 ≠ 0 ∨ role < 1 ∨ 3 < role ∨ (unwrapKey x.key (v.drop 2)).isNone then some .outOfRange
  else if s.sec.state = 2 ∧ role = 3 then some .securityState
  else none

/-- Step 9 of R7: the range and the owning rule, then what the security state forbids (R353). -/
def State.valueCheck (s : State) (x : Session) (o : Obj) (v : Bytes) : Option Abort :=
  if !o.valueOk (s.stagedConf x) v then some .outOfRange
  else if o.id = Id.KEY_WRITE then s.keyCheck x v
  else if s.sec.state = 2 ∧ o.id = Id.CAP_SOURCE ∧ (leNat v = 1 ∨ leNat v = 2) then some .securityState
  else none

/-! ### Commands (R64) -/

/-- An accepted command: its ticket, and what runs at once. -/
def State.ticketed (s : State) (f : U32 → State → State) : State × Reply :=
  let p := s.issueTicket
  (f p.2 p.1, .ok 0 (le 4 p.2.toNat))

/-- A command accepted under a condition, else STATE_CONFLICT. -/
def State.ifOk (s : State) (ok : Bool) (f : U32 → State → State) : State × Reply :=
  if ok then s.ticketed f else s.no .stateConflict

/-- A command whose tickets wait in a queue of 8. -/
def State.queueing (s : State) (waiting : Nat) (f : U32 → State → State) : State × Reply :=
  if 8 ≤ waiting then s.no .deferred else s.ticketed f

/-- A ticket enters its command's queue. -/
def State.enqueued (s : State) (obj value : Nat) (k : U32) : State := s.enqueue { obj, num := k, value }

/-- POWER_REQUEST (R292). -/
def State.powerCommand (s : State) (target : Power) : State × Reply := match s.powerCheck target with
  | some a => (s.powerRefused target).no a
  | none => s.ticketed fun k y => powerRequestAction target k y

/-- The lane of a LANE_REJOIN value. -/
def laneOf (v : Nat) : LaneId := if v = 0 then .a else .b

/-- The power state of a POWER_REQUEST value. -/
def powerOf : Nat → Power
  | 0 => .run
  | 1 => .hold
  | 2 => .doze
  | _ => .sleep

/-- CAP_CONTROL (Tables 12.1 and 12.3): 1 arms where capture is OFF and enabled, 2 disarms, 3 is a host trigger.
DEDUCED: log entry 22. -/
def State.capControl (s : State) (v : Nat) : State × Reply :=
  if v = 3 then (if s.cap.state = 0 then s.no .captureNotArmed else s.ticketed fun _ y => y.hostTrigger)
  else if v = 2 then s.ticketed fun _ y => y.capDisarm
  else if s.cap.state ≠ 0 then s.ticketed fun _ y => y
  else s.ifOk (s.cfgN Id.CAP_ENABLE == 1 && !s.holdOff) fun _ y => y.capArm

/-- CAP_RELEASE (R261). -/
def State.capRelease (s : State) (v : Nat) : State × Reply :=
  if v = 0xFFFFFFFF then s.ticketed fun _ y => (y.cap.held.map Segment.num).foldl State.freeSegment y
  else if (s.findSegment (u32 v)).isNone then s.no .segmentUnknown
  else s.ticketed fun _ y => y.freeSegment (u32 v)

/-- CODE_SOURCE (R290): the named object is checked as if it were being read; the view holds its coded unit.
DEDUCED: log entry 20. -/
def State.codeSource (s : State) (h : Hdr) (x : Session) (v : Nat) : State × Reply :=
  let id := v / 256
  if (indexOf (id / 256)).isNone then s.no .unknownIndex
  else match lookup id with
    | none => s.no .unknownSubindex
    | some o => match s.readCheck x o with
      | some a => s.no a
      | none =>
        if 262144 < s.readLength x o then s.no .lengthLimit
        else match s.fetch h x o with
          | .no a => s.no a
          | .silent d => (s, .silent d)
          | .value _ b =>
            let unit := codeUnit b
            let s1 := (s.count Id.CODE_BLOCKS unit.2.1).count Id.CODE_RAW_BLOCKS unit.2.2
            let view : Option CodeView := if unit.2.2 = unit.2.1 then none else some { source := u32 v, bytes := unit.1 }
            let s2 := s1.modSession x.transport x.num fun y => { y with codeView := view }
            if view.isNone then s2.no .incompressible else (s2, .ok 0 [])

/-- CAL_REQUEST (R319). -/
def State.calCommand (s : State) (v : Nat) : State × Reply := match s.calCheck v with
  | some a => s.no a
  | none => s.ticketed fun k y => calRequestAction v k y

/-- VERSION_REVERT (R336); the details of failed checks are those of the last equalization. DEDUCED: log entry 90. -/
def State.revertCommand (s : State) (v : Nat) : State × Reply := match s.revertCheck v with
  | some (a, bad) =>
    let s1 : State := if bad = [] then s else { s with baspo := { s.baspo with details := (bad.take 8).map u32 } }
    (s1, .abort a (bad.headD 0))
  | none => s.ticketed fun k y => versionRevertAction v k y

/-- A command that makes the checks of R333 at acceptance. -/
def State.checked (s : State) (g : GroupKind) (f : U32 → State → State) : State × Reply := match s.flashCheck g with
  | some a => s.no a
  | none => s.ticketed f

/-- FW_UPDATE (R342). -/
def State.fwCommand (s : State) (v : Nat) : State × Reply :=
  if v = 1 then (if s.fwBeginOk then s.checked .erase fun _ y => fwBeginAction y else s.no .stateConflict)
  else if v = 2 then (if s.fwActivateOk then s.checked .commit fwActivateAction else s.no .stateConflict)
  else s.ifOk s.fwCancelOk fun _ y => y.fwAbandon

/-- A security transition is running. -/
def State.secMoving (s : State) : Bool := (s.flash.running.toList ++ s.flash.queue).any fun g => match g.work with
  | .security _ _ => true
  | _ => false

/-- Captured or recorded data of source 1 or 2 is configured or held (Table 17.2 step 4). -/
def State.rawHeld (s : State) : Bool :=
  s.conf.rawSource || (s.cap.current.toList ++ s.cap.held).any (fun g => g.source == 1 || g.source == 2) ||
    s.flash.entries.any fun e => u8At e.header 3 == 1 || u8At e.header 3 == 2

/-- The new state of a security command where its condition holds (Table 17.2 steps 1 to 5). -/
def State.secTarget (s : State) (obj : Nat) : Option Nat :=
  if obj = Id.SEC_PROVISION then (if s.sec.state = 0 ∧ s.keyState = 7 then some 1 else none)
  else if obj = Id.SEC_UNPROVISION then (if s.sec.state = 1 then some 0 else none)
  else if s.sec.state = 1 ∧ !s.rawHeld then some 2 else none

/-- SEC_PROVISION, SEC_UNPROVISION and SEC_SEAL (R353). -/
def State.secCommand (s : State) (obj : Nat) : State × Reply := match s.secTarget obj with
  | none => s.no .stateConflict
  | some new =>
    if s.baspo.commit.isSome ∨ s.secMoving then s.no .stateConflict
    else s.checked .commit fun k y => y.flashItem (.security new k) true 0

/-- BAND_RESTART: RUN only, and one restart of a band at a time. DEDUCED: log entry 22. -/
def State.bandCommand (s : State) (b : Nat) : State × Reply :=
  s.ifOk (s.pwr.state == .run && (s.band b).restart.isNone) fun k y => bandRestartAction b k y

/-- A value written to a CMD object of chapters 09, 10, 12 and 15 to 17. -/
def State.laterCommand (s : State) (id v : Nat) : State × Reply :=
  if id = Id.FE_CLEAR then s.ifOk s.feClearable fun _ y => feClearAction y
  else if id = Id.HK_CALIBRATE then s.queueing (s.queued id).length fun k y => hkCalibrateAction k y
  else if id = Id.CONTROL_MODE_REQUEST then s.queueing (s.queued id).length fun k y => modeRequestAction v k (y.enqueued id v k)
  else if id = Id.COIL_TRIP_CLEAR then s.ifOk s.coilClearable coilTripClearAction
  else if id = Id.CAP_CONTROL then s.capControl v
  else if id = Id.CAP_RELEASE then s.capRelease v
  else if id = Id.CAL_REQUEST then s.calCommand v
  else if id = Id.VERSION_REVERT then s.revertCommand v
  else if id = Id.REC_CLEAR then s.ticketed fun _ y => recClearAction y
  else if id = Id.FW_UPDATE then s.fwCommand v
  else s.secCommand id

/-- A value written to a CMD object, past its domain, type and range. -/
def State.command (s : State) (h : Hdr) (svc : Nat) (x : Session) (id v : Nat) : State × Reply :=
  if id = Id.LOCK_CONTROL then s.lockControl h svc x v
  else if id = Id.CODE_SOURCE then s.codeSource h x v
  else if id = Id.POWER_REQUEST then s.powerCommand (powerOf v)
  else if id = Id.PAD_RELEASE then s.ticketed fun _ y => padReleaseAction v y
  else if id = Id.LANE_RESTART then s.ifOk s.restartOk laneRestartAction
  else if id = Id.LANE_REJOIN then s.ifOk (s.rejoinable (laneOf v)) fun k y => laneRejoinAction (laneOf v) k y
  else if id = Id.CAMERA_INDEX_SET then s.queueing (s.queued id).length fun k y => y.enqueued id v k
  else if id = Id.BAR_RETIRE_CLEAR then
    (if s.pwr.state = .run then s.queueing (s.queued id).length fun k y => y.enqueued id v k else s.no .stateConflict)
  else if id = Id.EMIT_STOP then s.ticketed fun _ y => emitStopAction y
  else if id = Id.EMIT_CLEAR then s.ifOk (s.emitClearable v) fun _ y => emitClearAction v y
  else if id = Id.CHANNEL_UNMASK then s.queueing s.rx.unmasks.length fun k y => channelUnmaskAction v k y
  else if id = Id.BAND_RESTART then s.bandCommand v
  else if id = Id.BUS_TRIGGER then s.ticketed fun _ y => busTriggerAction y
  else s.laterCommand id v

/-! ### Writing -/

/-- CAP_READ_SELECT: the segment must be held; its source is recorded with the selection (R261). -/
def State.selectSegment (s : State) (x : Session) (v : Bytes) : State × Reply := match s.findSegment (u32 (leNat v)) with
  | some g =>
    (s.modSession x.transport x.num fun y => { y with readSelect := g.num, readSource := some g.source }, .ok 0 [])
  | none => s.no .segmentUnknown

/-- REC_SELECT: the entry must be held; its SOURCE is recorded with the selection (R340). -/
def State.selectEntry (s : State) (x : Session) (v : Bytes) : State × Reply :=
  match s.flash.entries.find? fun e => e.seq == u32 (leNat v) with
  | some e =>
    (s.modSession x.transport x.num fun y => { y with recSelect := e.seq, recSource := some (u8At e.header 3) }, .ok 0 [])
  | none => s.no .segmentUnknown

/-- KEY_WRITE: the unwrapped key goes to flash by a commit group (R354). -/
def State.keyWrite (s : State) (x : Session) (v : Bytes) : State × Reply := match unwrapKey x.key (v.drop 2) with
  | some key => (s.flashItem (.key (u8At v 0) key x.transport x.num) false 0, .ok 0 [])
  | none => s.no .outOfRange

/-- The image is complete: its header, hash and signature are checked, and the response waits (Table 16.5 step 3). -/
def State.imageFinal (s : State) (h : Hdr) (v : Bytes) : State × Reply :=
  if s.flash.update = 2 ∧ s.flash.checking.isNone then
    ({ s with flash := { s.flash with update := 3, image := v, checking := some h } }, .later)
  else s.no .stateConflict

/-- Steps 10 and 11 of R7 for a write, by the object. -/
def State.apply (s : State) (h : Hdr) (svc : Nat) (x : Session) (o : Obj) (v : Bytes) (flags : Nat) : State × Reply :=
  if s.recoveryBars o then s.no .stateConflict
  else match o.acc, o.kind with
    | .rwl, _ => s.stage x o v
    | .cmd, _ => s.command h svc x o.id (leNat v)
    | _, .counter => (s.clearCounter o.id, .ok flags [])
    | _, .cfg => ({ s with cfg := putCfg s.fac s.cfg o.id v }, .ok flags [])
    | _, _ =>
      if o.id = Id.CAP_READ_SELECT then s.selectSegment x v
      else if o.id = Id.REC_SELECT then s.selectEntry x v
      else if o.id = Id.KEY_WRITE then s.keyWrite x v
      else s.imageFinal h v

/-- Steps 7 to 11 of R7 for a whole value. -/
def State.writeValue (s : State) (h : Hdr) (svc : Nat) (x : Session) (o : Obj) (v : Bytes) : State × Reply :=
  match s.writeDomain h o v with
  | .no a => s.no a
  | .silent d => (s, .silent d)
  | .value fl _ =>
    if !o.sizeOk v.length then s.no .typeMismatch
    else match s.valueCheck x o v with
      | some a => s.no a
      | none => s.apply h svc x o v fl

/-- WRITE. -/
def State.writeObject (s : State) (h : Hdr) (svc : Nat) (x : Session) (o : Obj) (v : Bytes) : State × Reply :=
  match s.writeCheck x o v with
  | some a => s.no a
  | none => if o.tooLong v.length then s.no .lengthLimit else s.writeValue h svc x o v

/-! ### Block writes (R63) -/

/-- A segment as received. -/
structure BlockSeg where
  /-- Segment flags. -/
  flags : Nat
  /-- Offset. -/
  offset : Nat
  /-- Total length. -/
  total : Nat
  /-- Data. -/
  data : Bytes
  /-- CRC-32 of a FINAL segment. -/
  crc : Nat
  deriving DecidableEq, Repr

/-- The segment is FINAL. -/
def BlockSeg.final (g : BlockSeg) : Bool := bit g.flags 0

/-- The segment of a payload. -/
def segmentOf (p : Bytes) : BlockSeg :=
  let d := p.drop 12
  let final := bit (u8At p 3) 0
  { flags := u8At p 3, offset := u32At p 4, total := u32At p 8, data := if final then d.take (d.length - 4) else d,
    crc := if final then leNat (d.drop (d.length - 4)) else 0 }

/-- The transfer after a segment: restarted, continued or with its last segment replaced; none where the offset does not fit.
DEDUCED: log entry 23. -/
def BlockXfer.next (b : Option BlockXfer) (obj : Nat) (g : BlockSeg) : Option BlockXfer :=
  if g.offset = 0 then some { obj, total := g.total, lastOff := 0, head := [], last := g.data }
  else match b with
    | none => none
    | some b =>
      if b.obj ≠ obj then none
      else if g.offset = b.lastOff + b.last.length then
        some { b with lastOff := g.offset, head := b.head ++ b.last, last := g.data }
      else if g.offset = b.lastOff then some { b with last := g.data }
      else none

/-- Step 6 of R7 for a segment: BLOCK_SEQUENCE, BLOCK_CRC, LENGTH_LIMIT in the order of Table 03.7.
DEDUCED: log entry 23. -/
def BlockSeg.check (g : BlockSeg) (tr : Transport) (o : Obj) (b : Option BlockXfer) : Option Abort := match b with
  | none => some .blockSequence
  | some b =>
    let v := b.head ++ b.last
    if 2 ≤ g.flags then some .blockSequence
    else if g.final ∧ (v.length ≠ g.total ∨ v.length ≠ b.total ∨ (crc32 v).toNat ≠ g.crc) then some .blockCrc
    else if (limitsOf tr).segment < g.data.length ∨ (g.offset = 0 ∧ o.tooLong g.total) then some .lengthLimit
    else none

/-- Set a session's transfer. -/
def State.setBlock (s : State) (x : Session) (b : Option BlockXfer) : State :=
  s.modSession x.transport x.num fun y => { y with block := b }

/-- Pages of an image are programmed as they fill (R342). -/
def State.imagePages (s : State) (old : Option BlockXfer) (b : BlockXfer) (final : Bool) : State :=
  let before := match old with
    | some a => if b.lastOff = 0 then 0 else a.head.length
    | none => 0
  let size := b.head.length + (if final then b.last.length + 65535 else 0)
  s.fwPages before size

/-- A segment of FW_IMAGE needs its domains and FW_UPDATE_STATE 2 (R342). -/
def State.imageBars (s : State) (h : Hdr) (o : Obj) : Option Reply := match s.writeDomain h o [] with
  | .no a => some (.abort a 0)
  | .silent d => some (.silent d)
  | .value _ _ => if s.flash.update = 2 then none else some (.abort .stateConflict 0)

/-- A segment past step 6: kept, or at FINAL the value takes effect or is staged. -/
def State.blockAccept (s : State) (h : Hdr) (svc : Nat) (x : Session) (o : Obj) (g : BlockSeg) (b : BlockXfer) : State × Reply :=
  let s1 := if o.id = Id.FW_IMAGE then s.imagePages x.block b g.final else s
  if g.final then (s1.setBlock x none).writeValue h svc x o (b.head ++ b.last)
  else (s1.setBlock x (some b), .ok 0 [])

/-- BLOCK_WRITE of one segment. -/
def State.blockWrite (s : State) (h : Hdr) (svc : Nat) (x : Session) (o : Obj) (p : Bytes) : State × Reply :=
  let g := segmentOf p
  let b := BlockXfer.next x.block o.id g
  let whole := match b with
    | some y => if g.final then y.head ++ y.last else []
    | none => []
  match s.writeCheck x o whole with
  | some a => s.no a
  | none => match g.check h.transport o b with
    | some a => (s.setBlock x none).no a
    | none => match (if o.id = Id.FW_IMAGE then s.imageBars h o else none) with
      | some r => (s.setBlock x none, r)
      | none => match b with
        | some y => s.blockAccept h svc x o g y
        | none => s.no .blockSequence

end Sys2Proof.Machine
end

