-- ==== Sys2Proof/Machine/Baspo.lean ====
section
/-! DEFINITION. The services of Baspo (Table 03.5): what the module does with a message (R55 to R63), sessions and authentication (R65,
R350, R355), notifications and stream subscriptions (R78, R263), and the ends of waiting answers. -/

namespace Sys2Proof.Machine

open Sys2Proof

/-! ### Addressing and admission (R7 steps 1 and 2) -/

/-- Fixed length of a service's payload, and whether more may follow (R61); none where the service is not offered. -/
def payloadForm (svc : Nat) (tr : Transport) (p : Bytes) : Option (Nat × Bool) :=
  if svc = 0x01 ∨ svc = 0x04 ∨ svc = 0x05 then some (0, false)
  else if svc = 0x02 then some (1, false)
  else if svc = 0x03 then some (32, false)
  else if svc = 0x10 then some (4, false)
  else if svc = 0x11 then some (4, true)
  else if svc = 0x20 then some (10, false)
  else if svc = 0x21 then some (if bit (u8At p 3) 0 then 16 else 12, true)
  else if svc = 0x30 then some (4, false)
  else if svc = 0x40 ∧ tr = .udp then some (20, false)
  else none

/-- The service addresses an object. -/
def addressed (svc : Nat) : Bool := svc == 0x10 || svc == 0x11 || svc == 0x20 || svc == 0x21

/-- Index that a request names; 0 where its payload holds none (R61). -/
def indexIn (svc : Nat) (p : Bytes) : Nat := if addressed svc && decide (3 ≤ p.length) then u16At p 0 else 0

/-- Subindex that a request names. -/
def subIn (svc : Nat) (p : Bytes) : Nat := if addressed svc && decide (3 ≤ p.length) then u8At p 2 else 0

/-- Step 1 of R7. -/
def addressing (svc : Nat) (r : Rcvd) : Option Abort := match payloadForm svc r.h.transport r.payload with
  | none => some .unknownService
  | some (n, more) =>
    if r.h.transport = .udp ∧ r.h.version ≠ 1 then some .versionUnsupported
    else if r.payload.length < n ∨ (!more ∧ r.payload.length ≠ n) then some .lengthLimit
    else if !addressed svc then none
    else if (indexOf (indexIn svc r.payload)).isNone then some .unknownIndex
    else if (lookup (indexIn svc r.payload * 256 + subIn svc r.payload)).isNone then some .unknownSubindex
    else none

/-- The lowest free session number of a transport (R65). DEDUCED: log entry 13. -/
def State.freeNumber (s : State) (tr : Transport) : Option Byte :=
  (match tr with
    | .udp => [(1 : Byte), 2, 3, 4]
    | .can => [1]).find? fun n => (s.session? tr n).isNone

/-- A write that SEALED forbids, asked for without a session. DEDUCED: log entry 16. -/
def State.sealedWrite (s : State) (svc : Nat) (p : Bytes) : Bool :=
  s.sec.state == 2 && (svc == 0x11 || svc == 0x21) && match lookup (indexIn svc p * 256 + subIn svc p) with
    | some o => o.role == 3 && !o.isFw
    | none => false

/-- Step 2 of R7, in the order of Table 03.7. DEDUCED: log entry 16. -/
def State.admission (s : State) (svc : Nat) (r : Rcvd) : Option Abort :=
  if svc = 0x02 ∨ svc = 0x03 then
    if (s.freeNumber r.h.transport).isNone then some .sessionLimit
    else if s.isFailed 1 then some .domainFailed
    else if s.sec.backoff.isSome then some .backoff
    else none
  else if svc = 0x01 ∨ r.h.session ≠ 0 then none
  else if s.sealedWrite svc r.payload then some .securityState
  else some .authRequired

/-! ### Sessions -/

/-- IDENTIFY (Table 03.5). -/
def State.identity (s : State) : Bytes := le 4 s.fac.serial.toNat ++ le 2 s.fac.hwRev.toNat ++ le 4 s.fwVersion.toNat ++ rd8 s.securityByte

/-- The challenge comes from the source of a request. -/
def Challenge.from (c : Challenge) (h : Hdr) : Bool := c.transport == h.transport && c.addr == h.addr && c.port == h.port

/-- SESSION_OPEN: one challenge for each source (R350 step 1). DEDUCED: log entry 14. -/
def State.openSession (s : State) (h : Hdr) (role : Nat) : State × Reply :=
  if role < 1 ∨ 3 < role then s.no .outOfRange
  else if (s.roleKey role).isNone then s.no .securityState
  else
    let bytes := le 16 (Config.challenge s.sec.draws).toNat
    let c : Challenge := { transport := h.transport, addr := h.addr, port := h.port, role, bytes, since := s.now, void := false }
    ({ s with sec := { s.sec with
        draws := s.sec.draws + 1, challenges := (s.sec.challenges.filter fun y => !y.from h) ++ [c] } }, .ok 0 bytes)

/-- Role that AUTH_FAILED_EVT names: that of the source's challenge; free where it holds none. -/
def State.failedRole (s : State) (c : Option Challenge) : State × Nat := match c with
  | some c => (s, c.role)
  | none => ({ s with draws := s.draws + 1 }, Config.freeNat s.draws)

/-- AUTH_FAILED, counted (R355). DEDUCED: log entry 14. -/
def State.refuseAuth (s : State) (h : Hdr) (c : Option Challenge) : State × Reply :=
  let p := s.failedRole c
  (p.1.authFail p.2 h.transport).no .authFailed

/-- A new session under a role key (R350 step 3, R351). -/
def State.startSession (s : State) (h : Hdr) (num : Byte) (role : Nat) (key challenge : Bytes) : State :=
  let x : Session :=
    { transport := h.transport, num, role, key := cmac key (s.authInput 2 role challenge), addr := h.addr, port := h.port, rxFresh := 0,
      txFresh := 0, lastTransaction := 0, anyRequest := false, lastResponse := none, heard := s.now, lock := .none, block := none,
      sub := none, readSelect := 0, readSource := none, recSelect := 0, recSource := none, codeView := none }
  { s with
    baspo := { s.baspo with sessions := s.baspo.sessions ++ [x] }
    sec := { s.sec with failures := 0, level := 0 } }

/-- SESSION_AUTH with the source's own challenge, which is used up by it: void, expired, wrong, or right. -/
def State.judgeAuth (s0 : State) (h : Hdr) (num : Byte) (c : Challenge) (answer : Bytes) : State × Reply :=
  let s : State := { s0 with sec := { s0.sec with challenges := s0.sec.challenges.filter fun y => !y.from h } }
  if c.void then s.no .authFailed
  else if c.since + Sys2Proof.sec 10 ≤ s.now then s.refuseAuth h (some c)
  else match s.roleKey c.role with
    | none => s.refuseAuth h (some c)
    | some key =>
      if cmac key (s.authInput 1 c.role c.bytes) = answer then (s.startSession h num c.role key c.bytes, .ok 0 [num])
      else s.refuseAuth h (some c)

/-- SESSION_AUTH (R350 steps 2 to 4). -/
def State.authenticate (s : State) (h : Hdr) (p : Bytes) : State × Reply :=
  match s.freeNumber h.transport, s.sec.challenges.find? fun c => c.from h with
  | some num, some c => if c.bytes = p.take 16 then s.judgeAuth h num c (p.drop 16) else s.refuseAuth h (some c)
  | _, c => s.refuseAuth h c

/-! ### Subscriptions -/

/-- NOTIFY_SUBSCRIBE. -/
def State.notifySubscribe (s : State) (h : Hdr) (x : Session) (p : Bytes) : State × Reply :=
  let port := u16At p 2
  let sub : Option Subscriber :=
    if bit (u8At p 1) 0 then
      some { minSeverity := u8At p 0, port := if port = 0 then h.port else BitVec.ofNat 16 port, queue := [], lost := false }
    else none
  if 3 < u8At p 0 ∨ 2 ≤ u8At p 1 then s.no .outOfRange
  else if s.pwr.recovery then s.no .stateConflict
  else (s.modSession x.transport x.num fun y => { y with sub }, .ok 0 [])

/-- The class that a subscription to stream 1 needs: that of CAP_READ_DATA for the configured source (R263). -/
def State.streamClass (s : State) (stream : Nat) : Nat := if stream = 1 then (if s.conf.rawSource then 3 else 2) else 0

/-- The subscription that a cancel names: the session's own to that stream and destination, else its oldest to that stream.
DEDUCED: log entry 26. -/
def State.cancelled (s : State) (x : Session) (stream : Nat) (port : U16) (addr : BitVec 128) : Option StreamSub :=
  let own := s.stream.subs.filter fun b => b.transport == x.transport && b.session == x.num && b.stream == stream
  (own.find? fun b => b.port == port && b.addr == addr) <|> own.head?

/-- STREAM_SUBSCRIBE (R263). DEDUCED: log entry 26. -/
def State.streamSubscribe (s : State) (h : Hdr) (x : Session) (p : Bytes) : State × Reply :=
  let stream := u8At p 0
  let flags := u8At p 1
  let port : U16 := if u16At p 2 = 0 then h.port else BitVec.ofNat 16 (u16At p 2)
  let dest := beNat (slice p 4 16)
  let addr : BitVec 128 := if dest = 0 then h.addr else BitVec.ofNat 128 dest
  if bit flags 0 ∧ s.classOf x.role < s.streamClass stream then s.no .diagClass
  else if 1 < stream ∨ 4 ≤ flags then s.no .outOfRange
  else if s.pwr.recovery then s.no .stateConflict
  else if !bit flags 0 then match s.cancelled x stream port addr with
    | some b => ({ s with stream := { s.stream with subs := s.stream.subs.filter fun y => y.num != b.num } }, .ok 0 (le 4 b.num.toNat))
    | none => (s, .ok 0 (le 4 0))
  else if (if stream = 0 then s.cfgN Id.STREAM_ENABLE else s.cfgN Id.CAP_ENABLE) = 0 then s.no .stateConflict
  else if 4 ≤ s.stream.subs.length then s.no .streamLimit
  else
    let num := s.stream.subSeq + 1
    let b : StreamSub :=
      { num, stream, flags := BitVec.ofNat 8 flags, port, addr, transport := x.transport, session := x.num }
    let s1 : State := { s with stream := { s.stream with subs := s.stream.subs ++ [b], subSeq := num } }
    (s1.startOffload, .ok 0 (le 4 num.toNat))

/-! ### Services -/

/-- A service that addresses an object. -/
def State.objectService (s : State) (svc : Nat) (r : Rcvd) (x : Session) : State × Reply :=
  match lookup (indexIn svc r.payload * 256 + subIn svc r.payload) with
  | none => s.no .unknownSubindex
  | some o =>
    if svc = 0x10 then (s, s.readObject r.h x o)
    else if svc = 0x20 then (s, s.blockRead r.h x o (u32At r.payload 4) (u16At r.payload 8))
    else if svc = 0x11 then s.writeObject r.h svc x o (r.payload.drop 4)
    else s.blockWrite r.h svc x o r.payload

/-- A service inside a session. -/
def State.inSession (s : State) (svc : Nat) (r : Rcvd) (x : Session) : State × Reply :=
  if svc = 0x04 then (s, .closing)
  else if svc = 0x05 then (s, .ok 0 [])
  else if svc = 0x30 then s.notifySubscribe r.h x r.payload
  else if svc = 0x40 then s.streamSubscribe r.h x r.payload
  else s.objectService svc r x

/-- A service past steps 1 and 2 of R7. -/
def State.service (s : State) (svc : Nat) (r : Rcvd) : State × Reply :=
  if svc = 0x01 then (s, .ok 0 s.identity)
  else if svc = 0x02 then s.openSession r.h (u8At r.payload 0)
  else if svc = 0x03 then s.authenticate r.h r.payload
  else match s.session? r.h.transport r.h.session with
    | some x => s.inSession svc r x
    | none => s.no .authRequired

/-- Serve a request: the first failing check answers (R7). -/
def State.serve (s : State) (svc : Nat) (r : Rcvd) : State × Reply := match addressing svc r with
  | some a => s.no a
  | none => match s.admission svc r with
    | some a => s.no a
    | none => s.service svc r

/-- Serve a request and answer it. -/
def State.process (s : State) (svc : Nat) (r : Rcvd) : State :=
  let p := s.serve svc r
  p.1.respond r.h svc (indexIn svc r.payload) (subIn svc r.payload) p.2

/-- A session accepts a request (R57). -/
def State.acceptRequest (s : State) (r : Rcvd) : State := s.modSession r.h.transport r.h.session fun x =>
  { x with rxFresh := r.fresh, lastTransaction := r.h.transaction, anyRequest := true, lastResponse := none, heard := s.now }

/-- A retransmission is never executed again: the response is sent once more, byte for byte, if it has been sent (R57).
DEDUCED: log entry 9. -/
def State.resend (s : State) (r : Rcvd) (x : Session) : State :=
  let s1 := s.modSession x.transport x.num fun y => { y with heard := s.now }
  match x.lastResponse with
  | some b => s1.sendBaspo r.h.transport r.h.addr r.h.port (s1.canIdent 1) b
  | none => s1

/-- A message in a session (R56, R57, R59). -/
def State.sessionMessage (s : State) (svc : Nat) (r : Rcvd) (x : Session) : State :=
  if r.tag ≠ tagOf x.key r.input then s.count Id.BASPO_TAG_FAIL
  else if x.anyRequest ∧ r.fresh = x.rxFresh ∧ r.h.transaction = x.lastTransaction then s.resend r x
  else if r.fresh ≤ x.rxFresh ∨ 0xFFFFFFFF < r.fresh then (s.count Id.BASPO_FRESH_FAIL).respond r.h svc 0 0 (.abort .freshness 0)
  else (s.acceptRequest r).process svc r

/-- A Baspo message arrives: its service code, its header and what follows it. -/
def State.request (s : State) (svc : Nat) (h : Hdr) (payload : Bytes) : State :=
  let raw := match h.transport with
    | .udp => payload ++ h.tag
    | .can => payload
  if !s.hears h then s
  else if s.drops h raw then s.count Id.BASPO_DROPPED
  else if h.session = 0 then s.process svc (Hdr.receive h (BitVec.ofNat 8 svc) raw 0)
  else match s.session? h.transport h.session with
    | some x => s.sessionMessage svc (Hdr.receive h (BitVec.ofNat 8 svc) raw x.rxFresh) x
    | none => s

/-- A Baspo message at an instant. -/
def doRequest (t : Time) (svc : Nat) (h : Hdr) (payload : Bytes) (s0 : State) : State := (s0.at t).request svc h payload

/-- A WRITE of an object's value at an instant. -/
def doWriteObject (t : Time) (id : Nat) (h : Hdr) (value : Bytes) (s0 : State) : State :=
  doRequest t 0x11 h (le 2 (id / 256) ++ le 1 (id % 256) ++ [0] ++ value) s0

/-! ### Events of sessions -/

/-- SESSION_IDLE_TIMEOUT: 10 s without a valid message from the host (R65). -/
def doSessionIdleTimeout (t : Time) (tr : Transport) (num : Byte) (s0 : State) : State :=
  let s := s0.at t
  match s.session? tr num with
  | some x => if x.heard + Sys2Proof.sec 10 ≤ s.now then s.closeSession tr num 2 else s
  | none => s

/-- A session's transport carries messages. -/
def State.carries (s : State) (tr : Transport) : Bool := s.pwr.served && match tr with
  | .udp => s.isOn 2 && s.net.link
  | .can => s.isOn 3 && !s.net.busOff

/-- Payload of a NOTIFY: entries in SEQ order, the first with FLAGS[1] where one was dropped before it (R78). -/
def Subscriber.payload (b : Subscriber) (n : Nat) : Bytes := match b.queue.take n with
  | [] => []
  | e :: r => e.bytes b.lost ++ (r.map fun y => y.bytes false).flatten

/-- NOTIFY: queued entries go to a subscriber; it is never acknowledged. -/
def doNotify (t : Time) (tr : Transport) (num : Byte) (s0 : State) : State :=
  let s := s0.at t
  match s.session? tr num with
  | none => s
  | some x => match x.sub with
    | none => s
    | some b =>
      if b.queue.isEmpty || !s.carries tr then s
      else
        let n := (limitsOf tr).entries
        let p := b.payload n
        let s1 := s.modSession tr num fun y => { y with sub := some { b with queue := b.queue.drop n, lost := false } }
        let q := s1.nextFresh tr num
        let ident := q.1.canIdent 2
        (q.1.sendBaspo tr x.addr b.port ident (wireMessage tr q.2.2 ident 0 0x31 num 0 q.2.1 p)).freshLimit tr num

/-- FW_IMAGE_CHECK_DONE: the checks of a received image finish, and its request is answered (Table 16.5 steps 4 and 5). -/
def doFwImageCheckDone (t : Time) (s0 : State) : State :=
  let s := s0.at t
  match s.flash.checking with
  | none => s
  | some h =>
    let p := s.imageVerdict
    if h.session = 0 then p.1
    else p.1.respond h 0x21 0x7100 5 (match p.2 with
      | some a => .abort a 0
      | none => .ok 0 [])

/-! ### Commands -/

/-- SESSION_IDLE_TIMEOUT (R65). -/
def execSessionIdleTimeout (t : Time) (tr : Transport) (session : Byte) (s : State) : Host.Outcome State Fault Refusal :=
  .next (doSessionIdleTimeout t tr session s)

/-- NOTIFY (R78). -/
def execNotify (t : Time) (tr : Transport) (session : Byte) (s : State) : Host.Outcome State Fault Refusal := .next (doNotify t tr session s)

/-- FW_IMAGE_CHECK_DONE (R342). -/
def execFwImageCheckDone (t : Time) (s : State) : Host.Outcome State Fault Refusal := .next (doFwImageCheckDone t s)

end Sys2Proof.Machine
end

