-- ==== Sys2Proof/Machine/Network.lean ====
section
/-! DEFINITION. 802.1AS time and the CAN controller (Tables 03.2 and 03.14). The Ethernet link stands in Stream.lean. -/

namespace Sys2Proof.Machine

open Sys2Proof

/-- GPTP_SYNCED: GPTP_STATE 2 with the offset last measured; the servo gives device time from island time (R15). -/
def doGptpSynced (t : Time) (offset servo : Int) (s0 : State) : State :=
  let s := s0.at t
  if !s.isOn 2 || !s.net.link then s
  else
    let s1 : State := { s with net := { s.net with gptp := 2, offset, servo } }
    if s.net.gptp = 2 then s1 else s1.raise 0xA010 0 (u32i offset)

/-- GPTP_LOST: synchronisation is lost; device time runs on in holdover. -/
def doGptpLost (t : Time) (s0 : State) : State :=
  let s := s0.at t
  if s.net.gptp = 2 then { s with net := { s.net with gptp := 3 } }.raise 0xA011 1 else s

/-- CAN_BUS_OFF. -/
def doCanBusOff (t : Time) (s0 : State) : State :=
  let s := s0.at t
  if s.isOn 3 && !s.net.busOff then { s with net := { s.net with busOff := true } }.raise 0xA020 1 else s

/-- CAN_RECOVERED. -/
def doCanRecovered (t : Time) (s0 : State) : State :=
  let s := s0.at t
  if s.net.busOff then { s with net := { s.net with busOff := false } }.raise 0xA021 0 else s

/-! ### Commands -/

/-- GPTP_SYNCED (R15). -/
def execGptpSynced (t : Time) (offset servo : Int) (s : State) : Host.Outcome State Fault Refusal := .next (doGptpSynced t offset servo s)

/-- GPTP_LOST (R15). -/
def execGptpLost (t : Time) (s : State) : Host.Outcome State Fault Refusal := .next (doGptpLost t s)

/-- CAN_BUS_OFF (R53). -/
def execCanBusOff (t : Time) (s : State) : Host.Outcome State Fault Refusal := .next (doCanBusOff t s)

/-- CAN_RECOVERED (R53). -/
def execCanRecovered (t : Time) (s : State) : Host.Outcome State Fault Refusal := .next (doCanRecovered t s)

end Sys2Proof.Machine
end

