-- ==== Sys2Proof/Machine/Requests.lean ====
section
/-! DEFINITION. The commands that a host sends as Baspo messages: each names its service, and a row with an object of its own writes that
object. -/

namespace Sys2Proof.Machine

open Sys2Proof

/-- IDENTIFY (R61). -/
def execIdentify (t : Time) (h : Hdr) (payload : Bytes) (s : State) : Host.Outcome State Fault Refusal :=
  .next (doRequest t 0x01 h payload s)

/-- SESSION_OPEN (R350). -/
def execSessionOpen (t : Time) (h : Hdr) (payload : Bytes) (s : State) : Host.Outcome State Fault Refusal :=
  .next (doRequest t 0x02 h payload s)

/-- SESSION_AUTH (R350). -/
def execSessionAuth (t : Time) (h : Hdr) (payload : Bytes) (s : State) : Host.Outcome State Fault Refusal :=
  .next (doRequest t 0x03 h payload s)

/-- SESSION_CLOSE (R65). -/
def execSessionClose (t : Time) (h : Hdr) (payload : Bytes) (s : State) : Host.Outcome State Fault Refusal :=
  .next (doRequest t 0x04 h payload s)

/-- KEEPALIVE (R61). -/
def execKeepalive (t : Time) (h : Hdr) (payload : Bytes) (s : State) : Host.Outcome State Fault Refusal :=
  .next (doRequest t 0x05 h payload s)

/-- READ (R7). -/
def execRead (t : Time) (h : Hdr) (payload : Bytes) (s : State) : Host.Outcome State Fault Refusal :=
  .next (doRequest t 0x10 h payload s)

/-- BLOCK_READ (R62). -/
def execBlockRead (t : Time) (h : Hdr) (payload : Bytes) (s : State) : Host.Outcome State Fault Refusal :=
  .next (doRequest t 0x20 h payload s)

/-- WRITE (R7). -/
def execWrite (t : Time) (h : Hdr) (payload : Bytes) (s : State) : Host.Outcome State Fault Refusal :=
  .next (doRequest t 0x11 h payload s)

/-- BLOCK_WRITE (R63). -/
def execBlockWrite (t : Time) (h : Hdr) (payload : Bytes) (s : State) : Host.Outcome State Fault Refusal :=
  .next (doRequest t 0x21 h payload s)

/-- NOTIFY_SUBSCRIBE (R78). -/
def execNotifySubscribe (t : Time) (h : Hdr) (payload : Bytes) (s : State) : Host.Outcome State Fault Refusal :=
  .next (doRequest t 0x30 h payload s)

/-- STREAM_SUBSCRIBE (R263). -/
def execStreamSubscribe (t : Time) (h : Hdr) (payload : Bytes) (s : State) : Host.Outcome State Fault Refusal :=
  .next (doRequest t 0x40 h payload s)

/-- LOCK_OPEN (R69). -/
def execLockOpen (t : Time) (h : Hdr) (s : State) : Host.Outcome State Fault Refusal :=
  .next (doWriteObject t Id.LOCK_CONTROL h [1] s)

/-- LOCK_COMMIT (R69). -/
def execLockCommit (t : Time) (h : Hdr) (s : State) : Host.Outcome State Fault Refusal :=
  .next (doWriteObject t Id.LOCK_CONTROL h [2] s)

/-- LOCK_COMMIT_PERSIST (R76). -/
def execLockCommitPersist (t : Time) (h : Hdr) (s : State) : Host.Outcome State Fault Refusal :=
  .next (doWriteObject t Id.LOCK_CONTROL h [3] s)

/-- LOCK_ABANDON (R69). -/
def execLockAbandon (t : Time) (h : Hdr) (s : State) : Host.Outcome State Fault Refusal :=
  .next (doWriteObject t Id.LOCK_CONTROL h [4] s)

/-- CAMERA_INDEX_SET (R101). -/
def execCameraIndexSet (t : Time) (h : Hdr) (value : Bytes) (s : State) : Host.Outcome State Fault Refusal :=
  .next (doWriteObject t Id.CAMERA_INDEX_SET h value s)

/-- EMIT_STOP (R114). -/
def execEmitStop (t : Time) (h : Hdr) (s : State) : Host.Outcome State Fault Refusal :=
  .next (doWriteObject t Id.EMIT_STOP h [1] s)

/-- EMIT_CLEAR (R116). -/
def execEmitClear (t : Time) (h : Hdr) (value : Bytes) (s : State) : Host.Outcome State Fault Refusal :=
  .next (doWriteObject t Id.EMIT_CLEAR h value s)

/-- BAR_RETIRE_CLEAR (R120). -/
def execBarRetireClear (t : Time) (h : Hdr) (value : Bytes) (s : State) : Host.Outcome State Fault Refusal :=
  .next (doWriteObject t Id.BAR_RETIRE_CLEAR h value s)

/-- BAND_RESTART (R141). -/
def execBandRestart (t : Time) (h : Hdr) (value : Bytes) (s : State) : Host.Outcome State Fault Refusal :=
  .next (doWriteObject t Id.BAND_RESTART h value s)

/-- CHANNEL_UNMASK (R140). -/
def execChannelUnmask (t : Time) (h : Hdr) (value : Bytes) (s : State) : Host.Outcome State Fault Refusal :=
  .next (doWriteObject t Id.CHANNEL_UNMASK h value s)

/-- PAD_RELEASE_TIMIN (R49). -/
def execPadReleaseTimin (t : Time) (h : Hdr) (s : State) : Host.Outcome State Fault Refusal :=
  .next (doWriteObject t Id.PAD_RELEASE h [1] s)

/-- PAD_RELEASE_TBUS (R49). -/
def execPadReleaseTbus (t : Time) (h : Hdr) (s : State) : Host.Outcome State Fault Refusal :=
  .next (doWriteObject t Id.PAD_RELEASE h [2] s)

/-- LANE_RESTART (R245). -/
def execLaneRestart (t : Time) (h : Hdr) (s : State) : Host.Outcome State Fault Refusal :=
  .next (doWriteObject t Id.LANE_RESTART h [1] s)

/-- LANE_REJOIN (R248). -/
def execLaneRejoin (t : Time) (h : Hdr) (value : Bytes) (s : State) : Host.Outcome State Fault Refusal :=
  .next (doWriteObject t Id.LANE_REJOIN h value s)

/-- MODE_REQUEST_TRACK (R229). -/
def execModeRequestTrack (t : Time) (h : Hdr) (s : State) : Host.Outcome State Fault Refusal :=
  .next (doWriteObject t Id.CONTROL_MODE_REQUEST h [1] s)

/-- MODE_REQUEST_HOLD (R229). -/
def execModeRequestHold (t : Time) (h : Hdr) (s : State) : Host.Outcome State Fault Refusal :=
  .next (doWriteObject t Id.CONTROL_MODE_REQUEST h [2] s)

/-- MODE_REQUEST_PARK (R229). -/
def execModeRequestPark (t : Time) (h : Hdr) (s : State) : Host.Outcome State Fault Refusal :=
  .next (doWriteObject t Id.CONTROL_MODE_REQUEST h [3] s)

/-- COIL_TRIP_CLEAR (R231). -/
def execCoilTripClear (t : Time) (h : Hdr) (s : State) : Host.Outcome State Fault Refusal :=
  .next (doWriteObject t Id.COIL_TRIP_CLEAR h [1] s)

/-- FE_CLEAR (R199). -/
def execFeClear (t : Time) (h : Hdr) (s : State) : Host.Outcome State Fault Refusal :=
  .next (doWriteObject t Id.FE_CLEAR h [1] s)

/-- HK_CALIBRATE (R212). -/
def execHkCalibrate (t : Time) (h : Hdr) (s : State) : Host.Outcome State Fault Refusal :=
  .next (doWriteObject t Id.HK_CALIBRATE h [1] s)

/-- CAP_ARM (R257). -/
def execCapArm (t : Time) (h : Hdr) (s : State) : Host.Outcome State Fault Refusal :=
  .next (doWriteObject t Id.CAP_CONTROL h [1] s)

/-- CAP_DISARM (R257). -/
def execCapDisarm (t : Time) (h : Hdr) (s : State) : Host.Outcome State Fault Refusal :=
  .next (doWriteObject t Id.CAP_CONTROL h [2] s)

/-- CAP_TRIGGER (R253). -/
def execCapTrigger (t : Time) (h : Hdr) (s : State) : Host.Outcome State Fault Refusal :=
  .next (doWriteObject t Id.CAP_CONTROL h [3] s)

/-- CAP_RELEASE (R261). -/
def execCapRelease (t : Time) (h : Hdr) (value : Bytes) (s : State) : Host.Outcome State Fault Refusal :=
  .next (doWriteObject t Id.CAP_RELEASE h value s)

/-- CAP_READ_SELECT (R261). -/
def execCapReadSelect (t : Time) (h : Hdr) (value : Bytes) (s : State) : Host.Outcome State Fault Refusal :=
  .next (doWriteObject t Id.CAP_READ_SELECT h value s)

/-- CODE_SOURCE (R290). -/
def execCodeSource (t : Time) (h : Hdr) (value : Bytes) (s : State) : Host.Outcome State Fault Refusal :=
  .next (doWriteObject t Id.CODE_SOURCE h value s)

/-- BUS_TRIGGER (R189). -/
def execBusTrigger (t : Time) (h : Hdr) (s : State) : Host.Outcome State Fault Refusal :=
  .next (doWriteObject t Id.BUS_TRIGGER h [1] s)

/-- POWER_REQUEST_RUN (R292). -/
def execPowerRequestRun (t : Time) (h : Hdr) (s : State) : Host.Outcome State Fault Refusal :=
  .next (doWriteObject t Id.POWER_REQUEST h [0] s)

/-- POWER_REQUEST_HOLD (R292). -/
def execPowerRequestHold (t : Time) (h : Hdr) (s : State) : Host.Outcome State Fault Refusal :=
  .next (doWriteObject t Id.POWER_REQUEST h [1] s)

/-- POWER_REQUEST_DOZE (R292). -/
def execPowerRequestDoze (t : Time) (h : Hdr) (s : State) : Host.Outcome State Fault Refusal :=
  .next (doWriteObject t Id.POWER_REQUEST h [2] s)

/-- POWER_REQUEST_SLEEP (R292). -/
def execPowerRequestSleep (t : Time) (h : Hdr) (s : State) : Host.Outcome State Fault Refusal :=
  .next (doWriteObject t Id.POWER_REQUEST h [3] s)

/-- CAL_FIELD (R319). -/
def execCalField (t : Time) (h : Hdr) (s : State) : Host.Outcome State Fault Refusal :=
  .next (doWriteObject t Id.CAL_REQUEST h [1] s)

/-- CAL_SCALE (R319). -/
def execCalScale (t : Time) (h : Hdr) (s : State) : Host.Outcome State Fault Refusal :=
  .next (doWriteObject t Id.CAL_REQUEST h [2] s)

/-- CAL_ZERO (R319). -/
def execCalZero (t : Time) (h : Hdr) (s : State) : Host.Outcome State Fault Refusal :=
  .next (doWriteObject t Id.CAL_REQUEST h [3] s)

/-- CAL_SKEW (R319). -/
def execCalSkew (t : Time) (h : Hdr) (s : State) : Host.Outcome State Fault Refusal :=
  .next (doWriteObject t Id.CAL_REQUEST h [4] s)

/-- CAL_TIN (R319). -/
def execCalTin (t : Time) (h : Hdr) (s : State) : Host.Outcome State Fault Refusal :=
  .next (doWriteObject t Id.CAL_REQUEST h [5] s)

/-- CAL_PSD_TRIM (R319). -/
def execCalPsdTrim (t : Time) (h : Hdr) (s : State) : Host.Outcome State Fault Refusal :=
  .next (doWriteObject t Id.CAL_REQUEST h [6] s)

/-- TRACE_REFIN (R319). -/
def execTraceRefin (t : Time) (h : Hdr) (s : State) : Host.Outcome State Fault Refusal :=
  .next (doWriteObject t Id.CAL_REQUEST h [0x10] s)

/-- TRACE_TARGET (R319). -/
def execTraceTarget (t : Time) (h : Hdr) (s : State) : Host.Outcome State Fault Refusal :=
  .next (doWriteObject t Id.CAL_REQUEST h [0x11] s)

/-- TRACE_COMMIT (R321). -/
def execTraceCommit (t : Time) (h : Hdr) (s : State) : Host.Outcome State Fault Refusal :=
  .next (doWriteObject t Id.CAL_REQUEST h [0x12] s)

/-- TRACE_DISCARD (R321). -/
def execTraceDiscard (t : Time) (h : Hdr) (s : State) : Host.Outcome State Fault Refusal :=
  .next (doWriteObject t Id.CAL_REQUEST h [0x13] s)

/-- VERSION_REVERT (R336). -/
def execVersionRevert (t : Time) (h : Hdr) (value : Bytes) (s : State) : Host.Outcome State Fault Refusal :=
  .next (doWriteObject t Id.VERSION_REVERT h value s)

/-- REC_SELECT (R340). -/
def execRecSelect (t : Time) (h : Hdr) (value : Bytes) (s : State) : Host.Outcome State Fault Refusal :=
  .next (doWriteObject t Id.REC_SELECT h value s)

/-- REC_CLEAR (R346). -/
def execRecClear (t : Time) (h : Hdr) (s : State) : Host.Outcome State Fault Refusal :=
  .next (doWriteObject t Id.REC_CLEAR h [1] s)

/-- FW_UPDATE_BEGIN (R342). -/
def execFwUpdateBegin (t : Time) (h : Hdr) (s : State) : Host.Outcome State Fault Refusal :=
  .next (doWriteObject t Id.FW_UPDATE h [1] s)

/-- FW_IMAGE (R342): a segment of a block write, from its segment flags on. -/
def execFwImage (t : Time) (h : Hdr) (payload : Bytes) (s : State) : Host.Outcome State Fault Refusal :=
  .next (doRequest t 0x21 h ([0x00, 0x71, 0x05] ++ payload) s)

/-- FW_UPDATE_ACTIVATE (R342). -/
def execFwUpdateActivate (t : Time) (h : Hdr) (s : State) : Host.Outcome State Fault Refusal :=
  .next (doWriteObject t Id.FW_UPDATE h [2] s)

/-- FW_UPDATE_CANCEL (R342). -/
def execFwUpdateCancel (t : Time) (h : Hdr) (s : State) : Host.Outcome State Fault Refusal :=
  .next (doWriteObject t Id.FW_UPDATE h [3] s)

/-- SEC_PROVISION (R353). -/
def execSecProvision (t : Time) (h : Hdr) (s : State) : Host.Outcome State Fault Refusal :=
  .next (doWriteObject t Id.SEC_PROVISION h [1] s)

/-- SEC_UNPROVISION (R353). -/
def execSecUnprovision (t : Time) (h : Hdr) (s : State) : Host.Outcome State Fault Refusal :=
  .next (doWriteObject t Id.SEC_UNPROVISION h [1] s)

/-- SEC_SEAL (R353). -/
def execSecSeal (t : Time) (h : Hdr) (s : State) : Host.Outcome State Fault Refusal :=
  .next (doWriteObject t Id.SEC_SEAL h [0xA1, 0x5E] s)

/-- KEY_WRITE (R354). -/
def execKeyWrite (t : Time) (h : Hdr) (value : Bytes) (s : State) : Host.Outcome State Fault Refusal :=
  .next (doWriteObject t Id.KEY_WRITE h value s)

end Sys2Proof.Machine
end

