-- ==== Sys2Proof/Machine/Dispatch.lean ====
section
/-! DEFINITION. exec: one arm per command of the opcode table, each a direct call of its meaning. -/

namespace Sys2Proof.Machine

open Sys2Proof

def exec (i : Instr) (s : State) : Host.Outcome State Fault Refusal :=
  match i with
  | .identify t h payload => Sys2Proof.Machine.execIdentify t h payload s
  | .sessionOpen t h payload => Sys2Proof.Machine.execSessionOpen t h payload s
  | .sessionAuth t h payload => Sys2Proof.Machine.execSessionAuth t h payload s
  | .sessionClose t h payload => Sys2Proof.Machine.execSessionClose t h payload s
  | .keepalive t h payload => Sys2Proof.Machine.execKeepalive t h payload s
  | .sessionIdleTimeout t tr session => Sys2Proof.Machine.execSessionIdleTimeout t tr session s
  | .read t h payload => Sys2Proof.Machine.execRead t h payload s
  | .blockRead t h payload => Sys2Proof.Machine.execBlockRead t h payload s
  | .write t h payload => Sys2Proof.Machine.execWrite t h payload s
  | .blockWrite t h payload => Sys2Proof.Machine.execBlockWrite t h payload s
  | .notifySubscribe t h payload => Sys2Proof.Machine.execNotifySubscribe t h payload s
  | .streamSubscribe t h payload => Sys2Proof.Machine.execStreamSubscribe t h payload s
  | .notify t tr session => Sys2Proof.Machine.execNotify t tr session s
  | .lockOpen t h => Sys2Proof.Machine.execLockOpen t h s
  | .lockCommit t h => Sys2Proof.Machine.execLockCommit t h s
  | .lockCommitPersist t h => Sys2Proof.Machine.execLockCommitPersist t h s
  | .lockAbandon t h => Sys2Proof.Machine.execLockAbandon t h s
  | .lockEqualizationDone t => Sys2Proof.Machine.execLockEqualizationDone t s
  | .lockTimeout t tr session => Sys2Proof.Machine.execLockTimeout t tr session s
  | .lockIdleFlip t => Sys2Proof.Machine.execLockIdleFlip t s
  | .frameBoundary t x unconfirmed => Sys2Proof.Machine.execFrameBoundary t x unconfirmed s
  | .columnTick t x => Sys2Proof.Machine.execColumnTick t x s
  | .slotDecision t cal x => Sys2Proof.Machine.execSlotDecision t cal x s
  | .fsyncEdge t rising => Sys2Proof.Machine.execFsyncEdge t rising s
  | .fsyncLull t => Sys2Proof.Machine.execFsyncLull t s
  | .cameraVirtualEdge t => Sys2Proof.Machine.execCameraVirtualEdge t s
  | .cameraIndexSet t h value => Sys2Proof.Machine.execCameraIndexSet t h value s
  | .emitTrip t bit level => Sys2Proof.Machine.execEmitTrip t bit level s
  | .emitStop t h => Sys2Proof.Machine.execEmitStop t h s
  | .emitClear t h value => Sys2Proof.Machine.execEmitClear t h value s
  | .bankFaultTimeout t => Sys2Proof.Machine.execBankFaultTimeout t s
  | .bankOvervoltage t => Sys2Proof.Machine.execBankOvervoltage t s
  | .barTest t readings => Sys2Proof.Machine.execBarTest t readings s
  | .barFullTest t readings => Sys2Proof.Machine.execBarFullTest t readings s
  | .barRetireClear t h value => Sys2Proof.Machine.execBarRetireClear t h value s
  | .stop t row spads => Sys2Proof.Machine.execStop t row spads s
  | .biasUpdate t => Sys2Proof.Machine.execBiasUpdate t s
  | .pllUnlock t band => Sys2Proof.Machine.execPllUnlock t band s
  | .bandTest t band r => Sys2Proof.Machine.execBandTest t band r s
  | .bandRestart t h value => Sys2Proof.Machine.execBandRestart t h value s
  | .channelUnmask t h value => Sys2Proof.Machine.execChannelUnmask t h value s
  | .tinEdge t input rising => Sys2Proof.Machine.execTinEdge t input rising s
  | .gateEdge t rising => Sys2Proof.Machine.execGateEdge t rising s
  | .tinRecordCloseIdle t input => Sys2Proof.Machine.execTinRecordCloseIdle t input s
  | .tinRecordDelivery t => Sys2Proof.Machine.execTinRecordDelivery t s
  | .refinEdge t => Sys2Proof.Machine.execRefinEdge t s
  | .refinAbsent t => Sys2Proof.Machine.execRefinAbsent t s
  | .padReleaseTimin t h => Sys2Proof.Machine.execPadReleaseTimin t h s
  | .padReleaseTbus t h => Sys2Proof.Machine.execPadReleaseTbus t h s
  | .laneColumnDone t lane upset => Sys2Proof.Machine.execLaneColumnDone t lane upset s
  | .compareVerdict t => Sys2Proof.Machine.execCompareVerdict t s
  | .laneReport t lane => Sys2Proof.Machine.execLaneReport t lane s
  | .leaseRenew t lane => Sys2Proof.Machine.execLeaseRenew t lane s
  | .leaseExpiry t => Sys2Proof.Machine.execLeaseExpiry t s
  | .yield t lane => Sys2Proof.Machine.execYield t lane s
  | .leaseConfirmTimeout t => Sys2Proof.Machine.execLeaseConfirmTimeout t s
  | .fatalLaneFault t lane => Sys2Proof.Machine.execFatalLaneFault t lane s
  | .laneWatchdogExpiry t lane => Sys2Proof.Machine.execLaneWatchdogExpiry t lane s
  | .lanePreferredTimeout t => Sys2Proof.Machine.execLanePreferredTimeout t s
  | .linkLost t lane => Sys2Proof.Machine.execLinkLost t lane s
  | .towpathPendingTimeout t => Sys2Proof.Machine.execTowpathPendingTimeout t s
  | .towpathGraceExpiry t => Sys2Proof.Machine.execTowpathGraceExpiry t s
  | .towpathUp t => Sys2Proof.Machine.execTowpathUp t s
  | .selftestResult t resA resB => Sys2Proof.Machine.execSelftestResult t resA resB s
  | .laneRestart t h => Sys2Proof.Machine.execLaneRestart t h s
  | .laneRejoin t h value => Sys2Proof.Machine.execLaneRejoin t h value s
  | .rejoinAutoStart t => Sys2Proof.Machine.execRejoinAutoStart t s
  | .rejoinCopyDone t => Sys2Proof.Machine.execRejoinCopyDone t s
  | .rejoinSnapshot t => Sys2Proof.Machine.execRejoinSnapshot t s
  | .controlSample t x above lateA lateB => Sys2Proof.Machine.execControlSample t x above lateA lateB s
  | .modeRequestTrack t h => Sys2Proof.Machine.execModeRequestTrack t h s
  | .modeRequestHold t h => Sys2Proof.Machine.execModeRequestHold t h s
  | .modeRequestPark t h => Sys2Proof.Machine.execModeRequestPark t h s
  | .homingFailed t => Sys2Proof.Machine.execHomingFailed t s
  | .coilTrip t iCoil => Sys2Proof.Machine.execCoilTrip t iCoil s
  | .coilTripClear t h => Sys2Proof.Machine.execCoilTripClear t h s
  | .parkRampDone t => Sys2Proof.Machine.execParkRampDone t s
  | .wireBreakCheck t pairAmv pairBmv => Sys2Proof.Machine.execWireBreakCheck t pairAmv pairBmv s
  | .ledOpen t => Sys2Proof.Machine.execLedOpen t s
  | .feClear t h => Sys2Proof.Machine.execFeClear t h s
  | .hkResult t raw => Sys2Proof.Machine.execHkResult t raw s
  | .hkCalibrate t h => Sys2Proof.Machine.execHkCalibrate t h s
  | .hkCalDone t sum14 sum15 => Sys2Proof.Machine.execHkCalDone t sum14 sum15 s
  | .captureTrigger t => Sys2Proof.Machine.execCaptureTrigger t s
  | .capArm t h => Sys2Proof.Machine.execCapArm t h s
  | .capDisarm t h => Sys2Proof.Machine.execCapDisarm t h s
  | .capTrigger t h => Sys2Proof.Machine.execCapTrigger t h s
  | .capRelease t h value => Sys2Proof.Machine.execCapRelease t h value s
  | .capReadSelect t h value => Sys2Proof.Machine.execCapReadSelect t h value s
  | .datagramSent t stream => Sys2Proof.Machine.execDatagramSent t stream s
  | .marksSend t => Sys2Proof.Machine.execMarksSend t s
  | .linkUp t => Sys2Proof.Machine.execLinkUp t s
  | .linkDown t => Sys2Proof.Machine.execLinkDown t s
  | .gptpSynced t offset servo => Sys2Proof.Machine.execGptpSynced t offset servo s
  | .gptpLost t => Sys2Proof.Machine.execGptpLost t s
  | .canBusOff t => Sys2Proof.Machine.execCanBusOff t s
  | .canRecovered t => Sys2Proof.Machine.execCanRecovered t s
  | .codeSource t h value => Sys2Proof.Machine.execCodeSource t h value s
  | .busFrame t own source payload crc => Sys2Proof.Machine.execBusFrame t own source payload crc s
  | .busTriggerMessage t own source payload crc => Sys2Proof.Machine.execBusTriggerMessage t own source payload crc s
  | .busProbe t own source payload crc => Sys2Proof.Machine.execBusProbe t own source payload crc s
  | .busReply t own source payload crc => Sys2Proof.Machine.execBusReply t own source payload crc s
  | .busAnnounce t own source payload crc => Sys2Proof.Machine.execBusAnnounce t own source payload crc s
  | .busWindow t => Sys2Proof.Machine.execBusWindow t s
  | .busTrigger t h => Sys2Proof.Machine.execBusTrigger t h s
  | .busClockAdopt t => Sys2Proof.Machine.execBusClockAdopt t s
  | .busClockLost t => Sys2Proof.Machine.execBusClockLost t s
  | .busFrameSilence t => Sys2Proof.Machine.execBusFrameSilence t s
  | .powerRequestRun t h => Sys2Proof.Machine.execPowerRequestRun t h s
  | .powerRequestHold t h => Sys2Proof.Machine.execPowerRequestHold t h s
  | .powerRequestDoze t h => Sys2Proof.Machine.execPowerRequestDoze t h s
  | .powerRequestSleep t h => Sys2Proof.Machine.execPowerRequestSleep t h s
  | .entryRecheck t => Sys2Proof.Machine.execEntryRecheck t s
  | .entryTimeout t => Sys2Proof.Machine.execEntryTimeout t s
  | .entryStepDone t => Sys2Proof.Machine.execEntryStepDone t s
  | .wakePin t => Sys2Proof.Machine.execWakePin t s
  | .wakePinLow t => Sys2Proof.Machine.execWakePinLow t s
  | .canWakeFrame t ident data => Sys2Proof.Machine.execCanWakeFrame t ident data s
  | .dozeSleepAfter t => Sys2Proof.Machine.execDozeSleepAfter t s
  | .wakeDone t x => Sys2Proof.Machine.execWakeDone t x s
  | .domainPowerGoodFail t dom clock => Sys2Proof.Machine.execDomainPowerGoodFail t dom clock s
  | .xtalFallback t => Sys2Proof.Machine.execXtalFallback t s
  | .aoWatchdogExpiry t x => Sys2Proof.Machine.execAoWatchdogExpiry t x s
  | .crossingNoResponse t dom => Sys2Proof.Machine.execCrossingNoResponse t dom s
  | .vinStartRise t x => Sys2Proof.Machine.execVinStartRise t x s
  | .vinLow t => Sys2Proof.Machine.execVinLow t s
  | .vinResumeRise t => Sys2Proof.Machine.execVinResumeRise t s
  | .vinHigh t => Sys2Proof.Machine.execVinHigh t s
  | .inputSwitchClose t => Sys2Proof.Machine.execInputSwitchClose t s
  | .holdupExhausted t => Sys2Proof.Machine.execHoldupExhausted t s
  | .vinShutdownFall t => Sys2Proof.Machine.execVinShutdownFall t s
  | .thermalUpdate t x => Sys2Proof.Machine.execThermalUpdate t x s
  | .thermalForcedDoze t => Sys2Proof.Machine.execThermalForcedDoze t s
  | .thermalRestart t => Sys2Proof.Machine.execThermalRestart t s
  | .xtalComp t => Sys2Proof.Machine.execXtalComp t s
  | .calField t h => Sys2Proof.Machine.execCalField t h s
  | .calScale t h => Sys2Proof.Machine.execCalScale t h s
  | .calZero t h => Sys2Proof.Machine.execCalZero t h s
  | .calSkew t h => Sys2Proof.Machine.execCalSkew t h s
  | .calTin t h => Sys2Proof.Machine.execCalTin t h s
  | .calPsdTrim t h => Sys2Proof.Machine.execCalPsdTrim t h s
  | .traceRefin t h => Sys2Proof.Machine.execTraceRefin t h s
  | .traceTarget t h => Sys2Proof.Machine.execTraceTarget t h s
  | .traceCommit t h => Sys2Proof.Machine.execTraceCommit t h s
  | .traceDiscard t h => Sys2Proof.Machine.execTraceDiscard t h s
  | .calRunDone t r => Sys2Proof.Machine.execCalRunDone t r s
  | .calTicketLimit t => Sys2Proof.Machine.execCalTicketLimit t s
  | .calStoreRetry t => Sys2Proof.Machine.execCalStoreRetry t s
  | .flashGroupDone t e => Sys2Proof.Machine.execFlashGroupDone t e s
  | .flashGroupStart t => Sys2Proof.Machine.execFlashGroupStart t s
  | .flashWaitTimeout t => Sys2Proof.Machine.execFlashWaitTimeout t s
  | .scrub t r => Sys2Proof.Machine.execScrub t r s
  | .wearMove t least most => Sys2Proof.Machine.execWearMove t least most s
  | .versionRevert t h value => Sys2Proof.Machine.execVersionRevert t h value s
  | .versionConfirmTimeout t x => Sys2Proof.Machine.execVersionConfirmTimeout t x s
  | .recorderCopy t => Sys2Proof.Machine.execRecorderCopy t s
  | .recSelect t h value => Sys2Proof.Machine.execRecSelect t h value s
  | .recClear t h => Sys2Proof.Machine.execRecClear t h s
  | .fwUpdateBegin t h => Sys2Proof.Machine.execFwUpdateBegin t h s
  | .fwImage t h payload => Sys2Proof.Machine.execFwImage t h payload s
  | .fwUpdateActivate t h => Sys2Proof.Machine.execFwUpdateActivate t h s
  | .fwUpdateCancel t h => Sys2Proof.Machine.execFwUpdateCancel t h s
  | .secProvision t h => Sys2Proof.Machine.execSecProvision t h s
  | .secUnprovision t h => Sys2Proof.Machine.execSecUnprovision t h s
  | .secSeal t h => Sys2Proof.Machine.execSecSeal t h s
  | .keyWrite t h value => Sys2Proof.Machine.execKeyWrite t h value s
  | .backoffEnd t => Sys2Proof.Machine.execBackoffEnd t s
  | .laneReady t lane => Sys2Proof.Machine.execLaneReady t lane s
  | .bankReady t => Sys2Proof.Machine.execBankReady t s
  | .pllRelock t band ok => Sys2Proof.Machine.execPllRelock t band ok s
  | .fwImageCheckDone t => Sys2Proof.Machine.execFwImageCheckDone t s

end Sys2Proof.Machine
end

