-- ==== Sys2Proof/Safety.lean ====
section
/-! DEFINITION. What counts as a sound state, and the terms in which statements speak: when a host's message is accepted, when a write
reaches its object, what the module answered, and which events it entered since. -/

namespace Sys2Proof.Machine

open Sys2Proof

/-! ### Sound states -/

/-- The echo store is in its canonical form (R166): addresses rising, no listed byte 0, nothing beyond 32 MiB. -/
def State.echoCanonical (s : State) : Prop := echoWf s.echo = true

/-- What every command leaves to its sender and to the factory: the queue, the clock, the factory values and fuses. -/
def State.kept (s : State) : List Instr × Time × Factory := (s.pending, s.now, s.fac)

/-- What the security rules guard (R348, R349): the state, the seal intent and the role keys. -/
def State.secret (s : State) : Nat × Bool × List (Option Bytes) := (s.sec.state, s.sec.sealIntent, s.sec.keys)

/-! ### Messages from a host (R55 to R59) -/

/-- The 4 bytes that name an object in a WRITE, and its value (Table 03.5). -/
def writePayload (id : Nat) (value : Bytes) : Bytes := le 2 (id / 256) ++ le 1 (id % 256) ++ [0] ++ value

/-- All that follows the header of a message: over CAN FD the tag has its own place (Tables 03.3 and 03.4). -/
def rawOf (h : Hdr) (payload : Bytes) : Bytes := match h.transport with
  | .udp => payload ++ h.tag
  | .can => payload

/-- The message that a command brings, where a host sends it: instant, service, header and payload. -/
def hostMessage : Instr → Option (Time × Nat × Hdr × Bytes)
  | .identify t h payload => some (t, 0x01, h, payload)
  | .sessionOpen t h payload => some (t, 0x02, h, payload)
  | .sessionAuth t h payload => some (t, 0x03, h, payload)
  | .sessionClose t h payload => some (t, 0x04, h, payload)
  | .keepalive t h payload => some (t, 0x05, h, payload)
  | .read t h payload => some (t, 0x10, h, payload)
  | .blockRead t h payload => some (t, 0x20, h, payload)
  | .write t h payload => some (t, 0x11, h, payload)
  | .blockWrite t h payload => some (t, 0x21, h, payload)
  | .notifySubscribe t h payload => some (t, 0x30, h, payload)
  | .streamSubscribe t h payload => some (t, 0x40, h, payload)
  | .lockOpen t h => some (t, 0x11, h, writePayload Id.LOCK_CONTROL [1])
  | .lockCommit t h => some (t, 0x11, h, writePayload Id.LOCK_CONTROL [2])
  | .lockCommitPersist t h => some (t, 0x11, h, writePayload Id.LOCK_CONTROL [3])
  | .lockAbandon t h => some (t, 0x11, h, writePayload Id.LOCK_CONTROL [4])
  | .cameraIndexSet t h value => some (t, 0x11, h, writePayload Id.CAMERA_INDEX_SET value)
  | .emitStop t h => some (t, 0x11, h, writePayload Id.EMIT_STOP [1])
  | .emitClear t h value => some (t, 0x11, h, writePayload Id.EMIT_CLEAR value)
  | .barRetireClear t h value => some (t, 0x11, h, writePayload Id.BAR_RETIRE_CLEAR value)
  | .bandRestart t h value => some (t, 0x11, h, writePayload Id.BAND_RESTART value)
  | .channelUnmask t h value => some (t, 0x11, h, writePayload Id.CHANNEL_UNMASK value)
  | .padReleaseTimin t h => some (t, 0x11, h, writePayload Id.PAD_RELEASE [1])
  | .padReleaseTbus t h => some (t, 0x11, h, writePayload Id.PAD_RELEASE [2])
  | .laneRestart t h => some (t, 0x11, h, writePayload Id.LANE_RESTART [1])
  | .laneRejoin t h value => some (t, 0x11, h, writePayload Id.LANE_REJOIN value)
  | .modeRequestTrack t h => some (t, 0x11, h, writePayload Id.CONTROL_MODE_REQUEST [1])
  | .modeRequestHold t h => some (t, 0x11, h, writePayload Id.CONTROL_MODE_REQUEST [2])
  | .modeRequestPark t h => some (t, 0x11, h, writePayload Id.CONTROL_MODE_REQUEST [3])
  | .coilTripClear t h => some (t, 0x11, h, writePayload Id.COIL_TRIP_CLEAR [1])
  | .feClear t h => some (t, 0x11, h, writePayload Id.FE_CLEAR [1])
  | .hkCalibrate t h => some (t, 0x11, h, writePayload Id.HK_CALIBRATE [1])
  | .capArm t h => some (t, 0x11, h, writePayload Id.CAP_CONTROL [1])
  | .capDisarm t h => some (t, 0x11, h, writePayload Id.CAP_CONTROL [2])
  | .capTrigger t h => some (t, 0x11, h, writePayload Id.CAP_CONTROL [3])
  | .capRelease t h value => some (t, 0x11, h, writePayload Id.CAP_RELEASE value)
  | .capReadSelect t h value => some (t, 0x11, h, writePayload Id.CAP_READ_SELECT value)
  | .codeSource t h value => some (t, 0x11, h, writePayload Id.CODE_SOURCE value)
  | .busTrigger t h => some (t, 0x11, h, writePayload Id.BUS_TRIGGER [1])
  | .powerRequestRun t h => some (t, 0x11, h, writePayload Id.POWER_REQUEST [0])
  | .powerRequestHold t h => some (t, 0x11, h, writePayload Id.POWER_REQUEST [1])
  | .powerRequestDoze t h => some (t, 0x11, h, writePayload Id.POWER_REQUEST [2])
  | .powerRequestSleep t h => some (t, 0x11, h, writePayload Id.POWER_REQUEST [3])
  | .calField t h => some (t, 0x11, h, writePayload Id.CAL_REQUEST [1])
  | .calScale t h => some (t, 0x11, h, writePayload Id.CAL_REQUEST [2])
  | .calZero t h => some (t, 0x11, h, writePayload Id.CAL_REQUEST [3])
  | .calSkew t h => some (t, 0x11, h, writePayload Id.CAL_REQUEST [4])
  | .calTin t h => some (t, 0x11, h, writePayload Id.CAL_REQUEST [5])
  | .calPsdTrim t h => some (t, 0x11, h, writePayload Id.CAL_REQUEST [6])
  | .traceRefin t h => some (t, 0x11, h, writePayload Id.CAL_REQUEST [0x10])
  | .traceTarget t h => some (t, 0x11, h, writePayload Id.CAL_REQUEST [0x11])
  | .traceCommit t h => some (t, 0x11, h, writePayload Id.CAL_REQUEST [0x12])
  | .traceDiscard t h => some (t, 0x11, h, writePayload Id.CAL_REQUEST [0x13])
  | .versionRevert t h value => some (t, 0x11, h, writePayload Id.VERSION_REVERT value)
  | .recSelect t h value => some (t, 0x11, h, writePayload Id.REC_SELECT value)
  | .recClear t h => some (t, 0x11, h, writePayload Id.REC_CLEAR [1])
  | .fwUpdateBegin t h => some (t, 0x11, h, writePayload Id.FW_UPDATE [1])
  | .fwImage t h payload => some (t, 0x21, h, ([0x00, 0x71, 0x05] ++ payload))
  | .fwUpdateActivate t h => some (t, 0x11, h, writePayload Id.FW_UPDATE [2])
  | .fwUpdateCancel t h => some (t, 0x11, h, writePayload Id.FW_UPDATE [3])
  | .secProvision t h => some (t, 0x11, h, writePayload Id.SEC_PROVISION [1])
  | .secUnprovision t h => some (t, 0x11, h, writePayload Id.SEC_UNPROVISION [1])
  | .secSeal t h => some (t, 0x11, h, writePayload Id.SEC_SEAL [0xA1, 0x5E])
  | .keyWrite t h value => some (t, 0x11, h, writePayload Id.KEY_WRITE value)
  | _ => none

/-- A message that is heard, passes R56 and, in a session, carries the right tag and a fresh FRESHNESS: the state in which its service
runs and the message as it was taken apart. -/
def State.reaches (s : State) (svc : Nat) (h : Hdr) (payload : Bytes) : Option (State × Rcvd) :=
  if !s.hears h || s.drops h (rawOf h payload) then none
  else if h.session = 0 then some (s, Hdr.receive h (BitVec.ofNat 8 svc) (rawOf h payload) 0)
  else match s.session? h.transport h.session with
    | none => none
    | some x =>
      let r := Hdr.receive h (BitVec.ofNat 8 svc) (rawOf h payload) x.rxFresh
      if r.tag = tagOf x.key r.input ∧ x.rxFresh < r.fresh ∧ r.fresh ≤ 0xFFFFFFFF then some (s.acceptRequest r, r) else none

/-- A request of a service reaches it: steps 1 and 2 of R7 are passed too. -/
structure Reaches (s : State) (t : Time) (svc : Nat) (h : Hdr) (payload : Bytes) (s2 : State) (r : Rcvd) : Prop where
  /-- Accepted. -/
  heard : (s.at t).reaches svc h payload = some (s2, r)
  /-- The LENGTH field is that of the payload. -/
  whole : r.payload = payload
  /-- Step 1. -/
  addressed : addressing svc r = none
  /-- Step 2. -/
  admitted : s2.admission svc r = none

/-- As Reaches, in a session x. -/
structure ReachesIn (s : State) (t : Time) (svc : Nat) (h : Hdr) (payload : Bytes) (s2 : State) (r : Rcvd) (x : Session) : Prop
    extends Reaches s t svc h payload s2 r where
  /-- The session. -/
  session : s2.session? r.h.transport r.h.session = some x

/-- A WRITE of a value that passes steps 1 to 9 of R7: the object takes it. -/
structure Takes (s : State) (t : Time) (id : Nat) (h : Hdr) (value : Bytes) (s2 : State) (r : Rcvd) (x : Session) (o : Obj) (fl : Nat) :
    Prop extends ReachesIn s t 0x11 h (writePayload id value) s2 r x where
  /-- The object. -/
  object : lookup id = some o
  /-- Steps 2 to 5. -/
  allowed : s2.writeCheck x o value = none
  /-- Step 6. -/
  fits : o.tooLong value.length = false
  /-- Step 7. -/
  powered : s2.writeDomain r.h o value = .value fl []
  /-- Step 8. -/
  sized : o.sizeOk value.length = true
  /-- Step 9. -/
  ranged : s2.valueCheck x o value = none
  /-- The module does not run in recovery. -/
  served : s2.recoveryBars o = false

/-- A session's two freshness counters have not reached their end (R57). -/
def Session.lasts (x : Session) : Prop := x.rxFresh < 0xFFFFFFFF ∧ x.txFresh + 1 < 0xFFFFFFFF

/-- The module has answered a request, under flags and with a payload, to the host that sent it. -/
def State.answered (u : State) (h : Hdr) (svc flags : Nat) (payload : Bytes) : Prop :=
  ∃ (key : Option Bytes) (ident : Nat) (fresh : U32) (addr : BitVec 128) (port : U16),
    OutMsg.baspo h.transport addr port (wireMessage h.transport key ident (BitVec.ofNat 8 flags) (BitVec.ofNat 8 svc) h.session
      h.transaction fresh payload) ∈ u.out ∧
    (h.transport = .udp → addr = h.addr ∧ port = h.port)

/-- The ticket that the next accepted command gets (R360). -/
def State.nextTicket (s : State) : U32 := s.issueTicket.2

/-- A command was answered with the next ticket (R64). -/
def State.ticketedBy (u s2 : State) (r : Rcvd) : Prop := u.answered r.h 0x11 0x80 (le 4 s2.nextTicket.toNat)

/-- Everything but the clock, the messages sent, the draws, the events, Baspo and the triggers on offer is as before. -/
structure Quiet (s u : State) : Prop where
  pending : u.pending = s.pending
  fac : u.fac = s.fac
  cfg : u.cfg = s.cfg
  net : u.net = s.net
  scan : u.scan = s.scan
  emit : u.emit = s.emit
  rx : u.rx = s.rx
  tin : u.tin = s.tin
  bus : u.bus = s.bus
  front : u.front = s.front
  hka : u.hka = s.hka
  coil : u.coil = s.coil
  laneA : u.laneA = s.laneA
  laneB : u.laneB = s.laneB
  arb : u.arb = s.arb
  echo : u.echo = s.echo
  cap : { u.cap with offers := [] } = { s.cap with offers := [] }
  stream : { u.stream with subs := [] } = { s.stream with subs := [] }
  pwr : u.pwr = s.pwr
  therm : u.therm = s.therm
  cal : u.cal = s.cal
  flash : { u.flash with checking := none, running := none, queue := [] } =
    { s.flash with checking := none, running := none, queue := [] }
  sec : u.sec = s.sec

/-! ### What a command may touch -/

/-- The parts of the state that frames name. -/
inductive Part where
  | cfg | net | scan | emit | rx | tin | bus | front | hka | coil | laneA | laneB | arb | echo | cap | stream | pwr | therm | cal |
  flash | sec
  deriving DecidableEq, Repr

/-- A state with the listed parts of another one. -/
def State.overlay (s u : State) (l : List Part) : State :=
  { s with
    cfg := if .cfg ∈ l then u.cfg else s.cfg
    net := if .net ∈ l then u.net else s.net
    scan := if .scan ∈ l then u.scan else s.scan
    emit := if .emit ∈ l then u.emit else s.emit
    rx := if .rx ∈ l then u.rx else s.rx
    tin := if .tin ∈ l then u.tin else s.tin
    bus := if .bus ∈ l then u.bus else s.bus
    front := if .front ∈ l then u.front else s.front
    hka := if .hka ∈ l then u.hka else s.hka
    coil := if .coil ∈ l then u.coil else s.coil
    laneA := if .laneA ∈ l then u.laneA else s.laneA
    laneB := if .laneB ∈ l then u.laneB else s.laneB
    arb := if .arb ∈ l then u.arb else s.arb
    echo := if .echo ∈ l then u.echo else s.echo
    cap := if .cap ∈ l then u.cap else s.cap
    stream := if .stream ∈ l then u.stream else s.stream
    pwr := if .pwr ∈ l then u.pwr else s.pwr
    therm := if .therm ∈ l then u.therm else s.therm
    cal := if .cal ∈ l then u.cal else s.cal
    flash := if .flash ∈ l then u.flash else s.flash
    sec := if .sec ∈ l then u.sec else s.sec }

/-- The parts of the state that a command other than a message may write; a start-up and a message may write any. -/
def partsOf : Instr → List Part
  | .flashGroupStart _ | .lockTimeout _ _ _ | .notify _ _ _ | .sessionIdleTimeout _ _ _ | .wearMove _ _ _ => []
  | .backoffEnd _ => [.sec]
  | .bankFaultTimeout _ | .bankOvervoltage _ | .bankReady _ | .barFullTest _ _ | .barTest _ _ | .emitTrip _ _ _ => [.emit]
  | .biasUpdate _ | .stop _ _ _ => [.rx]
  | .busAnnounce _ _ _ _ _ | .busClockAdopt _ | .busClockLost _ | .busFrameSilence _ | .busProbe _ _ _ _ _ | .busReply _ _ _ _ _
  | .busTriggerMessage _ _ _ _ _ | .busWindow _ => [.bus]
  | .cameraVirtualEdge _ | .fsyncEdge _ _ | .fsyncLull _ => [.scan]
  | .canBusOff _ | .canRecovered _ | .gptpLost _ | .gptpSynced _ _ _ => [.net]
  | .hkCalDone _ _ _ => [.hka]
  | .inputSwitchClose _ | .vinHigh _ => [.pwr]
  | .linkLost _ _ | .rejoinCopyDone _ | .towpathGraceExpiry _ | .towpathUp _ => [.arb]
  | .marksSend _ => [.stream]
  | .parkRampDone _ => [.coil]
  | .recorderCopy _ | .scrub _ _ => [.flash]
  | .refinEdge _ | .tinRecordCloseIdle _ _ => [.tin]
  | .xtalComp _ => [.therm]
  | .bandTest _ _ _ | .pllRelock _ _ _ | .pllUnlock _ _ => [.rx, .pwr]
  | .busFrame _ _ _ _ _ => [.scan, .bus]
  | .coilTrip _ _ => [.emit, .coil]
  | .datagramSent _ _ => [.cap, .stream]
  | .flashWaitTimeout _ => [.cal, .flash]
  | .gateEdge _ _ | .tinEdge _ _ _ => [.tin, .bus]
  | .ledOpen _ | .wireBreakCheck _ _ _ => [.emit, .front]
  | .linkDown _ | .linkUp _ => [.net, .stream]
  | .tinRecordDelivery _ => [.tin, .stream]
  | .vinLow _ | .vinResumeRise _ => [.emit, .pwr]
  | .calTicketLimit _ => [.rx, .pwr, .cal]
  | .captureTrigger _ => [.cap, .stream, .flash]
  | .laneColumnDone _ _ _ | .rejoinAutoStart _ | .rejoinSnapshot _ | .towpathPendingTimeout _ => [.laneA, .laneB, .arb]
  | .hkResult _ _ => [.emit, .hka, .therm, .flash]
  | .homingFailed _ => [.emit, .coil, .laneA, .laneB]
  | .refinAbsent _ => [.rx, .tin, .pwr, .cal]
  | .slotDecision _ _ _ => [.scan, .emit, .rx, .therm]
  | .lanePreferredTimeout _ | .laneReady _ _ => [.emit, .coil, .laneA, .laneB, .arb]
  | .flashGroupDone _ _ => [.cap, .stream, .pwr, .cal, .flash, .sec]
  | .columnTick _ _ => [.scan, .emit, .rx, .front, .laneA, .laneB, .arb]
  | .compareVerdict _ => [.rx, .laneA, .laneB, .arb, .echo, .cap, .stream, .flash]
  | .controlSample _ _ _ _ _ => [.emit, .front, .coil, .laneA, .laneB, .cap, .stream, .flash]
  | .xtalFallback _ => [.scan, .emit, .rx, .front, .coil, .laneA, .laneB, .cap, .stream, .pwr, .cal, .flash]
  | .leaseConfirmTimeout _ => [.scan, .emit, .rx, .front, .coil, .laneA, .laneB, .arb, .cap, .stream, .pwr, .cal, .flash]
  | .leaseRenew _ _ => [.scan, .emit, .rx, .bus, .front, .coil, .laneA, .laneB, .arb, .cap, .pwr, .therm, .cal]
  | .canWakeFrame _ _ _ | .thermalRestart _ | .wakePin _ =>
    [.net, .scan, .emit, .rx, .tin, .bus, .front, .hka, .coil, .laneA, .laneB, .arb, .pwr, .therm]
  | .fatalLaneFault _ _ | .laneReport _ _ | .laneWatchdogExpiry _ _ | .leaseExpiry _ | .selftestResult _ _ _ | .yield _ _ =>
    [.scan, .emit, .rx, .front, .coil, .laneA, .laneB, .arb, .echo, .cap, .stream, .pwr, .cal, .flash]
  | .lockIdleFlip _ => [.cfg, .net, .scan, .emit, .rx, .tin, .bus, .front, .laneA, .laneB, .arb, .cap, .stream, .cal, .flash]
  | .dozeSleepAfter _ | .entryRecheck _ | .entryTimeout _ | .thermalForcedDoze _ | .thermalUpdate _ _ | .wakePinLow _ =>
    [.net, .scan, .emit, .rx, .tin, .bus, .front, .hka, .coil, .laneA, .laneB, .arb, .cap, .stream, .pwr, .therm, .cal, .flash]
  | .holdupExhausted _ | .vinShutdownFall _ =>
    [.net, .scan, .emit, .rx, .tin, .bus, .front, .hka, .coil, .laneA, .laneB, .arb, .cap, .stream, .pwr, .cal, .flash, .sec]
  | .calRunDone _ _ | .calStoreRetry _ | .crossingNoResponse _ _ | .domainPowerGoodFail _ _ _ | .fwImageCheckDone _ =>
    [.net, .scan, .emit, .rx, .tin, .bus, .front, .hka, .coil, .laneA, .laneB, .arb, .echo, .cap, .stream, .pwr, .cal, .flash,
    .sec]
  | .entryStepDone _ =>
    [.net, .scan, .emit, .rx, .tin, .bus, .front, .hka, .coil, .laneA, .laneB, .arb, .cap, .stream, .pwr, .therm, .cal, .flash,
    .sec]
  | .frameBoundary _ _ _ =>
    [.cfg, .net, .scan, .emit, .rx, .tin, .bus, .front, .hka, .coil, .laneA, .laneB, .arb, .cap, .stream, .pwr, .therm, .cal,
    .flash]
  | _ =>
    [.cfg, .net, .scan, .emit, .rx, .tin, .bus, .front, .hka, .coil, .laneA, .laneB, .arb, .echo, .cap, .stream, .pwr, .therm,
    .cal, .flash, .sec]

/-- The parts of the state that the write of a value to an object may touch, beside its answer. -/
def Obj.parts (o : Obj) (v : Bytes) : List Part :=
  match o.acc, o.kind with
  | .rwl, _ => []
  | _, .counter => []
  | _, .cfg => [.cfg]
  | _, _ =>
    if o.id = Id.LOCK_CONTROL ∨ o.id = Id.CODE_SOURCE ∨ o.id = Id.CONTROL_MODE_REQUEST ∨
      o.id = Id.CAMERA_INDEX_SET ∨ o.id = Id.BAR_RETIRE_CLEAR then []
    else if o.id = Id.CAP_READ_SELECT ∨ o.id = Id.REC_SELECT ∨ o.id = Id.KEY_WRITE ∨ o.id = Id.SEC_PROVISION ∨
      o.id = Id.SEC_UNPROVISION ∨ o.id = Id.SEC_SEAL then []
    else if o.id = Id.EMIT_STOP ∨ o.id = Id.EMIT_CLEAR ∨ o.id = Id.VERSION_REVERT then [.emit]
    else if o.id = Id.BUS_TRIGGER then [.bus]
    else if o.id = Id.HK_CALIBRATE then [.hka]
    else if o.id = Id.CHANNEL_UNMASK then [.rx]
    else if o.id = Id.BAND_RESTART then [.rx, .pwr]
    else if o.id = Id.PAD_RELEASE then [.tin, .pwr]
    else if o.id = Id.FE_CLEAR then [.emit, .front]
    else if o.id = Id.COIL_TRIP_CLEAR then [.emit, .coil]
    else if o.id = Id.LANE_REJOIN then [.laneA, .laneB, .arb]
    else if o.id = Id.CAP_RELEASE then [.cap, .stream]
    else if o.id = Id.CAP_CONTROL then [.cap, .stream, .flash]
    else if o.id = Id.REC_CLEAR ∨ o.id = Id.FW_UPDATE ∨ o.id = Id.FW_IMAGE then [.flash]
    else if o.id = Id.CAL_REQUEST ∧ leNat v ≠ 0x12 then [.rx, .pwr, .cal]
    else if o.id = Id.LANE_RESTART then
      [.cfg, .net, .scan, .emit, .rx, .tin, .bus, .front, .laneA, .laneB, .arb, .cap, .stream, .cal, .flash]
    else if o.id = Id.POWER_REQUEST then
      [.net, .scan, .emit, .rx, .tin, .bus, .front, .hka, .coil, .laneA, .laneB, .arb, .cap, .stream, .pwr, .therm, .cal, .flash]
    else
      [.net, .scan, .emit, .rx, .tin, .bus, .front, .hka, .coil, .laneA, .laneB, .arb, .echo, .cap, .stream, .pwr, .cal, .flash,
      .sec]

/-! ### Stops (R129, R134) -/

/-- The slot of the running column whose listening window holds an instant. -/
def State.listening (s : State) (t : Time) : Option SlotRec :=
  let p := s.planFor s.scan.column
  s.rx.acc.slots.find? fun x =>
    let w := s.conf.listen x (slotEnd s.scan.tick p.shotPeriod (planUsed p.image) (s.scan.tick + s.scan.period) x.num)
    w.1 ≤ t && t < w.2

/-- The flight count of a stop of a row in a slot (R134). -/
def State.flightOf (s : State) (row : Nat) (x : SlotRec) (t : Time) : Nat :=
  ((((t - s.scan.tick) % 1048576 : Nat) - ((x.launch.getD (bandOf row) 0xFFFFF).toNat : Nat) - s.cal.vals.skew.getD row 0 : Int) % 1048576).toNat

/-- The flash groups that run or wait, in order (R331). -/
def State.groups (s : State) : List FlashGroup := s.flash.running.toList ++ s.flash.queue

/-! ### Events -/

/-- Since s an event stands in EVENT_RING of u, among the entries that came after it, with these fields (R77). -/
def Told (s u : State) (code sev : Nat) (p1 p2 p3 ticket : U32) : Prop :=
  ∃ (later : List Event) (e : Event) (earlier : List Event),
    u.evt.ring = (later ++ e :: earlier ++ s.evt.ring).take 256 ∧ later.length < 256 ∧
    e.code = BitVec.ofNat 16 code ∧ e.severity = BitVec.ofNat 8 sev ∧ e.p1 = p1 ∧ e.p2 = p2 ∧ e.p3 = p3 ∧ e.ticket = ticket

end Sys2Proof.Machine
end

