-- ==== Sys2Proof/Certificates/Slice0/Obligations.lean ====
section
/-! DEFINITION. The statements for the provers. -/

open Sys2Proof Sys2Proof.Machine

/-! ### The block (log entry 1) -/

/-- A step takes the command at the front of the queue and runs it on the state with the queue's rest; on an empty queue the block
idles (the model's own choice, log entry 1). -/
def Obligations.StepRunsTheFrontCommand : Prop :=
  (∀ (c : Instr) (s : State), step { s with pending := c :: s.pending } = exec c s) ∧
  (∀ s : State, s.pending = [] → step s = .next s)

/-- Every command ends in a next state: no command stops on a fault or a refusal, and none touches the queue or the factory values.
The model's choices that it rests on: log entry 98. -/
def Obligations.EveryCommandAnswersANextState : Prop :=
  ∀ (c : Instr) (s : State), ∃ u, exec c s = .next u ∧ u.pending = s.pending ∧ u.fac = s.fac ∧ s.now ≤ u.now

/-- R344, R361: a step takes exactly the front command from the queue, leaves the factory values and fuses alone, and time never runs
back. The model's choices that it rests on: log entry 1. -/
def Obligations.StepTakesOnlyTheFrontCommand : Prop :=
  ∀ s u : State, step s = .next u → u.pending = s.pending.tail ∧ u.fac = s.fac ∧ s.now ≤ u.now

/-- R166: every step keeps the echo store in its canonical form. -/
def Obligations.EchoStoreStaysCanonical : Prop :=
  ∀ s u : State, s.echoCanonical → step s = .next u → u.echoCanonical

/-- R166: at reset the echo store lists nothing (log entry 3), and that is its canonical form. -/
def Obligations.ResetEchoStoreIsCanonical : Prop := State.reset.echoCanonical

/-- R348, R353, R354: the security state, the seal intent and the role keys change only when a group of flash work ends, or when a
start-up runs. -/
def Obligations.SecurityMovesOnlyByFlashOrStartUp : Prop :=
  ∀ (c : Instr) (s u : State), exec c s = .next u →
    (∀ t e, c ≠ .flashGroupDone t e) → (∀ t x, c ≠ .wakeDone t x) → (∀ t x, c ≠ .aoWatchdogExpiry t x) →
    (∀ t x, c ≠ .vinStartRise t x) → (∀ t x, c ≠ .versionConfirmTimeout t x) → u.secret = s.secret

/-- R16: frames of the commands that touch few parts of the state. Beside the clock, the messages sent, the draws, the events, Baspo,
the triggers on offer, the open stream subscriptions and the flash queue, which any command that reports an event may move, such a command
writes only the parts that partsOf lists for it: every register, memory and mode outside them is as before. -/
def Obligations.LocalCommandsTouchOnlyTheirParts : Prop :=
  ∀ (c : Instr) (s u : State), (partsOf c).length ≤ 5 → exec c s = .next u → Quiet (s.overlay u (partsOf c)) u

/-- R16: frames of the commands that run the module's own sequencers (columns, lanes, entries, calibration, start-up): they write
only the parts that partsOf lists for them. -/
def Obligations.SequencersTouchOnlyTheirParts : Prop :=
  ∀ (c : Instr) (s u : State), 5 < (partsOf c).length → exec c s = .next u → Quiet (s.overlay u (partsOf c)) u

/-- R7, R9, R72: frames of the host's commands. A message that writes a value to an object, past every check of R7, touches only the parts
that Obj.parts lists for that object: a configuration object the configuration, a counter or a staged value none. -/
def Obligations.WritesTouchOnlyTheirParts : Prop :=
  ∀ (c : Instr) (t : Time) (id : Nat) (h : Hdr) (v : Bytes) (s s2 u : State) (r : Rcvd) (x : Session) (o : Obj) (fl : Nat),
    hostMessage c = some (t, 0x11, h, writePayload id v) → Takes s t id h v s2 r x o fl → exec c s = .next u →
    Quiet (s.overlay u (o.parts v)) u

/-! ### Messages (R55 to R61) -/

/-- R56: a malformed message is discarded without any response and counted, so is one whose tag does not verify, and one of another
version that passes these checks is answered with VERSION_UNSUPPORTED. -/
def Obligations.MalformedMessagesAreDiscardedAndCounted : Prop :=
  ∀ (c : Instr) (s : State) (t : Time) (svc : Nat) (h : Hdr) (p : Bytes),
    hostMessage c = some (t, svc, h, p) → (s.at t).hears h = true →
    ((s.at t).drops h (rawOf h p) = true ↔
      (h.transport = .udp ∧ h.magic ≠ 0xBA50) ∨
      (h.transport = .udp ∧ (p ++ h.tag).length ≠ h.length.toNat + (if h.session = 0 then 0 else 8)) ∨
      (h.session ≠ 0 ∧ (s.at t).session? h.transport h.session = none) ∨
      h.flags &&& 0x8F ≠ 0 ∨
      (match h.transport with
        | .udp => 1024
        | .can => 48) < h.length.toNat) ∧
    ((s.at t).drops h (rawOf h p) = true → ∃ u, exec c s = .next u ∧ u.out = [] ∧ Quiet s u ∧
      u.counter Id.BASPO_DROPPED = min 0xFFFFFFFF (s.counter Id.BASPO_DROPPED + 1)) ∧
    (∀ x, (s.at t).drops h (rawOf h p) = false → h.session ≠ 0 → (s.at t).session? h.transport h.session = some x →
      (Hdr.receive h (BitVec.ofNat 8 svc) (rawOf h p) x.rxFresh).tag ≠
        tagOf x.key (Hdr.receive h (BitVec.ofNat 8 svc) (rawOf h p) x.rxFresh).input →
      ∃ u, exec c s = .next u ∧ u.out = [] ∧ Quiet s u ∧
        u.counter Id.BASPO_TAG_FAIL = min 0xFFFFFFFF (s.counter Id.BASPO_TAG_FAIL + 1)) ∧
    (∀ s2 r, (s.at t).reaches svc h p = some (s2, r) → h.transport = .udp → h.version ≠ 1 →
      ∃ u, exec c s = .next u ∧ Quiet s u ∧
        u.answered r.h svc 0xC0 (abortBytes .versionUnsupported (indexIn svc r.payload) (subIn svc r.payload) 0))

/-- R57: a retransmission of the last accepted request is not executed again, and its response is sent once more, byte for byte, if it
has been sent; any other message that is not fresh is answered with FRESHNESS and counted. -/
def Obligations.OnlyFreshMessagesAreExecuted : Prop :=
  ∀ (c : Instr) (s : State) (t : Time) (svc : Nat) (h : Hdr) (p : Bytes) (x : Session),
    hostMessage c = some (t, svc, h, p) → (s.at t).hears h = true → (s.at t).drops h (rawOf h p) = false → h.session ≠ 0 →
    (s.at t).session? h.transport h.session = some x →
    let r := Hdr.receive h (BitVec.ofNat 8 svc) (rawOf h p) x.rxFresh
    r.tag = tagOf x.key r.input →
    (x.anyRequest = true → r.fresh = x.rxFresh → r.h.transaction = x.lastTransaction → ∃ u, exec c s = .next u ∧ Quiet s u ∧
      u.draws = s.draws ∧ u.evt = s.evt ∧ match x.lastResponse with
        | none => u.out = []
        | some b => ∃ a q, u.out = [.baspo h.transport a q b]) ∧
    (¬ (x.anyRequest = true ∧ r.fresh = x.rxFresh ∧ r.h.transaction = x.lastTransaction) → r.fresh ≤ x.rxFresh →
      ∃ u, exec c s = .next u ∧ Quiet s u ∧ u.answered r.h svc 0xC0 (abortBytes .freshness 0 0 0) ∧
        u.counter Id.BASPO_FRESH_FAIL = min 0xFFFFFFFF (s.counter Id.BASPO_FRESH_FAIL + 1))

/-- R7, R61: an accepted request that fails a check of steps 1 or 2 is answered with that abort, and changes nothing else.
R7 steps 2 to 9: a WRITE that fails a check aborts with the first failure, and changes nothing else. -/
def Obligations.ChecksAbortAtTheFirstFailure : Prop :=
  (∀ (c : Instr) (s : State) (t : Time) (svc : Nat) (h : Hdr) (p : Bytes) (s2 : State) (r : Rcvd) (a : Abort),
    hostMessage c = some (t, svc, h, p) → (s.at t).reaches svc h p = some (s2, r) →
    (addressing svc r = some a ∨ (addressing svc r = none ∧ s2.admission svc r = some a)) →
    ∃ u, exec c s = .next u ∧ Quiet s u ∧ u.answered r.h svc 0xC0 (abortBytes a (indexIn svc r.payload) (subIn svc r.payload) 0)) ∧
  (∀ (s : State) (t : Time) (h : Hdr) (id : Nat) (v : Bytes) (s2 : State) (r : Rcvd) (x : Session) (o : Obj) (a : Abort),
    ReachesIn s t 0x11 h (writePayload id v) s2 r x → lookup id = some o → id < 256 ^ 3 →
    (s2.writeCheck x o v = some a ∨
      (s2.writeCheck x o v = none ∧ o.tooLong v.length = true ∧ a = .lengthLimit) ∨
      (s2.writeCheck x o v = none ∧ o.tooLong v.length = false ∧ s2.writeDomain r.h o v = .no a) ∨
      (∃ fl w, s2.writeCheck x o v = none ∧ o.tooLong v.length = false ∧ s2.writeDomain r.h o v = .value fl w ∧
        ((o.sizeOk v.length = false ∧ a = .typeMismatch) ∨
          (o.sizeOk v.length = true ∧ s2.valueCheck x o v = some a)))) →
    ∃ u, exec (.write t h (writePayload id v)) s = .next u ∧ Quiet s u ∧
      u.answered r.h 0x11 0xC0 (abortBytes a (id / 256) (id % 256) 0))

/-! ### Sessions (R65, R350, R351) -/

/-- R61: IDENTIFY is answered with serial number, hardware revision, firmware version and security byte, with or without a session;
KEEPALIVE is answered, and the session has been heard. -/
def Obligations.IdentifyAndKeepaliveAnswer : Prop :=
  (∀ (t : Time) (h : Hdr) (p : Bytes) (s s2 : State) (r : Rcvd), Reaches s t 0x01 h p s2 r →
    ∃ u, exec (.identify t h p) s = .next u ∧ Quiet s u ∧
      u.answered r.h 0x01 0x80 (le 4 s.fac.serial.toNat ++ le 2 s.fac.hwRev.toNat ++ le 4 s.fwVersion.toNat ++ rd8 s.securityByte)) ∧
  (∀ (t : Time) (h : Hdr) (p : Bytes) (s s2 : State) (r : Rcvd) (x : Session), ReachesIn s t 0x05 h p s2 r x → x.lasts →
    ∃ u y, exec (.keepalive t h p) s = .next u ∧ Quiet s u ∧ u.answered r.h 0x05 0x80 [] ∧
      u.session? r.h.transport r.h.session = some y ∧ y.heard = u.now ∧ u.now = max s.now t)

/-- R65: a session closes on SESSION_CLOSE, after its answer, and 10 s after the last valid message from its host; its subscriptions end
with it. -/
def Obligations.SessionsCloseOnRequestAndOnSilence : Prop :=
  (∀ (t : Time) (h : Hdr) (p : Bytes) (s s2 : State) (r : Rcvd) (x : Session), ReachesIn s t 0x04 h p s2 r x →
    ∃ u, exec (.sessionClose t h p) s = .next u ∧ Quiet s u ∧ u.answered r.h 0x04 0x80 [] ∧
      u.session? r.h.transport r.h.session = none ∧
      ∀ b ∈ u.stream.subs, ¬ (b.transport = r.h.transport ∧ b.session = r.h.session)) ∧
  (∀ (t : Time) (tr : Transport) (n : Byte) (s : State) (x : Session), s.session? tr n = some x →
    (x.heard + Sys2Proof.sec 10 ≤ max s.now t → ∃ u, exec (.sessionIdleTimeout t tr n) s = .next u ∧ Quiet s u ∧
      u.session? tr n = none ∧ (∀ b ∈ u.stream.subs, ¬ (b.transport = tr ∧ b.session = n)) ∧
      Told s u 0x8006 0 (u32 n.toNat) 2 0 0) ∧
    (max s.now t < x.heard + Sys2Proof.sec 10 → exec (.sessionIdleTimeout t tr n) s = .next (s.at t)))

/-- R350: SESSION_OPEN hands out a challenge, the only one of its source; SESSION_AUTH with that challenge within 10 s and the right
response opens a session of that role under K_S, and its counters start anew. The challenge's bytes are free (log entry 5).
The model's choices that it rests on: log entries 13, 14. -/
def Obligations.AuthenticationOpensASession : Prop :=
  (∀ (t : Time) (h : Hdr) (p : Bytes) (s s2 : State) (r : Rcvd) (key : Bytes), Reaches s t 0x02 h p s2 r →
    1 ≤ u8At p 0 → u8At p 0 ≤ 3 → s2.roleKey (u8At p 0) = some key →
    ∃ u c, exec (.sessionOpen t h p) s = .next u ∧ u.answered r.h 0x02 0x80 c.bytes ∧
      c.bytes = le 16 (Config.challenge s.sec.draws).toNat ∧ c.role = u8At p 0 ∧ c.since = u.now ∧ c.void = false ∧
      (∀ d, (d ∈ u.sec.challenges ∧ d.from r.h = true) ↔ d = c) ∧ u.sec.draws = s.sec.draws + 1 ∧
      Quiet (s.overlay u [.sec]) u) ∧
  (∀ (t : Time) (h : Hdr) (p : Bytes) (s s2 : State) (r : Rcvd) (num : Byte) (c : Challenge) (key : Bytes),
    Reaches s t 0x03 h p s2 r → s2.freeNumber r.h.transport = some num → s2.sec.challenges.find? (fun d => d.from r.h) = some c →
    c.bytes = p.take 16 → c.void = false → s2.now < c.since + Sys2Proof.sec 10 → s2.roleKey c.role = some key →
    cmac key (s2.authInput 1 c.role c.bytes) = p.drop 16 →
    ∃ u y, exec (.sessionAuth t h p) s = .next u ∧ u.session? r.h.transport num = some y ∧ y.role = c.role ∧
      y.key = cmac key (s2.authInput 2 c.role c.bytes) ∧ y.rxFresh = 0 ∧ y.txFresh = 0 ∧ y.addr = r.h.addr ∧ y.port = r.h.port ∧
      u.answered r.h 0x03 0x80 [num] ∧ (∀ d ∈ u.sec.challenges, d.from r.h = false) ∧
      u.sec.failures = 0 ∧ u.sec.level = 0 ∧ Quiet (s.overlay u [.sec]) u)

/-! ### Objects (R7, R9, R62, R63, R72, R298) -/

/-- R62, R72, R298: READ and BLOCK_READ answer with the value that the object stands at for the session: its own staged value with
STAGED, else the live value, or with SHADOW the shadow of a configuration object whose domain is not serving. -/
def Obligations.ReadsAnswerWithTheValue : Prop :=
  (∀ (t : Time) (h : Hdr) (p : Bytes) (s s2 : State) (r : Rcvd) (x : Session) (o : Obj) (fl : Nat) (v : Bytes),
    ReachesIn s t 0x10 h p s2 r x → lookup (indexIn 0x10 p * 256 + subIn 0x10 p) = some o → s2.readCheck x o = none →
    s2.readLength x o ≤ (limitsOf r.h.transport).payload → s2.fetch r.h x o = .value fl v →
    ∃ u, exec (.read t h p) s = .next u ∧ Quiet s u ∧ u.answered r.h 0x10 (0x80 + fl) v) ∧
  (∀ (t : Time) (h : Hdr) (p : Bytes) (s s2 : State) (r : Rcvd) (x : Session) (o : Obj) (fl : Nat) (v : Bytes),
    ReachesIn s t 0x20 h p s2 r x → lookup (indexIn 0x20 p * 256 + subIn 0x20 p) = some o → s2.readCheck x o = none →
    u16At p 8 ≤ (limitsOf r.h.transport).count → s2.fetch r.h x o = .value fl v →
    ∃ u, exec (.blockRead t h p) s = .next u ∧ Quiet s u ∧
      u.answered r.h 0x20 (0x80 + fl) (le 4 v.length ++ slice v (u32At p 4) (u16At p 8))) ∧
  (∀ (s : State) (h : Hdr) (x : Session) (o : Obj) (v : Bytes), find? x.lock.staged o.id = some v → s.fetch h x o = .value 0x10 v) ∧
  (∀ (s : State) (h : Hdr) (x : Session) (o : Obj), find? x.lock.staged o.id = none → o.kind = .cfg → s.recoveryBars o = false →
    (s.serving o = .ao ∨ (∃ d, s.serving o = .dom d ∧ h.noAck = false) → s.fetch h x o = .value 0 (s.conf.bytes o.id)) ∧
    (s.serving o = .off ∨ s.serving o = .failed → s.fetch h x o = .value 0x20 (s.conf.bytes o.id)))

/-- R6, R9, R72: a WRITE of an RW configuration object applies at once, outside and inside a Lock; a WRITE of 0 to an EVENT counter clears
it and its SAT bit, and keeps only what was counted in the same cycle of its island's clock; a WRITE of an RWL object is staged. -/
def Obligations.WritesTakeEffectByAccessCode : Prop :=
  ∀ (t : Time) (h : Hdr) (id : Nat) (v : Bytes) (s s2 : State) (r : Rcvd) (x : Session) (o : Obj) (fl : Nat),
    Takes s t id h v s2 r x o fl → id < 256 ^ 3 → o.id = id →
    (o.acc = .rw → o.kind = .cfg → ∃ u, exec (.write t h (writePayload id v)) s = .next u ∧
      u.cfg = putCfg s.fac s.cfg id v ∧ (v ≠ defaultOf s.fac id → u.conf.bytes id = v ∧ ∀ j, j ≠ id → u.conf.bytes j = s.conf.bytes j) ∧
      u.answered r.h 0x11 (0x80 + fl) []) ∧
    (o.acc = .rw → o.kind = .counter → ∃ u, exec (.write t h (writePayload id v)) s = .next u ∧ Quiet s u ∧
      u.answered r.h 0x11 (0x80 + fl) [] ∧
      (id ≠ Id.NOTIFY_DROPPED → u.counter id = match find? s.evt.incs id with
        | some (c, k) => if c = counterCycle id (max s.now t) then k else 0
        | none => 0)) ∧
    (o.acc = .rwl → x.lasts → (x.lock.phase = .opened ∨ x.lock.phase = .staged) → (put x.lock.staged id v).length ≤ 1024 →
      sumNat ((put x.lock.staged id v).map fun q => q.2.length) ≤ 262144 →
      ∃ u y, exec (.write t h (writePayload id v)) s = .next u ∧ Quiet s u ∧ u.answered r.h 0x11 0x90 [] ∧
        u.session? r.h.transport r.h.session = some y ∧ y.lock = { x.lock with phase := .staged, staged := put x.lock.staged id v })

/-- R63: a segment of a block write that fits is kept, and a FINAL segment of an RWL object is staged whole. -/
def Obligations.BlockWritesJoinTheirSegments : Prop :=
  ∀ (t : Time) (h : Hdr) (p : Bytes) (s s2 : State) (r : Rcvd) (x : Session) (o : Obj) (b : BlockXfer),
    ReachesIn s t 0x21 h p s2 r x → lookup (indexIn 0x21 p * 256 + subIn 0x21 p) = some o → o.id ≠ Id.FW_IMAGE → x.lasts →
    BlockXfer.next x.block o.id (segmentOf p) = some b → (segmentOf p).check r.h.transport o (some b) = none →
    ((segmentOf p).final = false → s2.writeCheck x o [] = none →
      ∃ u y, exec (.blockWrite t h p) s = .next u ∧ Quiet s u ∧ u.answered r.h 0x21 0x80 [] ∧
        u.session? r.h.transport r.h.session = some y ∧ y.block = some b ∧ y.lock = x.lock) ∧
    ((segmentOf p).final = true → o.acc = .rwl → s2.writeCheck x o (b.head ++ b.last) = none →
      o.sizeOk (b.head ++ b.last).length = true → s2.valueCheck x o (b.head ++ b.last) = none → s2.recoveryBars o = false →
      (x.lock.phase = .opened ∨ x.lock.phase = .staged) → (put x.lock.staged o.id (b.head ++ b.last)).length ≤ 1024 →
      sumNat ((put x.lock.staged o.id (b.head ++ b.last)).map fun q => q.2.length) ≤ 262144 →
      ∃ u y, exec (.blockWrite t h p) s = .next u ∧ Quiet s u ∧ u.answered r.h 0x21 0x90 [] ∧
        u.session? r.h.transport r.h.session = some y ∧ y.block = none ∧
        y.lock = { x.lock with phase := .staged, staged := put x.lock.staged o.id (b.head ++ b.last) })

/-! ### Notifications and streams (R78, R263) -/

/-- R78: NOTIFY_SUBSCRIBE sets the session's subscription, or ends it; NOTIFY sends the oldest waiting entries of it in one message, under
the session's next FRESHNESS. -/
def Obligations.NotificationsReachTheirSubscriber : Prop :=
  (∀ (t : Time) (h : Hdr) (p : Bytes) (s s2 : State) (r : Rcvd) (x : Session), ReachesIn s t 0x30 h p s2 r x → x.lasts →
    u8At p 0 ≤ 3 → u8At p 1 ≤ 1 → s2.pwr.recovery = false →
    ∃ u y, exec (.notifySubscribe t h p) s = .next u ∧ Quiet s u ∧ u.answered r.h 0x30 0x80 [] ∧
      u.session? r.h.transport r.h.session = some y ∧
      y.sub = if bit (u8At p 1) 0 then some ⟨u8At p 0, if u16At p 2 = 0 then r.h.port else BitVec.ofNat 16 (u16At p 2), [], false⟩
        else none) ∧
  (∀ (t : Time) (tr : Transport) (n : Byte) (s : State) (x : Session) (b : Subscriber), n ≠ 0 → s.session? tr n = some x → x.sub = some b →
    b.queue ≠ [] → s.carries tr = true →
    ∃ u a q, exec (.notify t tr n) s = .next u ∧ Quiet s u ∧
      u.out = [.baspo tr a q (wireMessage tr (some x.key) (s.canIdent 2) 0 0x31 n 0 (u32 (x.txFresh + 1))
        (b.payload (limitsOf tr).entries))] ∧
      (x.lasts → ∃ y, u.session? tr n = some y ∧ y.txFresh = x.txFresh + 1 ∧
        y.sub = some { b with queue := b.queue.drop (limitsOf tr).entries, lost := false }))

/-- R263: STREAM_SUBSCRIBE with flag 0 opens a subscription under the next number, for a stream that is enabled and while fewer than four
are open; without the flag it ends the session's own. The model's choices that it rests on: log entries 8, 26. -/
def Obligations.StreamSubscriptionsOpenAndEnd : Prop :=
  ∀ (t : Time) (h : Hdr) (p : Bytes) (s s2 : State) (r : Rcvd) (x : Session), ReachesIn s t 0x40 h p s2 r x → x.lasts →
    u8At p 0 ≤ 1 → u8At p 1 < 4 → s2.pwr.recovery = false →
    (bit (u8At p 1) 0 = true → s2.streamClass (u8At p 0) ≤ s2.classOf x.role →
      (if u8At p 0 = 0 then s.cfgN Id.STREAM_ENABLE else s.cfgN Id.CAP_ENABLE) ≠ 0 → s.stream.subs.length < 4 →
      ∃ u b, exec (.streamSubscribe t h p) s = .next u ∧ u.answered r.h 0x40 0x80 (le 4 (s.stream.subSeq + 1).toNat) ∧
        u.stream.subs = s.stream.subs ++ [b] ∧ b.num = s.stream.subSeq + 1 ∧ b.stream = u8At p 0 ∧
        b.transport = x.transport ∧ b.session = x.num ∧ Quiet (s.overlay u [.stream]) u) ∧
    (bit (u8At p 1) 0 = false → ∃ u, ∃ m : U32, exec (.streamSubscribe t h p) s = .next u ∧ Quiet s u ∧
      u.answered r.h 0x40 0x80 (le 4 m.toNat) ∧ ∀ b ∈ u.stream.subs, b ∈ s.stream.subs)

/-! ### Locks (R69 to R76) -/

/-- R69, R71: LOCK_OPEN opens a Lock under the next LOCK_ID where the session has none or an abandoned one; LOCK_ABANDON ends an open
one and discards its staging, and so does its timeout. -/
def Obligations.LocksOpenAndEnd : Prop :=
  (∀ (t : Time) (h : Hdr) (s s2 : State) (r : Rcvd) (x : Session) (o : Obj) (fl : Nat), Takes s t Id.LOCK_CONTROL h [1] s2 r x o fl →
    x.lasts → (x.lock.phase = .absent ∨ x.lock.phase = .abandoned) →
    ∃ u y, exec (.lockOpen t h) s = .next u ∧ Quiet s u ∧ u.answered r.h 0x11 0x80 [] ∧
      u.session? r.h.transport r.h.session = some y ∧ u.baspo.lockSeq = s.baspo.lockSeq + 1 ∧
      y.lock = ⟨.opened, false, s.baspo.lockSeq + 1, [], Sys2Proof.msec (s.cfgN Id.LOCK_TIMEOUT), max s.now t⟩) ∧
  (∀ (t : Time) (h : Hdr) (s s2 : State) (r : Rcvd) (x : Session) (o : Obj) (fl : Nat), Takes s t Id.LOCK_CONTROL h [4] s2 r x o fl →
    x.lasts → x.lock.isOpen = true →
    ∃ u y, exec (.lockAbandon t h) s = .next u ∧ Quiet s u ∧ u.answered r.h 0x11 0x80 [] ∧
      u.session? r.h.transport r.h.session = some y ∧ y.lock = x.lock.drop false ∧ Told s u 0xA302 0 x.lock.id 1 0 0) ∧
  (∀ (t : Time) (tr : Transport) (n : Byte) (s : State) (x : Session), s.session? tr n = some x → x.lock.isOpen = true →
    (x.lock.since + x.lock.budget ≤ max s.now t → ∃ u y, exec (.lockTimeout t tr n) s = .next u ∧ Quiet s u ∧
      u.session? tr n = some y ∧ y.lock = x.lock.drop true ∧ Told s u 0xA302 0 x.lock.id 2 0 0) ∧
    (max s.now t < x.lock.since + x.lock.budget → exec (.lockTimeout t tr n) s = .next (s.at t)))

/-- R69, R70, R73, R76: LOCK_COMMIT of a staged Lock starts equalization while no other Lock is EQUALIZING or COMMITTED, and with PERSIST once
the checks of R333 pass; its response waits for the end of equalization.
R73, Table 03.8 steps 3 to 6: equalization runs every check on the configuration as it would stand; a failure puts the Lock back to
STAGED and answers with the first detail, a pass commits it. A committed Lock flips at an idle boundary: its values are live.
The model's choices that it rests on: log entry 19. -/
def Obligations.LocksCommitByEqualization : Prop :=
  (∀ (t : Time) (h : Hdr) (s s2 : State) (r : Rcvd) (x : Session) (o : Obj) (fl : Nat) (persist : Bool),
    Takes s t Id.LOCK_CONTROL h [if persist then 3 else 2] s2 r x o fl → x.lock.phase = .staged → x.lock.expired s2.now = false →
    s2.holdOff = false → s2.lockBusy = false → (persist = true → s2.flashCheck .commit = none) →
    ∃ u y k, exec (if persist then .lockCommitPersist t h else .lockCommit t h) s = .next u ∧ Quiet s u ∧ u.out = [] ∧
      u.session? r.h.transport r.h.session = some y ∧ y.lock.phase = .equalizing ∧ y.lock.staged = x.lock.staged ∧
      u.baspo.commit = some k ∧ k.id = x.lock.id ∧ k.staged = x.lock.staged ∧ k.persist = persist ∧ k.committed = false ∧
      k.request = r.h ∧ k.counted = s.emit.restorePending) ∧
  (∀ (t : Time) (s : State) (k : Commit) (x : Session), s.baspo.commit = some k → k.committed = false →
    s.session? k.transport k.num = some x → x.lock.id = k.id →
    let c := s.confOf (putAll s.fac s.cfg k.staged)
    let found := (c.checks s.conf (s.emit.retired &&& ~~~ k.counted).toNat (s.fadeCase c)).2
    (∀ d rest, found = d :: rest → ∃ u, exec (.lockEqualizationDone t) s = .next u ∧ u.baspo.commit = none ∧
      u.cfg = s.cfg ∧ u.answered k.request k.service 0xC0 (abortBytes .lockValidation 0x1300 1 d)) ∧
    (found = [] → ∃ u, exec (.lockEqualizationDone t) s = .next u ∧ u.cfg = s.cfg ∧
      u.baspo.commit = some { k with committed := true, at_ := max s.now t } ∧ u.answered k.request k.service 0x80 [])) ∧
  (∀ (t : Time) (s : State) (k : Commit), s.scan.timer = false → s.baspo.commit = some k → k.committed = true → s.flash.revert = none →
    ∃ u, exec (.lockIdleFlip t) s = .next u ∧ u.baspo.commit = none ∧ u.baspo.appliedId = k.id ∧ u.baspo.appliedFrame = 0xFFFFFFFF ∧
      u.cfg = putAll s.fac s.cfg k.staged)

/-! ### Scan, slots and phasing (R21, R79, R83, R97, R99, R101, R111 to R113) -/

/-- R21, R79, R113: the tick that ends the flyback opens column 0, the next ones open the columns after it, and the last one begins a frame with
its flyback and an empty frame accumulator; before its instant a tick changes nothing but the clock.
The model's choices that it rests on: log entry 97. -/
def Obligations.TicksOpenColumnsAndFrames : Prop :=
  (∀ (t : Time) (x : TickIn) (s : State), s.scan.timer = true → s.scan.flyback = true → s.scan.tick + s.scan.flyLen ≤ max s.now t →
    ∃ u, exec (.columnTick t x) s = .next u ∧ u.scan.flyback = false ∧ u.scan.column = 0 ∧
      u.scan.tick = s.scan.tick + s.scan.flyLen ∧ u.scan.slot = 0 ∧ u.emit.clearSince = true ∧ u.rx.acc = .empty) ∧
  (∀ (t : Time) (x : TickIn) (s : State), s.scan.timer = true → s.scan.flyback = false → s.scan.column + 1 < s.scan.columns →
    s.scan.tick + s.scan.period ≤ max s.now t →
    ∃ u, exec (.columnTick t x) s = .next u ∧ u.scan.flyback = false ∧ u.scan.column = s.scan.column + 1 ∧
      u.scan.tick = s.scan.tick + s.scan.period ∧ u.scan.slot = 0 ∧ u.arb.columnSeq = s.arb.columnSeq + 1 ∧ u.rx.acc = .empty) ∧
  (∀ (t : Time) (x : TickIn) (f : Option (Fin 32)) (s : State), s.scan.timer = true → s.scan.flyback = false →
    s.scan.column + 1 = s.scan.columns → s.scan.tick + s.scan.period ≤ max s.now t → s.pwr.entry = none →
    ∃ u, exec (.frameBoundary t x f) s = .next u ∧ u.scan.flyback = true ∧ u.scan.frame = s.scan.frame + 1 ∧
      u.scan.tick = s.scan.tick + s.scan.period ∧ u.emit.acc = 0 ∧ u.emit.accLast = s.emit.acc) ∧
  (∀ (t : Time) (x : TickIn) (f : Option (Fin 32)) (s : State), s.scan.timer = true → s.scan.flyback = false →
    max s.now t < s.scan.tick + s.scan.period →
    exec (.columnTick t x) s = .next (s.at t) ∧ exec (.frameBoundary t x f) s = .next (s.at t))

/-- R175: the generator meets the test vector of Table 08.1. -/
def Obligations.FemonMeetsItsTestVector : Prop :=
  femonW1 1 0 = 0x23BB0168 ∧ femonW2 1 0 = 0x05D49DF6 ∧
  femon 1 0 5 = 0 ∧ femon 1 0 6 = 1 ∧ femon 1 0 7 = 2 ∧ femon 1 0 8 = 5 ∧ femon 1 0 9 = 11

/-- R83, R108, R111, R172: at its decision point a column slot whose shot the governor lets through fires, at its slot start plus the launch dither,
with its energy charged; while EMIT_ENABLE is low none fires. The model's choices that it rests on: log entry 97. -/
def Obligations.SlotsFireAtTheirDecision : Prop :=
  ∀ (t : Time) (cal : Option U32) (x : SlotIn) (s : State), s.scan.timer = true → s.scan.flyback = false →
    s.scan.slot < planUsed (s.planFor s.scan.column).image →
    let p := s.planFor s.scan.column
    let start := s.scan.tick + s.scan.slot * p.shotPeriod * 32
    (s.emit.enable = 0 → ∃ u y, exec (.slotDecision t cal x) s = .next u ∧ u.scan.slot = s.scan.slot + 1 ∧
      u.rx.acc.slots = s.rx.acc.slots ++ [y] ∧ y.num = s.scan.slot ∧ y.start = start ∧ y.fired = false ∧ u.emit.acc = s.emit.acc) ∧
    (∀ d, d = s.judgeSlot (planEntry p.image (planPattern p.image s.scan.column) s.scan.slot) none none s.scan.column s.scan.slot x.bankMv
        (start - 400 * 32) → s.emit.enable ≠ 0 → s.darkColumn s.scan.column = false → d.held = false → d.mask ≠ 0 →
      ∃ u y, exec (.slotDecision t none x) s = .next u ∧ u.scan.slot = s.scan.slot + 1 ∧
        u.rx.acc.slots = s.rx.acc.slots ++ [y] ∧ y.num = s.scan.slot ∧ y.start = start ∧ y.fired = true ∧
        y.fire = start + s.conf.launchOffset s.scan.frame s.scan.column s.scan.slot ∧ y.mask = BitVec.ofNat 16 d.mask ∧
        u.emit.acc = s.emit.acc + d.energy)

/-- R111 to R113: no decision takes the frame accumulator above E_limit of the live configuration, or a bar's bucket above its depth of
120 µJ; none moves either while EMIT_ENABLE is low. -/
def Obligations.NoShotExceedsItsLimits : Prop :=
  ∀ (t : Time) (cal : Option U32) (x : SlotIn) (s u : State), exec (.slotDecision t cal x) s = .next u →
    (s.emit.enable = 0 → u.emit.acc = s.emit.acc ∧ u.emit.buckets = s.emit.buckets) ∧
    (u.emit.acc ≠ s.emit.acc → u.emit.acc ≤ s.conf.eLimit) ∧
    ((∀ l ∈ s.emit.buckets, l ≤ bucketDepth) → ∀ l ∈ u.emit.buckets, l ≤ bucketDepth)

/-- R97, R99, R101: an FSYNC edge of the selected polarity is accepted and counts one camera frame, an early one is counted and ignored; silence
of 1.5 periods enters LULL, whose virtual edges count on; a CAMERA_INDEX_SET ticket waits and gives its value to the next edge. -/
def Obligations.EdgesCountCameraFrames : Prop :=
  (∀ (t : Time) (rising : Bool) (s : State), s.timinLive = true → s.cfgN Id.FSYNC_SOURCE ≠ 2 →
    rising = (s.cfgN Id.FSYNC_EDGE == 0) →
    (s.scan.phasing = .free → ∃ u, exec (.fsyncEdge t rising) s = .next u ∧ u.scan.lastEdge = some (max s.now t : Int) ∧
      u.scan.cameraSince = max s.now t ∧ (s.queued Id.CAMERA_INDEX_SET = [] → u.scan.camera = s.scan.camera + 1) ∧
      ∀ k rest, s.queued Id.CAMERA_INDEX_SET = k :: rest → u.scan.camera = u32 k.value) ∧
    (∀ l : Int, s.scan.phasing = .locked ∨ s.scan.phasing = .relock → s.scan.lastEdge = some l →
      2 * ((max s.now t : Int) - l) < (s.scan.fsyncPeriod : Int) →
      ∃ u, exec (.fsyncEdge t rising) s = .next u ∧ Quiet s u ∧
        u.counter Id.FSYNC_EARLY_COUNT = min 0xFFFFFFFF (s.counter Id.FSYNC_EARLY_COUNT + 1))) ∧
  (∀ (t : Time) (l : Int) (s : State), s.scan.phasing = .locked ∨ s.scan.phasing = .relock → s.scan.lastEdge = some l →
    (3 * (s.scan.fsyncPeriod : Int) ≤ 2 * ((max s.now t : Int) - l) → ∃ u, exec (.fsyncLull t) s = .next u ∧ u.scan.phasing = .lull ∧
      u.scan.chainBroken = true ∧ Told s u 0x4C02 1 (u32 s.scan.period) s.scan.realIndex 0 0) ∧
    (2 * ((max s.now t : Int) - l) < 3 * (s.scan.fsyncPeriod : Int) → exec (.fsyncLull t) s = .next (s.at t))) ∧
  (∀ (t : Time) (s : State), s.scan.phasing = .lull → s.scan.virtuals < s.scan.virtualsAt (max s.now t) →
    ∃ u, exec (.cameraVirtualEdge t) s = .next u ∧ u.scan.camera = s.scan.camera + 1 ∧ u.scan.virtuals = s.scan.virtuals + 1 ∧
      u.scan.realIndex = s.scan.realIndex) ∧
  (∀ (t : Time) (h : Hdr) (v : Bytes) (s s2 : State) (r : Rcvd) (x : Session) (o : Obj) (fl : Nat),
    Takes s t Id.CAMERA_INDEX_SET h v s2 r x o fl → (s.queued Id.CAMERA_INDEX_SET).length < 8 →
    ∃ u, exec (.cameraIndexSet t h v) s = .next u ∧ Quiet s u ∧ u.ticketedBy s2 r ∧
      u.queued Id.CAMERA_INDEX_SET = s.queued Id.CAMERA_INDEX_SET ++ [⟨Id.CAMERA_INDEX_SET, s2.nextTicket, leNat v⟩])

/-! ### The string and its governor (R106, R114, R116, R118 to R120) -/

/-- R114, R116: a source that asserts takes EMIT_ENABLE away and latches where Table 05.4 says so, and its end leaves the latch; EMIT_STOP
latches HOST; EMIT_CLEAR clears the named latches, where none of their conditions is still asserted.
R106: a bank that reaches its target is READY; one that has not within 20 ms, or that stands too high, latches BANK_FAULT and is
discharged. The model's choices that it rests on: log entries 36, 38. -/
def Obligations.TripsAndBankFaultsTakeTheEmitterAway : Prop :=
  (∀ (t : Time) (b : Fin 11) (s : State), s.isOn 8 = true → s.emit.active.getLsbD b.val = false → ∃ u, exec (.emitTrip t b true) s = .next u ∧
    u.emit.enable = 0 ∧ u.emit.resume = none ∧ u.emit.active = withBit s.emit.active b.val true ∧
    u.emit.latch = (if b.val ∈ [2, 3, 4, 6, 7, 9] then withBit s.emit.latch b.val true else s.emit.latch) ∧
    u.counter Id.TRIP_COUNT = min 0xFFFFFFFF (s.counter Id.TRIP_COUNT + 1)) ∧
  (∀ (t : Time) (b : Fin 11) (s : State), ∃ u, exec (.emitTrip t b false) s = .next u ∧
    u.emit.active = withBit s.emit.active b.val false ∧ u.emit.latch = s.emit.latch ∧ u.emit.enable = s.emit.enable) ∧
  (∀ (t : Time) (h : Hdr) (s s2 : State) (r : Rcvd) (x : Session) (o : Obj) (fl : Nat), Takes s t Id.EMIT_STOP h [1] s2 r x o fl →
    s.isOn 8 = true → s.emit.active.getLsbD 9 = false →
    ∃ u, exec (.emitStop t h) s = .next u ∧ u.ticketedBy s2 r ∧ u.emit.enable = 0 ∧ u.emit.latch = withBit s.emit.latch 9 true) ∧
  (∀ (t : Time) (h : Hdr) (v : Bytes) (s s2 : State) (r : Rcvd) (x : Session) (o : Obj) (fl : Nat),
    Takes s t Id.EMIT_CLEAR h v s2 r x o fl →
    (s.emit.latch.toNat &&& leNat v &&& s.emit.active.toNat = 0 → ∃ u, exec (.emitClear t h v) s = .next u ∧ u.ticketedBy s2 r ∧
      u.emit.latch = s.emit.latch &&& ~~~ BitVec.ofNat 16 (leNat v) ∧ u.emit.active = s.emit.active ∧ u.emit.enable = s.emit.enable) ∧
    (s.emit.latch.toNat &&& leNat v &&& s.emit.active.toNat ≠ 0 → ∃ u, exec (.emitClear t h v) s = .next u ∧ Quiet s u ∧
      u.answered r.h 0x11 0xC0 (abortBytes .stateConflict (Id.EMIT_CLEAR / 256) (Id.EMIT_CLEAR % 256) 0))) ∧
  (∀ (t : Time) (s : State), s.emit.bankState = 1 → ∃ u, exec (.bankReady t) s = .next u ∧ u.emit.bankState = 2 ∧ u.emit.chargeSince = none ∧
    u.emit.bankMv = s.emit.bankTarget * 1000) ∧
  (∀ (t c : Time) (s : State), s.emit.bankState = 1 → s.emit.chargeSince = some c →
    (c + Sys2Proof.msec 20 ≤ max s.now t → s.isOn 8 = true → s.emit.active.getLsbD 6 = false →
      ∃ u, exec (.bankFaultTimeout t) s = .next u ∧ u.emit.bankState = 5 ∧ u.emit.enable = 0 ∧ u.emit.chargeSince = none ∧
        u.emit.latch = withBit s.emit.latch 6 true) ∧
    (max s.now t < c + Sys2Proof.msec 20 → exec (.bankFaultTimeout t) s = .next (s.at t))) ∧
  (∀ (t : Time) (s : State), s.isOn 8 = true → s.emit.active.getLsbD 6 = false →
    ∃ u, exec (.bankOvervoltage t) s = .next u ∧ u.emit.bankState = 5 ∧ u.emit.enable = 0 ∧ u.emit.latch = withBit s.emit.latch 6 true)

/-- R118 to R120: the rolling test retires a bar that T1 finds shorted or open, the full test ends BAR_FAULT, and BAR_RETIRE_CLEAR queues a
retest of retired bars. -/
def Obligations.BarTestsRetireBars : Prop :=
  (∀ (t : Time) (r : BarReading) (s : State), s.scan.timer = true → s.scan.flyback = true → s.isOn 10 = true →
    r.bar.val = s.scan.frame.toNat % 16 → s.queued Id.BAR_RETIRE_CLEAR = [] → barNeighbour r = false →
    ∃ u, exec (.barTest t [r]) s = .next u ∧
      u.emit.retired = (if barT1 r = .short ∨ barT1 r = .opened then withBit s.emit.retired r.bar.val true else s.emit.retired) ∧
      u.emit.paired = s.emit.paired) ∧
  (∀ (t : Time) (s : State), s.emit.fullTestDue = true → s.scan.timer = true → s.scan.flyback = true → s.isOn 8 = true →
    s.emit.active.getLsbD 7 = false →
    ∃ u, exec (.barFullTest t []) s = .next u ∧ u.emit.fullTestDue = false ∧ u.emit.active.getLsbD 8 = false ∧
      u.emit.latch = withBit s.emit.latch 7 true ∧ u.emit.retired = s.emit.retired) ∧
  (∀ (t : Time) (h : Hdr) (v : Bytes) (s s2 : State) (r : Rcvd) (x : Session) (o : Obj) (fl : Nat),
    Takes s t Id.BAR_RETIRE_CLEAR h v s2 r x o fl → s.pwr.state = .run → (s.queued Id.BAR_RETIRE_CLEAR).length < 8 →
    ∃ u, exec (.barRetireClear t h v) s = .next u ∧ Quiet s u ∧ u.ticketedBy s2 r ∧
      u.queued Id.BAR_RETIRE_CLEAR = s.queued Id.BAR_RETIRE_CLEAR ++ [⟨Id.BAR_RETIRE_CLEAR, s2.nextTicket, leNat v⟩])

/-! ### The receiver (R128, R130, R134 to R136, R139 to R141) -/

/-- R136: a stop that arrives when its channel already holds 8 stops for the shot is discarded, counted in STOPS_LOST, and sets STOP_LIMIT
of the channel and column; a stop within the 2.0 ns dead time is neither detected nor counted. A stop of negative flight is one that R134
has discarded already. -/
def Obligations.StopsBeyondEightAreLost : Prop :=
  ∀ (t : Time) (row : Fin 512) (spads : Nat) (s : State) (x : SlotRec), s.scan.timer = true → s.scan.flyback = false →
    s.isOn (bandDom (bandOf row.val)) = true → (s.band (bandOf row.val)).state ≠ .failed → s.masked row.val = false →
    (s.band (bandOf row.val)).depth ≤ spads → s.listening (max s.now t) = some x → x.lit (bandOf row.val) = true →
    ((∀ q, s.rx.acc.lastStop.find? (fun q => q.1 == row.val) = some q → q.2 + 64 ≤ max s.now t) →
      8 ≤ (s.rx.acc.stamps.filter fun p => p.1 == row.val && p.2.toNat / 67108864 == x.num).length →
      s.flightOf row.val x (max s.now t) < 524288 →
      ∃ u, exec (.stop t row spads) s = .next u ∧ u.rx.acc.stamps = s.rx.acc.stamps ∧ u.rx.acc.hist = s.rx.acc.hist ∧
        row.val ∈ u.rx.acc.limited ∧ u.counter Id.STOPS_LOST = min 0xFFFFFFFF (s.counter Id.STOPS_LOST + 1)) ∧
    (∀ q, s.rx.acc.lastStop.find? (fun q => q.1 == row.val) = some q → max s.now t < q.2 + 64 →
      ∃ u, exec (.stop t row spads) s = .next u ∧ Quiet s u ∧ u.evt = s.evt)

/-- R130, R134, R135, R150: a stop of a lit window enters its raw stamp word and its histogram bin, one of an unlit window counts as
ambient, and one outside every window changes nothing. -/
def Obligations.StopsAreStampedAndHistogrammed : Prop :=
  ∀ (t : Time) (row : Fin 512) (spads : Nat) (s : State), s.scan.timer = true → s.scan.flyback = false →
    s.isOn (bandDom (bandOf row.val)) = true → (s.band (bandOf row.val)).state ≠ .failed → s.masked row.val = false →
    (s.band (bandOf row.val)).depth ≤ spads → s.rx.acc.lastStop.find? (fun q => q.1 == row.val) = none →
    (∀ x, s.listening (max s.now t) = some x → x.lit (bandOf row.val) = true →
      let held := (s.rx.acc.stamps.filter fun p => p.1 == row.val && p.2.toNat / 67108864 == x.num).length
      let f := s.flightOf row.val x (max s.now t)
      held < 8 → f < 524288 → s.cfgN Id.HIST_WEIGHT = 0 → f / s.conf.binLsb < 1536 →
      ∃ u, exec (.stop t row spads) s = .next u ∧
        u.rx.acc.stamps = s.rx.acc.stamps ++ [(row.val, u32 (x.num * 67108864 + held * 8388608 + f))] ∧
        u.rx.acc.hist = bumpAt s.rx.acc.hist (row.val * 1536 + f / s.conf.binLsb) (2 ^ s.cfgN Id.HIST_SHIFT) 0xFFFFF) ∧
    (∀ x, s.listening (max s.now t) = some x → x.lent = false → x.lit (bandOf row.val) = false →
      ∃ u, exec (.stop t row spads) s = .next u ∧ u.rx.acc.stamps = s.rx.acc.stamps ∧ u.rx.acc.hist = s.rx.acc.hist ∧
        u.rx.acc.ambient = bumpAt s.rx.acc.ambient row.val 1 0xFFFF) ∧
    (s.listening (max s.now t) = none → exec (.stop t row spads) s = .next (s.at t))

/-- R128, R141: the bias goal of every powered band is recomputed; a PLL that unlocks makes its band invalid, the third time within 16
frames FAILED; a relock in the flyback ends it, and one that fails makes the band FAILED.
R139, R140, R141: a band test keeps its result, masks a channel that fails the same test in two consecutive runs, and admits a woken
band; BAND_RESTART powers the band down under a ticket, and CHANNEL_UNMASK of rows that no test masks ends at once.
The model's choices that it rests on: log entry 44. -/
def Obligations.BandsFollowBiasLockAndTests : Prop :=
  (∀ (t : Time) (s : State), s.rx.bands.length = 16 → ∃ u, exec (.biasUpdate t) s = .next u ∧
    ∀ b, b < 16 → (u.band b).biasGoal = (if s.isOn (bandDom b) then s.biasGoalOf b else (s.band b).biasGoal) ∧
      (u.band b).bias = (s.band b).bias) ∧
  (∀ (t : Time) (b : Fin 16) (s : State), s.rx.bands.length = 16 → s.isOn (bandDom b.val) = true → (s.band b.val).state ≠ .failed →
    let recent := (s.band b.val).unlockFrames.filter fun k => s.scan.frame.toNat < k + 16
    ∃ u, exec (.pllUnlock t b) s = .next u ∧ u.counter Id.PLL_UNLOCKS = min 0xFFFFFFFF (s.counter Id.PLL_UNLOCKS + 1) ∧
      (recent.length < 2 → (u.band b.val).unlocked = true ∧ (u.band b.val).state = (s.band b.val).state) ∧
      (2 ≤ recent.length → (u.band b.val).state = .failed)) ∧
  (∀ (t : Time) (b : Fin 16) (ok : Bool) (s : State), s.rx.bands.length = 16 → (s.band b.val).unlocked = true → s.scan.flyback = true →
    ∃ u, exec (.pllRelock t b ok) s = .next u ∧ (u.band b.val).unlocked = (if ok then false else (u.band b.val).unlocked) ∧
      (ok = false → (u.band b.val).state = .failed)) ∧
  (∀ (t : Time) (b : Fin 16) (r : BandResult) (s : State), s.rx.bands.length = 16 → s.pwr.state = .run → s.scan.timer = true →
    s.scan.flyback = true → s.isOn (bandDom b.val) = true → (s.band b.val).state ≠ .failed →
    (b.val = s.scan.frame.toNat % 16 ∨ (s.band b.val).untested = true) → (s.band b.val).restart = none →
    ∃ u, exec (.bandTest t b r) s = .next u ∧ (u.band b.val).lastFail = BandTests r ∧
      (∀ c : Fin 32, (s.band b.val).clearNext.getLsbD c.val = false → r.inj.getLsbD c.val = true →
        ((s.band b.val).lastFail.getD 0 0).getLsbD c.val = true → u.rx.maskTest.getLsbD (32 * b.val + c.val) = true) ∧
      (r.inj ≠ BitVec.allOnes 32 → r.coinc ≠ BitVec.allOnes 32 → (u.band b.val).untested = false)) ∧
  (∀ (t : Time) (h : Hdr) (v : Bytes) (s s2 : State) (r : Rcvd) (x : Session) (o : Obj) (fl : Nat),
    Takes s t Id.BAND_RESTART h v s2 r x o fl → s.pwr.state = .run → leNat v < s.rx.bands.length → (s.band (leNat v)).restart = none →
    bandDom (leNat v) < s.pwr.doms.length →
    ∃ u, exec (.bandRestart t h v) s = .next u ∧ u.ticketedBy s2 r ∧ (u.band (leNat v)).state = .off ∧
      (u.band (leNat v)).restart = some s2.nextTicket ∧ u.isOn (bandDom (leNat v)) = false) ∧
  (∀ (t : Time) (h : Hdr) (v : Bytes) (s s2 : State) (r : Rcvd) (x : Session) (o : Obj) (fl : Nat),
    Takes s t Id.CHANNEL_UNMASK h v s2 r x o fl → s.rx.unmasks.length < 8 →
    (s.unmaskRows (leNat v) = [] → ∃ u, exec (.channelUnmask t h v) s = .next u ∧ Quiet s u ∧ u.ticketedBy s2 r ∧
      Told s u 0x3006 0 0 0 0 s2.nextTicket) ∧
    (s.unmaskRows (leNat v) ≠ [] → ∃ u w, exec (.channelUnmask t h v) s = .next u ∧ u.ticketedBy s2 r ∧
      u.rx.unmasks = s.rx.unmasks ++ [w] ∧ w.num = s2.nextTicket ∧ u.rx.maskTest = s.rx.maskTest))

/-! ### Timing inputs (R40, R41, R49, R142 to R145) -/

/-- R143: after each stamped edge an input is blind for 4.0 ns: an edge inside that interval is not stamped, counts in TIN_CLOSE_COUNT, and
sets CLOSE in the open record. -/
def Obligations.InputsAreBlindAfterAnEdge : Prop :=
  ∀ (t t0 : Time) (i : Fin 4) (rising : Bool) (s : State), s.timinLive = true → bit (s.cfgN Id.TIN_ENABLE) i.val = true →
    i.val < s.tin.inputs.length → (s.input i.val).stamped = some t0 → max s.now t < t0 + 128 →
    ∃ u, exec (.tinEdge t i rising) s = .next u ∧ u.input i.val = { s.input i.val with
        openRec := (s.input i.val).openRec.map fun r => { r with close := true } } ∧
      u.counter Id.TIN_CLOSE_COUNT = min 0xFFFFFFFF (s.counter Id.TIN_CLOSE_COUNT + 1) ∧ u.tin.closed = s.tin.closed

/-- R40, R142, R144: outside that interval an edge is stamped, and where GATE is high and its polarity selected it is accepted at its stamp
less the skew, and counted; GATE's fall closes every record. -/
def Obligations.EdgesOpenRecordsWhileGateIsHigh : Prop :=
  (∀ (t : Time) (i : Fin 4) (rising : Bool) (s : State), s.timinLive = true → bit (s.cfgN Id.TIN_ENABLE) i.val = true →
    i.val < s.tin.inputs.length → (∀ t0, (s.input i.val).stamped = some t0 → t0 + 128 ≤ max s.now t) →
    (s.tin.gate = true → s.conf.tinSelects i.val rising = true → ∃ u, exec (.tinEdge t i rising) s = .next u ∧
      (u.input i.val).stamped = some (max s.now t) ∧
      (u.input i.val).lastEdge = ((s.at t).deviceTicks (max s.now t) - s.cal.vals.tin.getD i.val 0, rising) ∧
      u.counter Id.TIN_EDGES = min 0xFFFFFFFF (s.counter Id.TIN_EDGES + 1)) ∧
    (s.tin.gate = false → ∃ u, exec (.tinEdge t i rising) s = .next u ∧ u.input i.val = { s.input i.val with stamped := some (max s.now t) } ∧
      u.tin.closed = s.tin.closed)) ∧
  (∀ (t : Time) (rising : Bool) (s : State), s.timinLive = true → s.tin.gatePin ≠ rising → ∃ u, exec (.gateEdge t rising) s = .next u ∧
    u.tin.gate = rising ∧ (rising = false → s.tin.inputs.length = 4 → ∀ i, i < 4 → (u.input i).openRec = none))

/-- R41, R49, R144, R145: an idle record closes, the oldest closed record is delivered, 1,000 REFIN edges in a row at the right interval make
REFIN present and a silence of 1 µs absent, and PAD_RELEASE frees the named pads.
The model's choices that it rests on: log entries 48, 49. -/
def Obligations.RecordsCloseAndReferencesComeAndGo : Prop :=
  (∀ (t : Time) (i : Fin 4) (s : State) (r : TinRec), i.val < s.tin.inputs.length → (s.input i.val).openRec = some r →
    (s.input i.val).last.getD 0 + (Sys2Proof.usec (s.cfgN Id.TIN_IDLE_TIMEOUT) : Nat) ≤
      (s.at t).deviceTicks (max s.now t) - s.cal.vals.tin.getD i.val 0 →
    ∃ u, exec (.tinRecordCloseIdle t i) s = .next u ∧ (u.input i.val).openRec = none ∧
      u.tin.closed = s.tin.closed ++ [{ r with reason := 1 }]) ∧
  (∀ (t : Time) (s : State) (r : TinRec) (rest : List TinRec), s.tin.closed = r :: rest →
    ∃ u, exec (.tinRecordDelivery t) s = .next u ∧ u.tin.closed = rest ∧ (s.cfgN Id.STREAM_RECORDS ≠ 1 → u.stream = s.stream)) ∧
  (∀ (t t0 : Time) (s : State), s.timinLive = true → s.tin.refinLast = some t0 →
    (3040 ≤ max s.now t - t0 → max s.now t - t0 ≤ 3360 → ∃ u, exec (.refinEdge t) s = .next u ∧
      u.tin.refinRun = min 1000 (s.tin.refinRun + 1) ∧ (999 ≤ s.tin.refinRun → u.tin.refin = true)) ∧
    (3360 < max s.now t - t0 → ∃ u, exec (.refinEdge t) s = .next u ∧ u.tin.refinRun = 0 ∧ u.tin.refin = s.tin.refin)) ∧
  (∀ (t t0 : Time) (s : State), s.tin.refinLast = some t0 → t0 + Sys2Proof.usec 1 ≤ max s.now t → s.cal.running = none →
    ∃ u, exec (.refinAbsent t) s = .next u ∧ u.tin.refin = false ∧ u.tin.refinRun = 0) ∧
  (∀ (t : Time) (h : Hdr) (s s2 : State) (r : Rcvd) (x : Session) (o : Obj) (fl : Nat),
    (Takes s t Id.PAD_RELEASE h [1] s2 r x o fl → ∃ u, exec (.padReleaseTimin t h) s = .next u ∧ u.ticketedBy s2 r ∧
      u.pwr.pads = withBit s.pwr.pads 0 false ∧ u.tin.inputs = s.tin.inputs) ∧
    (Takes s t Id.PAD_RELEASE h [2] s2 r x o fl → ∃ u, exec (.padReleaseTbus t h) s = .next u ∧ u.ticketedBy s2 r ∧
      u.pwr.pads = withBit s.pwr.pads 1 false ∧ u.tin = s.tin))

/-! ### The lanes (R237 to R250) -/

/-- R239, R240, R241: a lane hands in its result of the oldest finished column it owes; the verdict on two equal signatures releases the
column, and one on two different signatures calls for a self-test.
The model's choices that it rests on: log entries 68, 71. -/
def Obligations.LanesAnswerAndAreCompared : Prop :=
  (∀ (t : Time) (l : LaneId) (up : List (Nat × Byte)) (s : State) (x : ColumnRec), (s.lane l).runs = true →
    (s.arb.columns.find? fun x => (x.resultOf l).isNone && decide ((s.lane l).joined ≤ x.ended)) = some x →
    ∃ u, exec (.laneColumnDone t l up) s = .next u ∧ (u.lane l).watchdog = max s.now t ∧
      u.arb.columns.length = s.arb.columns.length ∧ ∃ y ∈ u.arb.columns, y.seq = x.seq ∧ (y.resultOf l).isSome = true) ∧
  (∀ (t : Time) (s : State) (x : ColumnRec) (h : LaneId), (s.arb.columns.find? fun x => !x.judged) = some x →
    (s.at t).verdictDue x = true → s.arb.holder = some h → s.arb.towpath = 0 →
    (∀ a b, s.blockOf x .a = some a → s.blockOf x .b = some b →
      ∃ u, exec (.compareVerdict t) s = .next u ∧ u.arb.released = x.seq ∧ (∀ y ∈ u.arb.columns, y.seq ≠ x.seq) ∧
        (sameSignature a b = false → u.arb.selftest.isSome = true)))

/-- R242 to R244: a report keeps the lane's health, a renewal in time keeps the lease, and a lease that expires or is given up goes to an
eligible standby in the same cycle, or lapses: then no lane holds it and the device is BECALMED. -/
def Obligations.TheLeaseIsRenewedTakenOverOrLapses : Prop :=
  (∀ (t : Time) (l : LaneId) (s : State), (s.lane l).runs = true → (s.lane l).fatal = false → (s.lane l).toReport = none →
    ∃ u, exec (.laneReport t l) s = .next u ∧ (u.lane l).report = some (max s.now t, (s.lane l).state == .qualified) ∧
      (u.lane l).watchdog = max s.now t ∧ u.lane (other l) = s.lane (other l)) ∧
  (∀ (t : Time) (l : LaneId) (s : State), s.arb.holder = some l → (s.lane l).fatal = false →
    max s.now t / aoCycle < s.leaseEnd / aoCycle → (s.at t).lateColumn l = false →
    ∃ u, exec (.leaseRenew t l) s = .next u ∧ u.arb.renewed = max s.now t ∧ u.arb.unconfirmed = none ∧ u.arb.holder = some l) ∧
  (∀ (t : Time) (h : LaneId) (s : State), s.arb.holder = some h →
    (s.leaseEnd / aoCycle ≤ max s.now t / aoCycle →
      ((s.at t).eligible (other h) = true → ∃ u, exec (.leaseExpiry t) s = .next u ∧ u.arb.holder = some (other h) ∧
        (u.lane h).state = .failed ∧ (u.lane (other h)).state = .active) ∧
      ((s.at t).eligible (other h) = false → ∃ u, exec (.leaseExpiry t) s = .next u ∧ u.arb.holder = none ∧
        (u.lane h).state = .failed ∧ u.pwr.becalmed ≠ 0 ∧ u.scan.timer = false)) ∧
    (max s.now t / aoCycle < s.leaseEnd / aoCycle → exec (.leaseExpiry t) s = .next (s.at t)) ∧
    ((s.at t).eligible (other h) = true → ∃ u, exec (.yield t h) s = .next u ∧ u.arb.holder = some (other h) ∧
      (u.lane h).state = .failed) ∧
    ((s.at t).eligible (other h) = false → ∃ u, exec (.yield t h) s = .next u ∧ u.arb.holder = none ∧ u.pwr.becalmed ≠ 0) ∧
    (∀ g, s.arb.unconfirmed = some g →
      (g + Sys2Proof.usec 5 ≤ max s.now t → ∃ u, exec (.leaseConfirmTimeout t) s = .next u ∧ u.arb.holder = none ∧
        (u.lane h).state = .failed ∧ u.pwr.becalmed ≠ 0) ∧
      (max s.now t < g + Sys2Proof.usec 5 → exec (.leaseConfirmTimeout t) s = .next (s.at t))))

/-- R237, R238, Table 11.2: the preferred lane takes the token when it reports ready, the other one 50 ms later; a fatal fault or a silent
watchdog makes a lane FAILED.
R246: a lost link is pending for 200 µs, then declared where the peer was heard; it is reported degraded after the grace time, and ends
when the Towpath comes up. The model's choices that it rests on: log entries 65, 67. -/
def Obligations.LanesStartAndFailAndTheTowpathParts : Prop :=
  (∀ (t : Time) (s : State), s.isOn (laneDom s.preferred) = true → (s.lane s.preferred).state = .off →
    (s.lane s.preferred).ready = none → s.arb.holder = none →
    ∃ u, exec (.laneReady t s.preferred) s = .next u ∧ u.arb.holder = some s.preferred ∧ (u.lane s.preferred).state = .active ∧
      u.arb.unconfirmed = some (max s.now t)) ∧
  (∀ (t r : Time) (s : State), s.arb.holder = none → (s.lane (other s.preferred)).ready = some r →
    (s.lane (other s.preferred)).state = .off →
    (r + Sys2Proof.msec 50 ≤ max s.now t → ∃ u, exec (.lanePreferredTimeout t) s = .next u ∧
      u.arb.holder = some (other s.preferred) ∧ (u.lane (other s.preferred)).state = .active) ∧
    (max s.now t < r + Sys2Proof.msec 50 → exec (.lanePreferredTimeout t) s = .next (s.at t))) ∧
  (∀ (t : Time) (l : LaneId) (s : State), s.arb.holder ≠ some l → s.arb.rejoin = none →
    (s.isOn (laneDom l) = true → (s.lane l).state ≠ .off → ∃ u, exec (.fatalLaneFault t l) s = .next u ∧
      (u.lane l).state = .failed ∧ (u.lane l).fatal = true) ∧
    ((s.lane l).runs = true → (s.lane l).watchdog + Sys2Proof.usec 250 ≤ max s.now t →
      ∃ u, exec (.laneWatchdogExpiry t l) s = .next u ∧ (u.lane l).state = .failed) ∧
    (max s.now t < (s.lane l).watchdog + Sys2Proof.usec 250 → exec (.laneWatchdogExpiry t l) s = .next (s.at t))) ∧
  (∀ (t : Time) (l : LaneId) (s : State), s.arb.towpath = 0 → (s.lane l).state ≠ .off → (s.lane l).state ≠ .failed →
    s.isOn (laneDom (other l)) = true → ∃ u, exec (.linkLost t l) s = .next u ∧ u.arb.towpath = 1 ∧ u.arb.towpathAt = max s.now t ∧
      u.arb.reporter = l ∧ u.arb.peerHeard = false ∧ u.laneA = s.laneA ∧ u.laneB = s.laneB) ∧
  (∀ (t : Time) (s : State), s.arb.towpath = 1 → s.arb.towpathAt + Sys2Proof.usec 200 ≤ max s.now t →
    (s.arb.peerHeard = false → ∃ u, exec (.towpathPendingTimeout t) s = .next u ∧ u.arb.towpath = 0) ∧
    (s.arb.peerHeard = true → ∃ u, exec (.towpathPendingTimeout t) s = .next u ∧ u.arb.towpath = 2 ∧
      u.laneA.state ≠ .standby ∧ u.laneA.state ≠ .qualified ∧ u.laneB.state ≠ .standby ∧ u.laneB.state ≠ .qualified)) ∧
  (∀ (t : Time) (s : State), s.arb.towpath = 2 → s.arb.graceRaised = false →
    s.arb.towpathAt + Sys2Proof.msec (s.cfgN Id.TOWPATH_GRACE) ≤ max s.now t →
    ∃ u, exec (.towpathGraceExpiry t) s = .next u ∧ u.arb = { s.arb with graceRaised := true } ∧
      Told s u 0x5007 2 (u32 (s.cfgN Id.TOWPATH_GRACE)) 0 0 0) ∧
  (∀ (t : Time) (s : State), s.arb.towpath = 2 → ∃ u, exec (.towpathUp t) s = .next u ∧
    u.arb = { s.arb with towpath := 0, towpathAt := max s.now t } ∧ Told s u 0x5008 0 0 0 0 0)

/-- R245, R247, R248: the self-test is recorded; LANE_RESTART cold-starts both lanes, LANE_REJOIN and the automatic rejoin start one, whose
copy, commit tick and snapshot bring the lane to STANDBY. The model's choices that it rests on: log entries 65, 70. -/
def Obligations.LanesRestartAndRejoin : Prop :=
  (∀ (t : Time) (n : Nat) (s : State), s.arb.selftest = some n → ∃ u, exec (.selftestResult t (some true) (some true)) s = .next u ∧
    u.arb.selftest = none ∧ u.arb.selftestLast = le 4 n ++ [0, 0, 0, 0] ∧ u.arb.holder = s.arb.holder ∧ Told s u 0x5003 0 0 0 0 0) ∧
  (∀ (t : Time) (h : Hdr) (s s2 : State) (r : Rcvd) (x : Session) (o : Obj) (fl : Nat),
    Takes s t Id.LANE_RESTART h [1] s2 r x o fl → s.pwr.becalmed = 1 → s.arb.restart = none → s.awake = true →
    ∃ u, exec (.laneRestart t h) s = .next u ∧ u.ticketedBy s2 r ∧ u.arb.restart = some (s2.nextTicket, max s.now t) ∧
      u.arb.holder = none) ∧
  (∀ (t : Time) (h : Hdr) (v : Bytes) (s s2 : State) (r : Rcvd) (x : Session) (o : Obj) (fl : Nat),
    Takes s t Id.LANE_REJOIN h v s2 r x o fl → s.rejoinable (laneOf (leNat v)) = true →
    ∃ u, exec (.laneRejoin t h v) s = .next u ∧ u.ticketedBy s2 r ∧
      u.arb.rejoin = some { lane := laneOf (leNat v), ticket := s2.nextTicket, step := 2, tick := 0 } ∧
      (u.lane (laneOf (leNat v))).state = .rejoining) ∧
  (∀ (t : Time) (l : LaneId) (s : State), (s.at t).autoRejoin = some l → ∃ u, exec (.rejoinAutoStart t) s = .next u ∧
    u.arb.rejoin = some { lane := l, ticket := 0, step := 2, tick := 0 } ∧ (u.lane l).state = .rejoining) ∧
  (∀ (t : Time) (s : State) (r : Rejoin), s.arb.rejoin = some r → r.step = 2 → ∃ u, exec (.rejoinCopyDone t) s = .next u ∧
    u.arb = { s.arb with rejoin := some { r with step := 3 } }) ∧
  (∀ (t : Time) (s : State) (r : Rejoin), s.arb.rejoin = some r → r.step = 4 → ∃ u, exec (.rejoinSnapshot t) s = .next u ∧
    u.arb.rejoin = some { r with step := 6 } ∧ (u.lane r.lane).state = .standby ∧
    (u.lane r.lane).engine = (s.lane (other r.lane)).engine)

/-! ### The mirror and its front end (R194 to R212, R229 to R231) -/

/-- R194, R201, R209: a control sample is delivered once it is due: it takes the next INDEX, an overload makes it and the 23 after it
UNSETTLED and is counted; before its instant nothing is delivered.
The model's choices that it rests on: log entries 2, 97. -/
def Obligations.SamplesAreDeliveredWhenDue : Prop :=
  ∀ (t : Time) (a b c d : W20) (above lateA lateB : Bool) (s : State) (sec : Section) (i : Nat), s.dueSample = some (sec, i) →
    s.isOn 12 = true → s.isOn 13 = true →
    (sec.offset i + (sec.tick + s.fac.filterLatency * 32 : Nat) ≤ (max s.now t : Nat) → (sec.change = none ∨ i ≠ 1) →
      ∃ u, exec (.controlSample t (.delivered a b c d) above lateA lateB) s = .next u ∧ u.front.index = s.front.index + 1 ∧
        u.front.settle = (if above then 23 else s.front.settle - 1) ∧ u.front.unsettled = (above || s.front.settle != 0) ∧
        (above = true → u.counter Id.OVERLOADS = min 0xFFFFFFFF (s.counter Id.OVERLOADS + 1))) ∧
    ((max s.now t : Nat) < sec.offset i + (sec.tick + s.fac.filterLatency * 32 : Nat) →
      exec (.controlSample t (.delivered a b c d) above lateA lateB) s = .next (s.at t))

/-- R229: a mode request waits under its ticket for the next sample, and is refused at once in BECALMED; HOMING that takes too long
ends in PARK in that lane's engine.
R45, R230, R231: an overcurrent puts the bridge at high impedance and asserts STALL at the governor; COIL_TRIP_CLEAR ends that state where
the engine is in PARK and the current small; the park ramp ends in the brake.
The model's choices that it rests on: log entries 61, 63. -/
def Obligations.ModesAreRequestedAndTheCoilTrips : Prop :=
  (∀ (m : Nat) (c : Instr) (t : Time) (h : Hdr) (s s2 : State) (r : Rcvd) (x : Session) (o : Obj) (fl : Nat),
    ((m = 1 ∧ c = .modeRequestTrack t h) ∨ (m = 2 ∧ c = .modeRequestHold t h) ∨ (m = 3 ∧ c = .modeRequestPark t h)) →
    Takes s t Id.CONTROL_MODE_REQUEST h [BitVec.ofNat 8 m] s2 r x o fl → (s.queued Id.CONTROL_MODE_REQUEST).length < 8 →
    (s.pwr.becalmed = 0 → ∃ u, exec c s = .next u ∧ Quiet s u ∧ u.ticketedBy s2 r ∧
      u.queued Id.CONTROL_MODE_REQUEST = s.queued Id.CONTROL_MODE_REQUEST ++ [⟨Id.CONTROL_MODE_REQUEST, s2.nextTicket, m⟩]) ∧
    (s.pwr.becalmed ≠ 0 → ∃ u, exec c s = .next u ∧ Quiet s u ∧ u.ticketedBy s2 r ∧
      Told s u 0x4308 1 (u32 m) (u32 s.engine.mode.code) 0 s2.nextTicket)) ∧
  (∀ (t : Time) (l : LaneId) (s : State), (s.lane l).runs = true → (s.lane l).engine.mode = .homing → (s.lane l).engine.arrived = false →
    ((s.lane l).engine.homingSince + Sys2Proof.msec (s.cfgN Id.HOMING_TIMEOUT) ≤ max s.now t →
      ∃ u, exec (.homingFailed t) s = .next u ∧ (u.lane l).engine.mode = .park ∧ (u.lane l).engine.i = 0) ∧
    (max s.now t < (s.lane l).engine.homingSince + Sys2Proof.msec (s.cfgN Id.HOMING_TIMEOUT) →
      ∃ u, exec (.homingFailed t) s = .next u ∧ (u.lane l).engine = (s.lane l).engine)) ∧
  (∀ (t : Time) (i : W20) (s : State), s.isOn 11 = true → s.coil.state ≠ 4 → ∃ u, exec (.coilTrip t i) s = .next u ∧
    u.coil = { state := 4, command := 0, highZ := true } ∧ Told s u 0x4306 3 (u32i i.toInt) 0 0 0 ∧
    (s.isOn 8 = true → u.emit.active.getLsbD 2 = true)) ∧
  (∀ (t : Time) (h : Hdr) (s s2 : State) (r : Rcvd) (x : Session) (o : Obj) (fl : Nat),
    Takes s t Id.COIL_TRIP_CLEAR h [1] s2 r x o fl → s.coil.state = 4 →
    (s.engine.mode = .park → s.front.coilCurrent.natAbs < 12500 → ∃ u, exec (.coilTripClear t h) s = .next u ∧ u.ticketedBy s2 r ∧
      u.coil = { s.coil with state := 0 } ∧ (s.front.stall = false → u.emit.active.getLsbD 2 = false)) ∧
    (s.engine.mode ≠ .park → ∃ u, exec (.coilTripClear t h) s = .next u ∧ Quiet s u ∧
      u.answered r.h 0x11 0xC0 (abortBytes .stateConflict (Id.COIL_TRIP_CLEAR / 256) (Id.COIL_TRIP_CLEAR % 256) 0))) ∧
  (∀ (t : Time) (s : State), s.coil.state = 2 → ∃ u, exec (.parkRampDone t) s = .next u ∧ u.coil = { s.coil with state := 3 } ∧ Quiet { s with coil := u.coil } u)

/-- R197 to R199: a pair voltage above 0.5 V and an open LED latch their break causes and assert SENSOR_BREAK; FE_CLEAR ends both latches
once all is well again. -/
def Obligations.BreaksAreLatchedAndCleared : Prop :=
  (∀ (t : Time) (a b : Nat) (s : State), s.isOn 12 = true →
    (a ≤ 500 → b ≤ 500 → ∃ u, exec (.wireBreakCheck t a b) s = .next u ∧ u.front = { s.front with passed := min 16 (s.front.passed + 1) } ∧
      u.emit = s.emit) ∧
    (500 < a → b ≤ 500 → ∃ u, exec (.wireBreakCheck t a b) s = .next u ∧ u.front.passed = 0 ∧ u.front.breakLatch = s.front.breakLatch ||| 1#8 ∧
      (s.front.breakLatch = 0 → s.isOn 8 = true → u.emit.active.getLsbD 4 = true)) ∧
    (a ≤ 500 → 500 < b → ∃ u, exec (.wireBreakCheck t a b) s = .next u ∧ u.front.passed = 0 ∧ u.front.breakLatch = s.front.breakLatch ||| 2#8) ∧
    (1000 ≤ s.front.led → ∃ u, exec (.ledOpen t) s = .next u ∧ u.front.breakLatch = s.front.breakLatch ||| 4#8)) ∧
  (∀ (t : Time) (h : Hdr) (s s2 : State) (r : Rcvd) (x : Session) (o : Obj) (fl : Nat),
    Takes s t Id.FE_CLEAR h [1] s2 r x o fl →
    (s.feClearable = true → ∃ u, exec (.feClear t h) s = .next u ∧ u.ticketedBy s2 r ∧ u.front.breakLatch = 0 ∧ u.front.parkLatch = false ∧
      u.front.stall = false ∧ u.emit.active.getLsbD 4 = false ∧ u.emit.active.getLsbD 3 = false ∧
      (s.coil.state ≠ 4 → u.emit.latch = s.emit.latch)) ∧
    (s.feClearable = false → ∃ u, exec (.feClear t h) s = .next u ∧ Quiet s u ∧
      u.answered r.h 0x11 0xC0 (abortBytes .stateConflict (Id.FE_CLEAR / 256) (Id.FE_CLEAR % 256) 0)))

/-- R210 to R212: a housekeeping result is corrected and kept under its input; a self-calibration sets offset and gain where both lie within
their bounds, and reports where not. The model's choices that it rests on: log entry 58. -/
def Obligations.HousekeepingConvertsAndCalibrates : Prop :=
  (∀ (t : Time) (raw : W20) (s : State), s.isOn 14 = true → s.hka.calTicket = none → ∃ u, exec (.hkResult t raw) s = .next u ∧
    u.hka.results = setAt s.hka.results s.hka.input (some (s.hka.correct raw))) ∧
  (∀ (t : Time) (h : Hdr) (s s2 : State) (r : Rcvd) (x : Session) (o : Obj) (fl : Nat),
    Takes s t Id.HK_CALIBRATE h [1] s2 r x o fl → (s.queued Id.HK_CALIBRATE).length < 8 → s.hka.calTicket = none →
    ∃ u, exec (.hkCalibrate t h) s = .next u ∧ u.ticketedBy s2 r ∧
      u.hka = { s.hka with calState := 1, calTicket := some s2.nextTicket }) ∧
  (∀ (t : Time) (a b : Nat) (k : U32) (s : State), s.hka.calTicket = some k → s.isOn 14 = true → s.queued Id.HK_CALIBRATE = [] →
    let offset := roundHalfUp ((a : Rat) / 8)
    let span : Rat := (b : Rat) / 8 - offset
    let gain := roundHalfUp ((1048576 * 838861 : Nat) / span)
    span ≠ 0 →
    (offset.natAbs ≤ 4096 → (gain - 1048576).natAbs * 100 ≤ 2 * 1048576 → ∃ u, exec (.hkCalDone t a b) s = .next u ∧
      u.hka = { s.hka with offset, gain := gain.toNat, calState := 2, calTicket := none } ∧
      Told s u 0x4008 0 (u32i offset) (u32i gain) 0 k) ∧
    (4096 < offset.natAbs ∨ 2 * 1048576 < (gain - 1048576).natAbs * 100 → ∃ u, exec (.hkCalDone t a b) s = .next u ∧
      u.hka = { s.hka with calState := 3, calTicket := none } ∧ Told s u 0x4009 3 (u32i offset) (u32i gain) 0 k))

/-! ### Capture, the stream, the network (R253 to R276, R15, R53, R54) -/

/-- R253, R257, R259: a trigger on offer is taken in order; one of the mask starts the armed segment under the next number, one that
falls during rearming or while FULL is counted as missed.
Tables 12.1 and 12.3, R261: arming, disarming and a host trigger by CAP_CONTROL, the release of a held segment, and the selection of one
for reading. The model's choices that it rests on: log entries 22, 72. -/
def Obligations.CaptureObeysTriggersAndItsHost : Prop :=
  (∀ (t : Time) (s : State) (g : Trigger) (rest : List Trigger), s.cap.offers = g :: rest → s.cap.due = none →
    (∀ x, s.cap.state = 1 → s.cap.current = some x → bit x.mask g.source = true → s.cap.ring = [] →
      ∃ u y, exec (.captureTrigger t) s = .next u ∧ u.cap.state = 2 ∧ u.cap.seq = s.cap.seq + 1 ∧
        u.cap.current = some y ∧ y.num = s.cap.seq + 1 ∧ y.trigger = some g ∧ u.cap.held = s.cap.held) ∧
    (s.cap.state = 3 → bit s.triggerMask g.source = true → bit (s.cfgN Id.STREAM_MARK_MASK) g.source = false →
      ∃ u, exec (.captureTrigger t) s = .next u ∧ Quiet s u ∧
        u.counter Id.MISSED_REARM = min 0xFFFFFFFF (s.counter Id.MISSED_REARM + 1)) ∧
    (s.cap.state = 4 → bit s.triggerMask g.source = true → bit (s.cfgN Id.STREAM_MARK_MASK) g.source = false →
      ∃ u, exec (.captureTrigger t) s = .next u ∧ Quiet s u ∧
        u.counter Id.MISSED_FULL = min 0xFFFFFFFF (s.counter Id.MISSED_FULL + 1))) ∧
  (∀ (t : Time) (h : Hdr) (v : Bytes) (s s2 : State) (r : Rcvd) (x : Session) (o : Obj) (fl : Nat),
    (Takes s t Id.CAP_CONTROL h [1] s2 r x o fl → s.cap.state = 0 → s.cfgN Id.CAP_ENABLE = 1 → s.pwr.entry = none →
      s.cap.held.length < s.conf.segmentSlots →
      ∃ u y, exec (.capArm t h) s = .next u ∧ u.ticketedBy s2 r ∧ u.cap.state = 1 ∧ u.cap.ring = [] ∧ u.cap.current = some y ∧
        y.source = s.cfgN Id.CAP_SOURCE ∧ y.pre = s.cfgN Id.CAP_PRE ∧ y.post = s.cfgN Id.CAP_POST ∧ y.mask = s.cfgN Id.CAP_TRIGGER_MASK) ∧
    (Takes s t Id.CAP_CONTROL h [2] s2 r x o fl → s.cap.due = none → s.cap.state ≠ 2 →
      ∃ u, exec (.capDisarm t h) s = .next u ∧ u.ticketedBy s2 r ∧ u.cap.state = 0 ∧ u.cap.current = none ∧ u.cap.held = s.cap.held) ∧
    (Takes s t Id.CAP_CONTROL h [3] s2 r x o fl →
      (s.cap.state ≠ 0 → ∃ u, exec (.capTrigger t h) s = .next u ∧ u.ticketedBy s2 r ∧
        ∃ g ∈ u.cap.offers, g.source = 6 ∧ g.inst = (max s.now t : Nat)) ∧
      (s.cap.state = 0 → ∃ u, exec (.capTrigger t h) s = .next u ∧ Quiet s u ∧
        u.answered r.h 0x11 0xC0 (abortBytes .captureNotArmed (Id.CAP_CONTROL / 256) (Id.CAP_CONTROL % 256) 0))) ∧
    (Takes s t Id.CAP_RELEASE h v s2 r x o fl → leNat v < 0xFFFFFFFF → ∀ g, s.findSegment (u32 (leNat v)) = some g → g.copyQueued = false →
      ∃ u, exec (.capRelease t h v) s = .next u ∧ u.ticketedBy s2 r ∧
        u.cap.held = s.cap.held.filter fun y => y.num != u32 (leNat v)) ∧
    (Takes s t Id.CAP_READ_SELECT h v s2 r x o fl → x.lasts →
      (∀ g, s.findSegment (u32 (leNat v)) = some g → ∃ u y, exec (.capReadSelect t h v) s = .next u ∧ Quiet s u ∧
        u.session? r.h.transport r.h.session = some y ∧ y.readSelect = g.num ∧ y.readSource = some g.source) ∧
      (s.findSegment (u32 (leNat v)) = none → ∃ u, exec (.capReadSelect t h v) s = .next u ∧ Quiet s u ∧
        u.answered r.h 0x11 0xC0 (abortBytes .segmentUnknown (Id.CAP_READ_SELECT / 256) (Id.CAP_READ_SELECT % 256) 0))))

/-- R264, R266, R276: the oldest datagram waiting leaves to each of its destinations still subscribed; waiting marks leave in one ITEMS datagram
under the next ID, at most 40 of them.
R15, R53, R54, R265: the link comes up and goes down, taking the waiting datagrams with it; gPTP is SYNCED while it measures an offset and in
holdover after; CAN goes bus-off and recovers. The model's choices that it rests on: log entries 29, 73. -/
def Obligations.DatagramsLeaveWhileTheNetworkIsUp : Prop :=
  (∀ (t : Time) (s : State) (d : Datagram) (rest : List Datagram), s.streaming = true → s.stream.queue0 = d :: rest →
    ∃ u, exec (.datagramSent t 0) s = .next u ∧ u.stream = { s.stream with queue0 := rest } ∧
      u.out = (s.stream.subs.filter fun b => b.num ∈ d.dests).map fun b => .stream b.num.toNat d.bytes) ∧
  (∀ (t : Time) (s : State) (d : Datagram) (rest : List Datagram), s.streaming = true → s.stream.queue1 = d :: rest → d.last = false →
    ∃ u, exec (.datagramSent t 1) s = .next u ∧ u.stream = { s.stream with queue1 := rest } ∧
      u.out = (s.stream.subs.filter fun b => b.num ∈ d.dests).map fun b => .stream b.num.toNat d.bytes) ∧
  (∀ (t : Time) (s : State), s.streaming = true → s.stream.items ≠ [] → s.subsOf 0 ≠ [] →
    ∃ u, exec (.marksSend t) s = .next u ∧ u.stream.itemsSeq = s.stream.itemsSeq + 1 ∧
      u.stream.items = (takeItems 40 1436 s.stream.items).2 ∧ (takeItems 40 1436 s.stream.items).1.length ≤ 40) ∧
  (∀ (t : Time) (s : State), s.isOn 2 = true → s.net.link = false → ∃ u, exec (.linkUp t) s = .next u ∧
    u.net = { s.net with link := true, gptp := if s.net.gptp = 0 then 1 else s.net.gptp } ∧ Told s u 0xA001 0 (u32 (s.cfgN Id.ETH_MODE)) 0 0 0) ∧
  (∀ (t : Time) (s : State), s.net.link = true → ∃ u, exec (.linkDown t) s = .next u ∧ u.net.link = false ∧ u.stream.queue0 = [] ∧
    u.stream.queue1 = [] ∧ u.stream.offload = none ∧ Told s u 0xA002 1 0 0 0 0) ∧
  (∀ (t : Time) (o v : Int) (s : State), s.isOn 2 = true → s.net.link = true → ∃ u, exec (.gptpSynced t o v) s = .next u ∧
    u.net = { s.net with gptp := 2, offset := o, servo := v } ∧ (s.net.gptp ≠ 2 → Told s u 0xA010 0 (u32i o) 0 0 0)) ∧
  (∀ (t : Time) (s : State), s.net.gptp = 2 → ∃ u, exec (.gptpLost t) s = .next u ∧ u.net = { s.net with gptp := 3 } ∧ Told s u 0xA011 1 0 0 0 0) ∧
  (∀ (t : Time) (s : State), s.isOn 3 = true → s.net.busOff = false → ∃ u, exec (.canBusOff t) s = .next u ∧
    u.net = { s.net with busOff := true } ∧ Told s u 0xA020 1 0 0 0 0) ∧
  (∀ (t : Time) (s : State), s.net.busOff = true → ∃ u, exec (.canRecovered t) s = .next u ∧ u.net = { s.net with busOff := false } ∧
    Told s u 0xA021 0 0 0 0 0)

/-- R290: CODE_SOURCE codes the object named as a read of it would give it: the session's view holds the coded unit, unless no block of it
gets shorter. The model's choices that it rests on: log entries 20, 24, 25. -/
def Obligations.CodeSourceKeepsACodedView : Prop :=
  ∀ (t : Time) (h : Hdr) (v : Bytes) (s s2 : State) (r : Rcvd) (x : Session) (o p : Obj) (fl g : Nat) (b : Bytes),
    Takes s t Id.CODE_SOURCE h v s2 r x o fl → x.lasts → lookup (leNat v / 256) = some p → s2.readCheck x p = none →
    s2.readLength x p ≤ 262144 → s2.fetch r.h x p = .value g b →
    ((codeUnit b).2.2 ≠ (codeUnit b).2.1 → ∃ u y, exec (.codeSource t h v) s = .next u ∧ Quiet s u ∧ u.answered r.h 0x11 0x80 [] ∧
      u.session? r.h.transport r.h.session = some y ∧ y.codeView = some { source := u32 (leNat v), bytes := (codeUnit b).1 }) ∧
    ((codeUnit b).2.2 = (codeUnit b).2.1 → ∃ u, exec (.codeSource t h v) s = .next u ∧ Quiet s u ∧
      u.answered r.h 0x11 0xC0 (abortBytes .incompressible (Id.CODE_SOURCE / 256) (Id.CODE_SOURCE % 256) 0))

/-! ### The trigger bus (R177, R181 to R189) -/

/-- R182, R183, R185, R186: every bus message with a bad CRC is counted and dropped; a good one takes its effect: FRAME keeps the bus alive,
TRIGGER offers a trigger, PROBE asks this unit for a REPLY, and a REPLY in time gives a delay.
R177: a unit that hears its own FLEET_CODE announced by another raises FLEET_DUPLICATE, once for that unit.
The model's choices that it rests on: log entry 54. -/
def Obligations.BusMessagesTakeEffect : Prop :=
  (∀ (t : Time) (source : BitVec 4) (p : U32) (crc : Byte) (s : State), s.busListens = true →
    (∀ (k : Nat) (own : Bool) (c : Instr), (k, c) ∈ [(1, Instr.busFrame t own source p crc), (2, .busTriggerMessage t own source p crc),
        (3, .busProbe t own source p crc), (4, .busReply t own source p crc), (5, .busAnnounce t own source p crc)] →
      crc8 (busData k source.toNat p.toNat) ≠ crc → ∃ u, exec c s = .next u ∧ Quiet s u ∧
        u.counter Id.BUS_CRC_ERRORS = min 0xFFFFFFFF (s.counter Id.BUS_CRC_ERRORS + 1)) ∧
    (source.toNat ≠ s.cfgN Id.BUS_POSITION → s.bus.peers.length = 16 →
      (crc8 (busData 1 source.toNat p.toNat) = crc → s.cfgN Id.BUS_ROLE = 2 → s.cfgN Id.FSYNC_SOURCE ≠ 2 →
        ∃ u, exec (.busFrame t false source p crc) s = .next u ∧ u.bus.frames = max s.now t :: s.bus.frames.take 1 ∧ u.bus.alive = true ∧
          u.bus.master = source.toNat ∧ (u.peer source.toNat).heard = some (max s.now t)) ∧
      (crc8 (busData 2 source.toNat p.toNat) = crc → ∃ u, exec (.busTriggerMessage t false source p crc) s = .next u ∧
        ∃ g ∈ u.cap.offers, g.source = 5 ∧ g.unplaced = (s.peer source.toNat).delay.isNone) ∧
      (crc8 (busData 3 source.toNat p.toNat) = crc → p.toNat / 2 ^ 28 = s.cfgN Id.BUS_POSITION →
        ∃ u, exec (.busProbe t false source p crc) s = .next u ∧ u.bus.reply = some (source.toNat, max s.now t) ∧
          u.bus.trigs = s.bus.trigs) ∧
      (∀ t0, crc8 (busData 4 source.toNat p.toNat) = crc → p.toNat / 2 ^ 28 = s.cfgN Id.BUS_POSITION →
        s.bus.probe = some (source.toNat, t0) → max s.now t ≤ t0 + Sys2Proof.usec 100 →
        ∃ u, exec (.busReply t false source p crc) s = .next u ∧ u.bus.probe = none ∧ (u.peer source.toNat).delays =
          (((((max s.now t : Nat) : Int) - (t0 : Int) - (p.toNat % 2 ^ 28 : Nat) : Int) : Rat) / 2 :: (s.peer source.toNat).delays).take 16))) ∧
  (∀ (t : Time) (source : BitVec 4) (p : U32) (s : State), s.busListens = true → source.toNat ≠ s.cfgN Id.BUS_POSITION →
    s.bus.peers.length = 16 → p.toNat % 262144 = s.cfgN Id.FLEET_CODE →
    ((s.peer source.toNat).duplicate = false →
      ∃ u, exec (.busAnnounce t false source p (crc8 (busData 5 source.toNat p.toNat))) s = .next u ∧
        (u.peer source.toNat).duplicate = true ∧ Told s u 0x3601 1 (u32 (s.cfgN Id.FLEET_CODE)) (u32 source.toNat) 0 0 ∧
        Quiet { s with bus := u.bus } u) ∧
    ((s.peer source.toNat).duplicate = true →
      ∃ u, exec (.busAnnounce t false source p (crc8 (busData 5 source.toNat p.toNat))) s = .next u ∧ u.evt = s.evt ∧
        Quiet { s with bus := u.bus } u))

/-- R181, R183, R184, R189: the unit sends one message in its own window, a waiting trigger first; BUS_TRIGGER offers a host trigger under
a ticket; a follower adopts the bus clock and loses it again; 1.5 periods without FRAME make the bus silent.
The model's choices that it rests on: log entry 54. -/
def Obligations.TheBusIsUsedInTurn : Prop :=
  (∀ (t : Time) (s : State) (g : BusTrig) (rest : List BusTrig) (w : Time × Nat), s.bus.trigs = g :: rest →
    (∀ y ∈ s.bus.trigs, max s.now t - y.at_ ≤ 2097151) → (s.at t).ownWindow = some w → s.busDrives = true → s.bus.alive = true →
    s.bus.window ≠ some w → ∃ u, exec (.busWindow t) s = .next u ∧ u.bus.window = some w ∧ u.bus.trigs = rest ∧
      ∃ d, d = busData 2 (s.cfgN Id.BUS_POSITION) (g.kind * 2 ^ 28 + g.seq * 2 ^ 21 + (max s.now t - g.at_)) ∧ u.out = [.bus d (crc8 d)]) ∧
  (∀ (t : Time) (h : Hdr) (s s2 : State) (r : Rcvd) (x : Session) (o : Obj) (fl : Nat), Takes s t Id.BUS_TRIGGER h [1] s2 r x o fl →
    ∃ u, exec (.busTrigger t h) s = .next u ∧ u.ticketedBy s2 r ∧ ∃ g ∈ u.cap.offers, g.source = 6 ∧ g.inst = (max s.now t : Nat)) ∧
  (∀ (t : Time) (s : State), s.busListens = true → s.cfgN Id.BUS_ROLE = 2 → s.bus.onClk = false →
    ∃ u, exec (.busClockAdopt t) s = .next u ∧ Quiet { s with bus := u.bus } u ∧
      u.bus = (if s.scan.timer = true ∧ s.scan.flyback = false then { s.bus with adoptPending := true }
        else { s.bus with onClk := true, adoptPending := false })) ∧
  (∀ (t : Time) (s : State), s.bus.onClk = true → s.cfgN Id.BUS_ROLE = 2 → ∃ u, exec (.busClockLost t) s = .next u ∧
    u.bus.onClk = false ∧ u.bus.state ≠ 2 ∧ Told s u 0x3411 1 s.scan.frame 0 0 0) ∧
  (∀ (t f : Time) (rest : List Time) (s : State), s.bus.frames = f :: rest → s.bus.alive = true →
    (3 * s.busPeriod ≤ 2 * (max s.now t - f) → ∃ u, exec (.busFrameSilence t) s = .next u ∧ u.bus = { s.bus with alive := false }) ∧
    (2 * (max s.now t - f) < 3 * s.busPeriod → exec (.busFrameSilence t) s = .next (s.at t)))

/-! ### Power, supply, temperature (R31, R32, R292 to R310) -/

/-- R292 to R294: a POWER_REQUEST for the present state completes at once; a lower one from RUN that nobody refuses is entered, and RUN from
HOLD is a wake, each under its ticket; a request that a BECALMED device cannot serve aborts.
The model's choices that it rests on: log entry 76. -/
def Obligations.PowerRequestsAreServed : Prop :=
  ∀ (c : Instr) (target : Power) (n : Nat) (t : Time) (h : Hdr) (s s2 : State) (r : Rcvd) (x : Session) (o : Obj) (fl : Nat),
    (n, target, c) ∈ [(0, Power.run, Instr.powerRequestRun t h), (1, .hold, .powerRequestHold t h), (2, .doze, .powerRequestDoze t h),
      (3, .sleep, .powerRequestSleep t h)] →
    Takes s t Id.POWER_REQUEST h [BitVec.ofNat 8 n] s2 r x o fl → s.pwr.entry = none → s.pwr.wake = none →
    (s.pwr.becalmed = 0 → s.therm.cooldown = none → s.pwr.state = target → ∃ u, exec c s = .next u ∧ Quiet s u ∧ u.ticketedBy s2 r) ∧
    (s.pwr.becalmed = 0 → s.therm.cooldown = none → s.pwr.state = .run → target ≠ .run → s.scan.timer = true →
      (∀ k, s.refusers target (.host k) = []) → ∃ u, exec c s = .next u ∧ u.ticketedBy s2 r ∧ u.pwr.state = .run ∧
        u.pwr.entry = some ⟨target, .run, .host s2.nextTicket, max s.now t, 2, false, 0, none⟩) ∧
    (s.pwr.becalmed = 0 → s.therm.cooldown = none → s.pwr.state = .hold → target = .run → ∃ u, exec c s = .next u ∧ u.ticketedBy s2 r ∧
      u.pwr.wake = some { goal := .run, origin := .hold, who := .host s2.nextTicket, since := max s.now t }) ∧
    (s.pwr.becalmed ≠ 0 → target ≠ .sleep → ∃ u, exec c s = .next u ∧ Quiet s u ∧
      u.answered r.h 0x11 0xC0 (abortBytes .stateConflict (Id.POWER_REQUEST / 256) (Id.POWER_REQUEST % 256) 0))

/-- R292, R293, R295, R308, Table 14.3: a refused entry is tried again and given up after ENTRY_TIMEOUT; past its last column an entry to HOLD reaches
HOLD; DOZE falls to SLEEP after its time, and a forced cool-down goes on from HOLD to DOZE after 10 s.
The model's choices that it rests on: log entry 77. -/
def Obligations.EntriesGoStepByStep : Prop :=
  (∀ (t : Time) (e : Entry) (s : State), s.pwr.entry = some e → e.step = 0 → s.pwr.afterWake = [] →
    (e.forced = false → e.wake = none → s.refusers e.target e.who = [] → s.scan.timer = true →
      ∃ u, exec (.entryRecheck t) s = .next u ∧ u.pwr.entry = some { e with step := 2 }) ∧
    (e.since + Sys2Proof.msec (s.cfgN Id.ENTRY_TIMEOUT) ≤ max s.now t → ∃ u, exec (.entryTimeout t) s = .next u ∧ u.pwr.entry = none ∧
      u.pwr.state = s.pwr.state ∧ Told s u 0x1004 1 (u32 e.target.code) (u32 e.refused) 0 e.who.ticket) ∧
    (max s.now t < e.since + Sys2Proof.msec (s.cfgN Id.ENTRY_TIMEOUT) → exec (.entryTimeout t) s = .next (s.at t))) ∧
  (∀ (t : Time) (e : Entry) (s : State), s.pwr.entry = some e → e.step = 3 → e.target = .hold → s.pwr.afterWake = [] →
    ∃ u, exec (.entryStepDone t) s = .next u ∧ u.pwr.entry = none ∧ u.pwr.state = .hold ∧ u.coil = .reset) ∧
  (∀ (t : Time) (s : State), s.pwr.state = .doze → s.pwr.entry = none → s.pwr.wake = none → s.cfgN Id.DOZE_SLEEP_AFTER ≠ 0 →
    s.scan.timer = false → s.refusers .sleep .timer = [] →
    (s.pwr.since + Sys2Proof.sec (s.cfgN Id.DOZE_SLEEP_AFTER) ≤ max s.now t → ∃ u, exec (.dozeSleepAfter t) s = .next u ∧
      u.pwr.entry = some ⟨.sleep, .doze, .timer, max s.now t, 5, false, 0, none⟩ ∧ Told s u 0x1005 0 (u32 Power.sleep.code) 0 0 0) ∧
    (max s.now t < s.pwr.since + Sys2Proof.sec (s.cfgN Id.DOZE_SLEEP_AFTER) → exec (.dozeSleepAfter t) s = .next (s.at t))) ∧
  (∀ (t c h : Time) (s : State), s.therm.cooldown = some c → s.therm.holdSince = some h → s.therm.shut = true → s.pwr.state = .hold →
    s.pwr.entry = none → s.pwr.wake = none → s.scan.timer = false → h + Sys2Proof.sec 10 ≤ max s.now t →
    ∃ u e, exec (.thermalForcedDoze t) s = .next u ∧ u.pwr.entry = some e ∧ e.target = .doze ∧ e.forced = true ∧ e.step = 5)

/-- R36, R292, R296: the pin and a CAN wake frame wake a device that sleeps where WAKE_SOURCES names them, the pin's fall asks for the state
of WAKE_PIN_SLEEP, and a wake that is done reaches its goal. The model's choices that it rests on: log entries 76, 81. -/
def Obligations.TheDeviceWakes : Prop :=
  (∀ (c : Instr) (who : Requester) (n : Nat) (t : Time) (id : BitVec 11) (d : U64) (s : State),
    (who, n, c) ∈ [(Requester.pin, 0, Instr.wakePin t), (.can, 1, .canWakeFrame t id d)] → bit (s.cfgN Id.WAKE_SOURCES) n = true →
    (who = .can → id.toNat = s.cfgN Id.CAN_WAKE_ID ∧
      d &&& BitVec.ofNat 64 (s.cfgN Id.CAN_WAKE_MASK) = BitVec.ofNat 64 (s.cfgN Id.CAN_WAKE_MASK)) →
    s.pwr.state = .doze ∨ s.pwr.state = .sleep → s.pwr.losing = false → s.pwr.recovery = false → s.therm.cooldown = none →
    s.pwr.entry = none → s.pwr.wake = none → ∃ u, exec c s = .next u ∧
      u.pwr.wake = some { goal := if s.cfgN Id.WAKE_TARGET = 0 then .run else .hold, origin := s.pwr.state, who, since := max s.now t }) ∧
  (∀ (t : Time) (s : State), s.cfgN Id.WAKE_PIN_SLEEP ≠ 0 → s.pwr.pinAsked = false → s.pwr.state = .run → s.pwr.losing = false →
    s.pwr.recovery = false → s.pwr.entry = none → s.pwr.wake = none → s.scan.timer = true → (∀ g, s.refusers g .pin = []) →
    ∃ u e, exec (.wakePinLow t) s = .next u ∧ u.pwr.pinAsked = true ∧ u.pwr.entry = some e ∧ e.who = .pin ∧ e.step = 2 ∧
      e.target = if s.cfgN Id.WAKE_PIN_SLEEP = 1 then .doze else .sleep) ∧
  (∀ (t : Time) (x : BootIn) (w : Wake) (s : State), s.pwr.wake = some w → w.goal = .run → s.pwr.becalmed = 0 → s.pwr.state = .hold →
    s.pwr.afterWake = [] → ∃ u, exec (.wakeDone t x) s = .next u ∧ u.pwr.wake = none ∧ u.pwr.state = .run)

/-- R299 to R301, R310: a failed attempt is repeated twice before the domain is FAILED, a receiver domain that does not answer is FAILED
at once, the loss of the crystal makes the device BECALMED, and the correction for its drift moves by at most 100 steps a second.
The model's choices that it rests on: log entries 5, 84. -/
def Obligations.DomainsAndCrystalFail : Prop :=
  (∀ (t : Time) (d : Fin 32) (clock : Bool) (s : State), d.val ≠ 0 → s.waking d.val = true → s.pwr.tries.getD d.val 0 < 2 →
    ∃ u, exec (.domainPowerGoodFail t d clock) s = .next u ∧ u.pwr = { s.pwr with tries := setAt s.pwr.tries d.val (s.pwr.tries.getD d.val 0 + 1) } ∧
      u.counter Id.DOMAIN_RETRIES = min 0xFFFFFFFF (s.counter Id.DOMAIN_RETRIES + 1)) ∧
  (∀ (t : Time) (b : Fin 16) (d : Fin 32) (clock : Bool) (s : State), d.val = bandDom b.val → s.pwr.doms.length = 32 →
    s.rx.bands.length = 16 →
    (s.isOn d.val = true → ∃ u, exec (.crossingNoResponse t d) s = .next u ∧ u.isFailed d.val = true ∧ (u.band b.val).state = .failed) ∧
    (s.waking d.val = true → 2 ≤ s.pwr.tries.getD d.val 0 → ∃ u, exec (.domainPowerGoodFail t d clock) s = .next u ∧
      u.isFailed d.val = true ∧ (u.band b.val).state = .failed)) ∧
  (∀ (t : Time) (s : State), s.awake = true → s.pwr.served = true → s.pwr.xtalFailed = false → ∃ u, exec (.xtalFallback t) s = .next u ∧
    u.pwr.xtalFailed = true ∧ u.pwr.becalmed = 2 ∧ u.scan.timer = false) ∧
  (∀ (t : Time) (s : State), s.arb.holder ≠ none → s.awake = true → s.bus.onClk = false → s.scan.timer = false →
    ∃ u, exec (.xtalComp t) s = .next u ∧ u.therm.xtal ≤ s.therm.xtal + 100 ∧ s.therm.xtal - 100 ≤ u.therm.xtal ∧ u.therm.xtalNext = none)

/-- R31, R32, R302: VIN below its threshold stops charging, its rise permits it again, an overvoltage opens the input switch until VIN has fallen;
the end of the hold-up energy or VIN's fall to its last threshold powers every domain down but AO and the flash that still writes.
Table 14.7, R291, R297, R299: power rises from OFF, or the AO watchdog restarts the device: no session, no Lock, no running frame and no
lease survive, and the device reaches HOLD or recovery first. The model's choices that it rests on: log entries 79, 80. -/
def Obligations.TheSupplyIsWatchedAndColdStartsBeginAnew : Prop :=
  (∀ (t : Time) (s : State), s.pwr.state ≠ .off → s.pwr.losing = false → s.isOn 9 = false → ∃ u, exec (.vinLow t) s = .next u ∧
    u.pwr = { s.pwr with vinOk := false, vinLowRaised := true } ∧ Told s u 0x1F01 1 0 0 0 0) ∧
  (∀ (t : Time) (s : State), s.pwr.state ≠ .off → s.pwr.losing = false → ∃ u, exec (.vinResumeRise t) s = .next u ∧
    u.pwr = { s.pwr with vinOk := true, vinLowRaised := false } ∧ u.emit.enable = s.emit.enable) ∧
  (∀ (t : Time) (s : State), s.pwr.state ≠ .off → s.pwr.switchOpen = false → ∃ u, exec (.vinHigh t) s = .next u ∧
    u.pwr = { s.pwr with switchOpen := true } ∧ Told s u 0x1F02 1 0 0 0 0) ∧
  (∀ (t : Time) (s : State), s.pwr.switchOpen = true → ∃ u, exec (.inputSwitchClose t) s = .next u ∧
    u.pwr = { s.pwr with switchOpen := false } ∧ (s.pwr.vinOk = true → Told s u 0x1F03 0 2 0 0 0)) ∧
  (∀ (t : Time) (s : State), s.pwr.losing = false → s.pwr.state ≠ .off →
    ∀ c ∈ [Instr.holdupExhausted t, .vinShutdownFall t], (c = .holdupExhausted t → s.pwr.switchOpen = true) →
      ∃ u, exec c s = .next u ∧ u.pwr.losing = true ∧ u.pwr.wake = none ∧ u.pwr.entry = none ∧ u.scan.timer = false ∧ u.arb.holder = none ∧
        u.baspo.sessions = []) ∧
  (∀ (t : Time) (x : BootIn) (s : State), s.pwr.state = .off → ∃ u, exec (.vinStartRise t x) s = .next u ∧ u.pwr.state ≠ .off ∧
    u.pwr.losing = false ∧ u.baspo.sessions = [] ∧ u.baspo.commit = none ∧ u.arb.holder = none) ∧
  (∀ (t : Time) (x : BootIn) (s : State), s.pwr.state ≠ .off → s.pwr.losing = false → ∃ u, exec (.aoWatchdogExpiry t x) s = .next u ∧
    u.pwr.state ≠ .off ∧ u.baspo.sessions = [] ∧ u.baspo.commit = none ∧ u.arb.holder = none)

/-- R304, R305, R308, R311: the input power of every millisecond is kept; with HKA on and its anchors read the model advances and its temperatures are
known; a cool-down that is over ends, and the device goes to RUN where AUTO_RESUME says so.
The model's choices that it rests on: log entries 83, 85. -/
def Obligations.TheThermalModelRunsAndCools : Prop :=
  (∀ (t : Time) (x : HeatIn) (s : State), s.pwr.state ≠ .off → s.pwr.losing = false →
    (s.isOn 14 = false → ∃ u, exec (.thermalUpdate t x) s = .next u ∧ u.pwr.inputs = (x.input :: s.pwr.inputs).take 100 ∧ u.therm = s.therm) ∧
    (s.isOn 14 = true → s.therm.anchors.any Option.isNone = false → ∃ u, exec (.thermalUpdate t x) s = .next u ∧ u.therm.ready = true ∧
      u.therm.stringEnergy = 0 ∧ u.therm.temps.length = 8)) ∧
  (∀ (t c : Time) (s : State), s.therm.cooldown = some c → c + Sys2Proof.sec 10 ≤ max s.now t → s.pwr.entry = none → s.pwr.wake = none →
    s.pwr.state = .hold → (s.therm.temps.all fun y => decide (y < 110)) = true → s.cfgN Id.AUTO_RESUME ≠ 1 →
    ∃ u, exec (.thermalRestart t) s = .next u ∧ u.therm.cooldown = none ∧ u.pwr.state = .hold ∧
      Told s u 0x1014 0 (u32 Power.hold.code) 0 0 0)

/-! ### Calibration (R316 to R322) -/

/-- R319, R321: a calibration request enters the queue under its ticket; TRACE_COMMIT writes the pending traces, TRACE_DISCARD drops them. -/
def Obligations.CalibrationRequestsQueueTickets : Prop :=
  ∀ (c : Instr) (n : Nat) (t : Time) (h : Hdr) (s s2 : State) (r : Rcvd) (x : Session) (o : Obj) (fl : Nat),
    (n, c) ∈ [(1, Instr.calField t h), (2, .calScale t h), (3, .calZero t h), (4, .calSkew t h), (5, .calTin t h), (6, .calPsdTrim t h),
      (16, .traceRefin t h), (17, .traceTarget t h), (18, .traceCommit t h), (19, .traceDiscard t h)] →
    Takes s t Id.CAL_REQUEST h [BitVec.ofNat 8 n] s2 r x o fl →
    (s2.calCheck n = none →
      (n < 18 → s.cal.running ≠ none → ∃ u, exec c s = .next u ∧ u.ticketedBy s2 r ∧
        u.cal = { s.cal with queue := s.cal.queue ++ [calTicket n s2.nextTicket] }) ∧
      (n < 18 → s.cal.running = none → s.cal.queue = [] → s.cal.autoDue = none → s.pwr.entry = none →
        ∃ u k, exec c s = .next u ∧ u.ticketedBy s2 r ∧ u.cal.running = some k ∧ k.code = n ∧ k.num = s2.nextTicket ∧
          k.runs = (calRuns n).1 ∧ u.cal.queue = []) ∧
      (n = 18 → ∃ u, exec c s = .next u ∧ u.ticketedBy s2 r ∧ u.cal.pendRefin = none ∧ u.cal.pendTarget = none ∧
        (∀ g q, s.cal.pendRefin = some (g, q) → u.cal.vals.scaleTrace = g ∧ u.cal.vals.residual = q) ∧
        (∀ g q, s.cal.pendTarget = some (g, q) → u.cal.vals.offset = g ∧ u.cal.vals.path = q)) ∧
      (n = 19 → ∃ u, exec c s = .next u ∧ u.ticketedBy s2 r ∧ u.cal = { s.cal with pendRefin := none, pendTarget := none })) ∧
    (∀ a, s2.calCheck n = some a → ∃ u, exec c s = .next u ∧ Quiet s u ∧
      u.answered r.h 0x11 0xC0 (abortBytes a (Id.CAL_REQUEST / 256) (Id.CAL_REQUEST % 256) 0))

/-- R316, R317, R319, R322: the first run of a quantity is kept and counted, two runs that do not agree reject it; a ticket past its frames
ends with CAL_DONE 2; a failed write of the record is tried again after 10 s.
The model's choices that it rests on: log entry 86. -/
def Obligations.RunsAreJudgedInPairs : Prop :=
  (∀ (t : Time) (res : RunResult) (v : CalValue) (k : CalTicket) (s : State), s.cal.running = some k → s.runValue res = some v →
    s.runReady (RunKind res) = true → k.runs.head? = some (RunKind res) →
    (k.first = none → ∃ u, exec (.calRunDone t res) s = .next u ∧ u.cal = { s.cal with running := some { k with first := some v } } ∧
      u.counter Id.CAL_RUNS = min 0xFFFFFFFF (s.counter Id.CAL_RUNS + runCount res)) ∧
    (∀ a, k.first = some a → k.runs.tail ≠ [] → (judgePair (s.cfgN Id.CAL_SCALE_TOL) (s.cfgN Id.CAL_ZERO_TOL) a v).value = none →
      ∃ u, exec (.calRunDone t res) s = .next u ∧
        u.cal = { s.cal with running := some { k with first := none, runs := k.runs.tail, rejected := true } } ∧
        u.counter Id.CAL_REJECTS = min 0xFFFFFFFF (s.counter Id.CAL_REJECTS + 1))) ∧
  (∀ (t : Time) (k : CalTicket) (f : U32) (s : State), s.cal.running = some k → k.startFrame = some f → s.cal.queue = [] →
    16 + k.extended ≤ (s.scan.frame - f).toNat → (s.scan.frame - f).toNat < 2 ^ 31 →
    ∃ u, exec (.calTicketLimit t) s = .next u ∧ u.cal.running = none ∧ Told s u 0x9001 1 (u32 k.code) 2 0 k.num) ∧
  (∀ (t q : Time) (s : State), s.cal.store = 2 → s.cal.retryAt = some q →
    (q + Sys2Proof.sec 10 ≤ max s.now t → s.isFailed 5 = false →
      (s.flashCheck .commit = none → ∃ u, exec (.calStoreRetry t) s = .next u ∧ u.cal = { s.cal with store := 1, retryAt := none }) ∧
      (∀ a, s.flashCheck .commit = some a → ∃ u, exec (.calStoreRetry t) s = .next u ∧
        u.cal = { s.cal with retryAt := some (max s.now t) } ∧ Told s u 0x9005 1 (u32 a.code) 0 0 0)) ∧
    (max s.now t < q + Sys2Proof.sec 10 → exec (.calStoreRetry t) s = .next (s.at t)))

/-! ### Storage, firmware, security (R326 to R356) -/

/-- R327, R331 to R333: a waiting group starts once its checks pass, a group that fails retires its block, and a host's group that waits for
more than a second fails its operation. The model's choices that it rests on: log entries 88, 89. -/
def Obligations.FlashGroupsRunAndFail : Prop :=
  (∀ (t : Time) (g : FlashGroup) (rest : List FlashGroup) (s : State), s.flash.running = none → s.flash.queue = g :: rest →
    ((s.at t).flashReady = true → (s.at t).flashCheck g.kind = none → ∃ u, exec (.flashGroupStart t) s = .next u ∧
      u.flash = { s.flash with running := some { g with waits := none }, queue := rest }) ∧
    (∀ w n l i v, g.waits = some w → g.host = true → g.work = .version n l i v 1 → w + Sys2Proof.sec 1 ≤ max s.now t →
      ∃ u, exec (.flashWaitTimeout t) s = .next u ∧ u.flash.persist = 3 ∧ u.cfg = s.cfg)) ∧
  (∀ (t : Time) (g : FlashGroup) (b : Nat) (s : State), s.flash.running = some g → 33 < s.flash.spare →
    ∃ u, exec (.flashGroupDone t (.bad b)) s = .next u ∧ u.flash.retired = s.flash.retired + 1 ∧ u.flash.spare = s.flash.spare - 1 ∧
      g.work ∈ u.groups.map FlashGroup.work) ∧
  (∀ (t : Time) (g : FlashGroup) (slot : Nat) (s : State), s.flash.running = some g → g.work = .fwErase slot → s.flash.update = 1 →
    (s.flash.queue.any fun y => y.work == g.work) = false → ∃ u, exec (.flashGroupDone t .good) s = .next u ∧ u.flash.update = 2)

/-- R328 to R330, R339, R340, R346: the scrub counts what it corrects and retires a block beyond correction; wear levelling and the recorder's copies
queue their groups; REC_SELECT selects a held entry, REC_CLEAR leaves none.
R336, R337: VERSION_REVERT that passes its checks queues the write of the pointer under its ticket, and 5 s after a cold start a confirmed
version without a firmware trial has nothing left to confirm.
The model's choices that it rests on: log entries 88, 89, 90. -/
def Obligations.StorageIsScrubbedAndVersionsRevert : Prop :=
  (∀ (t : Time) (r : ScrubRead) (s : State), s.awake = true → s.isOn 5 = true →
    (r.errors ≤ 4 → r.erases < 57000 → ∃ u, exec (.scrub t r) s = .next u ∧ u.flash = { s.flash with eraseMax := max s.flash.eraseMax r.erases } ∧
      (0 < r.corrected → u.counter Id.CORRECTED_BITS = min 0xFFFFFFFF (s.counter Id.CORRECTED_BITS + r.corrected))) ∧
    (8 < r.errors → ∃ u, exec (.scrub t r) s = .next u ∧ u.flash.retired = s.flash.retired + 1)) ∧
  (∀ (t : Time) (least most : Nat) (s : State), s.isOn 5 = true → least + 2000 < s.flash.eraseMax → most ≤ s.flash.eraseMax →
    ∃ u, exec (.wearMove t least most) s = .next u ∧ u.groups.length = s.groups.length + 2) ∧
  (∀ (t : Time) (n : U32) (rest : List U32) (s : State), s.flash.copies = n :: rest → s.isOn 5 = true →
    (s.groups.any fun g => g.work == .recorder n) = false →
    ((s.cap.held.find? fun g => g.num == n) = none → ∃ u, exec (.recorderCopy t) s = .next u ∧
      u.flash = { s.flash with copies := s.flash.copies.filter (· != n) }) ∧
    (∀ g, (s.cap.held.find? fun g => g.num == n) = some g → ∃ u, exec (.recorderCopy t) s = .next u ∧
      FlashWork.recorder n ∈ u.groups.map FlashGroup.work)) ∧
  (∀ (t : Time) (h : Hdr) (v : Bytes) (s s2 : State) (r : Rcvd) (x : Session) (o : Obj) (fl : Nat),
    (Takes s t Id.REC_SELECT h v s2 r x o fl → x.lasts → ∀ e, (s.flash.entries.find? fun e => e.seq == u32 (leNat v)) = some e →
      ∃ u y, exec (.recSelect t h v) s = .next u ∧ Quiet s u ∧ u.answered r.h 0x11 (0x80 + 0) [] ∧
        u.session? r.h.transport r.h.session = some y ∧ y.recSelect = e.seq ∧ y.recSource = some (u8At e.header 3)) ∧
    (Takes s t Id.REC_CLEAR h [1] s2 r x o fl → ∃ u, exec (.recClear t h) s = .next u ∧ u.ticketedBy s2 r ∧ u.flash.entries = [])) ∧
  (∀ (t : Time) (h : Hdr) (v : Bytes) (s s2 : State) (r : Rcvd) (x : Session) (o : Obj) (fl : Nat) (w : Version),
    Takes s t Id.VERSION_REVERT h v s2 r x o fl → s.revertTarget (leNat v) = some w → s2.revertCheck (leNat v) = none →
    ∃ u, exec (.versionRevert t h v) s = .next u ∧ u.ticketedBy s2 r ∧ FlashWork.pointer w.num s2.nextTicket ∈ u.groups.map FlashGroup.work ∧
      u.cfg = s.cfg ∧ u.flash.current = s.flash.current) ∧
  (∀ (t c : Time) (x : BootIn) (s : State), s.pwr.coldStart = some c → s.pwr.losing = false → s.awake = true →
    (c + Sys2Proof.sec 5 ≤ max s.now t → ((s.flash.slots[s.flash.activeSlot]?).map (·.state)) ≠ some 3 →
      (∀ w, s.version? s.flash.current = some w → w.confirmed = true) →
      ∃ u, exec (.versionConfirmTimeout t x) s = .next u ∧ u.pwr = { s.pwr with coldStart := none } ∧ u.cfg = s.cfg) ∧
    (max s.now t < c + Sys2Proof.sec 5 → exec (.versionConfirmTimeout t x) s = .next (s.at t)))

/-- R342: FW_UPDATE 1 erases the target slot, its image arrives in segments of a block write and is checked, 2 queues the boot record of
the activation, 3 ends the update. The model's choices that it rests on: log entries 22, 79. -/
def Obligations.FirmwareIsUpdatedInSteps : Prop :=
  ∀ (t : Time) (h : Hdr) (s s2 : State) (r : Rcvd) (x : Session) (o : Obj) (fl : Nat),
    (Takes s t Id.FW_UPDATE h [1] s2 r x o fl → s.awake = true → (s.flash.update = 0 ∨ s.flash.update = 4) → s.flash.checking = none →
      s2.flashCheck .erase = none → ∃ u, exec (.fwUpdateBegin t h) s = .next u ∧ u.ticketedBy s2 r ∧ u.flash.update = 1 ∧
        u.flash.image = [] ∧ u.groups.length = s.groups.length + 128) ∧
    (Takes s t Id.FW_UPDATE h [2] s2 r x o fl → s2.fwActivateOk = true → s2.flashCheck .commit = none →
      ∃ u, exec (.fwUpdateActivate t h) s = .next u ∧ u.ticketedBy s2 r ∧
        FlashWork.fwActivate s2.targetSlot s2.nextTicket ∈ u.groups.map FlashGroup.work) ∧
    (Takes s t Id.FW_UPDATE h [3] s2 r x o fl → 1 ≤ s.flash.update → s.flash.update ≤ 3 →
      ∃ u, exec (.fwUpdateCancel t h) s = .next u ∧ u.ticketedBy s2 r ∧ u.flash.update = 0 ∧ u.flash.image = []) ∧
    (∀ (p : Bytes) (b : BlockXfer), ReachesIn s t 0x21 h ([0x00, 0x71, 0x05] ++ p) s2 r x → x.lasts →
      lookup Id.FW_IMAGE = some o → BlockXfer.next x.block Id.FW_IMAGE (segmentOf ([0x00, 0x71, 0x05] ++ p)) = some b →
      (segmentOf ([0x00, 0x71, 0x05] ++ p)).check r.h.transport o (some b) = none → s2.imageBars r.h o = none →
      (segmentOf ([0x00, 0x71, 0x05] ++ p)).final = false → s2.writeCheck x o [] = none →
      ∃ u y, exec (.fwImage t h p) s = .next u ∧ u.answered r.h 0x21 0x80 [] ∧ u.session? r.h.transport r.h.session = some y ∧
        y.block = some b ∧ u.flash.update = s.flash.update) ∧
    (∀ q, s.flash.checking = some q → q.session ≠ 0 → (s.at t).imageVerdict.2 = none →
      ∃ u, exec (.fwImageCheckDone t) s = .next u ∧ u.answered q 0x21 0x80 [] ∧ u.flash.update = 4 ∧ u.flash.checking = none)

/-- R353 to R355: an accepted security command queues the transition under its ticket, a wrapped key that unwraps is queued for its role, and
BACKOFF ends at its instant. The model's choices that it rests on: log entries 22, 89. -/
def Obligations.SecurityCommandsQueueTheirCommit : Prop :=
  (∀ (c : Instr) (id : Nat) (v : Bytes) (t : Time) (h : Hdr) (s s2 : State) (r : Rcvd) (x : Session) (o : Obj) (fl new : Nat),
    (id, v, c) ∈ [(Id.SEC_PROVISION, [1], Instr.secProvision t h), (Id.SEC_UNPROVISION, [1], .secUnprovision t h),
      (Id.SEC_SEAL, [0xA1, 0x5E], .secSeal t h)] →
    Takes s t id h v s2 r x o fl → s2.secTarget id = some new → s.baspo.commit = none → s2.secMoving = false → s2.flashCheck .commit = none →
    ∃ u, exec c s = .next u ∧ u.ticketedBy s2 r ∧ FlashWork.security new s2.nextTicket ∈ u.groups.map FlashGroup.work ∧ u.sec = s.sec) ∧
  (∀ (t : Time) (h : Hdr) (v k : Bytes) (s s2 : State) (r : Rcvd) (x : Session) (o : Obj) (fl : Nat),
    Takes s t Id.KEY_WRITE h v s2 r x o fl → unwrapKey x.key (v.drop 2) = some k →
    ∃ u, exec (.keyWrite t h v) s = .next u ∧ u.answered r.h 0x11 (0x80 + 0) [] ∧ u.sec = s.sec ∧
      FlashWork.key (u8At v 0) k x.transport x.num ∈ u.groups.map FlashGroup.work) ∧
  (∀ (t e : Time) (s : State), s.sec.backoff = some e →
    (e ≤ max s.now t → ∃ u, exec (.backoffEnd t) s = .next u ∧ u.sec = { s.sec with backoff := none, failures := 0, mark := none } ∧
      Told s u 0x8003 0 0 0 0 0) ∧
    (max s.now t < e → exec (.backoffEnd t) s = .next (s.at t)))
end

