-- ==== Sys2Proof/Laws/State.lean ====
section
/-! SUPPORT. What each named update of the state leaves alone, field by field, so that no later proof unfolds a record update; and what
the accessors read after them. -/

namespace Sys2Proof.Machine

open Sys2Proof

/-! `State.at` moves the clock and empties the record of messages -/

@[simp] theorem State.at_now (s : State) (t : Time) : (s.at t).now = max s.now t := rfl
@[simp] theorem State.at_out (s : State) (t : Time) : (s.at t).out = [] := rfl
@[simp] theorem State.send_out (s : State) (m : OutMsg) : (s.send m).out = s.out ++ [m] := rfl
@[simp] theorem State.at_isOn (s : State) (t : Time) (d : Nat) : (s.at t).isOn d = s.isOn d := rfl
@[simp] theorem State.at_cfgN (s : State) (t : Time) (id : Nat) : (s.at t).cfgN id = s.cfgN id := rfl
@[simp] theorem State.at_conf (s : State) (t : Time) : (s.at t).conf = s.conf := rfl
@[simp] theorem State.enqueue_tickets (s : State) (k : Ticket) : (s.enqueue k).baspo.tickets = s.baspo.tickets ++ [k] := rfl

/-! `State.at` -/

@[simp] theorem State.at_pending (s : State) (t : Time) : (State.at s t).pending = s.pending := rfl
@[simp] theorem State.at_draws (s : State) (t : Time) : (State.at s t).draws = s.draws := rfl
@[simp] theorem State.at_fac (s : State) (t : Time) : (State.at s t).fac = s.fac := rfl
@[simp] theorem State.at_cfg (s : State) (t : Time) : (State.at s t).cfg = s.cfg := rfl
@[simp] theorem State.at_evt (s : State) (t : Time) : (State.at s t).evt = s.evt := rfl
@[simp] theorem State.at_baspo (s : State) (t : Time) : (State.at s t).baspo = s.baspo := rfl
@[simp] theorem State.at_net (s : State) (t : Time) : (State.at s t).net = s.net := rfl
@[simp] theorem State.at_scan (s : State) (t : Time) : (State.at s t).scan = s.scan := rfl
@[simp] theorem State.at_emit (s : State) (t : Time) : (State.at s t).emit = s.emit := rfl
@[simp] theorem State.at_rx (s : State) (t : Time) : (State.at s t).rx = s.rx := rfl
@[simp] theorem State.at_tin (s : State) (t : Time) : (State.at s t).tin = s.tin := rfl
@[simp] theorem State.at_bus (s : State) (t : Time) : (State.at s t).bus = s.bus := rfl
@[simp] theorem State.at_front (s : State) (t : Time) : (State.at s t).front = s.front := rfl
@[simp] theorem State.at_hka (s : State) (t : Time) : (State.at s t).hka = s.hka := rfl
@[simp] theorem State.at_coil (s : State) (t : Time) : (State.at s t).coil = s.coil := rfl
@[simp] theorem State.at_laneA (s : State) (t : Time) : (State.at s t).laneA = s.laneA := rfl
@[simp] theorem State.at_laneB (s : State) (t : Time) : (State.at s t).laneB = s.laneB := rfl
@[simp] theorem State.at_arb (s : State) (t : Time) : (State.at s t).arb = s.arb := rfl
@[simp] theorem State.at_echo (s : State) (t : Time) : (State.at s t).echo = s.echo := rfl
@[simp] theorem State.at_cap (s : State) (t : Time) : (State.at s t).cap = s.cap := rfl
@[simp] theorem State.at_stream (s : State) (t : Time) : (State.at s t).stream = s.stream := rfl
@[simp] theorem State.at_pwr (s : State) (t : Time) : (State.at s t).pwr = s.pwr := rfl
@[simp] theorem State.at_therm (s : State) (t : Time) : (State.at s t).therm = s.therm := rfl
@[simp] theorem State.at_cal (s : State) (t : Time) : (State.at s t).cal = s.cal := rfl
@[simp] theorem State.at_flash (s : State) (t : Time) : (State.at s t).flash = s.flash := rfl
@[simp] theorem State.at_sec (s : State) (t : Time) : (State.at s t).sec = s.sec := rfl

/-! `State.ringPush` -/

@[simp] theorem State.ringPush_pending (s : State) (e : Event) : (State.ringPush s e).pending = s.pending := rfl
@[simp] theorem State.ringPush_now (s : State) (e : Event) : (State.ringPush s e).now = s.now := rfl
@[simp] theorem State.ringPush_out (s : State) (e : Event) : (State.ringPush s e).out = s.out := rfl
@[simp] theorem State.ringPush_draws (s : State) (e : Event) : (State.ringPush s e).draws = s.draws := rfl
@[simp] theorem State.ringPush_fac (s : State) (e : Event) : (State.ringPush s e).fac = s.fac := rfl
@[simp] theorem State.ringPush_cfg (s : State) (e : Event) : (State.ringPush s e).cfg = s.cfg := rfl
@[simp] theorem State.ringPush_baspo (s : State) (e : Event) : (State.ringPush s e).baspo = s.baspo := rfl
@[simp] theorem State.ringPush_net (s : State) (e : Event) : (State.ringPush s e).net = s.net := rfl
@[simp] theorem State.ringPush_scan (s : State) (e : Event) : (State.ringPush s e).scan = s.scan := rfl
@[simp] theorem State.ringPush_emit (s : State) (e : Event) : (State.ringPush s e).emit = s.emit := rfl
@[simp] theorem State.ringPush_rx (s : State) (e : Event) : (State.ringPush s e).rx = s.rx := rfl
@[simp] theorem State.ringPush_tin (s : State) (e : Event) : (State.ringPush s e).tin = s.tin := rfl
@[simp] theorem State.ringPush_bus (s : State) (e : Event) : (State.ringPush s e).bus = s.bus := rfl
@[simp] theorem State.ringPush_front (s : State) (e : Event) : (State.ringPush s e).front = s.front := rfl
@[simp] theorem State.ringPush_hka (s : State) (e : Event) : (State.ringPush s e).hka = s.hka := rfl
@[simp] theorem State.ringPush_coil (s : State) (e : Event) : (State.ringPush s e).coil = s.coil := rfl
@[simp] theorem State.ringPush_laneA (s : State) (e : Event) : (State.ringPush s e).laneA = s.laneA := rfl
@[simp] theorem State.ringPush_laneB (s : State) (e : Event) : (State.ringPush s e).laneB = s.laneB := rfl
@[simp] theorem State.ringPush_arb (s : State) (e : Event) : (State.ringPush s e).arb = s.arb := rfl
@[simp] theorem State.ringPush_echo (s : State) (e : Event) : (State.ringPush s e).echo = s.echo := rfl
@[simp] theorem State.ringPush_cap (s : State) (e : Event) : (State.ringPush s e).cap = s.cap := rfl
@[simp] theorem State.ringPush_stream (s : State) (e : Event) : (State.ringPush s e).stream = s.stream := rfl
@[simp] theorem State.ringPush_pwr (s : State) (e : Event) : (State.ringPush s e).pwr = s.pwr := rfl
@[simp] theorem State.ringPush_therm (s : State) (e : Event) : (State.ringPush s e).therm = s.therm := rfl
@[simp] theorem State.ringPush_cal (s : State) (e : Event) : (State.ringPush s e).cal = s.cal := rfl
@[simp] theorem State.ringPush_flash (s : State) (e : Event) : (State.ringPush s e).flash = s.flash := rfl
@[simp] theorem State.ringPush_sec (s : State) (e : Event) : (State.ringPush s e).sec = s.sec := rfl

/-! `State.offer` -/

@[simp] theorem State.offer_pending (s : State) (g : Trigger) : (State.offer s g).pending = s.pending := rfl
@[simp] theorem State.offer_now (s : State) (g : Trigger) : (State.offer s g).now = s.now := rfl
@[simp] theorem State.offer_out (s : State) (g : Trigger) : (State.offer s g).out = s.out := rfl
@[simp] theorem State.offer_draws (s : State) (g : Trigger) : (State.offer s g).draws = s.draws := rfl
@[simp] theorem State.offer_fac (s : State) (g : Trigger) : (State.offer s g).fac = s.fac := rfl
@[simp] theorem State.offer_cfg (s : State) (g : Trigger) : (State.offer s g).cfg = s.cfg := rfl
@[simp] theorem State.offer_evt (s : State) (g : Trigger) : (State.offer s g).evt = s.evt := rfl
@[simp] theorem State.offer_baspo (s : State) (g : Trigger) : (State.offer s g).baspo = s.baspo := rfl
@[simp] theorem State.offer_net (s : State) (g : Trigger) : (State.offer s g).net = s.net := rfl
@[simp] theorem State.offer_scan (s : State) (g : Trigger) : (State.offer s g).scan = s.scan := rfl
@[simp] theorem State.offer_emit (s : State) (g : Trigger) : (State.offer s g).emit = s.emit := rfl
@[simp] theorem State.offer_rx (s : State) (g : Trigger) : (State.offer s g).rx = s.rx := rfl
@[simp] theorem State.offer_tin (s : State) (g : Trigger) : (State.offer s g).tin = s.tin := rfl
@[simp] theorem State.offer_bus (s : State) (g : Trigger) : (State.offer s g).bus = s.bus := rfl
@[simp] theorem State.offer_front (s : State) (g : Trigger) : (State.offer s g).front = s.front := rfl
@[simp] theorem State.offer_hka (s : State) (g : Trigger) : (State.offer s g).hka = s.hka := rfl
@[simp] theorem State.offer_coil (s : State) (g : Trigger) : (State.offer s g).coil = s.coil := rfl
@[simp] theorem State.offer_laneA (s : State) (g : Trigger) : (State.offer s g).laneA = s.laneA := rfl
@[simp] theorem State.offer_laneB (s : State) (g : Trigger) : (State.offer s g).laneB = s.laneB := rfl
@[simp] theorem State.offer_arb (s : State) (g : Trigger) : (State.offer s g).arb = s.arb := rfl
@[simp] theorem State.offer_echo (s : State) (g : Trigger) : (State.offer s g).echo = s.echo := rfl
@[simp] theorem State.offer_stream (s : State) (g : Trigger) : (State.offer s g).stream = s.stream := rfl
@[simp] theorem State.offer_pwr (s : State) (g : Trigger) : (State.offer s g).pwr = s.pwr := rfl
@[simp] theorem State.offer_therm (s : State) (g : Trigger) : (State.offer s g).therm = s.therm := rfl
@[simp] theorem State.offer_cal (s : State) (g : Trigger) : (State.offer s g).cal = s.cal := rfl
@[simp] theorem State.offer_flash (s : State) (g : Trigger) : (State.offer s g).flash = s.flash := rfl
@[simp] theorem State.offer_sec (s : State) (g : Trigger) : (State.offer s g).sec = s.sec := rfl

/-! `State.enqueue` -/

@[simp] theorem State.enqueue_pending (s : State) (k : Ticket) : (State.enqueue s k).pending = s.pending := rfl
@[simp] theorem State.enqueue_now (s : State) (k : Ticket) : (State.enqueue s k).now = s.now := rfl
@[simp] theorem State.enqueue_out (s : State) (k : Ticket) : (State.enqueue s k).out = s.out := rfl
@[simp] theorem State.enqueue_draws (s : State) (k : Ticket) : (State.enqueue s k).draws = s.draws := rfl
@[simp] theorem State.enqueue_fac (s : State) (k : Ticket) : (State.enqueue s k).fac = s.fac := rfl
@[simp] theorem State.enqueue_cfg (s : State) (k : Ticket) : (State.enqueue s k).cfg = s.cfg := rfl
@[simp] theorem State.enqueue_evt (s : State) (k : Ticket) : (State.enqueue s k).evt = s.evt := rfl
@[simp] theorem State.enqueue_net (s : State) (k : Ticket) : (State.enqueue s k).net = s.net := rfl
@[simp] theorem State.enqueue_scan (s : State) (k : Ticket) : (State.enqueue s k).scan = s.scan := rfl
@[simp] theorem State.enqueue_emit (s : State) (k : Ticket) : (State.enqueue s k).emit = s.emit := rfl
@[simp] theorem State.enqueue_rx (s : State) (k : Ticket) : (State.enqueue s k).rx = s.rx := rfl
@[simp] theorem State.enqueue_tin (s : State) (k : Ticket) : (State.enqueue s k).tin = s.tin := rfl
@[simp] theorem State.enqueue_bus (s : State) (k : Ticket) : (State.enqueue s k).bus = s.bus := rfl
@[simp] theorem State.enqueue_front (s : State) (k : Ticket) : (State.enqueue s k).front = s.front := rfl
@[simp] theorem State.enqueue_hka (s : State) (k : Ticket) : (State.enqueue s k).hka = s.hka := rfl
@[simp] theorem State.enqueue_coil (s : State) (k : Ticket) : (State.enqueue s k).coil = s.coil := rfl
@[simp] theorem State.enqueue_laneA (s : State) (k : Ticket) : (State.enqueue s k).laneA = s.laneA := rfl
@[simp] theorem State.enqueue_laneB (s : State) (k : Ticket) : (State.enqueue s k).laneB = s.laneB := rfl
@[simp] theorem State.enqueue_arb (s : State) (k : Ticket) : (State.enqueue s k).arb = s.arb := rfl
@[simp] theorem State.enqueue_echo (s : State) (k : Ticket) : (State.enqueue s k).echo = s.echo := rfl
@[simp] theorem State.enqueue_cap (s : State) (k : Ticket) : (State.enqueue s k).cap = s.cap := rfl
@[simp] theorem State.enqueue_stream (s : State) (k : Ticket) : (State.enqueue s k).stream = s.stream := rfl
@[simp] theorem State.enqueue_pwr (s : State) (k : Ticket) : (State.enqueue s k).pwr = s.pwr := rfl
@[simp] theorem State.enqueue_therm (s : State) (k : Ticket) : (State.enqueue s k).therm = s.therm := rfl
@[simp] theorem State.enqueue_cal (s : State) (k : Ticket) : (State.enqueue s k).cal = s.cal := rfl
@[simp] theorem State.enqueue_flash (s : State) (k : Ticket) : (State.enqueue s k).flash = s.flash := rfl
@[simp] theorem State.enqueue_sec (s : State) (k : Ticket) : (State.enqueue s k).sec = s.sec := rfl

/-! `State.enqueued` -/

@[simp] theorem State.enqueued_pending (s : State) (obj value : Nat) (k : U32) : (State.enqueued s obj value k).pending = s.pending := rfl
@[simp] theorem State.enqueued_now (s : State) (obj value : Nat) (k : U32) : (State.enqueued s obj value k).now = s.now := rfl
@[simp] theorem State.enqueued_out (s : State) (obj value : Nat) (k : U32) : (State.enqueued s obj value k).out = s.out := rfl
@[simp] theorem State.enqueued_draws (s : State) (obj value : Nat) (k : U32) : (State.enqueued s obj value k).draws = s.draws := rfl
@[simp] theorem State.enqueued_fac (s : State) (obj value : Nat) (k : U32) : (State.enqueued s obj value k).fac = s.fac := rfl
@[simp] theorem State.enqueued_cfg (s : State) (obj value : Nat) (k : U32) : (State.enqueued s obj value k).cfg = s.cfg := rfl
@[simp] theorem State.enqueued_evt (s : State) (obj value : Nat) (k : U32) : (State.enqueued s obj value k).evt = s.evt := rfl
@[simp] theorem State.enqueued_net (s : State) (obj value : Nat) (k : U32) : (State.enqueued s obj value k).net = s.net := rfl
@[simp] theorem State.enqueued_scan (s : State) (obj value : Nat) (k : U32) : (State.enqueued s obj value k).scan = s.scan := rfl
@[simp] theorem State.enqueued_emit (s : State) (obj value : Nat) (k : U32) : (State.enqueued s obj value k).emit = s.emit := rfl
@[simp] theorem State.enqueued_rx (s : State) (obj value : Nat) (k : U32) : (State.enqueued s obj value k).rx = s.rx := rfl
@[simp] theorem State.enqueued_tin (s : State) (obj value : Nat) (k : U32) : (State.enqueued s obj value k).tin = s.tin := rfl
@[simp] theorem State.enqueued_bus (s : State) (obj value : Nat) (k : U32) : (State.enqueued s obj value k).bus = s.bus := rfl
@[simp] theorem State.enqueued_front (s : State) (obj value : Nat) (k : U32) : (State.enqueued s obj value k).front = s.front := rfl
@[simp] theorem State.enqueued_hka (s : State) (obj value : Nat) (k : U32) : (State.enqueued s obj value k).hka = s.hka := rfl
@[simp] theorem State.enqueued_coil (s : State) (obj value : Nat) (k : U32) : (State.enqueued s obj value k).coil = s.coil := rfl
@[simp] theorem State.enqueued_laneA (s : State) (obj value : Nat) (k : U32) : (State.enqueued s obj value k).laneA = s.laneA := rfl
@[simp] theorem State.enqueued_laneB (s : State) (obj value : Nat) (k : U32) : (State.enqueued s obj value k).laneB = s.laneB := rfl
@[simp] theorem State.enqueued_arb (s : State) (obj value : Nat) (k : U32) : (State.enqueued s obj value k).arb = s.arb := rfl
@[simp] theorem State.enqueued_echo (s : State) (obj value : Nat) (k : U32) : (State.enqueued s obj value k).echo = s.echo := rfl
@[simp] theorem State.enqueued_cap (s : State) (obj value : Nat) (k : U32) : (State.enqueued s obj value k).cap = s.cap := rfl
@[simp] theorem State.enqueued_stream (s : State) (obj value : Nat) (k : U32) : (State.enqueued s obj value k).stream = s.stream := rfl
@[simp] theorem State.enqueued_pwr (s : State) (obj value : Nat) (k : U32) : (State.enqueued s obj value k).pwr = s.pwr := rfl
@[simp] theorem State.enqueued_therm (s : State) (obj value : Nat) (k : U32) : (State.enqueued s obj value k).therm = s.therm := rfl
@[simp] theorem State.enqueued_cal (s : State) (obj value : Nat) (k : U32) : (State.enqueued s obj value k).cal = s.cal := rfl
@[simp] theorem State.enqueued_flash (s : State) (obj value : Nat) (k : U32) : (State.enqueued s obj value k).flash = s.flash := rfl
@[simp] theorem State.enqueued_sec (s : State) (obj value : Nat) (k : U32) : (State.enqueued s obj value k).sec = s.sec := rfl

/-! `State.dequeue` -/

@[simp] theorem State.dequeue_pending (s : State) (num : U32) : (State.dequeue s num).pending = s.pending := rfl
@[simp] theorem State.dequeue_now (s : State) (num : U32) : (State.dequeue s num).now = s.now := rfl
@[simp] theorem State.dequeue_out (s : State) (num : U32) : (State.dequeue s num).out = s.out := rfl
@[simp] theorem State.dequeue_draws (s : State) (num : U32) : (State.dequeue s num).draws = s.draws := rfl
@[simp] theorem State.dequeue_fac (s : State) (num : U32) : (State.dequeue s num).fac = s.fac := rfl
@[simp] theorem State.dequeue_cfg (s : State) (num : U32) : (State.dequeue s num).cfg = s.cfg := rfl
@[simp] theorem State.dequeue_evt (s : State) (num : U32) : (State.dequeue s num).evt = s.evt := rfl
@[simp] theorem State.dequeue_net (s : State) (num : U32) : (State.dequeue s num).net = s.net := rfl
@[simp] theorem State.dequeue_scan (s : State) (num : U32) : (State.dequeue s num).scan = s.scan := rfl
@[simp] theorem State.dequeue_emit (s : State) (num : U32) : (State.dequeue s num).emit = s.emit := rfl
@[simp] theorem State.dequeue_rx (s : State) (num : U32) : (State.dequeue s num).rx = s.rx := rfl
@[simp] theorem State.dequeue_tin (s : State) (num : U32) : (State.dequeue s num).tin = s.tin := rfl
@[simp] theorem State.dequeue_bus (s : State) (num : U32) : (State.dequeue s num).bus = s.bus := rfl
@[simp] theorem State.dequeue_front (s : State) (num : U32) : (State.dequeue s num).front = s.front := rfl
@[simp] theorem State.dequeue_hka (s : State) (num : U32) : (State.dequeue s num).hka = s.hka := rfl
@[simp] theorem State.dequeue_coil (s : State) (num : U32) : (State.dequeue s num).coil = s.coil := rfl
@[simp] theorem State.dequeue_laneA (s : State) (num : U32) : (State.dequeue s num).laneA = s.laneA := rfl
@[simp] theorem State.dequeue_laneB (s : State) (num : U32) : (State.dequeue s num).laneB = s.laneB := rfl
@[simp] theorem State.dequeue_arb (s : State) (num : U32) : (State.dequeue s num).arb = s.arb := rfl
@[simp] theorem State.dequeue_echo (s : State) (num : U32) : (State.dequeue s num).echo = s.echo := rfl
@[simp] theorem State.dequeue_cap (s : State) (num : U32) : (State.dequeue s num).cap = s.cap := rfl
@[simp] theorem State.dequeue_stream (s : State) (num : U32) : (State.dequeue s num).stream = s.stream := rfl
@[simp] theorem State.dequeue_pwr (s : State) (num : U32) : (State.dequeue s num).pwr = s.pwr := rfl
@[simp] theorem State.dequeue_therm (s : State) (num : U32) : (State.dequeue s num).therm = s.therm := rfl
@[simp] theorem State.dequeue_cal (s : State) (num : U32) : (State.dequeue s num).cal = s.cal := rfl
@[simp] theorem State.dequeue_flash (s : State) (num : U32) : (State.dequeue s num).flash = s.flash := rfl
@[simp] theorem State.dequeue_sec (s : State) (num : U32) : (State.dequeue s num).sec = s.sec := rfl

/-! `State.setDom` -/

@[simp] theorem State.setDom_pending (s : State) (d : Nat) (v : DomState) : (State.setDom s d v).pending = s.pending := rfl
@[simp] theorem State.setDom_now (s : State) (d : Nat) (v : DomState) : (State.setDom s d v).now = s.now := rfl
@[simp] theorem State.setDom_out (s : State) (d : Nat) (v : DomState) : (State.setDom s d v).out = s.out := rfl
@[simp] theorem State.setDom_draws (s : State) (d : Nat) (v : DomState) : (State.setDom s d v).draws = s.draws := rfl
@[simp] theorem State.setDom_fac (s : State) (d : Nat) (v : DomState) : (State.setDom s d v).fac = s.fac := rfl
@[simp] theorem State.setDom_cfg (s : State) (d : Nat) (v : DomState) : (State.setDom s d v).cfg = s.cfg := rfl
@[simp] theorem State.setDom_evt (s : State) (d : Nat) (v : DomState) : (State.setDom s d v).evt = s.evt := rfl
@[simp] theorem State.setDom_baspo (s : State) (d : Nat) (v : DomState) : (State.setDom s d v).baspo = s.baspo := rfl
@[simp] theorem State.setDom_net (s : State) (d : Nat) (v : DomState) : (State.setDom s d v).net = s.net := rfl
@[simp] theorem State.setDom_scan (s : State) (d : Nat) (v : DomState) : (State.setDom s d v).scan = s.scan := rfl
@[simp] theorem State.setDom_emit (s : State) (d : Nat) (v : DomState) : (State.setDom s d v).emit = s.emit := rfl
@[simp] theorem State.setDom_rx (s : State) (d : Nat) (v : DomState) : (State.setDom s d v).rx = s.rx := rfl
@[simp] theorem State.setDom_tin (s : State) (d : Nat) (v : DomState) : (State.setDom s d v).tin = s.tin := rfl
@[simp] theorem State.setDom_bus (s : State) (d : Nat) (v : DomState) : (State.setDom s d v).bus = s.bus := rfl
@[simp] theorem State.setDom_front (s : State) (d : Nat) (v : DomState) : (State.setDom s d v).front = s.front := rfl
@[simp] theorem State.setDom_hka (s : State) (d : Nat) (v : DomState) : (State.setDom s d v).hka = s.hka := rfl
@[simp] theorem State.setDom_coil (s : State) (d : Nat) (v : DomState) : (State.setDom s d v).coil = s.coil := rfl
@[simp] theorem State.setDom_laneA (s : State) (d : Nat) (v : DomState) : (State.setDom s d v).laneA = s.laneA := rfl
@[simp] theorem State.setDom_laneB (s : State) (d : Nat) (v : DomState) : (State.setDom s d v).laneB = s.laneB := rfl
@[simp] theorem State.setDom_arb (s : State) (d : Nat) (v : DomState) : (State.setDom s d v).arb = s.arb := rfl
@[simp] theorem State.setDom_echo (s : State) (d : Nat) (v : DomState) : (State.setDom s d v).echo = s.echo := rfl
@[simp] theorem State.setDom_cap (s : State) (d : Nat) (v : DomState) : (State.setDom s d v).cap = s.cap := rfl
@[simp] theorem State.setDom_stream (s : State) (d : Nat) (v : DomState) : (State.setDom s d v).stream = s.stream := rfl
@[simp] theorem State.setDom_therm (s : State) (d : Nat) (v : DomState) : (State.setDom s d v).therm = s.therm := rfl
@[simp] theorem State.setDom_cal (s : State) (d : Nat) (v : DomState) : (State.setDom s d v).cal = s.cal := rfl
@[simp] theorem State.setDom_flash (s : State) (d : Nat) (v : DomState) : (State.setDom s d v).flash = s.flash := rfl
@[simp] theorem State.setDom_sec (s : State) (d : Nat) (v : DomState) : (State.setDom s d v).sec = s.sec := rfl

/-! `State.send` -/

@[simp] theorem State.send_pending (s : State) (m : OutMsg) : (State.send s m).pending = s.pending := rfl
@[simp] theorem State.send_now (s : State) (m : OutMsg) : (State.send s m).now = s.now := rfl
@[simp] theorem State.send_draws (s : State) (m : OutMsg) : (State.send s m).draws = s.draws := rfl
@[simp] theorem State.send_fac (s : State) (m : OutMsg) : (State.send s m).fac = s.fac := rfl
@[simp] theorem State.send_cfg (s : State) (m : OutMsg) : (State.send s m).cfg = s.cfg := rfl
@[simp] theorem State.send_evt (s : State) (m : OutMsg) : (State.send s m).evt = s.evt := rfl
@[simp] theorem State.send_baspo (s : State) (m : OutMsg) : (State.send s m).baspo = s.baspo := rfl
@[simp] theorem State.send_net (s : State) (m : OutMsg) : (State.send s m).net = s.net := rfl
@[simp] theorem State.send_scan (s : State) (m : OutMsg) : (State.send s m).scan = s.scan := rfl
@[simp] theorem State.send_emit (s : State) (m : OutMsg) : (State.send s m).emit = s.emit := rfl
@[simp] theorem State.send_rx (s : State) (m : OutMsg) : (State.send s m).rx = s.rx := rfl
@[simp] theorem State.send_tin (s : State) (m : OutMsg) : (State.send s m).tin = s.tin := rfl
@[simp] theorem State.send_bus (s : State) (m : OutMsg) : (State.send s m).bus = s.bus := rfl
@[simp] theorem State.send_front (s : State) (m : OutMsg) : (State.send s m).front = s.front := rfl
@[simp] theorem State.send_hka (s : State) (m : OutMsg) : (State.send s m).hka = s.hka := rfl
@[simp] theorem State.send_coil (s : State) (m : OutMsg) : (State.send s m).coil = s.coil := rfl
@[simp] theorem State.send_laneA (s : State) (m : OutMsg) : (State.send s m).laneA = s.laneA := rfl
@[simp] theorem State.send_laneB (s : State) (m : OutMsg) : (State.send s m).laneB = s.laneB := rfl
@[simp] theorem State.send_arb (s : State) (m : OutMsg) : (State.send s m).arb = s.arb := rfl
@[simp] theorem State.send_echo (s : State) (m : OutMsg) : (State.send s m).echo = s.echo := rfl
@[simp] theorem State.send_cap (s : State) (m : OutMsg) : (State.send s m).cap = s.cap := rfl
@[simp] theorem State.send_stream (s : State) (m : OutMsg) : (State.send s m).stream = s.stream := rfl
@[simp] theorem State.send_pwr (s : State) (m : OutMsg) : (State.send s m).pwr = s.pwr := rfl
@[simp] theorem State.send_therm (s : State) (m : OutMsg) : (State.send s m).therm = s.therm := rfl
@[simp] theorem State.send_cal (s : State) (m : OutMsg) : (State.send s m).cal = s.cal := rfl
@[simp] theorem State.send_flash (s : State) (m : OutMsg) : (State.send s m).flash = s.flash := rfl
@[simp] theorem State.send_sec (s : State) (m : OutMsg) : (State.send s m).sec = s.sec := rfl

/-! `State.modBand` -/

@[simp] theorem State.modBand_pending (s : State) (b : Nat) (f : Band → Band) : (State.modBand s b f).pending = s.pending := rfl
@[simp] theorem State.modBand_now (s : State) (b : Nat) (f : Band → Band) : (State.modBand s b f).now = s.now := rfl
@[simp] theorem State.modBand_out (s : State) (b : Nat) (f : Band → Band) : (State.modBand s b f).out = s.out := rfl
@[simp] theorem State.modBand_draws (s : State) (b : Nat) (f : Band → Band) : (State.modBand s b f).draws = s.draws := rfl
@[simp] theorem State.modBand_fac (s : State) (b : Nat) (f : Band → Band) : (State.modBand s b f).fac = s.fac := rfl
@[simp] theorem State.modBand_cfg (s : State) (b : Nat) (f : Band → Band) : (State.modBand s b f).cfg = s.cfg := rfl
@[simp] theorem State.modBand_evt (s : State) (b : Nat) (f : Band → Band) : (State.modBand s b f).evt = s.evt := rfl
@[simp] theorem State.modBand_baspo (s : State) (b : Nat) (f : Band → Band) : (State.modBand s b f).baspo = s.baspo := rfl
@[simp] theorem State.modBand_net (s : State) (b : Nat) (f : Band → Band) : (State.modBand s b f).net = s.net := rfl
@[simp] theorem State.modBand_scan (s : State) (b : Nat) (f : Band → Band) : (State.modBand s b f).scan = s.scan := rfl
@[simp] theorem State.modBand_emit (s : State) (b : Nat) (f : Band → Band) : (State.modBand s b f).emit = s.emit := rfl
@[simp] theorem State.modBand_tin (s : State) (b : Nat) (f : Band → Band) : (State.modBand s b f).tin = s.tin := rfl
@[simp] theorem State.modBand_bus (s : State) (b : Nat) (f : Band → Band) : (State.modBand s b f).bus = s.bus := rfl
@[simp] theorem State.modBand_front (s : State) (b : Nat) (f : Band → Band) : (State.modBand s b f).front = s.front := rfl
@[simp] theorem State.modBand_hka (s : State) (b : Nat) (f : Band → Band) : (State.modBand s b f).hka = s.hka := rfl
@[simp] theorem State.modBand_coil (s : State) (b : Nat) (f : Band → Band) : (State.modBand s b f).coil = s.coil := rfl
@[simp] theorem State.modBand_laneA (s : State) (b : Nat) (f : Band → Band) : (State.modBand s b f).laneA = s.laneA := rfl
@[simp] theorem State.modBand_laneB (s : State) (b : Nat) (f : Band → Band) : (State.modBand s b f).laneB = s.laneB := rfl
@[simp] theorem State.modBand_arb (s : State) (b : Nat) (f : Band → Band) : (State.modBand s b f).arb = s.arb := rfl
@[simp] theorem State.modBand_echo (s : State) (b : Nat) (f : Band → Band) : (State.modBand s b f).echo = s.echo := rfl
@[simp] theorem State.modBand_cap (s : State) (b : Nat) (f : Band → Band) : (State.modBand s b f).cap = s.cap := rfl
@[simp] theorem State.modBand_stream (s : State) (b : Nat) (f : Band → Band) : (State.modBand s b f).stream = s.stream := rfl
@[simp] theorem State.modBand_pwr (s : State) (b : Nat) (f : Band → Band) : (State.modBand s b f).pwr = s.pwr := rfl
@[simp] theorem State.modBand_therm (s : State) (b : Nat) (f : Band → Band) : (State.modBand s b f).therm = s.therm := rfl
@[simp] theorem State.modBand_cal (s : State) (b : Nat) (f : Band → Band) : (State.modBand s b f).cal = s.cal := rfl
@[simp] theorem State.modBand_flash (s : State) (b : Nat) (f : Band → Band) : (State.modBand s b f).flash = s.flash := rfl
@[simp] theorem State.modBand_sec (s : State) (b : Nat) (f : Band → Band) : (State.modBand s b f).sec = s.sec := rfl

/-! `State.modInput` -/

@[simp] theorem State.modInput_pending (s : State) (i : Nat) (f : TinInput → TinInput) : (State.modInput s i f).pending = s.pending := rfl
@[simp] theorem State.modInput_now (s : State) (i : Nat) (f : TinInput → TinInput) : (State.modInput s i f).now = s.now := rfl
@[simp] theorem State.modInput_out (s : State) (i : Nat) (f : TinInput → TinInput) : (State.modInput s i f).out = s.out := rfl
@[simp] theorem State.modInput_draws (s : State) (i : Nat) (f : TinInput → TinInput) : (State.modInput s i f).draws = s.draws := rfl
@[simp] theorem State.modInput_fac (s : State) (i : Nat) (f : TinInput → TinInput) : (State.modInput s i f).fac = s.fac := rfl
@[simp] theorem State.modInput_cfg (s : State) (i : Nat) (f : TinInput → TinInput) : (State.modInput s i f).cfg = s.cfg := rfl
@[simp] theorem State.modInput_evt (s : State) (i : Nat) (f : TinInput → TinInput) : (State.modInput s i f).evt = s.evt := rfl
@[simp] theorem State.modInput_baspo (s : State) (i : Nat) (f : TinInput → TinInput) : (State.modInput s i f).baspo = s.baspo := rfl
@[simp] theorem State.modInput_net (s : State) (i : Nat) (f : TinInput → TinInput) : (State.modInput s i f).net = s.net := rfl
@[simp] theorem State.modInput_scan (s : State) (i : Nat) (f : TinInput → TinInput) : (State.modInput s i f).scan = s.scan := rfl
@[simp] theorem State.modInput_emit (s : State) (i : Nat) (f : TinInput → TinInput) : (State.modInput s i f).emit = s.emit := rfl
@[simp] theorem State.modInput_rx (s : State) (i : Nat) (f : TinInput → TinInput) : (State.modInput s i f).rx = s.rx := rfl
@[simp] theorem State.modInput_bus (s : State) (i : Nat) (f : TinInput → TinInput) : (State.modInput s i f).bus = s.bus := rfl
@[simp] theorem State.modInput_front (s : State) (i : Nat) (f : TinInput → TinInput) : (State.modInput s i f).front = s.front := rfl
@[simp] theorem State.modInput_hka (s : State) (i : Nat) (f : TinInput → TinInput) : (State.modInput s i f).hka = s.hka := rfl
@[simp] theorem State.modInput_coil (s : State) (i : Nat) (f : TinInput → TinInput) : (State.modInput s i f).coil = s.coil := rfl
@[simp] theorem State.modInput_laneA (s : State) (i : Nat) (f : TinInput → TinInput) : (State.modInput s i f).laneA = s.laneA := rfl
@[simp] theorem State.modInput_laneB (s : State) (i : Nat) (f : TinInput → TinInput) : (State.modInput s i f).laneB = s.laneB := rfl
@[simp] theorem State.modInput_arb (s : State) (i : Nat) (f : TinInput → TinInput) : (State.modInput s i f).arb = s.arb := rfl
@[simp] theorem State.modInput_echo (s : State) (i : Nat) (f : TinInput → TinInput) : (State.modInput s i f).echo = s.echo := rfl
@[simp] theorem State.modInput_cap (s : State) (i : Nat) (f : TinInput → TinInput) : (State.modInput s i f).cap = s.cap := rfl
@[simp] theorem State.modInput_stream (s : State) (i : Nat) (f : TinInput → TinInput) : (State.modInput s i f).stream = s.stream := rfl
@[simp] theorem State.modInput_pwr (s : State) (i : Nat) (f : TinInput → TinInput) : (State.modInput s i f).pwr = s.pwr := rfl
@[simp] theorem State.modInput_therm (s : State) (i : Nat) (f : TinInput → TinInput) : (State.modInput s i f).therm = s.therm := rfl
@[simp] theorem State.modInput_cal (s : State) (i : Nat) (f : TinInput → TinInput) : (State.modInput s i f).cal = s.cal := rfl
@[simp] theorem State.modInput_flash (s : State) (i : Nat) (f : TinInput → TinInput) : (State.modInput s i f).flash = s.flash := rfl
@[simp] theorem State.modInput_sec (s : State) (i : Nat) (f : TinInput → TinInput) : (State.modInput s i f).sec = s.sec := rfl

/-! `State.modPeer` -/

@[simp] theorem State.modPeer_pending (s : State) (p : Nat) (f : BusPeer → BusPeer) : (State.modPeer s p f).pending = s.pending := rfl
@[simp] theorem State.modPeer_now (s : State) (p : Nat) (f : BusPeer → BusPeer) : (State.modPeer s p f).now = s.now := rfl
@[simp] theorem State.modPeer_out (s : State) (p : Nat) (f : BusPeer → BusPeer) : (State.modPeer s p f).out = s.out := rfl
@[simp] theorem State.modPeer_draws (s : State) (p : Nat) (f : BusPeer → BusPeer) : (State.modPeer s p f).draws = s.draws := rfl
@[simp] theorem State.modPeer_fac (s : State) (p : Nat) (f : BusPeer → BusPeer) : (State.modPeer s p f).fac = s.fac := rfl
@[simp] theorem State.modPeer_cfg (s : State) (p : Nat) (f : BusPeer → BusPeer) : (State.modPeer s p f).cfg = s.cfg := rfl
@[simp] theorem State.modPeer_evt (s : State) (p : Nat) (f : BusPeer → BusPeer) : (State.modPeer s p f).evt = s.evt := rfl
@[simp] theorem State.modPeer_baspo (s : State) (p : Nat) (f : BusPeer → BusPeer) : (State.modPeer s p f).baspo = s.baspo := rfl
@[simp] theorem State.modPeer_net (s : State) (p : Nat) (f : BusPeer → BusPeer) : (State.modPeer s p f).net = s.net := rfl
@[simp] theorem State.modPeer_scan (s : State) (p : Nat) (f : BusPeer → BusPeer) : (State.modPeer s p f).scan = s.scan := rfl
@[simp] theorem State.modPeer_emit (s : State) (p : Nat) (f : BusPeer → BusPeer) : (State.modPeer s p f).emit = s.emit := rfl
@[simp] theorem State.modPeer_rx (s : State) (p : Nat) (f : BusPeer → BusPeer) : (State.modPeer s p f).rx = s.rx := rfl
@[simp] theorem State.modPeer_tin (s : State) (p : Nat) (f : BusPeer → BusPeer) : (State.modPeer s p f).tin = s.tin := rfl
@[simp] theorem State.modPeer_front (s : State) (p : Nat) (f : BusPeer → BusPeer) : (State.modPeer s p f).front = s.front := rfl
@[simp] theorem State.modPeer_hka (s : State) (p : Nat) (f : BusPeer → BusPeer) : (State.modPeer s p f).hka = s.hka := rfl
@[simp] theorem State.modPeer_coil (s : State) (p : Nat) (f : BusPeer → BusPeer) : (State.modPeer s p f).coil = s.coil := rfl
@[simp] theorem State.modPeer_laneA (s : State) (p : Nat) (f : BusPeer → BusPeer) : (State.modPeer s p f).laneA = s.laneA := rfl
@[simp] theorem State.modPeer_laneB (s : State) (p : Nat) (f : BusPeer → BusPeer) : (State.modPeer s p f).laneB = s.laneB := rfl
@[simp] theorem State.modPeer_arb (s : State) (p : Nat) (f : BusPeer → BusPeer) : (State.modPeer s p f).arb = s.arb := rfl
@[simp] theorem State.modPeer_echo (s : State) (p : Nat) (f : BusPeer → BusPeer) : (State.modPeer s p f).echo = s.echo := rfl
@[simp] theorem State.modPeer_cap (s : State) (p : Nat) (f : BusPeer → BusPeer) : (State.modPeer s p f).cap = s.cap := rfl
@[simp] theorem State.modPeer_stream (s : State) (p : Nat) (f : BusPeer → BusPeer) : (State.modPeer s p f).stream = s.stream := rfl
@[simp] theorem State.modPeer_pwr (s : State) (p : Nat) (f : BusPeer → BusPeer) : (State.modPeer s p f).pwr = s.pwr := rfl
@[simp] theorem State.modPeer_therm (s : State) (p : Nat) (f : BusPeer → BusPeer) : (State.modPeer s p f).therm = s.therm := rfl
@[simp] theorem State.modPeer_cal (s : State) (p : Nat) (f : BusPeer → BusPeer) : (State.modPeer s p f).cal = s.cal := rfl
@[simp] theorem State.modPeer_flash (s : State) (p : Nat) (f : BusPeer → BusPeer) : (State.modPeer s p f).flash = s.flash := rfl
@[simp] theorem State.modPeer_sec (s : State) (p : Nat) (f : BusPeer → BusPeer) : (State.modPeer s p f).sec = s.sec := rfl

/-! `State.modSession` -/

@[simp] theorem State.modSession_pending (s : State) (tr : Transport) (num : Byte) (f : Session → Session) : (State.modSession s tr num f).pending = s.pending := rfl
@[simp] theorem State.modSession_now (s : State) (tr : Transport) (num : Byte) (f : Session → Session) : (State.modSession s tr num f).now = s.now := rfl
@[simp] theorem State.modSession_out (s : State) (tr : Transport) (num : Byte) (f : Session → Session) : (State.modSession s tr num f).out = s.out := rfl
@[simp] theorem State.modSession_draws (s : State) (tr : Transport) (num : Byte) (f : Session → Session) : (State.modSession s tr num f).draws = s.draws := rfl
@[simp] theorem State.modSession_fac (s : State) (tr : Transport) (num : Byte) (f : Session → Session) : (State.modSession s tr num f).fac = s.fac := rfl
@[simp] theorem State.modSession_cfg (s : State) (tr : Transport) (num : Byte) (f : Session → Session) : (State.modSession s tr num f).cfg = s.cfg := rfl
@[simp] theorem State.modSession_evt (s : State) (tr : Transport) (num : Byte) (f : Session → Session) : (State.modSession s tr num f).evt = s.evt := rfl
@[simp] theorem State.modSession_net (s : State) (tr : Transport) (num : Byte) (f : Session → Session) : (State.modSession s tr num f).net = s.net := rfl
@[simp] theorem State.modSession_scan (s : State) (tr : Transport) (num : Byte) (f : Session → Session) : (State.modSession s tr num f).scan = s.scan := rfl
@[simp] theorem State.modSession_emit (s : State) (tr : Transport) (num : Byte) (f : Session → Session) : (State.modSession s tr num f).emit = s.emit := rfl
@[simp] theorem State.modSession_rx (s : State) (tr : Transport) (num : Byte) (f : Session → Session) : (State.modSession s tr num f).rx = s.rx := rfl
@[simp] theorem State.modSession_tin (s : State) (tr : Transport) (num : Byte) (f : Session → Session) : (State.modSession s tr num f).tin = s.tin := rfl
@[simp] theorem State.modSession_bus (s : State) (tr : Transport) (num : Byte) (f : Session → Session) : (State.modSession s tr num f).bus = s.bus := rfl
@[simp] theorem State.modSession_front (s : State) (tr : Transport) (num : Byte) (f : Session → Session) : (State.modSession s tr num f).front = s.front := rfl
@[simp] theorem State.modSession_hka (s : State) (tr : Transport) (num : Byte) (f : Session → Session) : (State.modSession s tr num f).hka = s.hka := rfl
@[simp] theorem State.modSession_coil (s : State) (tr : Transport) (num : Byte) (f : Session → Session) : (State.modSession s tr num f).coil = s.coil := rfl
@[simp] theorem State.modSession_laneA (s : State) (tr : Transport) (num : Byte) (f : Session → Session) : (State.modSession s tr num f).laneA = s.laneA := rfl
@[simp] theorem State.modSession_laneB (s : State) (tr : Transport) (num : Byte) (f : Session → Session) : (State.modSession s tr num f).laneB = s.laneB := rfl
@[simp] theorem State.modSession_arb (s : State) (tr : Transport) (num : Byte) (f : Session → Session) : (State.modSession s tr num f).arb = s.arb := rfl
@[simp] theorem State.modSession_echo (s : State) (tr : Transport) (num : Byte) (f : Session → Session) : (State.modSession s tr num f).echo = s.echo := rfl
@[simp] theorem State.modSession_cap (s : State) (tr : Transport) (num : Byte) (f : Session → Session) : (State.modSession s tr num f).cap = s.cap := rfl
@[simp] theorem State.modSession_stream (s : State) (tr : Transport) (num : Byte) (f : Session → Session) : (State.modSession s tr num f).stream = s.stream := rfl
@[simp] theorem State.modSession_pwr (s : State) (tr : Transport) (num : Byte) (f : Session → Session) : (State.modSession s tr num f).pwr = s.pwr := rfl
@[simp] theorem State.modSession_therm (s : State) (tr : Transport) (num : Byte) (f : Session → Session) : (State.modSession s tr num f).therm = s.therm := rfl
@[simp] theorem State.modSession_cal (s : State) (tr : Transport) (num : Byte) (f : Session → Session) : (State.modSession s tr num f).cal = s.cal := rfl
@[simp] theorem State.modSession_flash (s : State) (tr : Transport) (num : Byte) (f : Session → Session) : (State.modSession s tr num f).flash = s.flash := rfl
@[simp] theorem State.modSession_sec (s : State) (tr : Transport) (num : Byte) (f : Session → Session) : (State.modSession s tr num f).sec = s.sec := rfl

/-! `State.setBlock` -/

@[simp] theorem State.setBlock_pending (s : State) (x : Session) (b : Option BlockXfer) : (State.setBlock s x b).pending = s.pending := rfl
@[simp] theorem State.setBlock_now (s : State) (x : Session) (b : Option BlockXfer) : (State.setBlock s x b).now = s.now := rfl
@[simp] theorem State.setBlock_out (s : State) (x : Session) (b : Option BlockXfer) : (State.setBlock s x b).out = s.out := rfl
@[simp] theorem State.setBlock_draws (s : State) (x : Session) (b : Option BlockXfer) : (State.setBlock s x b).draws = s.draws := rfl
@[simp] theorem State.setBlock_fac (s : State) (x : Session) (b : Option BlockXfer) : (State.setBlock s x b).fac = s.fac := rfl
@[simp] theorem State.setBlock_cfg (s : State) (x : Session) (b : Option BlockXfer) : (State.setBlock s x b).cfg = s.cfg := rfl
@[simp] theorem State.setBlock_evt (s : State) (x : Session) (b : Option BlockXfer) : (State.setBlock s x b).evt = s.evt := rfl
@[simp] theorem State.setBlock_net (s : State) (x : Session) (b : Option BlockXfer) : (State.setBlock s x b).net = s.net := rfl
@[simp] theorem State.setBlock_scan (s : State) (x : Session) (b : Option BlockXfer) : (State.setBlock s x b).scan = s.scan := rfl
@[simp] theorem State.setBlock_emit (s : State) (x : Session) (b : Option BlockXfer) : (State.setBlock s x b).emit = s.emit := rfl
@[simp] theorem State.setBlock_rx (s : State) (x : Session) (b : Option BlockXfer) : (State.setBlock s x b).rx = s.rx := rfl
@[simp] theorem State.setBlock_tin (s : State) (x : Session) (b : Option BlockXfer) : (State.setBlock s x b).tin = s.tin := rfl
@[simp] theorem State.setBlock_bus (s : State) (x : Session) (b : Option BlockXfer) : (State.setBlock s x b).bus = s.bus := rfl
@[simp] theorem State.setBlock_front (s : State) (x : Session) (b : Option BlockXfer) : (State.setBlock s x b).front = s.front := rfl
@[simp] theorem State.setBlock_hka (s : State) (x : Session) (b : Option BlockXfer) : (State.setBlock s x b).hka = s.hka := rfl
@[simp] theorem State.setBlock_coil (s : State) (x : Session) (b : Option BlockXfer) : (State.setBlock s x b).coil = s.coil := rfl
@[simp] theorem State.setBlock_laneA (s : State) (x : Session) (b : Option BlockXfer) : (State.setBlock s x b).laneA = s.laneA := rfl
@[simp] theorem State.setBlock_laneB (s : State) (x : Session) (b : Option BlockXfer) : (State.setBlock s x b).laneB = s.laneB := rfl
@[simp] theorem State.setBlock_arb (s : State) (x : Session) (b : Option BlockXfer) : (State.setBlock s x b).arb = s.arb := rfl
@[simp] theorem State.setBlock_echo (s : State) (x : Session) (b : Option BlockXfer) : (State.setBlock s x b).echo = s.echo := rfl
@[simp] theorem State.setBlock_cap (s : State) (x : Session) (b : Option BlockXfer) : (State.setBlock s x b).cap = s.cap := rfl
@[simp] theorem State.setBlock_stream (s : State) (x : Session) (b : Option BlockXfer) : (State.setBlock s x b).stream = s.stream := rfl
@[simp] theorem State.setBlock_pwr (s : State) (x : Session) (b : Option BlockXfer) : (State.setBlock s x b).pwr = s.pwr := rfl
@[simp] theorem State.setBlock_therm (s : State) (x : Session) (b : Option BlockXfer) : (State.setBlock s x b).therm = s.therm := rfl
@[simp] theorem State.setBlock_cal (s : State) (x : Session) (b : Option BlockXfer) : (State.setBlock s x b).cal = s.cal := rfl
@[simp] theorem State.setBlock_flash (s : State) (x : Session) (b : Option BlockXfer) : (State.setBlock s x b).flash = s.flash := rfl
@[simp] theorem State.setBlock_sec (s : State) (x : Session) (b : Option BlockXfer) : (State.setBlock s x b).sec = s.sec := rfl

/-! `State.acceptRequest` -/

@[simp] theorem State.acceptRequest_pending (s : State) (r : Rcvd) : (State.acceptRequest s r).pending = s.pending := rfl
@[simp] theorem State.acceptRequest_now (s : State) (r : Rcvd) : (State.acceptRequest s r).now = s.now := rfl
@[simp] theorem State.acceptRequest_out (s : State) (r : Rcvd) : (State.acceptRequest s r).out = s.out := rfl
@[simp] theorem State.acceptRequest_draws (s : State) (r : Rcvd) : (State.acceptRequest s r).draws = s.draws := rfl
@[simp] theorem State.acceptRequest_fac (s : State) (r : Rcvd) : (State.acceptRequest s r).fac = s.fac := rfl
@[simp] theorem State.acceptRequest_cfg (s : State) (r : Rcvd) : (State.acceptRequest s r).cfg = s.cfg := rfl
@[simp] theorem State.acceptRequest_evt (s : State) (r : Rcvd) : (State.acceptRequest s r).evt = s.evt := rfl
@[simp] theorem State.acceptRequest_net (s : State) (r : Rcvd) : (State.acceptRequest s r).net = s.net := rfl
@[simp] theorem State.acceptRequest_scan (s : State) (r : Rcvd) : (State.acceptRequest s r).scan = s.scan := rfl
@[simp] theorem State.acceptRequest_emit (s : State) (r : Rcvd) : (State.acceptRequest s r).emit = s.emit := rfl
@[simp] theorem State.acceptRequest_rx (s : State) (r : Rcvd) : (State.acceptRequest s r).rx = s.rx := rfl
@[simp] theorem State.acceptRequest_tin (s : State) (r : Rcvd) : (State.acceptRequest s r).tin = s.tin := rfl
@[simp] theorem State.acceptRequest_bus (s : State) (r : Rcvd) : (State.acceptRequest s r).bus = s.bus := rfl
@[simp] theorem State.acceptRequest_front (s : State) (r : Rcvd) : (State.acceptRequest s r).front = s.front := rfl
@[simp] theorem State.acceptRequest_hka (s : State) (r : Rcvd) : (State.acceptRequest s r).hka = s.hka := rfl
@[simp] theorem State.acceptRequest_coil (s : State) (r : Rcvd) : (State.acceptRequest s r).coil = s.coil := rfl
@[simp] theorem State.acceptRequest_laneA (s : State) (r : Rcvd) : (State.acceptRequest s r).laneA = s.laneA := rfl
@[simp] theorem State.acceptRequest_laneB (s : State) (r : Rcvd) : (State.acceptRequest s r).laneB = s.laneB := rfl
@[simp] theorem State.acceptRequest_arb (s : State) (r : Rcvd) : (State.acceptRequest s r).arb = s.arb := rfl
@[simp] theorem State.acceptRequest_echo (s : State) (r : Rcvd) : (State.acceptRequest s r).echo = s.echo := rfl
@[simp] theorem State.acceptRequest_cap (s : State) (r : Rcvd) : (State.acceptRequest s r).cap = s.cap := rfl
@[simp] theorem State.acceptRequest_stream (s : State) (r : Rcvd) : (State.acceptRequest s r).stream = s.stream := rfl
@[simp] theorem State.acceptRequest_pwr (s : State) (r : Rcvd) : (State.acceptRequest s r).pwr = s.pwr := rfl
@[simp] theorem State.acceptRequest_therm (s : State) (r : Rcvd) : (State.acceptRequest s r).therm = s.therm := rfl
@[simp] theorem State.acceptRequest_cal (s : State) (r : Rcvd) : (State.acceptRequest s r).cal = s.cal := rfl
@[simp] theorem State.acceptRequest_flash (s : State) (r : Rcvd) : (State.acceptRequest s r).flash = s.flash := rfl
@[simp] theorem State.acceptRequest_sec (s : State) (r : Rcvd) : (State.acceptRequest s r).sec = s.sec := rfl

/-! `State.hostTrigger` -/

@[simp] theorem State.hostTrigger_pending (s : State) : (State.hostTrigger s).pending = s.pending := rfl
@[simp] theorem State.hostTrigger_now (s : State) : (State.hostTrigger s).now = s.now := rfl
@[simp] theorem State.hostTrigger_out (s : State) : (State.hostTrigger s).out = s.out := rfl
@[simp] theorem State.hostTrigger_draws (s : State) : (State.hostTrigger s).draws = s.draws := rfl
@[simp] theorem State.hostTrigger_fac (s : State) : (State.hostTrigger s).fac = s.fac := rfl
@[simp] theorem State.hostTrigger_cfg (s : State) : (State.hostTrigger s).cfg = s.cfg := rfl
@[simp] theorem State.hostTrigger_evt (s : State) : (State.hostTrigger s).evt = s.evt := rfl
@[simp] theorem State.hostTrigger_baspo (s : State) : (State.hostTrigger s).baspo = s.baspo := rfl
@[simp] theorem State.hostTrigger_net (s : State) : (State.hostTrigger s).net = s.net := rfl
@[simp] theorem State.hostTrigger_scan (s : State) : (State.hostTrigger s).scan = s.scan := rfl
@[simp] theorem State.hostTrigger_emit (s : State) : (State.hostTrigger s).emit = s.emit := rfl
@[simp] theorem State.hostTrigger_rx (s : State) : (State.hostTrigger s).rx = s.rx := rfl
@[simp] theorem State.hostTrigger_tin (s : State) : (State.hostTrigger s).tin = s.tin := rfl
@[simp] theorem State.hostTrigger_bus (s : State) : (State.hostTrigger s).bus = s.bus := rfl
@[simp] theorem State.hostTrigger_front (s : State) : (State.hostTrigger s).front = s.front := rfl
@[simp] theorem State.hostTrigger_hka (s : State) : (State.hostTrigger s).hka = s.hka := rfl
@[simp] theorem State.hostTrigger_coil (s : State) : (State.hostTrigger s).coil = s.coil := rfl
@[simp] theorem State.hostTrigger_laneA (s : State) : (State.hostTrigger s).laneA = s.laneA := rfl
@[simp] theorem State.hostTrigger_laneB (s : State) : (State.hostTrigger s).laneB = s.laneB := rfl
@[simp] theorem State.hostTrigger_arb (s : State) : (State.hostTrigger s).arb = s.arb := rfl
@[simp] theorem State.hostTrigger_echo (s : State) : (State.hostTrigger s).echo = s.echo := rfl
@[simp] theorem State.hostTrigger_stream (s : State) : (State.hostTrigger s).stream = s.stream := rfl
@[simp] theorem State.hostTrigger_pwr (s : State) : (State.hostTrigger s).pwr = s.pwr := rfl
@[simp] theorem State.hostTrigger_therm (s : State) : (State.hostTrigger s).therm = s.therm := rfl
@[simp] theorem State.hostTrigger_cal (s : State) : (State.hostTrigger s).cal = s.cal := rfl
@[simp] theorem State.hostTrigger_flash (s : State) : (State.hostTrigger s).flash = s.flash := rfl
@[simp] theorem State.hostTrigger_sec (s : State) : (State.hostTrigger s).sec = s.sec := rfl

/-! `State.setEntry` -/

@[simp] theorem State.setEntry_pending (s : State) (e : Option Entry) : (State.setEntry s e).pending = s.pending := rfl
@[simp] theorem State.setEntry_now (s : State) (e : Option Entry) : (State.setEntry s e).now = s.now := rfl
@[simp] theorem State.setEntry_out (s : State) (e : Option Entry) : (State.setEntry s e).out = s.out := rfl
@[simp] theorem State.setEntry_draws (s : State) (e : Option Entry) : (State.setEntry s e).draws = s.draws := rfl
@[simp] theorem State.setEntry_fac (s : State) (e : Option Entry) : (State.setEntry s e).fac = s.fac := rfl
@[simp] theorem State.setEntry_cfg (s : State) (e : Option Entry) : (State.setEntry s e).cfg = s.cfg := rfl
@[simp] theorem State.setEntry_evt (s : State) (e : Option Entry) : (State.setEntry s e).evt = s.evt := rfl
@[simp] theorem State.setEntry_baspo (s : State) (e : Option Entry) : (State.setEntry s e).baspo = s.baspo := rfl
@[simp] theorem State.setEntry_net (s : State) (e : Option Entry) : (State.setEntry s e).net = s.net := rfl
@[simp] theorem State.setEntry_scan (s : State) (e : Option Entry) : (State.setEntry s e).scan = s.scan := rfl
@[simp] theorem State.setEntry_emit (s : State) (e : Option Entry) : (State.setEntry s e).emit = s.emit := rfl
@[simp] theorem State.setEntry_rx (s : State) (e : Option Entry) : (State.setEntry s e).rx = s.rx := rfl
@[simp] theorem State.setEntry_tin (s : State) (e : Option Entry) : (State.setEntry s e).tin = s.tin := rfl
@[simp] theorem State.setEntry_bus (s : State) (e : Option Entry) : (State.setEntry s e).bus = s.bus := rfl
@[simp] theorem State.setEntry_front (s : State) (e : Option Entry) : (State.setEntry s e).front = s.front := rfl
@[simp] theorem State.setEntry_hka (s : State) (e : Option Entry) : (State.setEntry s e).hka = s.hka := rfl
@[simp] theorem State.setEntry_coil (s : State) (e : Option Entry) : (State.setEntry s e).coil = s.coil := rfl
@[simp] theorem State.setEntry_laneA (s : State) (e : Option Entry) : (State.setEntry s e).laneA = s.laneA := rfl
@[simp] theorem State.setEntry_laneB (s : State) (e : Option Entry) : (State.setEntry s e).laneB = s.laneB := rfl
@[simp] theorem State.setEntry_arb (s : State) (e : Option Entry) : (State.setEntry s e).arb = s.arb := rfl
@[simp] theorem State.setEntry_echo (s : State) (e : Option Entry) : (State.setEntry s e).echo = s.echo := rfl
@[simp] theorem State.setEntry_cap (s : State) (e : Option Entry) : (State.setEntry s e).cap = s.cap := rfl
@[simp] theorem State.setEntry_stream (s : State) (e : Option Entry) : (State.setEntry s e).stream = s.stream := rfl
@[simp] theorem State.setEntry_therm (s : State) (e : Option Entry) : (State.setEntry s e).therm = s.therm := rfl
@[simp] theorem State.setEntry_cal (s : State) (e : Option Entry) : (State.setEntry s e).cal = s.cal := rfl
@[simp] theorem State.setEntry_flash (s : State) (e : Option Entry) : (State.setEntry s e).flash = s.flash := rfl
@[simp] theorem State.setEntry_sec (s : State) (e : Option Entry) : (State.setEntry s e).sec = s.sec := rfl

/-! `State.setCamera` -/

@[simp] theorem State.setCamera_pending (s : State) (idx : U32) (at_ : Time) : (State.setCamera s idx at_).pending = s.pending := rfl
@[simp] theorem State.setCamera_now (s : State) (idx : U32) (at_ : Time) : (State.setCamera s idx at_).now = s.now := rfl
@[simp] theorem State.setCamera_out (s : State) (idx : U32) (at_ : Time) : (State.setCamera s idx at_).out = s.out := rfl
@[simp] theorem State.setCamera_draws (s : State) (idx : U32) (at_ : Time) : (State.setCamera s idx at_).draws = s.draws := rfl
@[simp] theorem State.setCamera_fac (s : State) (idx : U32) (at_ : Time) : (State.setCamera s idx at_).fac = s.fac := rfl
@[simp] theorem State.setCamera_cfg (s : State) (idx : U32) (at_ : Time) : (State.setCamera s idx at_).cfg = s.cfg := rfl
@[simp] theorem State.setCamera_evt (s : State) (idx : U32) (at_ : Time) : (State.setCamera s idx at_).evt = s.evt := rfl
@[simp] theorem State.setCamera_baspo (s : State) (idx : U32) (at_ : Time) : (State.setCamera s idx at_).baspo = s.baspo := rfl
@[simp] theorem State.setCamera_net (s : State) (idx : U32) (at_ : Time) : (State.setCamera s idx at_).net = s.net := rfl
@[simp] theorem State.setCamera_emit (s : State) (idx : U32) (at_ : Time) : (State.setCamera s idx at_).emit = s.emit := rfl
@[simp] theorem State.setCamera_rx (s : State) (idx : U32) (at_ : Time) : (State.setCamera s idx at_).rx = s.rx := rfl
@[simp] theorem State.setCamera_tin (s : State) (idx : U32) (at_ : Time) : (State.setCamera s idx at_).tin = s.tin := rfl
@[simp] theorem State.setCamera_bus (s : State) (idx : U32) (at_ : Time) : (State.setCamera s idx at_).bus = s.bus := rfl
@[simp] theorem State.setCamera_front (s : State) (idx : U32) (at_ : Time) : (State.setCamera s idx at_).front = s.front := rfl
@[simp] theorem State.setCamera_hka (s : State) (idx : U32) (at_ : Time) : (State.setCamera s idx at_).hka = s.hka := rfl
@[simp] theorem State.setCamera_coil (s : State) (idx : U32) (at_ : Time) : (State.setCamera s idx at_).coil = s.coil := rfl
@[simp] theorem State.setCamera_laneA (s : State) (idx : U32) (at_ : Time) : (State.setCamera s idx at_).laneA = s.laneA := rfl
@[simp] theorem State.setCamera_laneB (s : State) (idx : U32) (at_ : Time) : (State.setCamera s idx at_).laneB = s.laneB := rfl
@[simp] theorem State.setCamera_arb (s : State) (idx : U32) (at_ : Time) : (State.setCamera s idx at_).arb = s.arb := rfl
@[simp] theorem State.setCamera_echo (s : State) (idx : U32) (at_ : Time) : (State.setCamera s idx at_).echo = s.echo := rfl
@[simp] theorem State.setCamera_cap (s : State) (idx : U32) (at_ : Time) : (State.setCamera s idx at_).cap = s.cap := rfl
@[simp] theorem State.setCamera_stream (s : State) (idx : U32) (at_ : Time) : (State.setCamera s idx at_).stream = s.stream := rfl
@[simp] theorem State.setCamera_pwr (s : State) (idx : U32) (at_ : Time) : (State.setCamera s idx at_).pwr = s.pwr := rfl
@[simp] theorem State.setCamera_therm (s : State) (idx : U32) (at_ : Time) : (State.setCamera s idx at_).therm = s.therm := rfl
@[simp] theorem State.setCamera_cal (s : State) (idx : U32) (at_ : Time) : (State.setCamera s idx at_).cal = s.cal := rfl
@[simp] theorem State.setCamera_flash (s : State) (idx : U32) (at_ : Time) : (State.setCamera s idx at_).flash = s.flash := rfl
@[simp] theorem State.setCamera_sec (s : State) (idx : U32) (at_ : Time) : (State.setCamera s idx at_).sec = s.sec := rfl

/-! `State.tinQueue` -/

@[simp] theorem State.tinQueue_pending (s : State) (r : TinRec) : (State.tinQueue s r).pending = s.pending := rfl
@[simp] theorem State.tinQueue_now (s : State) (r : TinRec) : (State.tinQueue s r).now = s.now := rfl
@[simp] theorem State.tinQueue_out (s : State) (r : TinRec) : (State.tinQueue s r).out = s.out := rfl
@[simp] theorem State.tinQueue_draws (s : State) (r : TinRec) : (State.tinQueue s r).draws = s.draws := rfl
@[simp] theorem State.tinQueue_fac (s : State) (r : TinRec) : (State.tinQueue s r).fac = s.fac := rfl
@[simp] theorem State.tinQueue_cfg (s : State) (r : TinRec) : (State.tinQueue s r).cfg = s.cfg := rfl
@[simp] theorem State.tinQueue_evt (s : State) (r : TinRec) : (State.tinQueue s r).evt = s.evt := rfl
@[simp] theorem State.tinQueue_baspo (s : State) (r : TinRec) : (State.tinQueue s r).baspo = s.baspo := rfl
@[simp] theorem State.tinQueue_net (s : State) (r : TinRec) : (State.tinQueue s r).net = s.net := rfl
@[simp] theorem State.tinQueue_scan (s : State) (r : TinRec) : (State.tinQueue s r).scan = s.scan := rfl
@[simp] theorem State.tinQueue_emit (s : State) (r : TinRec) : (State.tinQueue s r).emit = s.emit := rfl
@[simp] theorem State.tinQueue_rx (s : State) (r : TinRec) : (State.tinQueue s r).rx = s.rx := rfl
@[simp] theorem State.tinQueue_bus (s : State) (r : TinRec) : (State.tinQueue s r).bus = s.bus := rfl
@[simp] theorem State.tinQueue_front (s : State) (r : TinRec) : (State.tinQueue s r).front = s.front := rfl
@[simp] theorem State.tinQueue_hka (s : State) (r : TinRec) : (State.tinQueue s r).hka = s.hka := rfl
@[simp] theorem State.tinQueue_coil (s : State) (r : TinRec) : (State.tinQueue s r).coil = s.coil := rfl
@[simp] theorem State.tinQueue_laneA (s : State) (r : TinRec) : (State.tinQueue s r).laneA = s.laneA := rfl
@[simp] theorem State.tinQueue_laneB (s : State) (r : TinRec) : (State.tinQueue s r).laneB = s.laneB := rfl
@[simp] theorem State.tinQueue_arb (s : State) (r : TinRec) : (State.tinQueue s r).arb = s.arb := rfl
@[simp] theorem State.tinQueue_echo (s : State) (r : TinRec) : (State.tinQueue s r).echo = s.echo := rfl
@[simp] theorem State.tinQueue_cap (s : State) (r : TinRec) : (State.tinQueue s r).cap = s.cap := rfl
@[simp] theorem State.tinQueue_stream (s : State) (r : TinRec) : (State.tinQueue s r).stream = s.stream := rfl
@[simp] theorem State.tinQueue_pwr (s : State) (r : TinRec) : (State.tinQueue s r).pwr = s.pwr := rfl
@[simp] theorem State.tinQueue_therm (s : State) (r : TinRec) : (State.tinQueue s r).therm = s.therm := rfl
@[simp] theorem State.tinQueue_cal (s : State) (r : TinRec) : (State.tinQueue s r).cal = s.cal := rfl
@[simp] theorem State.tinQueue_flash (s : State) (r : TinRec) : (State.tinQueue s r).flash = s.flash := rfl
@[simp] theorem State.tinQueue_sec (s : State) (r : TinRec) : (State.tinQueue s r).sec = s.sec := rfl

/-! `State.modSlot` -/

@[simp] theorem State.modSlot_pending (s : State) (i : Nat) (f : FwSlot → FwSlot) : (State.modSlot s i f).pending = s.pending := rfl
@[simp] theorem State.modSlot_now (s : State) (i : Nat) (f : FwSlot → FwSlot) : (State.modSlot s i f).now = s.now := rfl
@[simp] theorem State.modSlot_out (s : State) (i : Nat) (f : FwSlot → FwSlot) : (State.modSlot s i f).out = s.out := rfl
@[simp] theorem State.modSlot_draws (s : State) (i : Nat) (f : FwSlot → FwSlot) : (State.modSlot s i f).draws = s.draws := rfl
@[simp] theorem State.modSlot_fac (s : State) (i : Nat) (f : FwSlot → FwSlot) : (State.modSlot s i f).fac = s.fac := rfl
@[simp] theorem State.modSlot_cfg (s : State) (i : Nat) (f : FwSlot → FwSlot) : (State.modSlot s i f).cfg = s.cfg := rfl
@[simp] theorem State.modSlot_evt (s : State) (i : Nat) (f : FwSlot → FwSlot) : (State.modSlot s i f).evt = s.evt := rfl
@[simp] theorem State.modSlot_baspo (s : State) (i : Nat) (f : FwSlot → FwSlot) : (State.modSlot s i f).baspo = s.baspo := rfl
@[simp] theorem State.modSlot_net (s : State) (i : Nat) (f : FwSlot → FwSlot) : (State.modSlot s i f).net = s.net := rfl
@[simp] theorem State.modSlot_scan (s : State) (i : Nat) (f : FwSlot → FwSlot) : (State.modSlot s i f).scan = s.scan := rfl
@[simp] theorem State.modSlot_emit (s : State) (i : Nat) (f : FwSlot → FwSlot) : (State.modSlot s i f).emit = s.emit := rfl
@[simp] theorem State.modSlot_rx (s : State) (i : Nat) (f : FwSlot → FwSlot) : (State.modSlot s i f).rx = s.rx := rfl
@[simp] theorem State.modSlot_tin (s : State) (i : Nat) (f : FwSlot → FwSlot) : (State.modSlot s i f).tin = s.tin := rfl
@[simp] theorem State.modSlot_bus (s : State) (i : Nat) (f : FwSlot → FwSlot) : (State.modSlot s i f).bus = s.bus := rfl
@[simp] theorem State.modSlot_front (s : State) (i : Nat) (f : FwSlot → FwSlot) : (State.modSlot s i f).front = s.front := rfl
@[simp] theorem State.modSlot_hka (s : State) (i : Nat) (f : FwSlot → FwSlot) : (State.modSlot s i f).hka = s.hka := rfl
@[simp] theorem State.modSlot_coil (s : State) (i : Nat) (f : FwSlot → FwSlot) : (State.modSlot s i f).coil = s.coil := rfl
@[simp] theorem State.modSlot_laneA (s : State) (i : Nat) (f : FwSlot → FwSlot) : (State.modSlot s i f).laneA = s.laneA := rfl
@[simp] theorem State.modSlot_laneB (s : State) (i : Nat) (f : FwSlot → FwSlot) : (State.modSlot s i f).laneB = s.laneB := rfl
@[simp] theorem State.modSlot_arb (s : State) (i : Nat) (f : FwSlot → FwSlot) : (State.modSlot s i f).arb = s.arb := rfl
@[simp] theorem State.modSlot_echo (s : State) (i : Nat) (f : FwSlot → FwSlot) : (State.modSlot s i f).echo = s.echo := rfl
@[simp] theorem State.modSlot_cap (s : State) (i : Nat) (f : FwSlot → FwSlot) : (State.modSlot s i f).cap = s.cap := rfl
@[simp] theorem State.modSlot_stream (s : State) (i : Nat) (f : FwSlot → FwSlot) : (State.modSlot s i f).stream = s.stream := rfl
@[simp] theorem State.modSlot_pwr (s : State) (i : Nat) (f : FwSlot → FwSlot) : (State.modSlot s i f).pwr = s.pwr := rfl
@[simp] theorem State.modSlot_therm (s : State) (i : Nat) (f : FwSlot → FwSlot) : (State.modSlot s i f).therm = s.therm := rfl
@[simp] theorem State.modSlot_cal (s : State) (i : Nat) (f : FwSlot → FwSlot) : (State.modSlot s i f).cal = s.cal := rfl
@[simp] theorem State.modSlot_sec (s : State) (i : Nat) (f : FwSlot → FwSlot) : (State.modSlot s i f).sec = s.sec := rfl

/-! `State.clearCounter` -/

@[simp] theorem State.clearCounter_pending (s : State) (id : Nat) : (State.clearCounter s id).pending = s.pending := rfl
@[simp] theorem State.clearCounter_now (s : State) (id : Nat) : (State.clearCounter s id).now = s.now := rfl
@[simp] theorem State.clearCounter_out (s : State) (id : Nat) : (State.clearCounter s id).out = s.out := rfl
@[simp] theorem State.clearCounter_draws (s : State) (id : Nat) : (State.clearCounter s id).draws = s.draws := rfl
@[simp] theorem State.clearCounter_fac (s : State) (id : Nat) : (State.clearCounter s id).fac = s.fac := rfl
@[simp] theorem State.clearCounter_cfg (s : State) (id : Nat) : (State.clearCounter s id).cfg = s.cfg := rfl
@[simp] theorem State.clearCounter_baspo (s : State) (id : Nat) : (State.clearCounter s id).baspo = s.baspo := rfl
@[simp] theorem State.clearCounter_net (s : State) (id : Nat) : (State.clearCounter s id).net = s.net := rfl
@[simp] theorem State.clearCounter_scan (s : State) (id : Nat) : (State.clearCounter s id).scan = s.scan := rfl
@[simp] theorem State.clearCounter_emit (s : State) (id : Nat) : (State.clearCounter s id).emit = s.emit := rfl
@[simp] theorem State.clearCounter_rx (s : State) (id : Nat) : (State.clearCounter s id).rx = s.rx := rfl
@[simp] theorem State.clearCounter_tin (s : State) (id : Nat) : (State.clearCounter s id).tin = s.tin := rfl
@[simp] theorem State.clearCounter_bus (s : State) (id : Nat) : (State.clearCounter s id).bus = s.bus := rfl
@[simp] theorem State.clearCounter_front (s : State) (id : Nat) : (State.clearCounter s id).front = s.front := rfl
@[simp] theorem State.clearCounter_hka (s : State) (id : Nat) : (State.clearCounter s id).hka = s.hka := rfl
@[simp] theorem State.clearCounter_coil (s : State) (id : Nat) : (State.clearCounter s id).coil = s.coil := rfl
@[simp] theorem State.clearCounter_laneA (s : State) (id : Nat) : (State.clearCounter s id).laneA = s.laneA := rfl
@[simp] theorem State.clearCounter_laneB (s : State) (id : Nat) : (State.clearCounter s id).laneB = s.laneB := rfl
@[simp] theorem State.clearCounter_arb (s : State) (id : Nat) : (State.clearCounter s id).arb = s.arb := rfl
@[simp] theorem State.clearCounter_echo (s : State) (id : Nat) : (State.clearCounter s id).echo = s.echo := rfl
@[simp] theorem State.clearCounter_cap (s : State) (id : Nat) : (State.clearCounter s id).cap = s.cap := rfl
@[simp] theorem State.clearCounter_stream (s : State) (id : Nat) : (State.clearCounter s id).stream = s.stream := rfl
@[simp] theorem State.clearCounter_pwr (s : State) (id : Nat) : (State.clearCounter s id).pwr = s.pwr := rfl
@[simp] theorem State.clearCounter_therm (s : State) (id : Nat) : (State.clearCounter s id).therm = s.therm := rfl
@[simp] theorem State.clearCounter_cal (s : State) (id : Nat) : (State.clearCounter s id).cal = s.cal := rfl
@[simp] theorem State.clearCounter_flash (s : State) (id : Nat) : (State.clearCounter s id).flash = s.flash := rfl
@[simp] theorem State.clearCounter_sec (s : State) (id : Nat) : (State.clearCounter s id).sec = s.sec := rfl

/-! `State.modLane` -/

@[simp] theorem State.modLane_pending (s : State) (l : LaneId) (f : Lane → Lane) : (State.modLane s l f).pending = s.pending := by cases l <;> rfl
@[simp] theorem State.modLane_now (s : State) (l : LaneId) (f : Lane → Lane) : (State.modLane s l f).now = s.now := by cases l <;> rfl
@[simp] theorem State.modLane_out (s : State) (l : LaneId) (f : Lane → Lane) : (State.modLane s l f).out = s.out := by cases l <;> rfl
@[simp] theorem State.modLane_draws (s : State) (l : LaneId) (f : Lane → Lane) : (State.modLane s l f).draws = s.draws := by cases l <;> rfl
@[simp] theorem State.modLane_fac (s : State) (l : LaneId) (f : Lane → Lane) : (State.modLane s l f).fac = s.fac := by cases l <;> rfl
@[simp] theorem State.modLane_cfg (s : State) (l : LaneId) (f : Lane → Lane) : (State.modLane s l f).cfg = s.cfg := by cases l <;> rfl
@[simp] theorem State.modLane_evt (s : State) (l : LaneId) (f : Lane → Lane) : (State.modLane s l f).evt = s.evt := by cases l <;> rfl
@[simp] theorem State.modLane_baspo (s : State) (l : LaneId) (f : Lane → Lane) : (State.modLane s l f).baspo = s.baspo := by cases l <;> rfl
@[simp] theorem State.modLane_net (s : State) (l : LaneId) (f : Lane → Lane) : (State.modLane s l f).net = s.net := by cases l <;> rfl
@[simp] theorem State.modLane_scan (s : State) (l : LaneId) (f : Lane → Lane) : (State.modLane s l f).scan = s.scan := by cases l <;> rfl
@[simp] theorem State.modLane_emit (s : State) (l : LaneId) (f : Lane → Lane) : (State.modLane s l f).emit = s.emit := by cases l <;> rfl
@[simp] theorem State.modLane_rx (s : State) (l : LaneId) (f : Lane → Lane) : (State.modLane s l f).rx = s.rx := by cases l <;> rfl
@[simp] theorem State.modLane_tin (s : State) (l : LaneId) (f : Lane → Lane) : (State.modLane s l f).tin = s.tin := by cases l <;> rfl
@[simp] theorem State.modLane_bus (s : State) (l : LaneId) (f : Lane → Lane) : (State.modLane s l f).bus = s.bus := by cases l <;> rfl
@[simp] theorem State.modLane_front (s : State) (l : LaneId) (f : Lane → Lane) : (State.modLane s l f).front = s.front := by cases l <;> rfl
@[simp] theorem State.modLane_hka (s : State) (l : LaneId) (f : Lane → Lane) : (State.modLane s l f).hka = s.hka := by cases l <;> rfl
@[simp] theorem State.modLane_coil (s : State) (l : LaneId) (f : Lane → Lane) : (State.modLane s l f).coil = s.coil := by cases l <;> rfl
@[simp] theorem State.modLane_arb (s : State) (l : LaneId) (f : Lane → Lane) : (State.modLane s l f).arb = s.arb := by cases l <;> rfl
@[simp] theorem State.modLane_echo (s : State) (l : LaneId) (f : Lane → Lane) : (State.modLane s l f).echo = s.echo := by cases l <;> rfl
@[simp] theorem State.modLane_cap (s : State) (l : LaneId) (f : Lane → Lane) : (State.modLane s l f).cap = s.cap := by cases l <;> rfl
@[simp] theorem State.modLane_stream (s : State) (l : LaneId) (f : Lane → Lane) : (State.modLane s l f).stream = s.stream := by cases l <;> rfl
@[simp] theorem State.modLane_pwr (s : State) (l : LaneId) (f : Lane → Lane) : (State.modLane s l f).pwr = s.pwr := by cases l <;> rfl
@[simp] theorem State.modLane_therm (s : State) (l : LaneId) (f : Lane → Lane) : (State.modLane s l f).therm = s.therm := by cases l <;> rfl
@[simp] theorem State.modLane_cal (s : State) (l : LaneId) (f : Lane → Lane) : (State.modLane s l f).cal = s.cal := by cases l <;> rfl
@[simp] theorem State.modLane_flash (s : State) (l : LaneId) (f : Lane → Lane) : (State.modLane s l f).flash = s.flash := by cases l <;> rfl
@[simp] theorem State.modLane_sec (s : State) (l : LaneId) (f : Lane → Lane) : (State.modLane s l f).sec = s.sec := by cases l <;> rfl

/-! `State.setLane` -/

@[simp] theorem State.setLane_pending (s : State) (l : LaneId) (x : Lane) : (State.setLane s l x).pending = s.pending := by cases l <;> rfl
@[simp] theorem State.setLane_now (s : State) (l : LaneId) (x : Lane) : (State.setLane s l x).now = s.now := by cases l <;> rfl
@[simp] theorem State.setLane_out (s : State) (l : LaneId) (x : Lane) : (State.setLane s l x).out = s.out := by cases l <;> rfl
@[simp] theorem State.setLane_draws (s : State) (l : LaneId) (x : Lane) : (State.setLane s l x).draws = s.draws := by cases l <;> rfl
@[simp] theorem State.setLane_fac (s : State) (l : LaneId) (x : Lane) : (State.setLane s l x).fac = s.fac := by cases l <;> rfl
@[simp] theorem State.setLane_cfg (s : State) (l : LaneId) (x : Lane) : (State.setLane s l x).cfg = s.cfg := by cases l <;> rfl
@[simp] theorem State.setLane_evt (s : State) (l : LaneId) (x : Lane) : (State.setLane s l x).evt = s.evt := by cases l <;> rfl
@[simp] theorem State.setLane_baspo (s : State) (l : LaneId) (x : Lane) : (State.setLane s l x).baspo = s.baspo := by cases l <;> rfl
@[simp] theorem State.setLane_net (s : State) (l : LaneId) (x : Lane) : (State.setLane s l x).net = s.net := by cases l <;> rfl
@[simp] theorem State.setLane_scan (s : State) (l : LaneId) (x : Lane) : (State.setLane s l x).scan = s.scan := by cases l <;> rfl
@[simp] theorem State.setLane_emit (s : State) (l : LaneId) (x : Lane) : (State.setLane s l x).emit = s.emit := by cases l <;> rfl
@[simp] theorem State.setLane_rx (s : State) (l : LaneId) (x : Lane) : (State.setLane s l x).rx = s.rx := by cases l <;> rfl
@[simp] theorem State.setLane_tin (s : State) (l : LaneId) (x : Lane) : (State.setLane s l x).tin = s.tin := by cases l <;> rfl
@[simp] theorem State.setLane_bus (s : State) (l : LaneId) (x : Lane) : (State.setLane s l x).bus = s.bus := by cases l <;> rfl
@[simp] theorem State.setLane_front (s : State) (l : LaneId) (x : Lane) : (State.setLane s l x).front = s.front := by cases l <;> rfl
@[simp] theorem State.setLane_hka (s : State) (l : LaneId) (x : Lane) : (State.setLane s l x).hka = s.hka := by cases l <;> rfl
@[simp] theorem State.setLane_coil (s : State) (l : LaneId) (x : Lane) : (State.setLane s l x).coil = s.coil := by cases l <;> rfl
@[simp] theorem State.setLane_arb (s : State) (l : LaneId) (x : Lane) : (State.setLane s l x).arb = s.arb := by cases l <;> rfl
@[simp] theorem State.setLane_echo (s : State) (l : LaneId) (x : Lane) : (State.setLane s l x).echo = s.echo := by cases l <;> rfl
@[simp] theorem State.setLane_cap (s : State) (l : LaneId) (x : Lane) : (State.setLane s l x).cap = s.cap := by cases l <;> rfl
@[simp] theorem State.setLane_stream (s : State) (l : LaneId) (x : Lane) : (State.setLane s l x).stream = s.stream := by cases l <;> rfl
@[simp] theorem State.setLane_pwr (s : State) (l : LaneId) (x : Lane) : (State.setLane s l x).pwr = s.pwr := by cases l <;> rfl
@[simp] theorem State.setLane_therm (s : State) (l : LaneId) (x : Lane) : (State.setLane s l x).therm = s.therm := by cases l <;> rfl
@[simp] theorem State.setLane_cal (s : State) (l : LaneId) (x : Lane) : (State.setLane s l x).cal = s.cal := by cases l <;> rfl
@[simp] theorem State.setLane_flash (s : State) (l : LaneId) (x : Lane) : (State.setLane s l x).flash = s.flash := by cases l <;> rfl
@[simp] theorem State.setLane_sec (s : State) (l : LaneId) (x : Lane) : (State.setLane s l x).sec = s.sec := by cases l <;> rfl

/-! `State.bankDischarge` -/

@[simp] theorem State.bankDischarge_pending (s : State) : (State.bankDischarge s).pending = s.pending := rfl
@[simp] theorem State.bankDischarge_now (s : State) : (State.bankDischarge s).now = s.now := rfl
@[simp] theorem State.bankDischarge_out (s : State) : (State.bankDischarge s).out = s.out := rfl
@[simp] theorem State.bankDischarge_draws (s : State) : (State.bankDischarge s).draws = s.draws := rfl
@[simp] theorem State.bankDischarge_fac (s : State) : (State.bankDischarge s).fac = s.fac := rfl
@[simp] theorem State.bankDischarge_cfg (s : State) : (State.bankDischarge s).cfg = s.cfg := rfl
@[simp] theorem State.bankDischarge_evt (s : State) : (State.bankDischarge s).evt = s.evt := rfl
@[simp] theorem State.bankDischarge_baspo (s : State) : (State.bankDischarge s).baspo = s.baspo := rfl
@[simp] theorem State.bankDischarge_net (s : State) : (State.bankDischarge s).net = s.net := rfl
@[simp] theorem State.bankDischarge_scan (s : State) : (State.bankDischarge s).scan = s.scan := rfl
@[simp] theorem State.bankDischarge_rx (s : State) : (State.bankDischarge s).rx = s.rx := rfl
@[simp] theorem State.bankDischarge_tin (s : State) : (State.bankDischarge s).tin = s.tin := rfl
@[simp] theorem State.bankDischarge_bus (s : State) : (State.bankDischarge s).bus = s.bus := rfl
@[simp] theorem State.bankDischarge_front (s : State) : (State.bankDischarge s).front = s.front := rfl
@[simp] theorem State.bankDischarge_hka (s : State) : (State.bankDischarge s).hka = s.hka := rfl
@[simp] theorem State.bankDischarge_coil (s : State) : (State.bankDischarge s).coil = s.coil := rfl
@[simp] theorem State.bankDischarge_laneA (s : State) : (State.bankDischarge s).laneA = s.laneA := rfl
@[simp] theorem State.bankDischarge_laneB (s : State) : (State.bankDischarge s).laneB = s.laneB := rfl
@[simp] theorem State.bankDischarge_arb (s : State) : (State.bankDischarge s).arb = s.arb := rfl
@[simp] theorem State.bankDischarge_echo (s : State) : (State.bankDischarge s).echo = s.echo := rfl
@[simp] theorem State.bankDischarge_cap (s : State) : (State.bankDischarge s).cap = s.cap := rfl
@[simp] theorem State.bankDischarge_stream (s : State) : (State.bankDischarge s).stream = s.stream := rfl
@[simp] theorem State.bankDischarge_pwr (s : State) : (State.bankDischarge s).pwr = s.pwr := rfl
@[simp] theorem State.bankDischarge_therm (s : State) : (State.bankDischarge s).therm = s.therm := rfl
@[simp] theorem State.bankDischarge_cal (s : State) : (State.bankDischarge s).cal = s.cal := rfl
@[simp] theorem State.bankDischarge_flash (s : State) : (State.bankDischarge s).flash = s.flash := rfl
@[simp] theorem State.bankDischarge_sec (s : State) : (State.bankDischarge s).sec = s.sec := rfl

/-! `State.skipCopy` -/

@[simp] theorem State.skipCopy_pending (s : State) (num : U32) : (State.skipCopy s num).pending = s.pending := rfl
@[simp] theorem State.skipCopy_now (s : State) (num : U32) : (State.skipCopy s num).now = s.now := rfl
@[simp] theorem State.skipCopy_out (s : State) (num : U32) : (State.skipCopy s num).out = s.out := rfl
@[simp] theorem State.skipCopy_draws (s : State) (num : U32) : (State.skipCopy s num).draws = s.draws := rfl
@[simp] theorem State.skipCopy_fac (s : State) (num : U32) : (State.skipCopy s num).fac = s.fac := rfl
@[simp] theorem State.skipCopy_cfg (s : State) (num : U32) : (State.skipCopy s num).cfg = s.cfg := rfl
@[simp] theorem State.skipCopy_evt (s : State) (num : U32) : (State.skipCopy s num).evt = s.evt := rfl
@[simp] theorem State.skipCopy_baspo (s : State) (num : U32) : (State.skipCopy s num).baspo = s.baspo := rfl
@[simp] theorem State.skipCopy_net (s : State) (num : U32) : (State.skipCopy s num).net = s.net := rfl
@[simp] theorem State.skipCopy_scan (s : State) (num : U32) : (State.skipCopy s num).scan = s.scan := rfl
@[simp] theorem State.skipCopy_emit (s : State) (num : U32) : (State.skipCopy s num).emit = s.emit := rfl
@[simp] theorem State.skipCopy_rx (s : State) (num : U32) : (State.skipCopy s num).rx = s.rx := rfl
@[simp] theorem State.skipCopy_tin (s : State) (num : U32) : (State.skipCopy s num).tin = s.tin := rfl
@[simp] theorem State.skipCopy_bus (s : State) (num : U32) : (State.skipCopy s num).bus = s.bus := rfl
@[simp] theorem State.skipCopy_front (s : State) (num : U32) : (State.skipCopy s num).front = s.front := rfl
@[simp] theorem State.skipCopy_hka (s : State) (num : U32) : (State.skipCopy s num).hka = s.hka := rfl
@[simp] theorem State.skipCopy_coil (s : State) (num : U32) : (State.skipCopy s num).coil = s.coil := rfl
@[simp] theorem State.skipCopy_laneA (s : State) (num : U32) : (State.skipCopy s num).laneA = s.laneA := rfl
@[simp] theorem State.skipCopy_laneB (s : State) (num : U32) : (State.skipCopy s num).laneB = s.laneB := rfl
@[simp] theorem State.skipCopy_arb (s : State) (num : U32) : (State.skipCopy s num).arb = s.arb := rfl
@[simp] theorem State.skipCopy_echo (s : State) (num : U32) : (State.skipCopy s num).echo = s.echo := rfl
@[simp] theorem State.skipCopy_cap (s : State) (num : U32) : (State.skipCopy s num).cap = s.cap := rfl
@[simp] theorem State.skipCopy_stream (s : State) (num : U32) : (State.skipCopy s num).stream = s.stream := rfl
@[simp] theorem State.skipCopy_pwr (s : State) (num : U32) : (State.skipCopy s num).pwr = s.pwr := rfl
@[simp] theorem State.skipCopy_therm (s : State) (num : U32) : (State.skipCopy s num).therm = s.therm := rfl
@[simp] theorem State.skipCopy_cal (s : State) (num : U32) : (State.skipCopy s num).cal = s.cal := rfl
@[simp] theorem State.skipCopy_sec (s : State) (num : U32) : (State.skipCopy s num).sec = s.sec := rfl

/-! `State.keepCap` -/

@[simp] theorem State.keepCap_pending (s : State) (r : CapResult) : (State.keepCap s r).pending = s.pending := rfl
@[simp] theorem State.keepCap_now (s : State) (r : CapResult) : (State.keepCap s r).now = s.now := rfl
@[simp] theorem State.keepCap_out (s : State) (r : CapResult) : (State.keepCap s r).out = s.out := rfl
@[simp] theorem State.keepCap_draws (s : State) (r : CapResult) : (State.keepCap s r).draws = s.draws := rfl
@[simp] theorem State.keepCap_fac (s : State) (r : CapResult) : (State.keepCap s r).fac = s.fac := rfl
@[simp] theorem State.keepCap_cfg (s : State) (r : CapResult) : (State.keepCap s r).cfg = s.cfg := rfl
@[simp] theorem State.keepCap_evt (s : State) (r : CapResult) : (State.keepCap s r).evt = s.evt := rfl
@[simp] theorem State.keepCap_baspo (s : State) (r : CapResult) : (State.keepCap s r).baspo = s.baspo := rfl
@[simp] theorem State.keepCap_net (s : State) (r : CapResult) : (State.keepCap s r).net = s.net := rfl
@[simp] theorem State.keepCap_scan (s : State) (r : CapResult) : (State.keepCap s r).scan = s.scan := rfl
@[simp] theorem State.keepCap_rx (s : State) (r : CapResult) : (State.keepCap s r).rx = s.rx := rfl
@[simp] theorem State.keepCap_tin (s : State) (r : CapResult) : (State.keepCap s r).tin = s.tin := rfl
@[simp] theorem State.keepCap_bus (s : State) (r : CapResult) : (State.keepCap s r).bus = s.bus := rfl
@[simp] theorem State.keepCap_front (s : State) (r : CapResult) : (State.keepCap s r).front = s.front := rfl
@[simp] theorem State.keepCap_hka (s : State) (r : CapResult) : (State.keepCap s r).hka = s.hka := rfl
@[simp] theorem State.keepCap_coil (s : State) (r : CapResult) : (State.keepCap s r).coil = s.coil := rfl
@[simp] theorem State.keepCap_laneA (s : State) (r : CapResult) : (State.keepCap s r).laneA = s.laneA := rfl
@[simp] theorem State.keepCap_laneB (s : State) (r : CapResult) : (State.keepCap s r).laneB = s.laneB := rfl
@[simp] theorem State.keepCap_arb (s : State) (r : CapResult) : (State.keepCap s r).arb = s.arb := rfl
@[simp] theorem State.keepCap_echo (s : State) (r : CapResult) : (State.keepCap s r).echo = s.echo := rfl
@[simp] theorem State.keepCap_cap (s : State) (r : CapResult) : (State.keepCap s r).cap = s.cap := rfl
@[simp] theorem State.keepCap_stream (s : State) (r : CapResult) : (State.keepCap s r).stream = s.stream := rfl
@[simp] theorem State.keepCap_pwr (s : State) (r : CapResult) : (State.keepCap s r).pwr = s.pwr := rfl
@[simp] theorem State.keepCap_therm (s : State) (r : CapResult) : (State.keepCap s r).therm = s.therm := rfl
@[simp] theorem State.keepCap_cal (s : State) (r : CapResult) : (State.keepCap s r).cal = s.cal := rfl
@[simp] theorem State.keepCap_flash (s : State) (r : CapResult) : (State.keepCap s r).flash = s.flash := rfl
@[simp] theorem State.keepCap_sec (s : State) (r : CapResult) : (State.keepCap s r).sec = s.sec := rfl

end Sys2Proof.Machine
end

