-- ==== Sys2Proof/Laws/Ops.lean ====
section
/-! SUPPORT. What raising an event, counting and tripping leave alone, field by field. -/

namespace Sys2Proof.Machine

open Sys2Proof

/-! `State.countRaw` -/

@[simp] theorem State.countRaw_pending (s : State) (id n cycle : Nat) : ((State.countRaw s id n cycle)).pending = s.pending := by
  unfold State.countRaw
  repeat' (first | with_reducible rfl | split | simp)
@[simp] theorem State.countRaw_now (s : State) (id n cycle : Nat) : ((State.countRaw s id n cycle)).now = s.now := by
  unfold State.countRaw
  repeat' (first | with_reducible rfl | split | simp)
@[simp] theorem State.countRaw_out (s : State) (id n cycle : Nat) : ((State.countRaw s id n cycle)).out = s.out := by
  unfold State.countRaw
  repeat' (first | with_reducible rfl | split | simp)
@[simp] theorem State.countRaw_draws (s : State) (id n cycle : Nat) : ((State.countRaw s id n cycle)).draws = s.draws := by
  unfold State.countRaw
  repeat' (first | with_reducible rfl | split | simp)
@[simp] theorem State.countRaw_fac (s : State) (id n cycle : Nat) : ((State.countRaw s id n cycle)).fac = s.fac := by
  unfold State.countRaw
  repeat' (first | with_reducible rfl | split | simp)
@[simp] theorem State.countRaw_cfg (s : State) (id n cycle : Nat) : ((State.countRaw s id n cycle)).cfg = s.cfg := by
  unfold State.countRaw
  repeat' (first | with_reducible rfl | split | simp)
@[simp] theorem State.countRaw_baspo (s : State) (id n cycle : Nat) : ((State.countRaw s id n cycle)).baspo = s.baspo := by
  unfold State.countRaw
  repeat' (first | with_reducible rfl | split | simp)
@[simp] theorem State.countRaw_net (s : State) (id n cycle : Nat) : ((State.countRaw s id n cycle)).net = s.net := by
  unfold State.countRaw
  repeat' (first | with_reducible rfl | split | simp)
@[simp] theorem State.countRaw_scan (s : State) (id n cycle : Nat) : ((State.countRaw s id n cycle)).scan = s.scan := by
  unfold State.countRaw
  repeat' (first | with_reducible rfl | split | simp)
@[simp] theorem State.countRaw_emit (s : State) (id n cycle : Nat) : ((State.countRaw s id n cycle)).emit = s.emit := by
  unfold State.countRaw
  repeat' (first | with_reducible rfl | split | simp)
@[simp] theorem State.countRaw_rx (s : State) (id n cycle : Nat) : ((State.countRaw s id n cycle)).rx = s.rx := by
  unfold State.countRaw
  repeat' (first | with_reducible rfl | split | simp)
@[simp] theorem State.countRaw_tin (s : State) (id n cycle : Nat) : ((State.countRaw s id n cycle)).tin = s.tin := by
  unfold State.countRaw
  repeat' (first | with_reducible rfl | split | simp)
@[simp] theorem State.countRaw_bus (s : State) (id n cycle : Nat) : ((State.countRaw s id n cycle)).bus = s.bus := by
  unfold State.countRaw
  repeat' (first | with_reducible rfl | split | simp)
@[simp] theorem State.countRaw_front (s : State) (id n cycle : Nat) : ((State.countRaw s id n cycle)).front = s.front := by
  unfold State.countRaw
  repeat' (first | with_reducible rfl | split | simp)
@[simp] theorem State.countRaw_hka (s : State) (id n cycle : Nat) : ((State.countRaw s id n cycle)).hka = s.hka := by
  unfold State.countRaw
  repeat' (first | with_reducible rfl | split | simp)
@[simp] theorem State.countRaw_coil (s : State) (id n cycle : Nat) : ((State.countRaw s id n cycle)).coil = s.coil := by
  unfold State.countRaw
  repeat' (first | with_reducible rfl | split | simp)
@[simp] theorem State.countRaw_laneA (s : State) (id n cycle : Nat) : ((State.countRaw s id n cycle)).laneA = s.laneA := by
  unfold State.countRaw
  repeat' (first | with_reducible rfl | split | simp)
@[simp] theorem State.countRaw_laneB (s : State) (id n cycle : Nat) : ((State.countRaw s id n cycle)).laneB = s.laneB := by
  unfold State.countRaw
  repeat' (first | with_reducible rfl | split | simp)
@[simp] theorem State.countRaw_arb (s : State) (id n cycle : Nat) : ((State.countRaw s id n cycle)).arb = s.arb := by
  unfold State.countRaw
  repeat' (first | with_reducible rfl | split | simp)
@[simp] theorem State.countRaw_echo (s : State) (id n cycle : Nat) : ((State.countRaw s id n cycle)).echo = s.echo := by
  unfold State.countRaw
  repeat' (first | with_reducible rfl | split | simp)
@[simp] theorem State.countRaw_cap (s : State) (id n cycle : Nat) : ((State.countRaw s id n cycle)).cap = s.cap := by
  unfold State.countRaw
  repeat' (first | with_reducible rfl | split | simp)
@[simp] theorem State.countRaw_stream (s : State) (id n cycle : Nat) : ((State.countRaw s id n cycle)).stream = s.stream := by
  unfold State.countRaw
  repeat' (first | with_reducible rfl | split | simp)
@[simp] theorem State.countRaw_pwr (s : State) (id n cycle : Nat) : ((State.countRaw s id n cycle)).pwr = s.pwr := by
  unfold State.countRaw
  repeat' (first | with_reducible rfl | split | simp)
@[simp] theorem State.countRaw_therm (s : State) (id n cycle : Nat) : ((State.countRaw s id n cycle)).therm = s.therm := by
  unfold State.countRaw
  repeat' (first | with_reducible rfl | split | simp)
@[simp] theorem State.countRaw_cal (s : State) (id n cycle : Nat) : ((State.countRaw s id n cycle)).cal = s.cal := by
  unfold State.countRaw
  repeat' (first | with_reducible rfl | split | simp)
@[simp] theorem State.countRaw_flash (s : State) (id n cycle : Nat) : ((State.countRaw s id n cycle)).flash = s.flash := by
  unfold State.countRaw
  repeat' (first | with_reducible rfl | split | simp)
@[simp] theorem State.countRaw_sec (s : State) (id n cycle : Nat) : ((State.countRaw s id n cycle)).sec = s.sec := by
  unfold State.countRaw
  repeat' (first | with_reducible rfl | split | simp)

/-! `State.raiseRaw` -/

@[simp] theorem State.raiseRaw_pending (s : State) (code sev : Nat) (ticket p1 p2 p3 : U32) : ((State.raiseRaw s code sev ticket p1 p2 p3)).pending = s.pending := by
  unfold State.raiseRaw
  repeat' (first | with_reducible rfl | split | simp)
@[simp] theorem State.raiseRaw_now (s : State) (code sev : Nat) (ticket p1 p2 p3 : U32) : ((State.raiseRaw s code sev ticket p1 p2 p3)).now = s.now := by
  unfold State.raiseRaw
  repeat' (first | with_reducible rfl | split | simp)
@[simp] theorem State.raiseRaw_out (s : State) (code sev : Nat) (ticket p1 p2 p3 : U32) : ((State.raiseRaw s code sev ticket p1 p2 p3)).out = s.out := by
  unfold State.raiseRaw
  repeat' (first | with_reducible rfl | split | simp)
@[simp] theorem State.raiseRaw_draws (s : State) (code sev : Nat) (ticket p1 p2 p3 : U32) : ((State.raiseRaw s code sev ticket p1 p2 p3)).draws = s.draws := by
  unfold State.raiseRaw
  repeat' (first | with_reducible rfl | split | simp)
@[simp] theorem State.raiseRaw_fac (s : State) (code sev : Nat) (ticket p1 p2 p3 : U32) : ((State.raiseRaw s code sev ticket p1 p2 p3)).fac = s.fac := by
  unfold State.raiseRaw
  repeat' (first | with_reducible rfl | split | simp)
@[simp] theorem State.raiseRaw_cfg (s : State) (code sev : Nat) (ticket p1 p2 p3 : U32) : ((State.raiseRaw s code sev ticket p1 p2 p3)).cfg = s.cfg := by
  unfold State.raiseRaw
  repeat' (first | with_reducible rfl | split | simp)
@[simp] theorem State.raiseRaw_net (s : State) (code sev : Nat) (ticket p1 p2 p3 : U32) : ((State.raiseRaw s code sev ticket p1 p2 p3)).net = s.net := by
  unfold State.raiseRaw
  repeat' (first | with_reducible rfl | split | simp)
@[simp] theorem State.raiseRaw_scan (s : State) (code sev : Nat) (ticket p1 p2 p3 : U32) : ((State.raiseRaw s code sev ticket p1 p2 p3)).scan = s.scan := by
  unfold State.raiseRaw
  repeat' (first | with_reducible rfl | split | simp)
@[simp] theorem State.raiseRaw_emit (s : State) (code sev : Nat) (ticket p1 p2 p3 : U32) : ((State.raiseRaw s code sev ticket p1 p2 p3)).emit = s.emit := by
  unfold State.raiseRaw
  repeat' (first | with_reducible rfl | split | simp)
@[simp] theorem State.raiseRaw_rx (s : State) (code sev : Nat) (ticket p1 p2 p3 : U32) : ((State.raiseRaw s code sev ticket p1 p2 p3)).rx = s.rx := by
  unfold State.raiseRaw
  repeat' (first | with_reducible rfl | split | simp)
@[simp] theorem State.raiseRaw_tin (s : State) (code sev : Nat) (ticket p1 p2 p3 : U32) : ((State.raiseRaw s code sev ticket p1 p2 p3)).tin = s.tin := by
  unfold State.raiseRaw
  repeat' (first | with_reducible rfl | split | simp)
@[simp] theorem State.raiseRaw_bus (s : State) (code sev : Nat) (ticket p1 p2 p3 : U32) : ((State.raiseRaw s code sev ticket p1 p2 p3)).bus = s.bus := by
  unfold State.raiseRaw
  repeat' (first | with_reducible rfl | split | simp)
@[simp] theorem State.raiseRaw_front (s : State) (code sev : Nat) (ticket p1 p2 p3 : U32) : ((State.raiseRaw s code sev ticket p1 p2 p3)).front = s.front := by
  unfold State.raiseRaw
  repeat' (first | with_reducible rfl | split | simp)
@[simp] theorem State.raiseRaw_hka (s : State) (code sev : Nat) (ticket p1 p2 p3 : U32) : ((State.raiseRaw s code sev ticket p1 p2 p3)).hka = s.hka := by
  unfold State.raiseRaw
  repeat' (first | with_reducible rfl | split | simp)
@[simp] theorem State.raiseRaw_coil (s : State) (code sev : Nat) (ticket p1 p2 p3 : U32) : ((State.raiseRaw s code sev ticket p1 p2 p3)).coil = s.coil := by
  unfold State.raiseRaw
  repeat' (first | with_reducible rfl | split | simp)
@[simp] theorem State.raiseRaw_laneA (s : State) (code sev : Nat) (ticket p1 p2 p3 : U32) : ((State.raiseRaw s code sev ticket p1 p2 p3)).laneA = s.laneA := by
  unfold State.raiseRaw
  repeat' (first | with_reducible rfl | split | simp)
@[simp] theorem State.raiseRaw_laneB (s : State) (code sev : Nat) (ticket p1 p2 p3 : U32) : ((State.raiseRaw s code sev ticket p1 p2 p3)).laneB = s.laneB := by
  unfold State.raiseRaw
  repeat' (first | with_reducible rfl | split | simp)
@[simp] theorem State.raiseRaw_arb (s : State) (code sev : Nat) (ticket p1 p2 p3 : U32) : ((State.raiseRaw s code sev ticket p1 p2 p3)).arb = s.arb := by
  unfold State.raiseRaw
  repeat' (first | with_reducible rfl | split | simp)
@[simp] theorem State.raiseRaw_echo (s : State) (code sev : Nat) (ticket p1 p2 p3 : U32) : ((State.raiseRaw s code sev ticket p1 p2 p3)).echo = s.echo := by
  unfold State.raiseRaw
  repeat' (first | with_reducible rfl | split | simp)
@[simp] theorem State.raiseRaw_stream (s : State) (code sev : Nat) (ticket p1 p2 p3 : U32) : ((State.raiseRaw s code sev ticket p1 p2 p3)).stream = s.stream := by
  unfold State.raiseRaw
  repeat' (first | with_reducible rfl | split | simp)
@[simp] theorem State.raiseRaw_pwr (s : State) (code sev : Nat) (ticket p1 p2 p3 : U32) : ((State.raiseRaw s code sev ticket p1 p2 p3)).pwr = s.pwr := by
  unfold State.raiseRaw
  repeat' (first | with_reducible rfl | split | simp)
@[simp] theorem State.raiseRaw_therm (s : State) (code sev : Nat) (ticket p1 p2 p3 : U32) : ((State.raiseRaw s code sev ticket p1 p2 p3)).therm = s.therm := by
  unfold State.raiseRaw
  repeat' (first | with_reducible rfl | split | simp)
@[simp] theorem State.raiseRaw_cal (s : State) (code sev : Nat) (ticket p1 p2 p3 : U32) : ((State.raiseRaw s code sev ticket p1 p2 p3)).cal = s.cal := by
  unfold State.raiseRaw
  repeat' (first | with_reducible rfl | split | simp)
@[simp] theorem State.raiseRaw_flash (s : State) (code sev : Nat) (ticket p1 p2 p3 : U32) : ((State.raiseRaw s code sev ticket p1 p2 p3)).flash = s.flash := by
  unfold State.raiseRaw
  repeat' (first | with_reducible rfl | split | simp)
@[simp] theorem State.raiseRaw_sec (s : State) (code sev : Nat) (ticket p1 p2 p3 : U32) : ((State.raiseRaw s code sev ticket p1 p2 p3)).sec = s.sec := by
  unfold State.raiseRaw
  repeat' (first | with_reducible rfl | split | simp)

/-! `State.saturate` -/

@[simp] theorem State.saturate_pending (s : State) (id : Nat) : ((State.saturate s id)).pending = s.pending := by
  unfold State.saturate
  repeat' (first | with_reducible rfl | split | simp)
@[simp] theorem State.saturate_now (s : State) (id : Nat) : ((State.saturate s id)).now = s.now := by
  unfold State.saturate
  repeat' (first | with_reducible rfl | split | simp)
@[simp] theorem State.saturate_out (s : State) (id : Nat) : ((State.saturate s id)).out = s.out := by
  unfold State.saturate
  repeat' (first | with_reducible rfl | split | simp)
@[simp] theorem State.saturate_draws (s : State) (id : Nat) : ((State.saturate s id)).draws = s.draws := by
  unfold State.saturate
  repeat' (first | with_reducible rfl | split | simp)
@[simp] theorem State.saturate_fac (s : State) (id : Nat) : ((State.saturate s id)).fac = s.fac := by
  unfold State.saturate
  repeat' (first | with_reducible rfl | split | simp)
@[simp] theorem State.saturate_cfg (s : State) (id : Nat) : ((State.saturate s id)).cfg = s.cfg := by
  unfold State.saturate
  repeat' (first | with_reducible rfl | split | simp)
@[simp] theorem State.saturate_net (s : State) (id : Nat) : ((State.saturate s id)).net = s.net := by
  unfold State.saturate
  repeat' (first | with_reducible rfl | split | simp)
@[simp] theorem State.saturate_scan (s : State) (id : Nat) : ((State.saturate s id)).scan = s.scan := by
  unfold State.saturate
  repeat' (first | with_reducible rfl | split | simp)
@[simp] theorem State.saturate_emit (s : State) (id : Nat) : ((State.saturate s id)).emit = s.emit := by
  unfold State.saturate
  repeat' (first | with_reducible rfl | split | simp)
@[simp] theorem State.saturate_rx (s : State) (id : Nat) : ((State.saturate s id)).rx = s.rx := by
  unfold State.saturate
  repeat' (first | with_reducible rfl | split | simp)
@[simp] theorem State.saturate_tin (s : State) (id : Nat) : ((State.saturate s id)).tin = s.tin := by
  unfold State.saturate
  repeat' (first | with_reducible rfl | split | simp)
@[simp] theorem State.saturate_bus (s : State) (id : Nat) : ((State.saturate s id)).bus = s.bus := by
  unfold State.saturate
  repeat' (first | with_reducible rfl | split | simp)
@[simp] theorem State.saturate_front (s : State) (id : Nat) : ((State.saturate s id)).front = s.front := by
  unfold State.saturate
  repeat' (first | with_reducible rfl | split | simp)
@[simp] theorem State.saturate_hka (s : State) (id : Nat) : ((State.saturate s id)).hka = s.hka := by
  unfold State.saturate
  repeat' (first | with_reducible rfl | split | simp)
@[simp] theorem State.saturate_coil (s : State) (id : Nat) : ((State.saturate s id)).coil = s.coil := by
  unfold State.saturate
  repeat' (first | with_reducible rfl | split | simp)
@[simp] theorem State.saturate_laneA (s : State) (id : Nat) : ((State.saturate s id)).laneA = s.laneA := by
  unfold State.saturate
  repeat' (first | with_reducible rfl | split | simp)
@[simp] theorem State.saturate_laneB (s : State) (id : Nat) : ((State.saturate s id)).laneB = s.laneB := by
  unfold State.saturate
  repeat' (first | with_reducible rfl | split | simp)
@[simp] theorem State.saturate_arb (s : State) (id : Nat) : ((State.saturate s id)).arb = s.arb := by
  unfold State.saturate
  repeat' (first | with_reducible rfl | split | simp)
@[simp] theorem State.saturate_echo (s : State) (id : Nat) : ((State.saturate s id)).echo = s.echo := by
  unfold State.saturate
  repeat' (first | with_reducible rfl | split | simp)
@[simp] theorem State.saturate_stream (s : State) (id : Nat) : ((State.saturate s id)).stream = s.stream := by
  unfold State.saturate
  repeat' (first | with_reducible rfl | split | simp)
@[simp] theorem State.saturate_pwr (s : State) (id : Nat) : ((State.saturate s id)).pwr = s.pwr := by
  unfold State.saturate
  repeat' (first | with_reducible rfl | split | simp)
@[simp] theorem State.saturate_therm (s : State) (id : Nat) : ((State.saturate s id)).therm = s.therm := by
  unfold State.saturate
  repeat' (first | with_reducible rfl | split | simp)
@[simp] theorem State.saturate_cal (s : State) (id : Nat) : ((State.saturate s id)).cal = s.cal := by
  unfold State.saturate
  repeat' (first | with_reducible rfl | split | simp)
@[simp] theorem State.saturate_flash (s : State) (id : Nat) : ((State.saturate s id)).flash = s.flash := by
  unfold State.saturate
  repeat' (first | with_reducible rfl | split | simp)
@[simp] theorem State.saturate_sec (s : State) (id : Nat) : ((State.saturate s id)).sec = s.sec := by
  unfold State.saturate
  repeat' (first | with_reducible rfl | split | simp)

/-! `State.count` -/

@[simp] theorem State.count_pending (s : State) (id : Nat) (n : Nat) : ((State.count s id n)).pending = s.pending := by
  unfold State.count
  repeat' (first | with_reducible rfl | split | simp)
@[simp] theorem State.count_now (s : State) (id : Nat) (n : Nat) : ((State.count s id n)).now = s.now := by
  unfold State.count
  repeat' (first | with_reducible rfl | split | simp)
@[simp] theorem State.count_out (s : State) (id : Nat) (n : Nat) : ((State.count s id n)).out = s.out := by
  unfold State.count
  repeat' (first | with_reducible rfl | split | simp)
@[simp] theorem State.count_draws (s : State) (id : Nat) (n : Nat) : ((State.count s id n)).draws = s.draws := by
  unfold State.count
  repeat' (first | with_reducible rfl | split | simp)
@[simp] theorem State.count_fac (s : State) (id : Nat) (n : Nat) : ((State.count s id n)).fac = s.fac := by
  unfold State.count
  repeat' (first | with_reducible rfl | split | simp)
@[simp] theorem State.count_cfg (s : State) (id : Nat) (n : Nat) : ((State.count s id n)).cfg = s.cfg := by
  unfold State.count
  repeat' (first | with_reducible rfl | split | simp)
@[simp] theorem State.count_net (s : State) (id : Nat) (n : Nat) : ((State.count s id n)).net = s.net := by
  unfold State.count
  repeat' (first | with_reducible rfl | split | simp)
@[simp] theorem State.count_scan (s : State) (id : Nat) (n : Nat) : ((State.count s id n)).scan = s.scan := by
  unfold State.count
  repeat' (first | with_reducible rfl | split | simp)
@[simp] theorem State.count_emit (s : State) (id : Nat) (n : Nat) : ((State.count s id n)).emit = s.emit := by
  unfold State.count
  repeat' (first | with_reducible rfl | split | simp)
@[simp] theorem State.count_rx (s : State) (id : Nat) (n : Nat) : ((State.count s id n)).rx = s.rx := by
  unfold State.count
  repeat' (first | with_reducible rfl | split | simp)
@[simp] theorem State.count_tin (s : State) (id : Nat) (n : Nat) : ((State.count s id n)).tin = s.tin := by
  unfold State.count
  repeat' (first | with_reducible rfl | split | simp)
@[simp] theorem State.count_bus (s : State) (id : Nat) (n : Nat) : ((State.count s id n)).bus = s.bus := by
  unfold State.count
  repeat' (first | with_reducible rfl | split | simp)
@[simp] theorem State.count_front (s : State) (id : Nat) (n : Nat) : ((State.count s id n)).front = s.front := by
  unfold State.count
  repeat' (first | with_reducible rfl | split | simp)
@[simp] theorem State.count_hka (s : State) (id : Nat) (n : Nat) : ((State.count s id n)).hka = s.hka := by
  unfold State.count
  repeat' (first | with_reducible rfl | split | simp)
@[simp] theorem State.count_coil (s : State) (id : Nat) (n : Nat) : ((State.count s id n)).coil = s.coil := by
  unfold State.count
  repeat' (first | with_reducible rfl | split | simp)
@[simp] theorem State.count_laneA (s : State) (id : Nat) (n : Nat) : ((State.count s id n)).laneA = s.laneA := by
  unfold State.count
  repeat' (first | with_reducible rfl | split | simp)
@[simp] theorem State.count_laneB (s : State) (id : Nat) (n : Nat) : ((State.count s id n)).laneB = s.laneB := by
  unfold State.count
  repeat' (first | with_reducible rfl | split | simp)
@[simp] theorem State.count_arb (s : State) (id : Nat) (n : Nat) : ((State.count s id n)).arb = s.arb := by
  unfold State.count
  repeat' (first | with_reducible rfl | split | simp)
@[simp] theorem State.count_echo (s : State) (id : Nat) (n : Nat) : ((State.count s id n)).echo = s.echo := by
  unfold State.count
  repeat' (first | with_reducible rfl | split | simp)
@[simp] theorem State.count_stream (s : State) (id : Nat) (n : Nat) : ((State.count s id n)).stream = s.stream := by
  unfold State.count
  repeat' (first | with_reducible rfl | split | simp)
@[simp] theorem State.count_pwr (s : State) (id : Nat) (n : Nat) : ((State.count s id n)).pwr = s.pwr := by
  unfold State.count
  repeat' (first | with_reducible rfl | split | simp)
@[simp] theorem State.count_therm (s : State) (id : Nat) (n : Nat) : ((State.count s id n)).therm = s.therm := by
  unfold State.count
  repeat' (first | with_reducible rfl | split | simp)
@[simp] theorem State.count_cal (s : State) (id : Nat) (n : Nat) : ((State.count s id n)).cal = s.cal := by
  unfold State.count
  repeat' (first | with_reducible rfl | split | simp)
@[simp] theorem State.count_flash (s : State) (id : Nat) (n : Nat) : ((State.count s id n)).flash = s.flash := by
  unfold State.count
  repeat' (first | with_reducible rfl | split | simp)
@[simp] theorem State.count_sec (s : State) (id : Nat) (n : Nat) : ((State.count s id n)).sec = s.sec := by
  unfold State.count
  repeat' (first | with_reducible rfl | split | simp)

/-! `State.raise` -/

@[simp] theorem State.raise_pending (s : State) (code sev : Nat) (p1 : U32) (p2 : U32) (p3 : U32) (ticket : U32) : ((State.raise s code sev p1 p2 p3 ticket)).pending = s.pending := by
  unfold State.raise
  repeat' (first | with_reducible rfl | split | simp)
@[simp] theorem State.raise_now (s : State) (code sev : Nat) (p1 : U32) (p2 : U32) (p3 : U32) (ticket : U32) : ((State.raise s code sev p1 p2 p3 ticket)).now = s.now := by
  unfold State.raise
  repeat' (first | with_reducible rfl | split | simp)
@[simp] theorem State.raise_out (s : State) (code sev : Nat) (p1 : U32) (p2 : U32) (p3 : U32) (ticket : U32) : ((State.raise s code sev p1 p2 p3 ticket)).out = s.out := by
  unfold State.raise
  repeat' (first | with_reducible rfl | split | simp)
@[simp] theorem State.raise_draws (s : State) (code sev : Nat) (p1 : U32) (p2 : U32) (p3 : U32) (ticket : U32) : ((State.raise s code sev p1 p2 p3 ticket)).draws = s.draws := by
  unfold State.raise
  repeat' (first | with_reducible rfl | split | simp)
@[simp] theorem State.raise_fac (s : State) (code sev : Nat) (p1 : U32) (p2 : U32) (p3 : U32) (ticket : U32) : ((State.raise s code sev p1 p2 p3 ticket)).fac = s.fac := by
  unfold State.raise
  repeat' (first | with_reducible rfl | split | simp)
@[simp] theorem State.raise_cfg (s : State) (code sev : Nat) (p1 : U32) (p2 : U32) (p3 : U32) (ticket : U32) : ((State.raise s code sev p1 p2 p3 ticket)).cfg = s.cfg := by
  unfold State.raise
  repeat' (first | with_reducible rfl | split | simp)
@[simp] theorem State.raise_net (s : State) (code sev : Nat) (p1 : U32) (p2 : U32) (p3 : U32) (ticket : U32) : ((State.raise s code sev p1 p2 p3 ticket)).net = s.net := by
  unfold State.raise
  repeat' (first | with_reducible rfl | split | simp)
@[simp] theorem State.raise_scan (s : State) (code sev : Nat) (p1 : U32) (p2 : U32) (p3 : U32) (ticket : U32) : ((State.raise s code sev p1 p2 p3 ticket)).scan = s.scan := by
  unfold State.raise
  repeat' (first | with_reducible rfl | split | simp)
@[simp] theorem State.raise_emit (s : State) (code sev : Nat) (p1 : U32) (p2 : U32) (p3 : U32) (ticket : U32) : ((State.raise s code sev p1 p2 p3 ticket)).emit = s.emit := by
  unfold State.raise
  repeat' (first | with_reducible rfl | split | simp)
@[simp] theorem State.raise_rx (s : State) (code sev : Nat) (p1 : U32) (p2 : U32) (p3 : U32) (ticket : U32) : ((State.raise s code sev p1 p2 p3 ticket)).rx = s.rx := by
  unfold State.raise
  repeat' (first | with_reducible rfl | split | simp)
@[simp] theorem State.raise_tin (s : State) (code sev : Nat) (p1 : U32) (p2 : U32) (p3 : U32) (ticket : U32) : ((State.raise s code sev p1 p2 p3 ticket)).tin = s.tin := by
  unfold State.raise
  repeat' (first | with_reducible rfl | split | simp)
@[simp] theorem State.raise_bus (s : State) (code sev : Nat) (p1 : U32) (p2 : U32) (p3 : U32) (ticket : U32) : ((State.raise s code sev p1 p2 p3 ticket)).bus = s.bus := by
  unfold State.raise
  repeat' (first | with_reducible rfl | split | simp)
@[simp] theorem State.raise_front (s : State) (code sev : Nat) (p1 : U32) (p2 : U32) (p3 : U32) (ticket : U32) : ((State.raise s code sev p1 p2 p3 ticket)).front = s.front := by
  unfold State.raise
  repeat' (first | with_reducible rfl | split | simp)
@[simp] theorem State.raise_hka (s : State) (code sev : Nat) (p1 : U32) (p2 : U32) (p3 : U32) (ticket : U32) : ((State.raise s code sev p1 p2 p3 ticket)).hka = s.hka := by
  unfold State.raise
  repeat' (first | with_reducible rfl | split | simp)
@[simp] theorem State.raise_coil (s : State) (code sev : Nat) (p1 : U32) (p2 : U32) (p3 : U32) (ticket : U32) : ((State.raise s code sev p1 p2 p3 ticket)).coil = s.coil := by
  unfold State.raise
  repeat' (first | with_reducible rfl | split | simp)
@[simp] theorem State.raise_laneA (s : State) (code sev : Nat) (p1 : U32) (p2 : U32) (p3 : U32) (ticket : U32) : ((State.raise s code sev p1 p2 p3 ticket)).laneA = s.laneA := by
  unfold State.raise
  repeat' (first | with_reducible rfl | split | simp)
@[simp] theorem State.raise_laneB (s : State) (code sev : Nat) (p1 : U32) (p2 : U32) (p3 : U32) (ticket : U32) : ((State.raise s code sev p1 p2 p3 ticket)).laneB = s.laneB := by
  unfold State.raise
  repeat' (first | with_reducible rfl | split | simp)
@[simp] theorem State.raise_arb (s : State) (code sev : Nat) (p1 : U32) (p2 : U32) (p3 : U32) (ticket : U32) : ((State.raise s code sev p1 p2 p3 ticket)).arb = s.arb := by
  unfold State.raise
  repeat' (first | with_reducible rfl | split | simp)
@[simp] theorem State.raise_echo (s : State) (code sev : Nat) (p1 : U32) (p2 : U32) (p3 : U32) (ticket : U32) : ((State.raise s code sev p1 p2 p3 ticket)).echo = s.echo := by
  unfold State.raise
  repeat' (first | with_reducible rfl | split | simp)
@[simp] theorem State.raise_stream (s : State) (code sev : Nat) (p1 : U32) (p2 : U32) (p3 : U32) (ticket : U32) : ((State.raise s code sev p1 p2 p3 ticket)).stream = s.stream := by
  unfold State.raise
  repeat' (first | with_reducible rfl | split | simp)
@[simp] theorem State.raise_pwr (s : State) (code sev : Nat) (p1 : U32) (p2 : U32) (p3 : U32) (ticket : U32) : ((State.raise s code sev p1 p2 p3 ticket)).pwr = s.pwr := by
  unfold State.raise
  repeat' (first | with_reducible rfl | split | simp)
@[simp] theorem State.raise_therm (s : State) (code sev : Nat) (p1 : U32) (p2 : U32) (p3 : U32) (ticket : U32) : ((State.raise s code sev p1 p2 p3 ticket)).therm = s.therm := by
  unfold State.raise
  repeat' (first | with_reducible rfl | split | simp)
@[simp] theorem State.raise_cal (s : State) (code sev : Nat) (p1 : U32) (p2 : U32) (p3 : U32) (ticket : U32) : ((State.raise s code sev p1 p2 p3 ticket)).cal = s.cal := by
  unfold State.raise
  repeat' (first | with_reducible rfl | split | simp)
@[simp] theorem State.raise_flash (s : State) (code sev : Nat) (p1 : U32) (p2 : U32) (p3 : U32) (ticket : U32) : ((State.raise s code sev p1 p2 p3 ticket)).flash = s.flash := by
  unfold State.raise
  repeat' (first | with_reducible rfl | split | simp)
@[simp] theorem State.raise_sec (s : State) (code sev : Nat) (p1 : U32) (p2 : U32) (p3 : U32) (ticket : U32) : ((State.raise s code sev p1 p2 p3 ticket)).sec = s.sec := by
  unfold State.raise
  repeat' (first | with_reducible rfl | split | simp)

/-! `State.tripSet` -/

@[simp] theorem State.tripSet_pending (s : State) (b : Nat) : ((State.tripSet s b)).pending = s.pending := by
  unfold State.tripSet
  repeat' (first | with_reducible rfl | split | simp)
@[simp] theorem State.tripSet_now (s : State) (b : Nat) : ((State.tripSet s b)).now = s.now := by
  unfold State.tripSet
  repeat' (first | with_reducible rfl | split | simp)
@[simp] theorem State.tripSet_out (s : State) (b : Nat) : ((State.tripSet s b)).out = s.out := by
  unfold State.tripSet
  repeat' (first | with_reducible rfl | split | simp)
@[simp] theorem State.tripSet_draws (s : State) (b : Nat) : ((State.tripSet s b)).draws = s.draws := by
  unfold State.tripSet
  repeat' (first | with_reducible rfl | split | simp)
@[simp] theorem State.tripSet_fac (s : State) (b : Nat) : ((State.tripSet s b)).fac = s.fac := by
  unfold State.tripSet
  repeat' (first | with_reducible rfl | split | simp)
@[simp] theorem State.tripSet_cfg (s : State) (b : Nat) : ((State.tripSet s b)).cfg = s.cfg := by
  unfold State.tripSet
  repeat' (first | with_reducible rfl | split | simp)
@[simp] theorem State.tripSet_net (s : State) (b : Nat) : ((State.tripSet s b)).net = s.net := by
  unfold State.tripSet
  repeat' (first | with_reducible rfl | split | simp)
@[simp] theorem State.tripSet_scan (s : State) (b : Nat) : ((State.tripSet s b)).scan = s.scan := by
  unfold State.tripSet
  repeat' (first | with_reducible rfl | split | simp)
@[simp] theorem State.tripSet_rx (s : State) (b : Nat) : ((State.tripSet s b)).rx = s.rx := by
  unfold State.tripSet
  repeat' (first | with_reducible rfl | split | simp)
@[simp] theorem State.tripSet_tin (s : State) (b : Nat) : ((State.tripSet s b)).tin = s.tin := by
  unfold State.tripSet
  repeat' (first | with_reducible rfl | split | simp)
@[simp] theorem State.tripSet_bus (s : State) (b : Nat) : ((State.tripSet s b)).bus = s.bus := by
  unfold State.tripSet
  repeat' (first | with_reducible rfl | split | simp)
@[simp] theorem State.tripSet_front (s : State) (b : Nat) : ((State.tripSet s b)).front = s.front := by
  unfold State.tripSet
  repeat' (first | with_reducible rfl | split | simp)
@[simp] theorem State.tripSet_hka (s : State) (b : Nat) : ((State.tripSet s b)).hka = s.hka := by
  unfold State.tripSet
  repeat' (first | with_reducible rfl | split | simp)
@[simp] theorem State.tripSet_coil (s : State) (b : Nat) : ((State.tripSet s b)).coil = s.coil := by
  unfold State.tripSet
  repeat' (first | with_reducible rfl | split | simp)
@[simp] theorem State.tripSet_laneA (s : State) (b : Nat) : ((State.tripSet s b)).laneA = s.laneA := by
  unfold State.tripSet
  repeat' (first | with_reducible rfl | split | simp)
@[simp] theorem State.tripSet_laneB (s : State) (b : Nat) : ((State.tripSet s b)).laneB = s.laneB := by
  unfold State.tripSet
  repeat' (first | with_reducible rfl | split | simp)
@[simp] theorem State.tripSet_arb (s : State) (b : Nat) : ((State.tripSet s b)).arb = s.arb := by
  unfold State.tripSet
  repeat' (first | with_reducible rfl | split | simp)
@[simp] theorem State.tripSet_echo (s : State) (b : Nat) : ((State.tripSet s b)).echo = s.echo := by
  unfold State.tripSet
  repeat' (first | with_reducible rfl | split | simp)
@[simp] theorem State.tripSet_stream (s : State) (b : Nat) : ((State.tripSet s b)).stream = s.stream := by
  unfold State.tripSet
  repeat' (first | with_reducible rfl | split | simp)
@[simp] theorem State.tripSet_pwr (s : State) (b : Nat) : ((State.tripSet s b)).pwr = s.pwr := by
  unfold State.tripSet
  repeat' (first | with_reducible rfl | split | simp)
@[simp] theorem State.tripSet_therm (s : State) (b : Nat) : ((State.tripSet s b)).therm = s.therm := by
  unfold State.tripSet
  repeat' (first | with_reducible rfl | split | simp)
@[simp] theorem State.tripSet_cal (s : State) (b : Nat) : ((State.tripSet s b)).cal = s.cal := by
  unfold State.tripSet
  repeat' (first | with_reducible rfl | split | simp)
@[simp] theorem State.tripSet_flash (s : State) (b : Nat) : ((State.tripSet s b)).flash = s.flash := by
  unfold State.tripSet
  repeat' (first | with_reducible rfl | split | simp)
@[simp] theorem State.tripSet_sec (s : State) (b : Nat) : ((State.tripSet s b)).sec = s.sec := by
  unfold State.tripSet
  repeat' (first | with_reducible rfl | split | simp)

/-! `State.tripClear` -/

@[simp] theorem State.tripClear_pending (s : State) (b : Nat) : ((State.tripClear s b)).pending = s.pending := by
  unfold State.tripClear
  repeat' (first | with_reducible rfl | split | simp)
@[simp] theorem State.tripClear_now (s : State) (b : Nat) : ((State.tripClear s b)).now = s.now := by
  unfold State.tripClear
  repeat' (first | with_reducible rfl | split | simp)
@[simp] theorem State.tripClear_out (s : State) (b : Nat) : ((State.tripClear s b)).out = s.out := by
  unfold State.tripClear
  repeat' (first | with_reducible rfl | split | simp)
@[simp] theorem State.tripClear_draws (s : State) (b : Nat) : ((State.tripClear s b)).draws = s.draws := by
  unfold State.tripClear
  repeat' (first | with_reducible rfl | split | simp)
@[simp] theorem State.tripClear_fac (s : State) (b : Nat) : ((State.tripClear s b)).fac = s.fac := by
  unfold State.tripClear
  repeat' (first | with_reducible rfl | split | simp)
@[simp] theorem State.tripClear_cfg (s : State) (b : Nat) : ((State.tripClear s b)).cfg = s.cfg := by
  unfold State.tripClear
  repeat' (first | with_reducible rfl | split | simp)
@[simp] theorem State.tripClear_evt (s : State) (b : Nat) : ((State.tripClear s b)).evt = s.evt := by
  unfold State.tripClear
  repeat' (first | with_reducible rfl | split | simp)
@[simp] theorem State.tripClear_baspo (s : State) (b : Nat) : ((State.tripClear s b)).baspo = s.baspo := by
  unfold State.tripClear
  repeat' (first | with_reducible rfl | split | simp)
@[simp] theorem State.tripClear_net (s : State) (b : Nat) : ((State.tripClear s b)).net = s.net := by
  unfold State.tripClear
  repeat' (first | with_reducible rfl | split | simp)
@[simp] theorem State.tripClear_scan (s : State) (b : Nat) : ((State.tripClear s b)).scan = s.scan := by
  unfold State.tripClear
  repeat' (first | with_reducible rfl | split | simp)
@[simp] theorem State.tripClear_rx (s : State) (b : Nat) : ((State.tripClear s b)).rx = s.rx := by
  unfold State.tripClear
  repeat' (first | with_reducible rfl | split | simp)
@[simp] theorem State.tripClear_tin (s : State) (b : Nat) : ((State.tripClear s b)).tin = s.tin := by
  unfold State.tripClear
  repeat' (first | with_reducible rfl | split | simp)
@[simp] theorem State.tripClear_bus (s : State) (b : Nat) : ((State.tripClear s b)).bus = s.bus := by
  unfold State.tripClear
  repeat' (first | with_reducible rfl | split | simp)
@[simp] theorem State.tripClear_front (s : State) (b : Nat) : ((State.tripClear s b)).front = s.front := by
  unfold State.tripClear
  repeat' (first | with_reducible rfl | split | simp)
@[simp] theorem State.tripClear_hka (s : State) (b : Nat) : ((State.tripClear s b)).hka = s.hka := by
  unfold State.tripClear
  repeat' (first | with_reducible rfl | split | simp)
@[simp] theorem State.tripClear_coil (s : State) (b : Nat) : ((State.tripClear s b)).coil = s.coil := by
  unfold State.tripClear
  repeat' (first | with_reducible rfl | split | simp)
@[simp] theorem State.tripClear_laneA (s : State) (b : Nat) : ((State.tripClear s b)).laneA = s.laneA := by
  unfold State.tripClear
  repeat' (first | with_reducible rfl | split | simp)
@[simp] theorem State.tripClear_laneB (s : State) (b : Nat) : ((State.tripClear s b)).laneB = s.laneB := by
  unfold State.tripClear
  repeat' (first | with_reducible rfl | split | simp)
@[simp] theorem State.tripClear_arb (s : State) (b : Nat) : ((State.tripClear s b)).arb = s.arb := by
  unfold State.tripClear
  repeat' (first | with_reducible rfl | split | simp)
@[simp] theorem State.tripClear_echo (s : State) (b : Nat) : ((State.tripClear s b)).echo = s.echo := by
  unfold State.tripClear
  repeat' (first | with_reducible rfl | split | simp)
@[simp] theorem State.tripClear_cap (s : State) (b : Nat) : ((State.tripClear s b)).cap = s.cap := by
  unfold State.tripClear
  repeat' (first | with_reducible rfl | split | simp)
@[simp] theorem State.tripClear_stream (s : State) (b : Nat) : ((State.tripClear s b)).stream = s.stream := by
  unfold State.tripClear
  repeat' (first | with_reducible rfl | split | simp)
@[simp] theorem State.tripClear_pwr (s : State) (b : Nat) : ((State.tripClear s b)).pwr = s.pwr := by
  unfold State.tripClear
  repeat' (first | with_reducible rfl | split | simp)
@[simp] theorem State.tripClear_therm (s : State) (b : Nat) : ((State.tripClear s b)).therm = s.therm := by
  unfold State.tripClear
  repeat' (first | with_reducible rfl | split | simp)
@[simp] theorem State.tripClear_cal (s : State) (b : Nat) : ((State.tripClear s b)).cal = s.cal := by
  unfold State.tripClear
  repeat' (first | with_reducible rfl | split | simp)
@[simp] theorem State.tripClear_flash (s : State) (b : Nat) : ((State.tripClear s b)).flash = s.flash := by
  unfold State.tripClear
  repeat' (first | with_reducible rfl | split | simp)
@[simp] theorem State.tripClear_sec (s : State) (b : Nat) : ((State.tripClear s b)).sec = s.sec := by
  unfold State.tripClear
  repeat' (first | with_reducible rfl | split | simp)

/-! `State.trip` -/

@[simp] theorem State.trip_pending (s : State) (b : Nat) (level : Bool) : ((State.trip s b level)).pending = s.pending := by
  unfold State.trip
  repeat' (first | with_reducible rfl | split | simp)
@[simp] theorem State.trip_now (s : State) (b : Nat) (level : Bool) : ((State.trip s b level)).now = s.now := by
  unfold State.trip
  repeat' (first | with_reducible rfl | split | simp)
@[simp] theorem State.trip_out (s : State) (b : Nat) (level : Bool) : ((State.trip s b level)).out = s.out := by
  unfold State.trip
  repeat' (first | with_reducible rfl | split | simp)
@[simp] theorem State.trip_draws (s : State) (b : Nat) (level : Bool) : ((State.trip s b level)).draws = s.draws := by
  unfold State.trip
  repeat' (first | with_reducible rfl | split | simp)
@[simp] theorem State.trip_fac (s : State) (b : Nat) (level : Bool) : ((State.trip s b level)).fac = s.fac := by
  unfold State.trip
  repeat' (first | with_reducible rfl | split | simp)
@[simp] theorem State.trip_cfg (s : State) (b : Nat) (level : Bool) : ((State.trip s b level)).cfg = s.cfg := by
  unfold State.trip
  repeat' (first | with_reducible rfl | split | simp)
@[simp] theorem State.trip_net (s : State) (b : Nat) (level : Bool) : ((State.trip s b level)).net = s.net := by
  unfold State.trip
  repeat' (first | with_reducible rfl | split | simp)
@[simp] theorem State.trip_scan (s : State) (b : Nat) (level : Bool) : ((State.trip s b level)).scan = s.scan := by
  unfold State.trip
  repeat' (first | with_reducible rfl | split | simp)
@[simp] theorem State.trip_rx (s : State) (b : Nat) (level : Bool) : ((State.trip s b level)).rx = s.rx := by
  unfold State.trip
  repeat' (first | with_reducible rfl | split | simp)
@[simp] theorem State.trip_tin (s : State) (b : Nat) (level : Bool) : ((State.trip s b level)).tin = s.tin := by
  unfold State.trip
  repeat' (first | with_reducible rfl | split | simp)
@[simp] theorem State.trip_bus (s : State) (b : Nat) (level : Bool) : ((State.trip s b level)).bus = s.bus := by
  unfold State.trip
  repeat' (first | with_reducible rfl | split | simp)
@[simp] theorem State.trip_front (s : State) (b : Nat) (level : Bool) : ((State.trip s b level)).front = s.front := by
  unfold State.trip
  repeat' (first | with_reducible rfl | split | simp)
@[simp] theorem State.trip_hka (s : State) (b : Nat) (level : Bool) : ((State.trip s b level)).hka = s.hka := by
  unfold State.trip
  repeat' (first | with_reducible rfl | split | simp)
@[simp] theorem State.trip_coil (s : State) (b : Nat) (level : Bool) : ((State.trip s b level)).coil = s.coil := by
  unfold State.trip
  repeat' (first | with_reducible rfl | split | simp)
@[simp] theorem State.trip_laneA (s : State) (b : Nat) (level : Bool) : ((State.trip s b level)).laneA = s.laneA := by
  unfold State.trip
  repeat' (first | with_reducible rfl | split | simp)
@[simp] theorem State.trip_laneB (s : State) (b : Nat) (level : Bool) : ((State.trip s b level)).laneB = s.laneB := by
  unfold State.trip
  repeat' (first | with_reducible rfl | split | simp)
@[simp] theorem State.trip_arb (s : State) (b : Nat) (level : Bool) : ((State.trip s b level)).arb = s.arb := by
  unfold State.trip
  repeat' (first | with_reducible rfl | split | simp)
@[simp] theorem State.trip_echo (s : State) (b : Nat) (level : Bool) : ((State.trip s b level)).echo = s.echo := by
  unfold State.trip
  repeat' (first | with_reducible rfl | split | simp)
@[simp] theorem State.trip_stream (s : State) (b : Nat) (level : Bool) : ((State.trip s b level)).stream = s.stream := by
  unfold State.trip
  repeat' (first | with_reducible rfl | split | simp)
@[simp] theorem State.trip_pwr (s : State) (b : Nat) (level : Bool) : ((State.trip s b level)).pwr = s.pwr := by
  unfold State.trip
  repeat' (first | with_reducible rfl | split | simp)
@[simp] theorem State.trip_therm (s : State) (b : Nat) (level : Bool) : ((State.trip s b level)).therm = s.therm := by
  unfold State.trip
  repeat' (first | with_reducible rfl | split | simp)
@[simp] theorem State.trip_cal (s : State) (b : Nat) (level : Bool) : ((State.trip s b level)).cal = s.cal := by
  unfold State.trip
  repeat' (first | with_reducible rfl | split | simp)
@[simp] theorem State.trip_flash (s : State) (b : Nat) (level : Bool) : ((State.trip s b level)).flash = s.flash := by
  unfold State.trip
  repeat' (first | with_reducible rfl | split | simp)
@[simp] theorem State.trip_sec (s : State) (b : Nat) (level : Bool) : ((State.trip s b level)).sec = s.sec := by
  unfold State.trip
  repeat' (first | with_reducible rfl | split | simp)

end Sys2Proof.Machine
end

