-- ==== Sys2Proof/Laws/Wire.lean ====
section
/-! SUPPORT. What answering a request leaves alone, field by field. -/

namespace Sys2Proof.Machine

open Sys2Proof

/-! `State.nextFresh` -/

@[simp] theorem State.nextFresh_pending (s : State) (tr : Transport) (num : Byte) : ((State.nextFresh s tr num).1).pending = s.pending := by
  unfold State.nextFresh
  repeat' (first | with_reducible rfl | split | simp)
@[simp] theorem State.nextFresh_now (s : State) (tr : Transport) (num : Byte) : ((State.nextFresh s tr num).1).now = s.now := by
  unfold State.nextFresh
  repeat' (first | with_reducible rfl | split | simp)
@[simp] theorem State.nextFresh_out (s : State) (tr : Transport) (num : Byte) : ((State.nextFresh s tr num).1).out = s.out := by
  unfold State.nextFresh
  repeat' (first | with_reducible rfl | split | simp)
@[simp] theorem State.nextFresh_fac (s : State) (tr : Transport) (num : Byte) : ((State.nextFresh s tr num).1).fac = s.fac := by
  unfold State.nextFresh
  repeat' (first | with_reducible rfl | split | simp)
@[simp] theorem State.nextFresh_cfg (s : State) (tr : Transport) (num : Byte) : ((State.nextFresh s tr num).1).cfg = s.cfg := by
  unfold State.nextFresh
  repeat' (first | with_reducible rfl | split | simp)
@[simp] theorem State.nextFresh_evt (s : State) (tr : Transport) (num : Byte) : ((State.nextFresh s tr num).1).evt = s.evt := by
  unfold State.nextFresh
  repeat' (first | with_reducible rfl | split | simp)
@[simp] theorem State.nextFresh_net (s : State) (tr : Transport) (num : Byte) : ((State.nextFresh s tr num).1).net = s.net := by
  unfold State.nextFresh
  repeat' (first | with_reducible rfl | split | simp)
@[simp] theorem State.nextFresh_scan (s : State) (tr : Transport) (num : Byte) : ((State.nextFresh s tr num).1).scan = s.scan := by
  unfold State.nextFresh
  repeat' (first | with_reducible rfl | split | simp)
@[simp] theorem State.nextFresh_emit (s : State) (tr : Transport) (num : Byte) : ((State.nextFresh s tr num).1).emit = s.emit := by
  unfold State.nextFresh
  repeat' (first | with_reducible rfl | split | simp)
@[simp] theorem State.nextFresh_rx (s : State) (tr : Transport) (num : Byte) : ((State.nextFresh s tr num).1).rx = s.rx := by
  unfold State.nextFresh
  repeat' (first | with_reducible rfl | split | simp)
@[simp] theorem State.nextFresh_tin (s : State) (tr : Transport) (num : Byte) : ((State.nextFresh s tr num).1).tin = s.tin := by
  unfold State.nextFresh
  repeat' (first | with_reducible rfl | split | simp)
@[simp] theorem State.nextFresh_bus (s : State) (tr : Transport) (num : Byte) : ((State.nextFresh s tr num).1).bus = s.bus := by
  unfold State.nextFresh
  repeat' (first | with_reducible rfl | split | simp)
@[simp] theorem State.nextFresh_front (s : State) (tr : Transport) (num : Byte) : ((State.nextFresh s tr num).1).front = s.front := by
  unfold State.nextFresh
  repeat' (first | with_reducible rfl | split | simp)
@[simp] theorem State.nextFresh_hka (s : State) (tr : Transport) (num : Byte) : ((State.nextFresh s tr num).1).hka = s.hka := by
  unfold State.nextFresh
  repeat' (first | with_reducible rfl | split | simp)
@[simp] theorem State.nextFresh_coil (s : State) (tr : Transport) (num : Byte) : ((State.nextFresh s tr num).1).coil = s.coil := by
  unfold State.nextFresh
  repeat' (first | with_reducible rfl | split | simp)
@[simp] theorem State.nextFresh_laneA (s : State) (tr : Transport) (num : Byte) : ((State.nextFresh s tr num).1).laneA = s.laneA := by
  unfold State.nextFresh
  repeat' (first | with_reducible rfl | split | simp)
@[simp] theorem State.nextFresh_laneB (s : State) (tr : Transport) (num : Byte) : ((State.nextFresh s tr num).1).laneB = s.laneB := by
  unfold State.nextFresh
  repeat' (first | with_reducible rfl | split | simp)
@[simp] theorem State.nextFresh_arb (s : State) (tr : Transport) (num : Byte) : ((State.nextFresh s tr num).1).arb = s.arb := by
  unfold State.nextFresh
  repeat' (first | with_reducible rfl | split | simp)
@[simp] theorem State.nextFresh_echo (s : State) (tr : Transport) (num : Byte) : ((State.nextFresh s tr num).1).echo = s.echo := by
  unfold State.nextFresh
  repeat' (first | with_reducible rfl | split | simp)
@[simp] theorem State.nextFresh_cap (s : State) (tr : Transport) (num : Byte) : ((State.nextFresh s tr num).1).cap = s.cap := by
  unfold State.nextFresh
  repeat' (first | with_reducible rfl | split | simp)
@[simp] theorem State.nextFresh_stream (s : State) (tr : Transport) (num : Byte) : ((State.nextFresh s tr num).1).stream = s.stream := by
  unfold State.nextFresh
  repeat' (first | with_reducible rfl | split | simp)
@[simp] theorem State.nextFresh_pwr (s : State) (tr : Transport) (num : Byte) : ((State.nextFresh s tr num).1).pwr = s.pwr := by
  unfold State.nextFresh
  repeat' (first | with_reducible rfl | split | simp)
@[simp] theorem State.nextFresh_therm (s : State) (tr : Transport) (num : Byte) : ((State.nextFresh s tr num).1).therm = s.therm := by
  unfold State.nextFresh
  repeat' (first | with_reducible rfl | split | simp)
@[simp] theorem State.nextFresh_cal (s : State) (tr : Transport) (num : Byte) : ((State.nextFresh s tr num).1).cal = s.cal := by
  unfold State.nextFresh
  repeat' (first | with_reducible rfl | split | simp)
@[simp] theorem State.nextFresh_flash (s : State) (tr : Transport) (num : Byte) : ((State.nextFresh s tr num).1).flash = s.flash := by
  unfold State.nextFresh
  repeat' (first | with_reducible rfl | split | simp)
@[simp] theorem State.nextFresh_sec (s : State) (tr : Transport) (num : Byte) : ((State.nextFresh s tr num).1).sec = s.sec := by
  unfold State.nextFresh
  repeat' (first | with_reducible rfl | split | simp)

/-! `State.sendBaspo` -/

@[simp] theorem State.sendBaspo_pending (s : State) (tr : Transport) (addr : BitVec 128) (port : U16) (ident : Nat) (bytes : Bytes) : ((State.sendBaspo s tr addr port ident bytes)).pending = s.pending := by
  unfold State.sendBaspo
  repeat' (first | with_reducible rfl | split | simp)
@[simp] theorem State.sendBaspo_now (s : State) (tr : Transport) (addr : BitVec 128) (port : U16) (ident : Nat) (bytes : Bytes) : ((State.sendBaspo s tr addr port ident bytes)).now = s.now := by
  unfold State.sendBaspo
  repeat' (first | with_reducible rfl | split | simp)
@[simp] theorem State.sendBaspo_draws (s : State) (tr : Transport) (addr : BitVec 128) (port : U16) (ident : Nat) (bytes : Bytes) : ((State.sendBaspo s tr addr port ident bytes)).draws = s.draws := by
  unfold State.sendBaspo
  repeat' (first | with_reducible rfl | split | simp)
@[simp] theorem State.sendBaspo_fac (s : State) (tr : Transport) (addr : BitVec 128) (port : U16) (ident : Nat) (bytes : Bytes) : ((State.sendBaspo s tr addr port ident bytes)).fac = s.fac := by
  unfold State.sendBaspo
  repeat' (first | with_reducible rfl | split | simp)
@[simp] theorem State.sendBaspo_cfg (s : State) (tr : Transport) (addr : BitVec 128) (port : U16) (ident : Nat) (bytes : Bytes) : ((State.sendBaspo s tr addr port ident bytes)).cfg = s.cfg := by
  unfold State.sendBaspo
  repeat' (first | with_reducible rfl | split | simp)
@[simp] theorem State.sendBaspo_evt (s : State) (tr : Transport) (addr : BitVec 128) (port : U16) (ident : Nat) (bytes : Bytes) : ((State.sendBaspo s tr addr port ident bytes)).evt = s.evt := by
  unfold State.sendBaspo
  repeat' (first | with_reducible rfl | split | simp)
@[simp] theorem State.sendBaspo_baspo (s : State) (tr : Transport) (addr : BitVec 128) (port : U16) (ident : Nat) (bytes : Bytes) : ((State.sendBaspo s tr addr port ident bytes)).baspo = s.baspo := by
  unfold State.sendBaspo
  repeat' (first | with_reducible rfl | split | simp)
@[simp] theorem State.sendBaspo_net (s : State) (tr : Transport) (addr : BitVec 128) (port : U16) (ident : Nat) (bytes : Bytes) : ((State.sendBaspo s tr addr port ident bytes)).net = s.net := by
  unfold State.sendBaspo
  repeat' (first | with_reducible rfl | split | simp)
@[simp] theorem State.sendBaspo_scan (s : State) (tr : Transport) (addr : BitVec 128) (port : U16) (ident : Nat) (bytes : Bytes) : ((State.sendBaspo s tr addr port ident bytes)).scan = s.scan := by
  unfold State.sendBaspo
  repeat' (first | with_reducible rfl | split | simp)
@[simp] theorem State.sendBaspo_emit (s : State) (tr : Transport) (addr : BitVec 128) (port : U16) (ident : Nat) (bytes : Bytes) : ((State.sendBaspo s tr addr port ident bytes)).emit = s.emit := by
  unfold State.sendBaspo
  repeat' (first | with_reducible rfl | split | simp)
@[simp] theorem State.sendBaspo_rx (s : State) (tr : Transport) (addr : BitVec 128) (port : U16) (ident : Nat) (bytes : Bytes) : ((State.sendBaspo s tr addr port ident bytes)).rx = s.rx := by
  unfold State.sendBaspo
  repeat' (first | with_reducible rfl | split | simp)
@[simp] theorem State.sendBaspo_tin (s : State) (tr : Transport) (addr : BitVec 128) (port : U16) (ident : Nat) (bytes : Bytes) : ((State.sendBaspo s tr addr port ident bytes)).tin = s.tin := by
  unfold State.sendBaspo
  repeat' (first | with_reducible rfl | split | simp)
@[simp] theorem State.sendBaspo_bus (s : State) (tr : Transport) (addr : BitVec 128) (port : U16) (ident : Nat) (bytes : Bytes) : ((State.sendBaspo s tr addr port ident bytes)).bus = s.bus := by
  unfold State.sendBaspo
  repeat' (first | with_reducible rfl | split | simp)
@[simp] theorem State.sendBaspo_front (s : State) (tr : Transport) (addr : BitVec 128) (port : U16) (ident : Nat) (bytes : Bytes) : ((State.sendBaspo s tr addr port ident bytes)).front = s.front := by
  unfold State.sendBaspo
  repeat' (first | with_reducible rfl | split | simp)
@[simp] theorem State.sendBaspo_hka (s : State) (tr : Transport) (addr : BitVec 128) (port : U16) (ident : Nat) (bytes : Bytes) : ((State.sendBaspo s tr addr port ident bytes)).hka = s.hka := by
  unfold State.sendBaspo
  repeat' (first | with_reducible rfl | split | simp)
@[simp] theorem State.sendBaspo_coil (s : State) (tr : Transport) (addr : BitVec 128) (port : U16) (ident : Nat) (bytes : Bytes) : ((State.sendBaspo s tr addr port ident bytes)).coil = s.coil := by
  unfold State.sendBaspo
  repeat' (first | with_reducible rfl | split | simp)
@[simp] theorem State.sendBaspo_laneA (s : State) (tr : Transport) (addr : BitVec 128) (port : U16) (ident : Nat) (bytes : Bytes) : ((State.sendBaspo s tr addr port ident bytes)).laneA = s.laneA := by
  unfold State.sendBaspo
  repeat' (first | with_reducible rfl | split | simp)
@[simp] theorem State.sendBaspo_laneB (s : State) (tr : Transport) (addr : BitVec 128) (port : U16) (ident : Nat) (bytes : Bytes) : ((State.sendBaspo s tr addr port ident bytes)).laneB = s.laneB := by
  unfold State.sendBaspo
  repeat' (first | with_reducible rfl | split | simp)
@[simp] theorem State.sendBaspo_arb (s : State) (tr : Transport) (addr : BitVec 128) (port : U16) (ident : Nat) (bytes : Bytes) : ((State.sendBaspo s tr addr port ident bytes)).arb = s.arb := by
  unfold State.sendBaspo
  repeat' (first | with_reducible rfl | split | simp)
@[simp] theorem State.sendBaspo_echo (s : State) (tr : Transport) (addr : BitVec 128) (port : U16) (ident : Nat) (bytes : Bytes) : ((State.sendBaspo s tr addr port ident bytes)).echo = s.echo := by
  unfold State.sendBaspo
  repeat' (first | with_reducible rfl | split | simp)
@[simp] theorem State.sendBaspo_cap (s : State) (tr : Transport) (addr : BitVec 128) (port : U16) (ident : Nat) (bytes : Bytes) : ((State.sendBaspo s tr addr port ident bytes)).cap = s.cap := by
  unfold State.sendBaspo
  repeat' (first | with_reducible rfl | split | simp)
@[simp] theorem State.sendBaspo_stream (s : State) (tr : Transport) (addr : BitVec 128) (port : U16) (ident : Nat) (bytes : Bytes) : ((State.sendBaspo s tr addr port ident bytes)).stream = s.stream := by
  unfold State.sendBaspo
  repeat' (first | with_reducible rfl | split | simp)
@[simp] theorem State.sendBaspo_pwr (s : State) (tr : Transport) (addr : BitVec 128) (port : U16) (ident : Nat) (bytes : Bytes) : ((State.sendBaspo s tr addr port ident bytes)).pwr = s.pwr := by
  unfold State.sendBaspo
  repeat' (first | with_reducible rfl | split | simp)
@[simp] theorem State.sendBaspo_therm (s : State) (tr : Transport) (addr : BitVec 128) (port : U16) (ident : Nat) (bytes : Bytes) : ((State.sendBaspo s tr addr port ident bytes)).therm = s.therm := by
  unfold State.sendBaspo
  repeat' (first | with_reducible rfl | split | simp)
@[simp] theorem State.sendBaspo_cal (s : State) (tr : Transport) (addr : BitVec 128) (port : U16) (ident : Nat) (bytes : Bytes) : ((State.sendBaspo s tr addr port ident bytes)).cal = s.cal := by
  unfold State.sendBaspo
  repeat' (first | with_reducible rfl | split | simp)
@[simp] theorem State.sendBaspo_flash (s : State) (tr : Transport) (addr : BitVec 128) (port : U16) (ident : Nat) (bytes : Bytes) : ((State.sendBaspo s tr addr port ident bytes)).flash = s.flash := by
  unfold State.sendBaspo
  repeat' (first | with_reducible rfl | split | simp)
@[simp] theorem State.sendBaspo_sec (s : State) (tr : Transport) (addr : BitVec 128) (port : U16) (ident : Nat) (bytes : Bytes) : ((State.sendBaspo s tr addr port ident bytes)).sec = s.sec := by
  unfold State.sendBaspo
  repeat' (first | with_reducible rfl | split | simp)

/-! `State.abandonLock` -/

@[simp] theorem State.abandonLock_pending (s : State) (tr : Transport) (num : Byte) (reason : Nat) : ((State.abandonLock s tr num reason)).pending = s.pending := by
  unfold State.abandonLock
  repeat' (first | with_reducible rfl | split | simp)
@[simp] theorem State.abandonLock_now (s : State) (tr : Transport) (num : Byte) (reason : Nat) : ((State.abandonLock s tr num reason)).now = s.now := by
  unfold State.abandonLock
  repeat' (first | with_reducible rfl | split | simp)
@[simp] theorem State.abandonLock_out (s : State) (tr : Transport) (num : Byte) (reason : Nat) : ((State.abandonLock s tr num reason)).out = s.out := by
  unfold State.abandonLock
  repeat' (first | with_reducible rfl | split | simp)
@[simp] theorem State.abandonLock_draws (s : State) (tr : Transport) (num : Byte) (reason : Nat) : ((State.abandonLock s tr num reason)).draws = s.draws := by
  unfold State.abandonLock
  repeat' (first | with_reducible rfl | split | simp)
@[simp] theorem State.abandonLock_fac (s : State) (tr : Transport) (num : Byte) (reason : Nat) : ((State.abandonLock s tr num reason)).fac = s.fac := by
  unfold State.abandonLock
  repeat' (first | with_reducible rfl | split | simp)
@[simp] theorem State.abandonLock_cfg (s : State) (tr : Transport) (num : Byte) (reason : Nat) : ((State.abandonLock s tr num reason)).cfg = s.cfg := by
  unfold State.abandonLock
  repeat' (first | with_reducible rfl | split | simp)
@[simp] theorem State.abandonLock_net (s : State) (tr : Transport) (num : Byte) (reason : Nat) : ((State.abandonLock s tr num reason)).net = s.net := by
  unfold State.abandonLock
  repeat' (first | with_reducible rfl | split | simp)
@[simp] theorem State.abandonLock_scan (s : State) (tr : Transport) (num : Byte) (reason : Nat) : ((State.abandonLock s tr num reason)).scan = s.scan := by
  unfold State.abandonLock
  repeat' (first | with_reducible rfl | split | simp)
@[simp] theorem State.abandonLock_emit (s : State) (tr : Transport) (num : Byte) (reason : Nat) : ((State.abandonLock s tr num reason)).emit = s.emit := by
  unfold State.abandonLock
  repeat' (first | with_reducible rfl | split | simp)
@[simp] theorem State.abandonLock_rx (s : State) (tr : Transport) (num : Byte) (reason : Nat) : ((State.abandonLock s tr num reason)).rx = s.rx := by
  unfold State.abandonLock
  repeat' (first | with_reducible rfl | split | simp)
@[simp] theorem State.abandonLock_tin (s : State) (tr : Transport) (num : Byte) (reason : Nat) : ((State.abandonLock s tr num reason)).tin = s.tin := by
  unfold State.abandonLock
  repeat' (first | with_reducible rfl | split | simp)
@[simp] theorem State.abandonLock_bus (s : State) (tr : Transport) (num : Byte) (reason : Nat) : ((State.abandonLock s tr num reason)).bus = s.bus := by
  unfold State.abandonLock
  repeat' (first | with_reducible rfl | split | simp)
@[simp] theorem State.abandonLock_front (s : State) (tr : Transport) (num : Byte) (reason : Nat) : ((State.abandonLock s tr num reason)).front = s.front := by
  unfold State.abandonLock
  repeat' (first | with_reducible rfl | split | simp)
@[simp] theorem State.abandonLock_hka (s : State) (tr : Transport) (num : Byte) (reason : Nat) : ((State.abandonLock s tr num reason)).hka = s.hka := by
  unfold State.abandonLock
  repeat' (first | with_reducible rfl | split | simp)
@[simp] theorem State.abandonLock_coil (s : State) (tr : Transport) (num : Byte) (reason : Nat) : ((State.abandonLock s tr num reason)).coil = s.coil := by
  unfold State.abandonLock
  repeat' (first | with_reducible rfl | split | simp)
@[simp] theorem State.abandonLock_laneA (s : State) (tr : Transport) (num : Byte) (reason : Nat) : ((State.abandonLock s tr num reason)).laneA = s.laneA := by
  unfold State.abandonLock
  repeat' (first | with_reducible rfl | split | simp)
@[simp] theorem State.abandonLock_laneB (s : State) (tr : Transport) (num : Byte) (reason : Nat) : ((State.abandonLock s tr num reason)).laneB = s.laneB := by
  unfold State.abandonLock
  repeat' (first | with_reducible rfl | split | simp)
@[simp] theorem State.abandonLock_arb (s : State) (tr : Transport) (num : Byte) (reason : Nat) : ((State.abandonLock s tr num reason)).arb = s.arb := by
  unfold State.abandonLock
  repeat' (first | with_reducible rfl | split | simp)
@[simp] theorem State.abandonLock_echo (s : State) (tr : Transport) (num : Byte) (reason : Nat) : ((State.abandonLock s tr num reason)).echo = s.echo := by
  unfold State.abandonLock
  repeat' (first | with_reducible rfl | split | simp)
@[simp] theorem State.abandonLock_stream (s : State) (tr : Transport) (num : Byte) (reason : Nat) : ((State.abandonLock s tr num reason)).stream = s.stream := by
  unfold State.abandonLock
  repeat' (first | with_reducible rfl | split | simp)
@[simp] theorem State.abandonLock_pwr (s : State) (tr : Transport) (num : Byte) (reason : Nat) : ((State.abandonLock s tr num reason)).pwr = s.pwr := by
  unfold State.abandonLock
  repeat' (first | with_reducible rfl | split | simp)
@[simp] theorem State.abandonLock_therm (s : State) (tr : Transport) (num : Byte) (reason : Nat) : ((State.abandonLock s tr num reason)).therm = s.therm := by
  unfold State.abandonLock
  repeat' (first | with_reducible rfl | split | simp)
@[simp] theorem State.abandonLock_cal (s : State) (tr : Transport) (num : Byte) (reason : Nat) : ((State.abandonLock s tr num reason)).cal = s.cal := by
  unfold State.abandonLock
  repeat' (first | with_reducible rfl | split | simp)
@[simp] theorem State.abandonLock_flash (s : State) (tr : Transport) (num : Byte) (reason : Nat) : ((State.abandonLock s tr num reason)).flash = s.flash := by
  unfold State.abandonLock
  repeat' (first | with_reducible rfl | split | simp)
@[simp] theorem State.abandonLock_sec (s : State) (tr : Transport) (num : Byte) (reason : Nat) : ((State.abandonLock s tr num reason)).sec = s.sec := by
  unfold State.abandonLock
  repeat' (first | with_reducible rfl | split | simp)

/-! `State.endSubs` -/

@[simp] theorem State.endSubs_pending (s : State) (tr : Transport) (num : Byte) : ((State.endSubs s tr num)).pending = s.pending := by
  unfold State.endSubs
  repeat' (first | with_reducible rfl | split | simp)
@[simp] theorem State.endSubs_now (s : State) (tr : Transport) (num : Byte) : ((State.endSubs s tr num)).now = s.now := by
  unfold State.endSubs
  repeat' (first | with_reducible rfl | split | simp)
@[simp] theorem State.endSubs_out (s : State) (tr : Transport) (num : Byte) : ((State.endSubs s tr num)).out = s.out := by
  unfold State.endSubs
  repeat' (first | with_reducible rfl | split | simp)
@[simp] theorem State.endSubs_draws (s : State) (tr : Transport) (num : Byte) : ((State.endSubs s tr num)).draws = s.draws := by
  unfold State.endSubs
  repeat' (first | with_reducible rfl | split | simp)
@[simp] theorem State.endSubs_fac (s : State) (tr : Transport) (num : Byte) : ((State.endSubs s tr num)).fac = s.fac := by
  unfold State.endSubs
  repeat' (first | with_reducible rfl | split | simp)
@[simp] theorem State.endSubs_cfg (s : State) (tr : Transport) (num : Byte) : ((State.endSubs s tr num)).cfg = s.cfg := by
  unfold State.endSubs
  repeat' (first | with_reducible rfl | split | simp)
@[simp] theorem State.endSubs_evt (s : State) (tr : Transport) (num : Byte) : ((State.endSubs s tr num)).evt = s.evt := by
  unfold State.endSubs
  repeat' (first | with_reducible rfl | split | simp)
@[simp] theorem State.endSubs_baspo (s : State) (tr : Transport) (num : Byte) : ((State.endSubs s tr num)).baspo = s.baspo := by
  unfold State.endSubs
  repeat' (first | with_reducible rfl | split | simp)
@[simp] theorem State.endSubs_net (s : State) (tr : Transport) (num : Byte) : ((State.endSubs s tr num)).net = s.net := by
  unfold State.endSubs
  repeat' (first | with_reducible rfl | split | simp)
@[simp] theorem State.endSubs_scan (s : State) (tr : Transport) (num : Byte) : ((State.endSubs s tr num)).scan = s.scan := by
  unfold State.endSubs
  repeat' (first | with_reducible rfl | split | simp)
@[simp] theorem State.endSubs_emit (s : State) (tr : Transport) (num : Byte) : ((State.endSubs s tr num)).emit = s.emit := by
  unfold State.endSubs
  repeat' (first | with_reducible rfl | split | simp)
@[simp] theorem State.endSubs_rx (s : State) (tr : Transport) (num : Byte) : ((State.endSubs s tr num)).rx = s.rx := by
  unfold State.endSubs
  repeat' (first | with_reducible rfl | split | simp)
@[simp] theorem State.endSubs_tin (s : State) (tr : Transport) (num : Byte) : ((State.endSubs s tr num)).tin = s.tin := by
  unfold State.endSubs
  repeat' (first | with_reducible rfl | split | simp)
@[simp] theorem State.endSubs_bus (s : State) (tr : Transport) (num : Byte) : ((State.endSubs s tr num)).bus = s.bus := by
  unfold State.endSubs
  repeat' (first | with_reducible rfl | split | simp)
@[simp] theorem State.endSubs_front (s : State) (tr : Transport) (num : Byte) : ((State.endSubs s tr num)).front = s.front := by
  unfold State.endSubs
  repeat' (first | with_reducible rfl | split | simp)
@[simp] theorem State.endSubs_hka (s : State) (tr : Transport) (num : Byte) : ((State.endSubs s tr num)).hka = s.hka := by
  unfold State.endSubs
  repeat' (first | with_reducible rfl | split | simp)
@[simp] theorem State.endSubs_coil (s : State) (tr : Transport) (num : Byte) : ((State.endSubs s tr num)).coil = s.coil := by
  unfold State.endSubs
  repeat' (first | with_reducible rfl | split | simp)
@[simp] theorem State.endSubs_laneA (s : State) (tr : Transport) (num : Byte) : ((State.endSubs s tr num)).laneA = s.laneA := by
  unfold State.endSubs
  repeat' (first | with_reducible rfl | split | simp)
@[simp] theorem State.endSubs_laneB (s : State) (tr : Transport) (num : Byte) : ((State.endSubs s tr num)).laneB = s.laneB := by
  unfold State.endSubs
  repeat' (first | with_reducible rfl | split | simp)
@[simp] theorem State.endSubs_arb (s : State) (tr : Transport) (num : Byte) : ((State.endSubs s tr num)).arb = s.arb := by
  unfold State.endSubs
  repeat' (first | with_reducible rfl | split | simp)
@[simp] theorem State.endSubs_echo (s : State) (tr : Transport) (num : Byte) : ((State.endSubs s tr num)).echo = s.echo := by
  unfold State.endSubs
  repeat' (first | with_reducible rfl | split | simp)
@[simp] theorem State.endSubs_cap (s : State) (tr : Transport) (num : Byte) : ((State.endSubs s tr num)).cap = s.cap := by
  unfold State.endSubs
  repeat' (first | with_reducible rfl | split | simp)
@[simp] theorem State.endSubs_pwr (s : State) (tr : Transport) (num : Byte) : ((State.endSubs s tr num)).pwr = s.pwr := by
  unfold State.endSubs
  repeat' (first | with_reducible rfl | split | simp)
@[simp] theorem State.endSubs_therm (s : State) (tr : Transport) (num : Byte) : ((State.endSubs s tr num)).therm = s.therm := by
  unfold State.endSubs
  repeat' (first | with_reducible rfl | split | simp)
@[simp] theorem State.endSubs_cal (s : State) (tr : Transport) (num : Byte) : ((State.endSubs s tr num)).cal = s.cal := by
  unfold State.endSubs
  repeat' (first | with_reducible rfl | split | simp)
@[simp] theorem State.endSubs_flash (s : State) (tr : Transport) (num : Byte) : ((State.endSubs s tr num)).flash = s.flash := by
  unfold State.endSubs
  repeat' (first | with_reducible rfl | split | simp)
@[simp] theorem State.endSubs_sec (s : State) (tr : Transport) (num : Byte) : ((State.endSubs s tr num)).sec = s.sec := by
  unfold State.endSubs
  repeat' (first | with_reducible rfl | split | simp)

/-! `State.closeSession` -/

@[simp] theorem State.closeSession_pending (s : State) (tr : Transport) (num : Byte) (reason : Nat) : ((State.closeSession s tr num reason)).pending = s.pending := by
  unfold State.closeSession
  repeat' (first | with_reducible rfl | split | simp)
@[simp] theorem State.closeSession_now (s : State) (tr : Transport) (num : Byte) (reason : Nat) : ((State.closeSession s tr num reason)).now = s.now := by
  unfold State.closeSession
  repeat' (first | with_reducible rfl | split | simp)
@[simp] theorem State.closeSession_out (s : State) (tr : Transport) (num : Byte) (reason : Nat) : ((State.closeSession s tr num reason)).out = s.out := by
  unfold State.closeSession
  repeat' (first | with_reducible rfl | split | simp)
@[simp] theorem State.closeSession_draws (s : State) (tr : Transport) (num : Byte) (reason : Nat) : ((State.closeSession s tr num reason)).draws = s.draws := by
  unfold State.closeSession
  repeat' (first | with_reducible rfl | split | simp)
@[simp] theorem State.closeSession_fac (s : State) (tr : Transport) (num : Byte) (reason : Nat) : ((State.closeSession s tr num reason)).fac = s.fac := by
  unfold State.closeSession
  repeat' (first | with_reducible rfl | split | simp)
@[simp] theorem State.closeSession_cfg (s : State) (tr : Transport) (num : Byte) (reason : Nat) : ((State.closeSession s tr num reason)).cfg = s.cfg := by
  unfold State.closeSession
  repeat' (first | with_reducible rfl | split | simp)
@[simp] theorem State.closeSession_net (s : State) (tr : Transport) (num : Byte) (reason : Nat) : ((State.closeSession s tr num reason)).net = s.net := by
  unfold State.closeSession
  repeat' (first | with_reducible rfl | split | simp)
@[simp] theorem State.closeSession_scan (s : State) (tr : Transport) (num : Byte) (reason : Nat) : ((State.closeSession s tr num reason)).scan = s.scan := by
  unfold State.closeSession
  repeat' (first | with_reducible rfl | split | simp)
@[simp] theorem State.closeSession_emit (s : State) (tr : Transport) (num : Byte) (reason : Nat) : ((State.closeSession s tr num reason)).emit = s.emit := by
  unfold State.closeSession
  repeat' (first | with_reducible rfl | split | simp)
@[simp] theorem State.closeSession_rx (s : State) (tr : Transport) (num : Byte) (reason : Nat) : ((State.closeSession s tr num reason)).rx = s.rx := by
  unfold State.closeSession
  repeat' (first | with_reducible rfl | split | simp)
@[simp] theorem State.closeSession_tin (s : State) (tr : Transport) (num : Byte) (reason : Nat) : ((State.closeSession s tr num reason)).tin = s.tin := by
  unfold State.closeSession
  repeat' (first | with_reducible rfl | split | simp)
@[simp] theorem State.closeSession_bus (s : State) (tr : Transport) (num : Byte) (reason : Nat) : ((State.closeSession s tr num reason)).bus = s.bus := by
  unfold State.closeSession
  repeat' (first | with_reducible rfl | split | simp)
@[simp] theorem State.closeSession_front (s : State) (tr : Transport) (num : Byte) (reason : Nat) : ((State.closeSession s tr num reason)).front = s.front := by
  unfold State.closeSession
  repeat' (first | with_reducible rfl | split | simp)
@[simp] theorem State.closeSession_hka (s : State) (tr : Transport) (num : Byte) (reason : Nat) : ((State.closeSession s tr num reason)).hka = s.hka := by
  unfold State.closeSession
  repeat' (first | with_reducible rfl | split | simp)
@[simp] theorem State.closeSession_coil (s : State) (tr : Transport) (num : Byte) (reason : Nat) : ((State.closeSession s tr num reason)).coil = s.coil := by
  unfold State.closeSession
  repeat' (first | with_reducible rfl | split | simp)
@[simp] theorem State.closeSession_laneA (s : State) (tr : Transport) (num : Byte) (reason : Nat) : ((State.closeSession s tr num reason)).laneA = s.laneA := by
  unfold State.closeSession
  repeat' (first | with_reducible rfl | split | simp)
@[simp] theorem State.closeSession_laneB (s : State) (tr : Transport) (num : Byte) (reason : Nat) : ((State.closeSession s tr num reason)).laneB = s.laneB := by
  unfold State.closeSession
  repeat' (first | with_reducible rfl | split | simp)
@[simp] theorem State.closeSession_arb (s : State) (tr : Transport) (num : Byte) (reason : Nat) : ((State.closeSession s tr num reason)).arb = s.arb := by
  unfold State.closeSession
  repeat' (first | with_reducible rfl | split | simp)
@[simp] theorem State.closeSession_echo (s : State) (tr : Transport) (num : Byte) (reason : Nat) : ((State.closeSession s tr num reason)).echo = s.echo := by
  unfold State.closeSession
  repeat' (first | with_reducible rfl | split | simp)
@[simp] theorem State.closeSession_pwr (s : State) (tr : Transport) (num : Byte) (reason : Nat) : ((State.closeSession s tr num reason)).pwr = s.pwr := by
  unfold State.closeSession
  repeat' (first | with_reducible rfl | split | simp)
@[simp] theorem State.closeSession_therm (s : State) (tr : Transport) (num : Byte) (reason : Nat) : ((State.closeSession s tr num reason)).therm = s.therm := by
  unfold State.closeSession
  repeat' (first | with_reducible rfl | split | simp)
@[simp] theorem State.closeSession_cal (s : State) (tr : Transport) (num : Byte) (reason : Nat) : ((State.closeSession s tr num reason)).cal = s.cal := by
  unfold State.closeSession
  repeat' (first | with_reducible rfl | split | simp)
@[simp] theorem State.closeSession_sec (s : State) (tr : Transport) (num : Byte) (reason : Nat) : ((State.closeSession s tr num reason)).sec = s.sec := by
  unfold State.closeSession
  repeat' (first | with_reducible rfl | split | simp)

/-! `State.freshLimit` -/

@[simp] theorem State.freshLimit_pending (s : State) (tr : Transport) (num : Byte) : ((State.freshLimit s tr num)).pending = s.pending := by
  unfold State.freshLimit
  repeat' (first | with_reducible rfl | split | simp)
@[simp] theorem State.freshLimit_now (s : State) (tr : Transport) (num : Byte) : ((State.freshLimit s tr num)).now = s.now := by
  unfold State.freshLimit
  repeat' (first | with_reducible rfl | split | simp)
@[simp] theorem State.freshLimit_out (s : State) (tr : Transport) (num : Byte) : ((State.freshLimit s tr num)).out = s.out := by
  unfold State.freshLimit
  repeat' (first | with_reducible rfl | split | simp)
@[simp] theorem State.freshLimit_draws (s : State) (tr : Transport) (num : Byte) : ((State.freshLimit s tr num)).draws = s.draws := by
  unfold State.freshLimit
  repeat' (first | with_reducible rfl | split | simp)
@[simp] theorem State.freshLimit_fac (s : State) (tr : Transport) (num : Byte) : ((State.freshLimit s tr num)).fac = s.fac := by
  unfold State.freshLimit
  repeat' (first | with_reducible rfl | split | simp)
@[simp] theorem State.freshLimit_cfg (s : State) (tr : Transport) (num : Byte) : ((State.freshLimit s tr num)).cfg = s.cfg := by
  unfold State.freshLimit
  repeat' (first | with_reducible rfl | split | simp)
@[simp] theorem State.freshLimit_net (s : State) (tr : Transport) (num : Byte) : ((State.freshLimit s tr num)).net = s.net := by
  unfold State.freshLimit
  repeat' (first | with_reducible rfl | split | simp)
@[simp] theorem State.freshLimit_scan (s : State) (tr : Transport) (num : Byte) : ((State.freshLimit s tr num)).scan = s.scan := by
  unfold State.freshLimit
  repeat' (first | with_reducible rfl | split | simp)
@[simp] theorem State.freshLimit_emit (s : State) (tr : Transport) (num : Byte) : ((State.freshLimit s tr num)).emit = s.emit := by
  unfold State.freshLimit
  repeat' (first | with_reducible rfl | split | simp)
@[simp] theorem State.freshLimit_rx (s : State) (tr : Transport) (num : Byte) : ((State.freshLimit s tr num)).rx = s.rx := by
  unfold State.freshLimit
  repeat' (first | with_reducible rfl | split | simp)
@[simp] theorem State.freshLimit_tin (s : State) (tr : Transport) (num : Byte) : ((State.freshLimit s tr num)).tin = s.tin := by
  unfold State.freshLimit
  repeat' (first | with_reducible rfl | split | simp)
@[simp] theorem State.freshLimit_bus (s : State) (tr : Transport) (num : Byte) : ((State.freshLimit s tr num)).bus = s.bus := by
  unfold State.freshLimit
  repeat' (first | with_reducible rfl | split | simp)
@[simp] theorem State.freshLimit_front (s : State) (tr : Transport) (num : Byte) : ((State.freshLimit s tr num)).front = s.front := by
  unfold State.freshLimit
  repeat' (first | with_reducible rfl | split | simp)
@[simp] theorem State.freshLimit_hka (s : State) (tr : Transport) (num : Byte) : ((State.freshLimit s tr num)).hka = s.hka := by
  unfold State.freshLimit
  repeat' (first | with_reducible rfl | split | simp)
@[simp] theorem State.freshLimit_coil (s : State) (tr : Transport) (num : Byte) : ((State.freshLimit s tr num)).coil = s.coil := by
  unfold State.freshLimit
  repeat' (first | with_reducible rfl | split | simp)
@[simp] theorem State.freshLimit_laneA (s : State) (tr : Transport) (num : Byte) : ((State.freshLimit s tr num)).laneA = s.laneA := by
  unfold State.freshLimit
  repeat' (first | with_reducible rfl | split | simp)
@[simp] theorem State.freshLimit_laneB (s : State) (tr : Transport) (num : Byte) : ((State.freshLimit s tr num)).laneB = s.laneB := by
  unfold State.freshLimit
  repeat' (first | with_reducible rfl | split | simp)
@[simp] theorem State.freshLimit_arb (s : State) (tr : Transport) (num : Byte) : ((State.freshLimit s tr num)).arb = s.arb := by
  unfold State.freshLimit
  repeat' (first | with_reducible rfl | split | simp)
@[simp] theorem State.freshLimit_echo (s : State) (tr : Transport) (num : Byte) : ((State.freshLimit s tr num)).echo = s.echo := by
  unfold State.freshLimit
  repeat' (first | with_reducible rfl | split | simp)
@[simp] theorem State.freshLimit_pwr (s : State) (tr : Transport) (num : Byte) : ((State.freshLimit s tr num)).pwr = s.pwr := by
  unfold State.freshLimit
  repeat' (first | with_reducible rfl | split | simp)
@[simp] theorem State.freshLimit_therm (s : State) (tr : Transport) (num : Byte) : ((State.freshLimit s tr num)).therm = s.therm := by
  unfold State.freshLimit
  repeat' (first | with_reducible rfl | split | simp)
@[simp] theorem State.freshLimit_cal (s : State) (tr : Transport) (num : Byte) : ((State.freshLimit s tr num)).cal = s.cal := by
  unfold State.freshLimit
  repeat' (first | with_reducible rfl | split | simp)
@[simp] theorem State.freshLimit_sec (s : State) (tr : Transport) (num : Byte) : ((State.freshLimit s tr num)).sec = s.sec := by
  unfold State.freshLimit
  repeat' (first | with_reducible rfl | split | simp)

/-! `State.answer` -/

@[simp] theorem State.answer_pending (s : State) (h : Hdr) (svc flags : Nat) (payload : Bytes) : ((State.answer s h svc flags payload)).pending = s.pending := by
  unfold State.answer
  repeat' (first | with_reducible rfl | split | simp)
@[simp] theorem State.answer_now (s : State) (h : Hdr) (svc flags : Nat) (payload : Bytes) : ((State.answer s h svc flags payload)).now = s.now := by
  unfold State.answer
  repeat' (first | with_reducible rfl | split | simp)
@[simp] theorem State.answer_fac (s : State) (h : Hdr) (svc flags : Nat) (payload : Bytes) : ((State.answer s h svc flags payload)).fac = s.fac := by
  unfold State.answer
  repeat' (first | with_reducible rfl | split | simp)
@[simp] theorem State.answer_cfg (s : State) (h : Hdr) (svc flags : Nat) (payload : Bytes) : ((State.answer s h svc flags payload)).cfg = s.cfg := by
  unfold State.answer
  repeat' (first | with_reducible rfl | split | simp)
@[simp] theorem State.answer_net (s : State) (h : Hdr) (svc flags : Nat) (payload : Bytes) : ((State.answer s h svc flags payload)).net = s.net := by
  unfold State.answer
  repeat' (first | with_reducible rfl | split | simp)
@[simp] theorem State.answer_scan (s : State) (h : Hdr) (svc flags : Nat) (payload : Bytes) : ((State.answer s h svc flags payload)).scan = s.scan := by
  unfold State.answer
  repeat' (first | with_reducible rfl | split | simp)
@[simp] theorem State.answer_emit (s : State) (h : Hdr) (svc flags : Nat) (payload : Bytes) : ((State.answer s h svc flags payload)).emit = s.emit := by
  unfold State.answer
  repeat' (first | with_reducible rfl | split | simp)
@[simp] theorem State.answer_rx (s : State) (h : Hdr) (svc flags : Nat) (payload : Bytes) : ((State.answer s h svc flags payload)).rx = s.rx := by
  unfold State.answer
  repeat' (first | with_reducible rfl | split | simp)
@[simp] theorem State.answer_tin (s : State) (h : Hdr) (svc flags : Nat) (payload : Bytes) : ((State.answer s h svc flags payload)).tin = s.tin := by
  unfold State.answer
  repeat' (first | with_reducible rfl | split | simp)
@[simp] theorem State.answer_bus (s : State) (h : Hdr) (svc flags : Nat) (payload : Bytes) : ((State.answer s h svc flags payload)).bus = s.bus := by
  unfold State.answer
  repeat' (first | with_reducible rfl | split | simp)
@[simp] theorem State.answer_front (s : State) (h : Hdr) (svc flags : Nat) (payload : Bytes) : ((State.answer s h svc flags payload)).front = s.front := by
  unfold State.answer
  repeat' (first | with_reducible rfl | split | simp)
@[simp] theorem State.answer_hka (s : State) (h : Hdr) (svc flags : Nat) (payload : Bytes) : ((State.answer s h svc flags payload)).hka = s.hka := by
  unfold State.answer
  repeat' (first | with_reducible rfl | split | simp)
@[simp] theorem State.answer_coil (s : State) (h : Hdr) (svc flags : Nat) (payload : Bytes) : ((State.answer s h svc flags payload)).coil = s.coil := by
  unfold State.answer
  repeat' (first | with_reducible rfl | split | simp)
@[simp] theorem State.answer_laneA (s : State) (h : Hdr) (svc flags : Nat) (payload : Bytes) : ((State.answer s h svc flags payload)).laneA = s.laneA := by
  unfold State.answer
  repeat' (first | with_reducible rfl | split | simp)
@[simp] theorem State.answer_laneB (s : State) (h : Hdr) (svc flags : Nat) (payload : Bytes) : ((State.answer s h svc flags payload)).laneB = s.laneB := by
  unfold State.answer
  repeat' (first | with_reducible rfl | split | simp)
@[simp] theorem State.answer_arb (s : State) (h : Hdr) (svc flags : Nat) (payload : Bytes) : ((State.answer s h svc flags payload)).arb = s.arb := by
  unfold State.answer
  repeat' (first | with_reducible rfl | split | simp)
@[simp] theorem State.answer_echo (s : State) (h : Hdr) (svc flags : Nat) (payload : Bytes) : ((State.answer s h svc flags payload)).echo = s.echo := by
  unfold State.answer
  repeat' (first | with_reducible rfl | split | simp)
@[simp] theorem State.answer_pwr (s : State) (h : Hdr) (svc flags : Nat) (payload : Bytes) : ((State.answer s h svc flags payload)).pwr = s.pwr := by
  unfold State.answer
  repeat' (first | with_reducible rfl | split | simp)
@[simp] theorem State.answer_therm (s : State) (h : Hdr) (svc flags : Nat) (payload : Bytes) : ((State.answer s h svc flags payload)).therm = s.therm := by
  unfold State.answer
  repeat' (first | with_reducible rfl | split | simp)
@[simp] theorem State.answer_cal (s : State) (h : Hdr) (svc flags : Nat) (payload : Bytes) : ((State.answer s h svc flags payload)).cal = s.cal := by
  unfold State.answer
  repeat' (first | with_reducible rfl | split | simp)
@[simp] theorem State.answer_sec (s : State) (h : Hdr) (svc flags : Nat) (payload : Bytes) : ((State.answer s h svc flags payload)).sec = s.sec := by
  unfold State.answer
  repeat' (first | with_reducible rfl | split | simp)

end Sys2Proof.Machine
end

