-- ==== Sys2Proof/Laws/Events.lean ====
section
/-! SUPPORT. What raising an event and counting do to EVENT_RING and to the counters (R8, R77), and how that carries through later steps. -/

namespace Sys2Proof.Machine

open Sys2Proof

/-! ### The stores that counters are kept in -/

theorem find_put_same {α : Type} (l : List (Nat × α)) (k : Nat) (v : α) : find? (put l k v) k = some v := by
  induction l with
  | nil => simp [put, find?]
  | cons a l ih =>
    obtain ⟨j, x⟩ := a
    unfold put
    split
    · simp [find?]
    · split
      · simp [find?]
      · rename_i h1 h2
        simp only [find?, ih]
        have : j ≠ k := fun e => h2 e.symm
        simp [this, h1]

theorem find_put_other {α : Type} (l : List (Nat × α)) (k j : Nat) (v : α) (h : j ≠ k) : find? (put l k v) j = find? l j := by
  induction l with
  | nil =>
    simp only [put, find?]
    have : k ≠ j := fun e => h e.symm
    simp [this]
  | cons a l ih =>
    obtain ⟨i, x⟩ := a
    unfold put
    have hk : k ≠ j := fun e => h e.symm
    split
    · rename_i h1
      simp only [find?]
      simp only [hk, if_false]
      split <;> split <;> first | rfl | (split <;> first | rfl | omega) | omega
    · split
      · rename_i h1 h2
        subst h2
        simp only [find?]
        simp [hk]
      · simp only [find?, ih]

/-! ### Counters -/

@[simp] theorem State.raiseRaw_counters (s : State) (code sev : Nat) (ticket p1 p2 p3 : U32) :
    (s.raiseRaw code sev ticket p1 p2 p3).evt.counters = s.evt.counters := by
  unfold State.raiseRaw
  split <;> rfl

@[simp] theorem State.saturate_counters (s : State) (id : Nat) : (s.saturate id).evt.counters = s.evt.counters := by
  unfold State.saturate
  split
  · simp
  · rfl

/-- What a counter reads after a count of its own. -/
theorem State.count_counter (s : State) (id n : Nat) : (s.count id n).counter id = if n = 0 then s.counter id else
    min 0xFFFFFFFF (s.counter id + n) := by
  unfold State.count
  split
  · rfl
  · simp [State.counter, State.countRaw, natAt, bumpAt, find_put_same]

/-- Other counters stand still. -/
theorem State.count_counter_other (s : State) (id n j : Nat) (h : j ≠ id) : (s.count id n).counter j = s.counter j := by
  unfold State.count
  split
  · rfl
  · simp [State.counter, State.countRaw, natAt, bumpAt, find_put_other _ _ _ _ h]

/-- Raising an event moves no counter but NOTIFY_DROPPED. -/
theorem State.raise_counter (s : State) (code sev : Nat) (p1 p2 p3 tk : U32) (j : Nat) (h : j ≠ Id.NOTIFY_DROPPED) :
    (s.raise code sev p1 p2 p3 tk).counter j = s.counter j := by
  unfold State.raise
  simp only [State.count_counter_other _ _ _ _ h]
  simp [State.counter]

/-! ### The ring -/

/-- As Told, among the n newest entries. -/
def ToldIn (n : Nat) (s u : State) (code sev : Nat) (p1 p2 p3 ticket : U32) : Prop :=
  ∃ (later : List Event) (e : Event) (earlier : List Event),
    u.evt.ring = (later ++ e :: earlier ++ s.evt.ring).take 256 ∧ later.length ≤ n ∧
    e.code = BitVec.ofNat 16 code ∧ e.severity = BitVec.ofNat 8 sev ∧ e.p1 = p1 ∧ e.p2 = p2 ∧ e.p3 = p3 ∧ e.ticket = ticket

theorem ToldIn.told {n : Nat} {s u : State} {code sev : Nat} {p1 p2 p3 tk : U32} (h : ToldIn n s u code sev p1 p2 p3 tk)
    (hn : n < 256) : Told s u code sev p1 p2 p3 tk := by
  obtain ⟨l, e, r, h1, h2, h3⟩ := h
  exact ⟨l, e, r, h1, by omega, h3⟩

/-- u holds the entries of s behind at most n new ones. -/
def Grown (n : Nat) (s u : State) : Prop := ∃ l : List Event, l.length ≤ n ∧ u.evt.ring = (l ++ s.evt.ring).take 256

theorem take_append_take {α : Type} (l r : List α) (n : Nat) : (l ++ r.take n).take n = (l ++ r).take n := by
  simp only [List.take_append, List.take_take]
  congr 2
  omega

theorem Grown.trans {m n : Nat} {s u v : State} (h1 : Grown m s u) (h2 : Grown n u v) : Grown (m + n) s v := by
  obtain ⟨l1, a1, b1⟩ := h1
  obtain ⟨l2, a2, b2⟩ := h2
  refine ⟨l2 ++ l1, by simp; omega, ?_⟩
  rw [b2, b1, take_append_take, List.append_assoc]

theorem Grown.same {s u : State} (h : u.evt.ring = s.evt.ring) (hs : s.evt.ring.length ≤ 256) : Grown 0 s u :=
  ⟨[], by simp, by simp [h, List.take_of_length_le hs]⟩

theorem ToldIn.grown {m n : Nat} {s u v : State} {code sev : Nat} {p1 p2 p3 tk : U32} (h1 : ToldIn m s u code sev p1 p2 p3 tk)
    (h2 : Grown n u v) : ToldIn (m + n) s v code sev p1 p2 p3 tk := by
  obtain ⟨l, e, r, a, b, c⟩ := h1
  obtain ⟨l2, a2, b2⟩ := h2
  refine ⟨l2 ++ l, e, r, ?_, by simp; omega, c⟩
  rw [b2, a, take_append_take]
  simp

theorem ToldIn.same {m : Nat} {s u v : State} {code sev : Nat} {p1 p2 p3 tk : U32} (h1 : ToldIn m s u code sev p1 p2 p3 tk)
    (h2 : v.evt.ring = u.evt.ring) : ToldIn m s v code sev p1 p2 p3 tk := by
  obtain ⟨l, e, r, a, b⟩ := h1
  exact ⟨l, e, r, h2.trans a, b⟩

theorem ToldIn.before {m : Nat} {s s' u : State} {code sev : Nat} {p1 p2 p3 tk : U32} (h1 : ToldIn m s' u code sev p1 p2 p3 tk)
    {n : Nat} (h2 : Grown n s s') : ToldIn m s u code sev p1 p2 p3 tk := by
  obtain ⟨l, e, r, a, b⟩ := h1
  obtain ⟨l2, _, b2⟩ := h2
  refine ⟨l, e, r ++ l2, ?_, b⟩
  rw [a, b2, take_append_take]
  simp

theorem State.raiseRaw_ring (s : State) (code sev : Nat) (tk p1 p2 p3 : U32) :
    ∃ e : Event, (s.raiseRaw code sev tk p1 p2 p3).evt.ring = (e :: s.evt.ring).take 256 ∧ e.code = BitVec.ofNat 16 code ∧
      e.severity = BitVec.ofNat 8 sev ∧ e.p1 = p1 ∧ e.p2 = p2 ∧ e.p3 = p3 ∧ e.ticket = tk := by
  unfold State.raiseRaw
  split <;> exact ⟨_, rfl, rfl, rfl, rfl, rfl, rfl, rfl⟩

theorem State.saturate_grown (s : State) (id : Nat) (hs : s.evt.ring.length ≤ 256) : Grown 1 s (s.saturate id) := by
  unfold State.saturate
  split
  · simp only
    obtain ⟨e, he, _⟩ := State.raiseRaw_ring { s with evt := { s.evt with sats := id :: s.evt.sats } }
      (match lookup id with | some o => o.sat.2.2 | none => 0) 1 0 (u32 (id / 256)) (u32 (id % 256)) 0
    exact ⟨[e], by simp, he⟩
  · obtain ⟨l, a, b⟩ := Grown.same (s := s) (u := s) rfl hs
    exact ⟨l, by omega, b⟩

theorem State.count_grown (s : State) (id n : Nat) (hs : s.evt.ring.length ≤ 256) : Grown 1 s (s.count id n) := by
  unfold State.count
  split
  · obtain ⟨l, a, b⟩ := Grown.same (s := s) (u := s) rfl hs
    exact ⟨l, by omega, b⟩
  · exact State.saturate_grown (s.countRaw id n _) id hs

theorem State.raise_told (s : State) (code sev : Nat) (p1 p2 p3 tk : U32) :
    ToldIn 1 s (s.raise code sev p1 p2 p3 tk) code sev p1 p2 p3 tk := by
  unfold State.raise
  simp only
  obtain ⟨e, he, hf⟩ := State.raiseRaw_ring s code sev tk p1 p2 p3
  have hlen : (s.raiseRaw code sev tk p1 p2 p3).evt.ring.length ≤ 256 := by rw [he]; first | (simp; done) | (simp; omega)
  exact (ToldIn.grown ⟨[], e, [], by simpa using he, Nat.le_refl 0, hf⟩ (State.count_grown _ _ _ hlen))

theorem State.raise_grown (s : State) (code sev : Nat) (p1 p2 p3 tk : U32) : Grown 2 s (s.raise code sev p1 p2 p3 tk) := by
  obtain ⟨l, e, r, a, b, _⟩ := State.raise_told s code sev p1 p2 p3 tk
  unfold State.raise at a ⊢
  simp only at a ⊢
  obtain ⟨e', he, hf⟩ := State.raiseRaw_ring s code sev tk p1 p2 p3
  have hlen : (s.raiseRaw code sev tk p1 p2 p3).evt.ring.length ≤ 256 := by rw [he]; first | (simp; done) | (simp; omega)
  exact Grown.trans (m := 1) ⟨[e'], by simp, he⟩ (State.count_grown _ _ _ hlen)

end Sys2Proof.Machine
end

