-- ==== Sys2Proof/Laws/Echo.lean ====
section
/-! SUPPORT. The echo store (R166): every operation keeps its canonical form, a byte written reads back, and no other byte changes. -/

namespace Sys2Proof.Machine

open Sys2Proof

theorem echoWf_cons (a : Nat) (b : Byte) (m : List Host.Cell) :
    echoWf ((a, b) :: m) = true ↔ a < echoSize ∧ b ≠ 0 ∧ echoWf m = true ∧ ∀ p ∈ m, a < p.1 := by
  induction m generalizing a b with
  | nil => simp [echoWf]
  | cons c m ih =>
    obtain ⟨a', b'⟩ := c
    have h := ih a' b'
    rw [echoWf]
    constructor
    · intro h1
      simp only [Bool.and_eq_true, decide_eq_true_eq, bne_iff_ne] at h1
      obtain ⟨⟨⟨h2, h3⟩, h4⟩, h5⟩ := h1
      refine ⟨h3, h4, h5, ?_⟩
      intro p hp
      rcases List.mem_cons.mp hp with rfl | hp
      · exact h2
      · exact Nat.lt_trans h2 ((h.mp h5).2.2.2 p hp)
    · rintro ⟨h3, h4, h5, h6⟩
      simp only [Bool.and_eq_true, decide_eq_true_eq, bne_iff_ne]
      exact ⟨⟨⟨h6 _ (List.mem_cons_self ..), h3⟩, h4⟩, h5⟩

theorem mem_put {α : Type} (m : List (Nat × α)) (a : Nat) (b : α) (p : Nat × α) (h : p ∈ put m a b) : p = (a, b) ∨ p ∈ m := by
  induction m with
  | nil => simp [put] at h; exact Or.inl h
  | cons c m ih =>
    obtain ⟨k, x⟩ := c
    unfold put at h
    split at h
    · rcases List.mem_cons.mp h with h | h
      · exact Or.inl h
      · exact Or.inr h
    · split at h
      · rcases List.mem_cons.mp h with h | h
        · exact Or.inl h
        · exact Or.inr (List.mem_cons_of_mem _ h)
      · rcases List.mem_cons.mp h with h | h
        · exact Or.inr (h ▸ List.mem_cons_self ..)
        · rcases ih h with h | h
          · exact Or.inl h
          · exact Or.inr (List.mem_cons_of_mem _ h)

theorem mem_del {α : Type} (m : List (Nat × α)) (a : Nat) (p : Nat × α) (h : p ∈ del m a) : p ∈ m := by
  induction m with
  | nil => simp [del] at h
  | cons c m ih =>
    obtain ⟨k, x⟩ := c
    unfold del at h
    split at h
    · exact List.mem_cons_of_mem _ h
    · rcases List.mem_cons.mp h with h | h
      · exact h ▸ List.mem_cons_self ..
      · exact List.mem_cons_of_mem _ (ih h)

theorem echoWf_put (m : List Host.Cell) (a : Nat) (b : Byte) (hm : echoWf m = true) (ha : a < echoSize) (hb : b ≠ 0) :
    echoWf (put m a b) = true := by
  induction m with
  | nil => simpa [put, echoWf, ha] using hb
  | cons c m ih =>
    obtain ⟨k, x⟩ := c
    have h := (echoWf_cons k x m).mp hm
    unfold put
    split
    · rename_i h1
      refine (echoWf_cons ..).mpr ⟨ha, hb, hm, ?_⟩
      intro p hp
      rcases List.mem_cons.mp hp with rfl | hp
      · exact h1
      · exact Nat.lt_trans h1 (h.2.2.2 p hp)
    · split
      · rename_i h1 h2
        subst h2
        exact (echoWf_cons ..).mpr ⟨ha, hb, h.2.2.1, h.2.2.2⟩
      · rename_i h1 h2
        refine (echoWf_cons ..).mpr ⟨h.1, h.2.1, ih h.2.2.1, ?_⟩
        intro p hp
        rcases mem_put _ _ _ _ hp with rfl | hp
        · exact Nat.lt_of_le_of_ne (Nat.le_of_not_lt h1) (fun e => h2 e.symm)
        · exact h.2.2.2 p hp

theorem echoWf_del (m : List Host.Cell) (a : Nat) (hm : echoWf m = true) : echoWf (del m a) = true := by
  induction m with
  | nil => rfl
  | cons c m ih =>
    obtain ⟨k, x⟩ := c
    have h := (echoWf_cons k x m).mp hm
    unfold del
    split
    · exact h.2.2.1
    · exact (echoWf_cons ..).mpr ⟨h.1, h.2.1, ih h.2.2.1, fun p hp => h.2.2.2 p (mem_del _ _ _ hp)⟩

/-- A byte written keeps the canonical form. -/
theorem echoWf_write (m : List Host.Cell) (a : Nat) (b : Byte) (hm : echoWf m = true) : echoWf (echoWrite m a b) = true := by
  unfold echoWrite
  split
  · exact hm
  · split
    · exact echoWf_del m a hm
    · rename_i h1 h2
      exact echoWf_put m a b hm (Nat.lt_of_not_le h1) h2

/-- Write bytes one after another. -/
def echoWriteEach : List Host.Cell → Nat → Bytes → List Host.Cell
  | m, _, [] => m
  | m, a, b :: bs => echoWriteEach (echoWrite m a b) (a + 1) bs

theorem echoWrite_cons (k : Nat) (x : Byte) (m : List Host.Cell) (a : Nat) (b : Byte) (h : k < a) :
    echoWrite ((k, x) :: m) a b = (k, x) :: echoWrite m a b := by
  unfold echoWrite
  split
  · rfl
  · split
    · rw [del, if_neg (by omega)]
    · rw [put, if_neg (by omega), if_neg (by omega)]

theorem echoWriteEach_cons (k : Nat) (x : Byte) (m : List Host.Cell) (a : Nat) (bs : Bytes) (h : k < a) :
    echoWriteEach ((k, x) :: m) a bs = (k, x) :: echoWriteEach m a bs := by
  induction bs generalizing m a with
  | nil => rfl
  | cons b bs ih => rw [echoWriteEach, echoWriteEach, echoWrite_cons k x m a b h, ih _ _ (by omega)]

theorem echoWriteEach_beyond (m : List Host.Cell) (a : Nat) (bs : Bytes) (h : echoSize ≤ a) : echoWriteEach m a bs = m := by
  induction bs generalizing m a with
  | nil => rfl
  | cons b bs ih => rw [echoWriteEach, echoWrite, if_pos h, ih _ _ (by omega)]

theorem mem_echoPast (a : Nat) (m : List Host.Cell) (p : Host.Cell) (h : p ∈ echoPast a m) : p ∈ m := by
  cases m with
  | nil => exact h
  | cons c m =>
    obtain ⟨k, x⟩ := c
    rw [echoPast] at h
    split at h
    · exact List.mem_cons_of_mem _ h
    · exact h

theorem echoWf_past (a : Nat) (m : List Host.Cell) (hm : echoWf m = true) : echoWf (echoPast a m) = true := by
  cases m with
  | nil => rfl
  | cons c m =>
    obtain ⟨k, x⟩ := c
    rw [echoPast]
    split
    · exact ((echoWf_cons k x m).mp hm).2.2.1
    · exact hm

/-- Past an address, every cell lies beyond it. -/
theorem echoPast_beyond (a : Nat) (m : List Host.Cell) (hm : echoWf m = true) (h : ∀ p ∈ m, a ≤ p.1) :
    ∀ p ∈ echoPast a m, a + 1 ≤ p.1 := by
  cases m with
  | nil => intro p hp; cases hp
  | cons c m =>
    obtain ⟨k, x⟩ := c
    have hs := ((echoWf_cons k x m).mp hm).2.2.2
    have hk : a ≤ k := h (k, x) (List.mem_cons_self ..)
    intro p hp
    rw [echoPast] at hp
    split at hp
    · rename_i e
      have := hs p hp
      omega
    · rename_i e
      rcases List.mem_cons.mp hp with rfl | hp
      · show a + 1 ≤ k
        omega
      · have := hs p hp
        omega

/-- A byte written where every cell lies there or beyond. -/
theorem echoWrite_front (m : List Host.Cell) (a : Nat) (b : Byte) (hm : echoWf m = true) (h : ∀ p ∈ m, a ≤ p.1) (ha : a < echoSize) :
    echoWrite m a b = if b = 0 then echoPast a m else (a, b) :: echoPast a m := by
  unfold echoWrite
  rw [if_neg (by omega)]
  cases m with
  | nil => rfl
  | cons c m =>
    obtain ⟨k, x⟩ := c
    have hk : a ≤ k := h (k, x) (List.mem_cons_self ..)
    have hs := ((echoWf_cons k x m).mp hm).2.2.2
    split
    · by_cases e : k = a
      · simp [del, echoPast, e]
      · have hd : ∀ l : List Host.Cell, (∀ p ∈ l, k < p.1) → del l a = l := by
          intro l
          induction l with
          | nil => intro _; rfl
          | cons d l ih =>
            obtain ⟨k2, x2⟩ := d
            intro hl
            have h2 := hl (k2, x2) (List.mem_cons_self ..)
            simp only at h2
            rw [del, if_neg (by omega), ih fun p hp => hl p (List.mem_cons_of_mem _ hp)]
        rw [del, if_neg e, echoPast, if_neg e, hd m hs]
    · by_cases e : k = a
      · rw [put, if_neg (by omega), if_pos e.symm, echoPast, if_pos e]
      · rw [put, if_pos (by omega), echoPast, if_neg e]

theorem echoBlock_each (m : List Host.Cell) (a : Nat) (bs : Bytes) (hm : echoWf m = true) (h : ∀ p ∈ m, a ≤ p.1) :
    echoBlock m a bs = echoWriteEach m a bs := by
  induction bs generalizing m a with
  | nil => rfl
  | cons b bs ih =>
    unfold echoBlock
    split
    · rename_i h1
      exact (echoWriteEach_beyond m a (b :: bs) h1).symm
    · rename_i h1
      have hi := ih (echoPast a m) (a + 1) (echoWf_past a m hm) (echoPast_beyond a m hm h)
      rw [echoWriteEach, echoWrite_front m a b hm h (by omega)]
      split
      · exact hi
      · rw [echoWriteEach_cons a b _ _ _ (by omega), hi]

/-- The one pass writes what single writes, one after another, write. -/
theorem echoWriteAll_each (m : List Host.Cell) (a : Nat) (bs : Bytes) (hm : echoWf m = true) :
    echoWriteAll m a bs = echoWriteEach m a bs := by
  induction m with
  | nil => exact echoBlock_each [] a bs hm fun p hp => by cases hp
  | cons c m ih =>
    obtain ⟨k, x⟩ := c
    have h := (echoWf_cons k x m).mp hm
    unfold echoWriteAll
    split
    · rename_i h1
      rw [echoWriteEach_cons k x m a bs h1, ih h.2.2.1]
    · rename_i h1
      refine echoBlock_each _ a bs hm fun p hp => ?_
      rcases List.mem_cons.mp hp with rfl | hp
      · exact Nat.le_of_not_lt h1
      · have := h.2.2.2 p hp
        omega

theorem echoWf_writeEach (m : List Host.Cell) (a : Nat) (bs : Bytes) (hm : echoWf m = true) : echoWf (echoWriteEach m a bs) = true := by
  induction bs generalizing m a with
  | nil => exact hm
  | cons b bs ih => exact ih _ _ (echoWf_write m a b hm)

/-- Bytes written keep the canonical form. -/
theorem echoWf_writeAll (m : List Host.Cell) (a : Nat) (bs : Bytes) (hm : echoWf m = true) : echoWf (echoWriteAll m a bs) = true := by
  rw [echoWriteAll_each m a bs hm]
  exact echoWf_writeEach m a bs hm

theorem find_del_other {α : Type} (m : List (Nat × α)) (a j : Nat) (h : j ≠ a) (hs : ∀ k x r l, m = l ++ (k, x) :: r → ∀ p ∈ r, k < p.1) :
    find? (del m a) j = find? m j := by
  induction m with
  | nil => rfl
  | cons c m ih =>
    obtain ⟨k, x⟩ := c
    unfold del
    have hs' : ∀ k x r l, m = l ++ (k, x) :: r → ∀ p ∈ r, k < p.1 := fun k' x' r l e =>
      hs k' x' r ((k, x) :: l) (by rw [e]; rfl)
    split
    · rename_i h1
      subst h1
      have hk : k ≠ j := fun e => h e.symm
      simp only [find?, hk, if_false]
      split
      · rename_i h2
        cases m with
        | nil => rfl
        | cons d m =>
          obtain ⟨k2, x2⟩ := d
          have h3 := hs k x ((k2, x2) :: m) [] rfl (k2, x2) (List.mem_cons_self ..)
          simp only at h3
          simp only [find?]
          rw [if_neg (by omega), if_pos (by omega)]
      · rfl
    · simp only [find?, ih hs']

theorem echoWf_sorted (m : List Host.Cell) (hm : echoWf m = true) : ∀ k x r l, m = l ++ (k, x) :: r → ∀ p ∈ r, k < p.1 := by
  induction m with
  | nil => intro k x r l e; simp at e
  | cons c m ih =>
    obtain ⟨k0, x0⟩ := c
    have h := (echoWf_cons k0 x0 m).mp hm
    intro k x r l e
    cases l with
    | nil =>
      simp only [List.nil_append, List.cons.injEq] at e
      obtain ⟨e1, e2⟩ := e
      cases e1
      rw [← e2]
      exact h.2.2.2
    | cons d l =>
      simp only [List.cons_append, List.cons.injEq] at e
      exact ih h.2.2.1 k x r l e.2

theorem find_del_same (m : List Host.Cell) (a : Nat) (hm : echoWf m = true) : find? (del m a) a = none := by
  induction m with
  | nil => rfl
  | cons c m ih =>
    obtain ⟨k, x⟩ := c
    have h := (echoWf_cons k x m).mp hm
    unfold del
    split
    · rename_i h1
      subst h1
      cases m with
      | nil => rfl
      | cons d m =>
        obtain ⟨k2, x2⟩ := d
        have h3 := h.2.2.2 (k2, x2) (List.mem_cons_self ..)
        simp only at h3
        simp only [find?]
        rw [if_neg (by omega), if_pos h3]
    · rename_i h1
      simp only [find?, h1, if_false, ih h.2.2.1]
      split <;> rfl

/-- A byte within the store reads back as written. -/
theorem echoRead_write_same (m : List Host.Cell) (a : Nat) (b : Byte) (hm : echoWf m = true) (ha : a < echoSize) :
    echoRead (echoWrite m a b) a = b := by
  unfold echoRead echoWrite
  rw [if_neg (by omega)]
  split
  · rename_i h
    rw [find_del_same m a hm, h]
    rfl
  · rw [find_put_same]
    rfl

/-- No other byte changes. -/
theorem echoRead_write_other (m : List Host.Cell) (a j : Nat) (b : Byte) (hm : echoWf m = true) (h : j ≠ a) :
    echoRead (echoWrite m a b) j = echoRead m j := by
  unfold echoRead echoWrite
  split
  · rfl
  · split
    · rw [find_del_other m a j h (echoWf_sorted m hm)]
    · rw [find_put_other m a j b h]

theorem echoRead_writeEach_other (m : List Host.Cell) (a j : Nat) (bs : Bytes) (hm : echoWf m = true) (h : j < a ∨ a + bs.length ≤ j) :
    echoRead (echoWriteEach m a bs) j = echoRead m j := by
  induction bs generalizing m a with
  | nil => rfl
  | cons b bs ih =>
    simp only [List.length_cons] at h
    unfold echoWriteEach
    rw [ih _ _ (echoWf_write m a b hm) (by omega), echoRead_write_other m a j b hm (by omega)]

/-- Bytes outside a stretch that is written do not change. -/
theorem echoRead_writeAll_other (m : List Host.Cell) (a j : Nat) (bs : Bytes) (hm : echoWf m = true) (h : j < a ∨ a + bs.length ≤ j) :
    echoRead (echoWriteAll m a bs) j = echoRead m j := by
  rw [echoWriteAll_each m a bs hm, echoRead_writeEach_other m a j bs hm h]

theorem echoBytes_writeEach (m : List Host.Cell) (a : Nat) (bs : Bytes) (hm : echoWf m = true) (h : a + bs.length ≤ echoSize) :
    echoBytes (echoWriteEach m a bs) a bs.length = bs := by
  induction bs generalizing m a with
  | nil => rfl
  | cons b bs ih =>
    simp only [List.length_cons] at h
    simp only [List.length_cons, echoBytes, echoWriteEach]
    rw [ih _ _ (echoWf_write m a b hm) (by omega)]
    rw [echoRead_writeEach_other _ _ _ _ (echoWf_write m a b hm) (by omega)]
    rw [echoRead_write_same m a b hm (by omega)]

/-- Bytes written within the store read back. -/
theorem echoBytes_writeAll (m : List Host.Cell) (a : Nat) (bs : Bytes) (hm : echoWf m = true) (h : a + bs.length ≤ echoSize) :
    echoBytes (echoWriteAll m a bs) a bs.length = bs := by
  rw [echoWriteAll_each m a bs hm, echoBytes_writeEach m a bs hm h]

end Sys2Proof.Machine
end

