-- ==== Sys2Proof/Laws/Held.lean ====
section
/-! SUPPORT. One lemma per function of the model that changes neither the queue, the factory values, the echo store nor the security
state: it keeps State.held. A command keeps it from the state in which its clock has moved. -/

namespace Sys2Proof.Machine
open Sys2Proof

set_option maxRecDepth 4000
/-- What most commands leave alone: the queue, the clock, the factory values, the echo store and the security state with its keys. -/
def State.held (s : State) : (List Instr × Time × Factory) × List Host.Cell × (Nat × Bool × List (Option Bytes)) :=
  ((s.pending, s.now, s.fac), s.echo, (s.sec.state, s.sec.sealIntent, s.sec.keys))
theorem held_fold (s : State) : ((s.pending, s.now, s.fac), s.echo, (s.sec.state, s.sec.sealIntent, s.sec.keys)) = s.held := rfl
theorem held_ite (c : Prop) [Decidable c] (a b : State) : State.held (if c then a else b) = if c then State.held a else State.held b := by split <;> rfl
theorem held_mk (a b c d e f g h i j k l m n o p q r s t u v w x y z aa ab) :
  State.held ⟨a,b,c,d,e,f,g,h,i,j,k,l,m,n,o,p,q,r,s,t,u,v,w,x,y,z,aa,ab⟩ = ((a, b, e), u, (ab.state, ab.sealIntent, ab.keys)) := rfl
theorem foldl_held {α : Type} (f : State → α → State) (h : ∀ y x, (f y x).held = y.held) (l : List α) (s : State) : (l.foldl f s).held = s.held := by
  induction l generalizing s with
  | nil => rfl
  | cons a l ih => rw [List.foldl_cons, ih, h]
theorem foldl_held1 {α β : Type} (f : State × β → α → State × β) (h : ∀ y x, (f y x).1.held = y.1.held) (l : List α) (s : State × β) : (l.foldl f s).1.held = s.1.held := by
  induction l generalizing s with
  | nil => rfl
  | cons a l ih => rw [List.foldl_cons, ih, h]
theorem held_ite1 {α : Type} (c : Prop) [Decidable c] (a b : State × α) : State.held (if c then a else b).1 = if c then State.held a.1 else State.held b.1 := by split <;> rfl
theorem held_if1 {α : Type} {x : (List Instr × Time × Factory) × List Host.Cell × (Nat × Bool × List (Option Bytes))} {c : Prop} [Decidable c] {a b : State × α} (h1 : State.held a.1 = x) (h2 : State.held b.1 = x) : State.held (if c then a else b).1 = x := by split <;> assumption
theorem held_if {x : (List Instr × Time × Factory) × List Host.Cell × (Nat × Bool × List (Option Bytes))} {c : Prop} [Decidable c] {a b : State} (h1 : State.held a = x) (h2 : State.held b = x) : State.held (if c then a else b) = x := by split <;> assumption
theorem held_ringPush (s : State) (e : Event)  : State.held ((State.ringPush s e)) = State.held s := by
  unfold State.ringPush
  repeat' (first | with_reducible rfl | simp only [held_mk, held_fold] | split | rw [foldl_held] | rw [foldl_held1] | intro _ | rfl)
theorem held_offer (s : State) (g : Trigger)  : State.held ((State.offer s g)) = State.held s := by
  unfold State.offer
  repeat' (first | with_reducible rfl | simp only [held_mk, held_fold] | split | rw [foldl_held] | rw [foldl_held1] | intro _ | rfl)
theorem held_countRaw (s : State) (id n cycle : Nat)  : State.held ((State.countRaw s id n cycle)) = State.held s := by
  unfold State.countRaw
  repeat' (first | with_reducible rfl | simp only [held_mk, held_fold] | split | rw [foldl_held] | rw [foldl_held1] | intro _ | rfl)
theorem held_raiseRaw (s : State) (code sev : Nat) (ticket p1 p2 p3 : U32)  : State.held ((State.raiseRaw s code sev ticket p1 p2 p3)) = State.held s := by
  unfold State.raiseRaw
  repeat' (first | with_reducible rfl | simp only [↓held_offer, ↓held_ringPush, held_mk, held_fold, ↓ite_self, ↓held_ite] | split | rw [foldl_held] | rw [foldl_held1] | intro _ | rfl)
theorem held_saturate (s : State) (id : Nat)  : State.held ((State.saturate s id)) = State.held s := by
  unfold State.saturate
  repeat' (first | with_reducible rfl | simp only [↓held_raiseRaw, held_mk, held_fold, ↓ite_self, ↓held_ite] | split | rw [foldl_held] | rw [foldl_held1] | intro _ | rfl)
theorem held_count (s : State) (id : Nat) (n : Nat)  : State.held ((State.count s id n)) = State.held s := by
  unfold State.count
  repeat' (first | with_reducible rfl | simp only [↓held_countRaw, ↓held_saturate, ↓ite_self, ↓held_ite] | split | rw [foldl_held] | rw [foldl_held1] | intro _ | rfl)
theorem held_raise (s : State) (code sev : Nat) (p1 : U32) (p2 : U32) (p3 : U32) (ticket : U32)  : State.held ((State.raise s code sev p1 p2 p3 ticket)) = State.held s := by
  unfold State.raise
  repeat' (first | with_reducible rfl | simp only [↓held_count, ↓held_raiseRaw] | split | rw [foldl_held] | rw [foldl_held1] | intro _ | rfl)
theorem held_clearCounter (s : State) (id : Nat)  : State.held ((State.clearCounter s id)) = State.held s := by
  unfold State.clearCounter
  repeat' (first | with_reducible rfl | simp only [held_mk, held_fold] | split | rw [foldl_held] | rw [foldl_held1] | intro _ | rfl)
theorem held_issueTicket (s : State)  : State.held ((State.issueTicket s).1) = State.held s := by
  unfold State.issueTicket
  repeat' (first | with_reducible rfl | simp only [held_mk, held_fold] | split | rw [foldl_held] | rw [foldl_held1] | intro _ | rfl)
theorem held_enqueue (s : State) (k : Ticket)  : State.held ((State.enqueue s k)) = State.held s := by
  unfold State.enqueue
  repeat' (first | with_reducible rfl | simp only [held_mk, held_fold] | split | rw [foldl_held] | rw [foldl_held1] | intro _ | rfl)
theorem held_dequeue (s : State) (num : U32)  : State.held ((State.dequeue s num)) = State.held s := by
  unfold State.dequeue
  repeat' (first | with_reducible rfl | simp only [held_mk, held_fold] | split | rw [foldl_held] | rw [foldl_held1] | intro _ | rfl)
theorem held_setDom (s : State) (d : Nat) (v : DomState)  : State.held ((State.setDom s d v)) = State.held s := by
  unfold State.setDom
  repeat' (first | with_reducible rfl | simp only [held_mk, held_fold] | split | rw [foldl_held] | rw [foldl_held1] | intro _ | rfl)
theorem held_tripSet (s : State) (b : Nat)  : State.held ((State.tripSet s b)) = State.held s := by
  unfold State.tripSet
  repeat' (first | with_reducible rfl | simp only [↓held_count, ↓held_raise, held_mk, held_fold, ↓ite_self, ↓held_ite] | split | rw [foldl_held] | rw [foldl_held1] | intro _ | rfl)
theorem held_tripClear (s : State) (b : Nat)  : State.held ((State.tripClear s b)) = State.held s := by
  unfold State.tripClear
  repeat' (first | with_reducible rfl | simp only [held_mk, held_fold] | split | rw [foldl_held] | rw [foldl_held1] | intro _ | rfl)
theorem held_trip (s : State) (b : Nat) (level : Bool)  : State.held ((State.trip s b level)) = State.held s := by
  unfold State.trip
  repeat' (first | with_reducible rfl | simp only [↓held_tripClear, ↓held_tripSet, ↓ite_self, ↓held_ite] | split | rw [foldl_held] | rw [foldl_held1] | intro _ | rfl)
theorem held_send (s : State) (m : OutMsg)  : State.held ((State.send s m)) = State.held s := by
  unfold State.send
  repeat' (first | with_reducible rfl | simp only [held_mk, held_fold] | split | rw [foldl_held] | rw [foldl_held1] | intro _ | rfl)
theorem held_draw (s : State)  : State.held ((State.draw s).1) = State.held s := by
  unfold State.draw
  repeat' (first | with_reducible rfl | simp only [held_mk, held_fold] | split | rw [foldl_held] | rw [foldl_held1] | intro _ | rfl)
theorem held_setLane (s : State) (l : LaneId) (x : Lane)  : State.held ((State.setLane s l x)) = State.held s := by
  unfold State.setLane
  repeat' (first | with_reducible rfl | simp only [held_mk, held_fold] | split | rw [foldl_held] | rw [foldl_held1] | intro _ | rfl)
theorem held_bankDischarge (s : State)  : State.held ((State.bankDischarge s)) = State.held s := by
  unfold State.bankDischarge
  repeat' (first | with_reducible rfl | simp only [held_mk, held_fold] | split | rw [foldl_held] | rw [foldl_held1] | intro _ | rfl)
theorem held_emitAdvance (s : State)  : State.held ((State.emitAdvance s)) = State.held s := by
  unfold State.emitAdvance
  repeat' (first | with_reducible rfl | simp only [held_mk, held_fold, ↓ite_self, ↓held_ite] | split | rw [foldl_held] | rw [foldl_held1] | intro _ | rfl)
theorem held_bankInhibit (s : State) (cause : Nat)  : State.held ((State.bankInhibit s cause)) = State.held s := by
  unfold State.bankInhibit
  repeat' (first | with_reducible rfl | simp only [↓held_raise, held_mk, held_fold] | split | rw [foldl_held] | rw [foldl_held1] | intro _ | rfl)
theorem held_bankResume (s : State)  : State.held ((State.bankResume s)) = State.held s := by
  unfold State.bankResume
  repeat' (first | with_reducible rfl | simp only [held_mk, held_fold, ↓ite_self, ↓held_ite] | split | rw [foldl_held] | rw [foldl_held1] | intro _ | rfl)
theorem held_bankRetarget (s : State)  : State.held ((State.bankRetarget s)) = State.held s := by
  unfold State.bankRetarget
  repeat' (first | with_reducible rfl | simp only [held_mk, held_fold, ↓ite_self, ↓held_ite] | split | rw [foldl_held] | rw [foldl_held1] | intro _ | rfl)
theorem held_charge (s : State) (d : Decision) (t : Time) (buckets : Bool)  : State.held ((State.charge s d t buckets)) = State.held s := by
  unfold State.charge
  repeat' (first | with_reducible rfl | simp only [held_mk, held_fold] | split | rw [foldl_held] | rw [foldl_held1] | intro _ | rfl)
theorem held_monitor (s : State) (d : Decision) (x : SlotIn)  : State.held ((State.monitor s d x)) = State.held s := by
  unfold State.monitor
  repeat' (first | with_reducible rfl | simp only [↓held_tripClear, ↓held_tripSet, held_mk, held_fold, ↓ite_self, ↓held_ite] | split | rw [foldl_held] | rw [foldl_held1] | intro _ | rfl)
theorem held_countHeld (s : State) (d : Decision)  : State.held ((State.countHeld s d)) = State.held s := by
  unfold State.countHeld
  repeat' (first | with_reducible rfl | simp only [↓held_count, ↓held_raise, held_mk, held_fold, ↓ite_self, ↓held_ite] | split | rw [foldl_held] | rw [foldl_held1] | intro _ | rfl)
theorem held_columnSlot (s : State) (cal : Option Nat) (x : SlotIn)  : State.held ((State.columnSlot s cal x)) = State.held s := by
  unfold State.columnSlot
  repeat' (first | with_reducible rfl | simp only [↓held_charge, ↓held_countHeld, ↓held_monitor, held_mk, held_fold, ↓ite_self, ↓held_ite] | split | rw [foldl_held] | rw [foldl_held1] | intro _ | rfl)
theorem held_windowShot (s : State) (entry : Nat) (w : Nat) (x : SlotIn)  : State.held ((State.windowShot s entry w x)) = State.held s := by
  unfold State.windowShot
  repeat' (first | with_reducible rfl | simp only [↓held_charge, ↓held_countHeld, ↓held_monitor, held_mk, held_fold, ↓ite_self, ↓held_ite] | split | rw [foldl_held] | rw [foldl_held1] | intro _ | rfl)
theorem held_doSlotDecision (t : Time) (cal : Option U32) (x : SlotIn) (s0 : State)  : State.held ((doSlotDecision t cal x s0)) = State.held (State.at s0 t) := by
  unfold doSlotDecision
  repeat' (first | with_reducible rfl | simp only [↓held_columnSlot, ↓held_windowShot, ↓ite_self, ↓held_ite] | split | rw [foldl_held] | rw [foldl_held1] | intro _ | rfl)
theorem held_doEmitTrip (t : Time) (b : Fin 11) (level : Bool) (s0 : State)  : State.held ((doEmitTrip t b level s0)) = State.held (State.at s0 t) := by
  unfold doEmitTrip
  repeat' (first | with_reducible rfl | simp only [↓held_emitAdvance, ↓held_trip, held_mk, held_fold, ↓ite_self, ↓held_ite] | split | rw [foldl_held] | rw [foldl_held1] | intro _ | rfl)
theorem held_emitStopAction (s : State)  : State.held ((emitStopAction s)) = State.held s := by
  unfold emitStopAction
  repeat' (first | with_reducible rfl | simp only [↓held_tripClear, ↓held_tripSet] | split | rw [foldl_held] | rw [foldl_held1] | intro _ | rfl)
theorem held_emitClearAction (m : Nat) (s : State)  : State.held ((emitClearAction m s)) = State.held s := by
  unfold emitClearAction
  repeat' (first | with_reducible rfl | simp only [↓held_emitAdvance, held_mk, held_fold] | split | rw [foldl_held] | rw [foldl_held1] | intro _ | rfl)
theorem held_doBankReady (t : Time) (s0 : State)  : State.held ((doBankReady t s0)) = State.held (State.at s0 t) := by
  unfold doBankReady
  repeat' (first | with_reducible rfl | simp only [held_mk, held_fold, ↓ite_self, ↓held_ite] | split | rw [foldl_held] | rw [foldl_held1] | intro _ | rfl)
theorem held_bankFault (s : State)  : State.held ((State.bankFault s)) = State.held s := by
  unfold State.bankFault
  repeat' (first | with_reducible rfl | simp only [↓held_tripClear, ↓held_tripSet, held_mk, held_fold] | split | rw [foldl_held] | rw [foldl_held1] | intro _ | rfl)
theorem held_doBankFaultTimeout (t : Time) (s0 : State)  : State.held ((doBankFaultTimeout t s0)) = State.held (State.at s0 t) := by
  unfold doBankFaultTimeout
  repeat' (first | with_reducible rfl | simp only [↓held_bankFault, ↓ite_self, ↓held_ite] | split | rw [foldl_held] | rw [foldl_held1] | intro _ | rfl)
theorem held_doBankOvervoltage (t : Time) (s0 : State)  : State.held ((doBankOvervoltage t s0)) = State.held (State.at s0 t) := by
  unfold doBankOvervoltage
  repeat' (first | with_reducible rfl | simp only [↓held_bankFault] | split | rw [foldl_held] | rw [foldl_held1] | intro _ | rfl)
theorem held_keepReading (s : State) (r : BarReading)  : State.held ((State.keepReading s r)) = State.held s := by
  unfold State.keepReading
  repeat' (first | with_reducible rfl | simp only [held_mk, held_fold] | split | rw [foldl_held] | rw [foldl_held1] | intro _ | rfl)
theorem held_judgeBar (s : State) (r : BarReading)  : State.held ((State.judgeBar s r)) = State.held s := by
  unfold State.judgeBar
  repeat' (first | with_reducible rfl | simp only [↓held_keepReading, ↓held_raise, held_mk, held_fold, ↓ite_self, ↓held_ite] | split | rw [foldl_held] | rw [foldl_held1] | intro _ | rfl)
theorem held_retest (s : State) (k : Ticket) (readings : List BarReading)  : State.held ((State.retest s k readings)) = State.held s := by
  unfold State.retest
  repeat' (first | with_reducible rfl | simp only [↓held_dequeue, ↓held_keepReading, held_mk, held_fold] | split | rw [foldl_held] | rw [foldl_held1] | intro _ | rfl)
theorem held_doBarTest (t : Time) (readings : List BarReading) (s0 : State)  : State.held ((doBarTest t readings s0)) = State.held (State.at s0 t) := by
  unfold doBarTest
  repeat' (first | with_reducible rfl | simp only [↓held_judgeBar, ↓held_retest, ↓held_ite] | split | rw [foldl_held] | rw [foldl_held1] | intro _ | rfl)
theorem held_doBarFullTest (t : Time) (readings : List BarReading) (s0 : State)  : State.held ((doBarFullTest t readings s0)) = State.held (State.at s0 t) := by
  unfold doBarFullTest
  repeat' (first | with_reducible rfl | simp only [↓held_emitAdvance, ↓held_judgeBar, ↓held_tripClear, ↓held_tripSet, held_mk, held_fold, ↓ite_self, ↓held_ite] | split | rw [foldl_held] | rw [foldl_held1] | intro _ | rfl)
theorem held_derateBoundary (s : State)  : State.held ((State.derateBoundary s)) = State.held s := by
  unfold State.derateBoundary
  repeat' (first | with_reducible rfl | simp only [↓held_raise, held_mk, held_fold, ↓ite_self, ↓held_ite] | split | rw [foldl_held] | rw [foldl_held1] | intro _ | rfl)
theorem held_heldEvent (s : State)  : State.held ((State.heldEvent s)) = State.held s := by
  unfold State.heldEvent
  repeat' (first | with_reducible rfl | simp only [↓held_raise, held_mk, held_fold, ↓ite_self, ↓held_ite] | split | rw [foldl_held] | rw [foldl_held1] | intro _ | rfl)
theorem held_returnBoundary (s : State)  : State.held ((State.returnBoundary s)) = State.held s := by
  unfold State.returnBoundary
  repeat' (first | with_reducible rfl | simp only [↓held_raise, held_mk, held_fold, ↓ite_self, ↓held_ite] | split | rw [foldl_held] | rw [foldl_held1] | intro _ | rfl)
theorem held_emitBoundary (s : State)  : State.held ((State.emitBoundary s)) = State.held s := by
  unfold State.emitBoundary
  repeat' (first | with_reducible rfl | simp only [↓held_derateBoundary, ↓held_emitAdvance, ↓held_heldEvent, ↓held_returnBoundary, held_mk, held_fold] | split | rw [foldl_held] | rw [foldl_held1] | intro _ | rfl)
theorem held_rangeBoundary (s : State) (period k : Nat)  : State.held ((State.rangeBoundary s period k).1) = State.held s := by
  unfold State.rangeBoundary
  repeat' (first | with_reducible rfl | simp only [↓held_raise, held_mk, held_fold, ↓ite_self, ↓held_ite1] | split | rw [foldl_held] | rw [foldl_held1] | intro _ | rfl)
theorem held_applyRange (s : State) (code : Nat)  : State.held ((State.applyRange s code)) = State.held s := by
  unfold State.applyRange
  repeat' (first | with_reducible rfl | simp only [↓held_count, ↓held_raise, held_mk, held_fold, ↓ite_self, ↓held_ite] | split | rw [foldl_held] | rw [foldl_held1] | intro _ | rfl)
theorem held_parkCoil (s : State)  : State.held ((State.parkCoil s)) = State.held s := by
  unfold State.parkCoil
  repeat' (first | with_reducible rfl | simp only [held_mk, held_fold, ↓ite_self, ↓held_ite] | split | rw [foldl_held] | rw [foldl_held1] | intro _ | rfl)
theorem held_senseBreak (s : State) (bits : Nat)  : State.held ((State.senseBreak s bits)) = State.held s := by
  unfold State.senseBreak
  repeat' (first | with_reducible rfl | simp only [↓held_raise, ↓held_tripSet, held_mk, held_fold, ↓ite_self, ↓held_ite] | split | rw [foldl_held] | rw [foldl_held1] | intro _ | rfl)
theorem held_doWireBreakCheck (t : Time) (pairA pairB : Nat) (s0 : State)  : State.held ((doWireBreakCheck t pairA pairB s0)) = State.held (State.at s0 t) := by
  unfold doWireBreakCheck
  repeat' (first | with_reducible rfl | simp only [↓held_senseBreak, held_mk, held_fold, ↓ite_self, ↓held_ite] | split | rw [foldl_held] | rw [foldl_held1] | intro _ | rfl)
theorem held_doLedOpen (t : Time) (s0 : State)  : State.held ((doLedOpen t s0)) = State.held (State.at s0 t) := by
  unfold doLedOpen
  repeat' (first | with_reducible rfl | simp only [↓held_senseBreak, ↓ite_self, ↓held_ite] | split | rw [foldl_held] | rw [foldl_held1] | intro _ | rfl)
theorem held_feClearAction (s : State)  : State.held ((feClearAction s)) = State.held s := by
  unfold feClearAction
  repeat' (first | with_reducible rfl | simp only [↓held_trip, ↓held_tripClear, held_mk, held_fold] | split | rw [foldl_held] | rw [foldl_held1] | intro _ | rfl)
theorem held_openSection (s : State) (x : Section)  : State.held ((State.openSection s x)) = State.held s := by
  unfold State.openSection
  repeat' (first | with_reducible rfl | simp only [held_mk, held_fold] | split | rw [foldl_held] | rw [foldl_held1] | intro _ | rfl)
theorem held_convert (s : State) (sec : Section) (i : Nat) (x : SampleIn)  : State.held ((State.convert s sec i x).1) = State.held s := by
  unfold State.convert
  repeat' (first | with_reducible rfl | simp only [held_mk, held_fold] | split | rw [foldl_held] | rw [foldl_held1] | intro _ | rfl)
theorem held_formSample (s : State) (sec : Section) (i : Nat) (vals : List Int) (above : Bool)  : State.held ((State.formSample s sec i vals above).1) = State.held s := by
  unfold State.formSample
  repeat' (first | with_reducible rfl | simp only [held_mk, held_fold] | split | rw [foldl_held] | rw [foldl_held1] | intro _ | rfl)
theorem held_afterSample (s : State) (old : Front) (r : Sample)  : State.held ((State.afterSample s old r)) = State.held s := by
  unfold State.afterSample
  repeat' (first | with_reducible rfl | simp only [↓held_count, ↓held_raise, ↓held_senseBreak, ↓held_trip, held_mk, held_fold, ↓ite_self, ↓held_ite] | split | rw [foldl_held] | rw [foldl_held1] | intro _ | rfl)
theorem held_modBand (s : State) (b : Nat) (f : Band → Band)  : State.held ((State.modBand s b f)) = State.held s := by
  unfold State.modBand
  repeat' (first | with_reducible rfl | simp only [held_mk, held_fold] | split | rw [foldl_held] | rw [foldl_held1] | intro _ | rfl)
theorem held_coincFlip (s : State)  : State.held ((State.coincFlip s)) = State.held s := by
  unfold State.coincFlip
  repeat' (first | with_reducible rfl | simp only [held_mk, held_fold] | split | rw [foldl_held] | rw [foldl_held1] | intro _ | rfl)
theorem held_refreshBand (s : State) (b : Nat)  : State.held ((State.refreshBand s b)) = State.held s := by
  unfold State.refreshBand
  repeat' (first | with_reducible rfl | simp only [↓held_modBand, ↓held_raise, ↓ite_self, ↓held_ite] | split | rw [foldl_held] | rw [foldl_held1] | intro _ | rfl)
theorem held_refreshBands (s : State)  : State.held ((State.refreshBands s)) = State.held s := by
  unfold State.refreshBands
  repeat' (first | with_reducible rfl | simp only [↓held_refreshBand] | split | rw [foldl_held] | rw [foldl_held1] | intro _ | rfl)
theorem held_maskRow (s : State) (row cause : Nat)  : State.held ((State.maskRow s row cause)) = State.held s := by
  unfold State.maskRow
  repeat' (first | with_reducible rfl | simp only [↓held_count, ↓held_raise, ↓held_refreshBand, held_mk, held_fold, ↓ite_self, ↓held_ite] | split | rw [foldl_held] | rw [foldl_held1] | intro _ | rfl)
theorem held_markFailed (s : State) (d cause : Nat)  : State.held ((State.markFailed s d cause)) = State.held s := by
  unfold State.markFailed
  repeat' (first | with_reducible rfl | simp only [↓held_raise, held_mk, held_fold] | split | rw [foldl_held] | rw [foldl_held1] | intro _ | rfl)
theorem held_bandFail (s : State) (b cause : Nat) (ticket : U32)  : State.held ((State.bandFail s b cause ticket)) = State.held s := by
  unfold State.bandFail
  repeat' (first | with_reducible rfl | simp only [↓held_markFailed, ↓held_modBand, ↓held_raise, ↓ite_self, ↓held_ite] | split | rw [foldl_held] | rw [foldl_held1] | intro _ | rfl)
theorem held_bandLost (s : State) (b cause : Nat)  : State.held ((State.bandLost s b cause)) = State.held s := by
  unfold State.bandLost
  repeat' (first | with_reducible rfl | simp only [↓held_modBand, ↓held_raise] | split | rw [foldl_held] | rw [foldl_held1] | intro _ | rfl)
theorem held_litStop (s : State) (row : Nat) (x : SlotRec) (t : Time) (spads : Nat)  : State.held ((State.litStop s row x t spads)) = State.held s := by
  unfold State.litStop
  repeat' (first | with_reducible rfl | simp only [↓held_count, held_mk, held_fold, ↓ite_self, ↓held_ite] | split | rw [foldl_held] | rw [foldl_held1] | intro _ | rfl)
theorem held_doStop (t : Time) (row : Fin 512) (spads : Nat) (s0 : State)  : State.held ((doStop t row spads s0)) = State.held (State.at s0 t) := by
  unfold doStop
  repeat' (first | with_reducible rfl | simp only [↓held_litStop, held_mk, held_fold, ↓ite_self, ↓held_ite] | split | rw [foldl_held] | rw [foldl_held1] | intro _ | rfl)
theorem held_adaptBand (s : State) (x : TickIn) (endTick : Time) (boundary : Bool) (b : Nat)  : State.held ((State.adaptBand s x endTick boundary b)) = State.held s := by
  unfold State.adaptBand
  repeat' (first | with_reducible rfl | simp only [↓held_modBand] | split | rw [foldl_held] | rw [foldl_held1] | intro _ | rfl)
theorem held_parityRow (s : State) (row : Nat)  : State.held ((State.parityRow s row)) = State.held s := by
  unfold State.parityRow
  repeat' (first | with_reducible rfl | simp only [↓held_count, ↓held_maskRow, ↓held_modBand, ↓ite_self, ↓held_ite] | split | rw [foldl_held] | rw [foldl_held1] | intro _ | rfl)
theorem held_bandsEnd (s : State) (x : TickIn) (endTick : Time) (boundary : Bool)  : State.held ((State.bandsEnd s x endTick boundary)) = State.held s := by
  unfold State.bandsEnd
  repeat' (first | with_reducible rfl | simp only [↓held_adaptBand, ↓held_parityRow, held_mk, held_fold] | split | rw [foldl_held] | rw [foldl_held1] | intro _ | rfl)
theorem held_bandsStart (s : State)  : State.held ((State.bandsStart s)) = State.held s := by
  unfold State.bandsStart
  repeat' (first | with_reducible rfl | simp only [held_mk, held_fold] | split | rw [foldl_held] | rw [foldl_held1] | intro _ | rfl)
theorem held_doBiasUpdate (t : Time) (s0 : State)  : State.held ((doBiasUpdate t s0)) = State.held (State.at s0 t) := by
  unfold doBiasUpdate
  repeat' (first | with_reducible rfl | simp only [↓held_modBand, ↓ite_self, ↓held_ite] | split | rw [foldl_held] | rw [foldl_held1] | intro _ | rfl)
theorem held_stepBias (s : State)  : State.held ((State.stepBias s)) = State.held s := by
  unfold State.stepBias
  repeat' (first | with_reducible rfl | simp only [held_mk, held_fold] | split | rw [foldl_held] | rw [foldl_held1] | intro _ | rfl)
theorem held_biasFlip (s : State)  : State.held ((State.biasFlip s)) = State.held s := by
  unfold State.biasFlip
  repeat' (first | with_reducible rfl | simp only [↓held_modBand] | split | rw [foldl_held] | rw [foldl_held1] | intro _ | rfl)
theorem held_doPllUnlock (t : Time) (b : Fin 16) (s0 : State)  : State.held ((doPllUnlock t b s0)) = State.held (State.at s0 t) := by
  unfold doPllUnlock
  repeat' (first | with_reducible rfl | simp only [↓held_bandFail, ↓held_count, ↓held_modBand, ↓held_raise, ↓ite_self, ↓held_ite] | split | rw [foldl_held] | rw [foldl_held1] | intro _ | rfl)
theorem held_doPllRelock (t : Time) (b : Fin 16) (ok : Bool) (s0 : State)  : State.held ((doPllRelock t b ok s0)) = State.held (State.at s0 t) := by
  unfold doPllRelock
  repeat' (first | with_reducible rfl | simp only [↓held_bandFail, ↓held_modBand, ↓ite_self, ↓held_ite] | split | rw [foldl_held] | rw [foldl_held1] | intro _ | rfl)
theorem held_judgeChannel (s : State) (b : Nat) (fails last : List (BitVec 32)) (cleared : BitVec 32) (c : Nat)  : State.held ((State.judgeChannel s b fails last cleared c)) = State.held s := by
  unfold State.judgeChannel
  repeat' (first | with_reducible rfl | simp only [↓held_maskRow, ↓ite_self, ↓held_ite] | split | rw [foldl_held] | rw [foldl_held1] | intro _ | rfl)
theorem held_unmaskRun (s : State) (b : Nat) (failed : BitVec 32)  : State.held ((State.unmaskRun s b failed)) = State.held s := by
  unfold State.unmaskRun
  repeat' (first | with_reducible rfl | simp only [↓held_dequeue, ↓held_raise, held_mk, held_fold] | split | rw [foldl_held] | rw [foldl_held1] | intro _ | rfl)
theorem held_testBand (s : State) (b : Nat) (r : BandResult)  : State.held ((State.testBand s b r)) = State.held s := by
  unfold State.testBand
  repeat' (first | with_reducible rfl | simp only [↓held_bandFail, ↓held_judgeChannel, ↓held_modBand, ↓held_raise, ↓held_refreshBand, ↓held_unmaskRun, held_mk, held_fold, ↓ite_self, ↓held_ite] | split | rw [foldl_held] | rw [foldl_held1] | intro _ | rfl)
theorem held_doBandTest (t : Time) (b : Fin 16) (r : BandResult) (s0 : State)  : State.held ((doBandTest t b r s0)) = State.held (State.at s0 t) := by
  unfold doBandTest
  repeat' (first | with_reducible rfl | simp only [↓held_testBand, ↓ite_self, ↓held_ite] | split | rw [foldl_held] | rw [foldl_held1] | intro _ | rfl)
theorem held_channelUnmaskAction (value : Nat) (k : U32) (s : State)  : State.held ((channelUnmaskAction value k s)) = State.held s := by
  unfold channelUnmaskAction
  repeat' (first | with_reducible rfl | simp only [↓held_dequeue, ↓held_modBand, ↓held_raise, held_mk, held_fold, ↓held_ite] | split | rw [foldl_held] | rw [foldl_held1] | intro _ | rfl)
theorem held_bandRestartAction (b : Nat) (k : U32) (s : State)  : State.held ((bandRestartAction b k s)) = State.held s := by
  unfold bandRestartAction
  repeat' (first | with_reducible rfl | simp only [↓held_modBand, held_mk, held_fold] | split | rw [foldl_held] | rw [foldl_held1] | intro _ | rfl)
theorem held_wakeRestarted (s : State)  : State.held ((State.wakeRestarted s)) = State.held s := by
  unfold State.wakeRestarted
  repeat' (first | with_reducible rfl | simp only [↓held_modBand, ↓held_setDom, ↓ite_self, ↓held_ite] | split | rw [foldl_held] | rw [foldl_held1] | intro _ | rfl)
theorem held_sendStream (s : State) (dests : List U32) (bs : Bytes)  : State.held ((State.sendStream s dests bs)) = State.held s := by
  unfold State.sendStream
  repeat' (first | with_reducible rfl | simp only [↓held_send] | split | rw [foldl_held] | rw [foldl_held1] | intro _ | rfl)
theorem held_loseMark (s : State) (seq : U32)  : State.held ((State.loseMark s seq)) = State.held s := by
  unfold State.loseMark
  repeat' (first | with_reducible rfl | simp only [↓held_count, ↓held_raise, held_mk, held_fold, ↓ite_self, ↓held_ite] | split | rw [foldl_held] | rw [foldl_held1] | intro _ | rfl)
theorem held_trimItems (n : Nat) (s : State)  : State.held ((State.trimItems n s)) = State.held s := by
  induction n generalizing s with
  | zero => rfl
  | succ n ih =>
    unfold State.trimItems
    repeat' (first | with_reducible rfl | simp only [↓held_loseMark, held_mk, held_fold, ih, ↓ite_self, ↓held_ite] | split | rw [foldl_held] | intro _ | rfl)
theorem held_pushItems (s : State) (l : List Bytes)  : State.held ((State.pushItems s l)) = State.held s := by
  unfold State.pushItems
  repeat' (first | with_reducible rfl | simp only [↓held_trimItems, held_mk, held_fold] | split | rw [foldl_held] | rw [foldl_held1] | intro _ | rfl)
theorem held_mark (s : State) (g : Trigger) (outcome : Nat) (frame : U32) (column : Nat) (camera segment : U32)  : State.held ((State.mark s g outcome frame column camera segment).1) = State.held s := by
  unfold State.mark
  repeat' (first | with_reducible rfl | simp only [↓held_pushItems, held_mk, held_fold, ↓ite_self, ↓held_ite1] | split | rw [foldl_held] | rw [foldl_held1] | intro _ | rfl)
theorem held_doMarksSend (t : Time) (s0 : State)  : State.held ((doMarksSend t s0)) = State.held (State.at s0 t) := by
  unfold doMarksSend
  repeat' (first | with_reducible rfl | simp only [↓held_sendStream, held_mk, held_fold, ↓ite_self, ↓held_ite] | split | rw [foldl_held] | rw [foldl_held1] | intro _ | rfl)
theorem held_weirEvent (s : State)  : State.held ((State.weirEvent s)) = State.held s := by
  unfold State.weirEvent
  repeat' (first | with_reducible rfl | simp only [↓held_raise, held_mk, held_fold, ↓ite_self, ↓held_ite] | split | rw [foldl_held] | rw [foldl_held1] | intro _ | rfl)
theorem held_weirDrop (s : State) (frame : U32)  : State.held ((State.weirDrop s frame)) = State.held s := by
  unfold State.weirDrop
  repeat' (first | with_reducible rfl | simp only [↓held_count, ↓held_weirEvent, held_mk, held_fold] | split | rw [foldl_held] | rw [foldl_held1] | intro _ | rfl)
theorem held_pushFrame (s : State) (frame : U32) (ds : List Bytes)  : State.held ((State.pushFrame s frame ds)) = State.held s := by
  unfold State.pushFrame
  repeat' (first | with_reducible rfl | simp only [held_mk, held_fold] | split | rw [foldl_held] | rw [foldl_held1] | intro _ | rfl)
theorem held_weirAdmit (s : State) (x : ColumnRec)  : State.held ((State.weirAdmit s x)) = State.held s := by
  unfold State.weirAdmit
  repeat' (first | with_reducible rfl | simp only [↓held_pushFrame, ↓held_weirDrop, held_mk, held_fold, ↓ite_self, ↓held_ite] | split | rw [foldl_held] | rw [foldl_held1] | intro _ | rfl)
theorem held_columnUnit (s : State) (r : Released)  : State.held ((State.columnUnit s r).1) = State.held s := by
  unfold State.columnUnit
  repeat' (first | with_reducible rfl | simp only [↓held_count, held_mk, held_fold, ↓ite_self, ↓held_ite1] | split | rw [foldl_held] | rw [foldl_held1] | intro _ | rfl)
theorem held_streamColumn (s : State) (r : Released)  : State.held ((State.streamColumn s r)) = State.held s := by
  unfold State.streamColumn
  repeat' (first | with_reducible rfl | simp only [↓held_columnUnit, ↓held_pushFrame, ↓held_weirAdmit, held_mk, held_fold, ↓ite_self, ↓held_ite] | split | rw [foldl_held] | rw [foldl_held1] | intro _ | rfl)
theorem held_streamLost (s : State)  : State.held ((State.streamLost s)) = State.held s := by
  unfold State.streamLost
  repeat' (first | with_reducible rfl | simp only [↓held_weirDrop, held_mk, held_fold] | split | rw [foldl_held] | rw [foldl_held1] | intro _ | rfl)
theorem held_startOffload (s : State)  : State.held ((State.startOffload s)) = State.held s := by
  unfold State.startOffload
  repeat' (first | with_reducible rfl | simp only [held_mk, held_fold, ↓held_ite] | split | rw [foldl_held] | rw [foldl_held1] | intro _ | rfl)
theorem held_modHeld (s : State) (num : U32) (f : Segment → Segment)  : State.held ((State.modHeld s num f)) = State.held s := by
  unfold State.modHeld
  repeat' (first | with_reducible rfl | simp only [held_mk, held_fold] | split | rw [foldl_held] | rw [foldl_held1] | intro _ | rfl)
theorem held_slotFreed (s : State)  : State.held ((State.slotFreed s)) = State.held s := by
  unfold State.slotFreed
  repeat' (first | with_reducible rfl | simp only [held_mk, held_fold, ↓ite_self, ↓held_ite] | split | rw [foldl_held] | rw [foldl_held1] | intro _ | rfl)
theorem held_dropSegment (s : State) (num : U32)  : State.held ((State.dropSegment s num)) = State.held s := by
  unfold State.dropSegment
  repeat' (first | with_reducible rfl | simp only [held_mk, held_fold, ↓ite_self, ↓held_ite] | split | rw [foldl_held] | rw [foldl_held1] | intro _ | rfl)
theorem held_freeSegment (s : State) (num : U32)  : State.held ((State.freeSegment s num)) = State.held s := by
  unfold State.freeSegment
  repeat' (first | with_reducible rfl | simp only [↓held_dropSegment, ↓held_modHeld, ↓held_slotFreed, ↓ite_self, ↓held_ite] | split | rw [foldl_held] | rw [foldl_held1] | intro _ | rfl)
theorem held_offloadDone (s : State) (num : U32)  : State.held ((State.offloadDone s num)) = State.held s := by
  unfold State.offloadDone
  repeat' (first | with_reducible rfl | simp only [↓held_freeSegment, ↓held_modHeld, ↓held_startOffload, held_mk, held_fold, ↓ite_self, ↓held_ite] | split | rw [foldl_held] | rw [foldl_held1] | intro _ | rfl)
theorem held_doDatagramSent (t : Time) (stream : Fin 2) (s0 : State)  : State.held ((doDatagramSent t stream s0)) = State.held (State.at s0 t) := by
  unfold doDatagramSent
  repeat' (first | with_reducible rfl | simp only [↓held_offloadDone, ↓held_sendStream, held_mk, held_fold, ↓ite_self, ↓held_ite] | split | rw [foldl_held] | rw [foldl_held1] | intro _ | rfl)
theorem held_doLinkUp (t : Time) (s0 : State)  : State.held ((doLinkUp t s0)) = State.held (State.at s0 t) := by
  unfold doLinkUp
  repeat' (first | with_reducible rfl | simp only [↓held_raise, ↓held_startOffload, held_mk, held_fold, ↓ite_self, ↓held_ite] | split | rw [foldl_held] | rw [foldl_held1] | intro _ | rfl)
theorem held_doLinkDown (t : Time) (s0 : State)  : State.held ((doLinkDown t s0)) = State.held (State.at s0 t) := by
  unfold doLinkDown
  repeat' (first | with_reducible rfl | simp only [↓held_raise, ↓held_streamLost, held_mk, held_fold, ↓ite_self, ↓held_ite] | split | rw [foldl_held] | rw [foldl_held1] | intro _ | rfl)
theorem held_endSubs (s : State) (tr : Transport) (num : Byte)  : State.held ((State.endSubs s tr num)) = State.held s := by
  unfold State.endSubs
  repeat' (first | with_reducible rfl | simp only [held_mk, held_fold] | split | rw [foldl_held] | rw [foldl_held1] | intro _ | rfl)
theorem held_armed (s : State) (above : Bool)  : State.held ((State.armed s above)) = State.held s := by
  unfold State.armed
  repeat' (first | with_reducible rfl | simp only [held_mk, held_fold] | split | rw [foldl_held] | rw [foldl_held1] | intro _ | rfl)
theorem held_skipCopy (s : State) (num : U32)  : State.held ((State.skipCopy s num)) = State.held s := by
  unfold State.skipCopy
  repeat' (first | with_reducible rfl | simp only [held_mk, held_fold] | split | rw [foldl_held] | rw [foldl_held1] | intro _ | rfl)
theorem held_overwriteOldest (s : State)  : State.held ((State.overwriteOldest s)) = State.held s := by
  unfold State.overwriteOldest
  repeat' (first | with_reducible rfl | simp only [↓held_count, ↓held_dropSegment, ↓held_raise, ↓held_skipCopy, held_mk, held_fold, ↓ite_self, ↓held_ite] | split | rw [foldl_held] | rw [foldl_held1] | intro _ | rfl)
theorem held_capArm (s : State)  : State.held ((State.capArm s)) = State.held s := by
  unfold State.capArm
  repeat' (first | with_reducible rfl | simp only [↓held_armed, ↓held_overwriteOldest, ↓held_raise, held_mk, held_fold, ↓ite_self, ↓held_ite] | split | rw [foldl_held] | rw [foldl_held1] | intro _ | rfl)
theorem held_capService (s : State)  : State.held ((State.capService s)) = State.held s := by
  unfold State.capService
  repeat' (first | with_reducible rfl | simp only [↓held_capArm, ↓ite_self, ↓held_ite] | split | rw [foldl_held] | rw [foldl_held1] | intro _ | rfl)
theorem held_capEnable (s : State)  : State.held ((State.capEnable s)) = State.held s := by
  unfold State.capEnable
  repeat' (first | with_reducible rfl | simp only [↓held_capArm, ↓ite_self, ↓held_ite] | split | rw [foldl_held] | rw [foldl_held1] | intro _ | rfl)
theorem held_offerRecorder (s : State) (g : Segment)  : State.held ((State.offerRecorder s g)) = State.held s := by
  unfold State.offerRecorder
  repeat' (first | with_reducible rfl | simp only [↓held_count, ↓held_modHeld, held_mk, held_fold, ↓ite_self, ↓held_ite] | split | rw [foldl_held] | rw [foldl_held1] | intro _ | rfl)
theorem held_closeSegment (s : State) (short : Bool)  : State.held ((State.closeSegment s short)) = State.held s := by
  unfold State.closeSegment
  repeat' (first | with_reducible rfl | simp only [↓held_count, ↓held_offerRecorder, ↓held_raise, ↓held_startOffload, held_mk, held_fold, ↓ite_self, ↓held_ite] | split | rw [foldl_held] | rw [foldl_held1] | intro _ | rfl)
theorem held_storeRecord (s : State) (r : RingRec)  : State.held ((State.storeRecord s r)) = State.held s := by
  unfold State.storeRecord
  repeat' (first | with_reducible rfl | simp only [↓held_closeSegment, held_mk, held_fold, ↓ite_self, ↓held_ite] | split | rw [foldl_held] | rw [foldl_held1] | intro _ | rfl)
theorem held_markTrigger (s : State) (g : Trigger) (outcome : Nat)  : State.held ((State.markTrigger s g outcome).1) = State.held s := by
  unfold State.markTrigger
  repeat' (first | with_reducible rfl | simp only [↓held_mark] | split | rw [foldl_held] | rw [foldl_held1] | intro _ | rfl)
theorem held_startSegment (s : State) (g : Trigger) (x : Segment) (place : U32 × Nat × Bool) (markSeq : U32)  : State.held ((State.startSegment s g x place markSeq)) = State.held s := by
  unfold State.startSegment
  repeat' (first | with_reducible rfl | simp only [↓held_storeRecord, held_mk, held_fold] | split | rw [foldl_held] | rw [foldl_held1] | intro _ | rfl)
theorem held_takeTrigger (s0 : State) (g : Trigger)  : State.held ((State.takeTrigger s0 g)) = State.held s0 := by
  unfold State.takeTrigger
  repeat' (first | with_reducible rfl | simp only [↓held_capService, ↓held_count, ↓held_markTrigger, ↓held_startSegment, held_mk, held_fold, ↓ite_self, ↓held_ite] | split | rw [foldl_held] | rw [foldl_held1] | intro _ | rfl)
theorem held_doCaptureTrigger (t : Time) (s0 : State)  : State.held ((doCaptureTrigger t s0)) = State.held (State.at s0 t) := by
  unfold doCaptureTrigger
  repeat' (first | with_reducible rfl | simp only [↓held_capService, ↓held_takeTrigger, held_mk, held_fold] | split | rw [foldl_held] | rw [foldl_held1] | intro _ | rfl)
theorem held_hostTrigger (s : State)  : State.held ((State.hostTrigger s)) = State.held s := by
  unfold State.hostTrigger
  repeat' (first | with_reducible rfl | simp only [↓held_offer] | split | rw [foldl_held] | rw [foldl_held1] | intro _ | rfl)
theorem held_captureColumn (s0 : State) (r : Released)  : State.held ((State.captureColumn s0 r)) = State.held s0 := by
  unfold State.captureColumn
  repeat' (first | with_reducible rfl | simp only [↓held_capService, ↓held_storeRecord, ↓ite_self, ↓held_ite] | split | rw [foldl_held] | rw [foldl_held1] | intro _ | rfl)
theorem held_captureSample (s0 : State) (r : Sample) (u : Int)  : State.held ((State.captureSample s0 r u)) = State.held s0 := by
  unfold State.captureSample
  repeat' (first | with_reducible rfl | simp only [↓held_capService, ↓held_storeRecord, ↓ite_self, ↓held_ite] | split | rw [foldl_held] | rw [foldl_held1] | intro _ | rfl)
theorem held_capTimerStart (s : State)  : State.held ((State.capTimerStart s)) = State.held s := by
  unfold State.capTimerStart
  repeat' (first | with_reducible rfl | simp only [held_mk, held_fold] | split | rw [foldl_held] | rw [foldl_held1] | intro _ | rfl)
theorem held_capSettle (s : State)  : State.held ((State.capSettle s)) = State.held s := by
  unfold State.capSettle
  repeat' (first | with_reducible rfl | simp only [↓held_closeSegment, held_mk, held_fold, ↓ite_self, ↓held_ite] | split | rw [foldl_held] | rw [foldl_held1] | intro _ | rfl)
theorem held_capTimerStop (s : State)  : State.held ((State.capTimerStop s)) = State.held s := by
  unfold State.capTimerStop
  repeat' (first | with_reducible rfl | simp only [↓held_capSettle, held_mk, held_fold, ↓ite_self, ↓held_ite] | split | rw [foldl_held] | rw [foldl_held1] | intro _ | rfl)
theorem held_capDisarm (s0 : State)  : State.held ((State.capDisarm s0)) = State.held s0 := by
  unfold State.capDisarm
  repeat' (first | with_reducible rfl | simp only [↓held_capService, ↓held_closeSegment, held_mk, held_fold, ↓ite_self, ↓held_ite] | split | rw [foldl_held] | rw [foldl_held1] | intro _ | rfl)
theorem held_capDiscard (s : State) (reason : Nat)  : State.held ((State.capDiscard s reason)) = State.held s := by
  unfold State.capDiscard
  repeat' (first | with_reducible rfl | simp only [↓held_capEnable, ↓held_raise, held_mk, held_fold, ↓ite_self, ↓held_ite] | split | rw [foldl_held] | rw [foldl_held1] | intro _ | rfl)
theorem held_captureFlip (s : State) (changed : List Nat)  : State.held ((State.captureFlip s changed)) = State.held s := by
  unfold State.captureFlip
  repeat' (first | with_reducible rfl | simp only [↓held_capDisarm, ↓held_capDiscard, ↓held_capEnable, ↓ite_self, ↓held_ite] | split | rw [foldl_held] | rw [foldl_held1] | intro _ | rfl)
theorem held_setCamera (s : State) (idx : U32) (at_ : Time)  : State.held ((State.setCamera s idx at_)) = State.held s := by
  unfold State.setCamera
  repeat' (first | with_reducible rfl | simp only [held_mk, held_fold] | split | rw [foldl_held] | rw [foldl_held1] | intro _ | rfl)
theorem held_enterLull (s : State)  : State.held ((State.enterLull s)) = State.held s := by
  unfold State.enterLull
  repeat' (first | with_reducible rfl | simp only [↓held_setCamera, held_mk, held_fold, ↓ite_self, ↓held_ite] | split | rw [foldl_held] | rw [foldl_held1] | intro _ | rfl)
theorem held_enterRelock (s : State)  : State.held ((State.enterRelock s)) = State.held s := by
  unfold State.enterRelock
  repeat' (first | with_reducible rfl | simp only [held_mk, held_fold] | split | rw [foldl_held] | rw [foldl_held1] | intro _ | rfl)
theorem held_outOfRange (s : State)  : State.held ((State.outOfRange s)) = State.held s := by
  unfold State.outOfRange
  repeat' (first | with_reducible rfl | simp only [↓held_raise, held_mk, held_fold] | split | rw [foldl_held] | rw [foldl_held1] | intro _ | rfl)
theorem held_lullEdge (s : State)  : State.held ((State.lullEdge s)) = State.held s := by
  unfold State.lullEdge
  repeat' (first | with_reducible rfl | simp only [↓held_enterRelock, ↓held_outOfRange, ↓held_raise, ↓ite_self, ↓held_ite] | split | rw [foldl_held] | rw [foldl_held1] | intro _ | rfl)
theorem held_takeIndex (s : State) (stamp : Int)  : State.held ((State.takeIndex s stamp).1) = State.held s := by
  unfold State.takeIndex
  repeat' (first | with_reducible rfl | simp only [↓held_dequeue, ↓held_raise] | split | rw [foldl_held] | rw [foldl_held1] | intro _ | rfl)
theorem held_acceptEdge (s : State) (stamp : Int)  : State.held ((State.acceptEdge s stamp)) = State.held s := by
  unfold State.acceptEdge
  repeat' (first | with_reducible rfl | simp only [↓held_count, ↓held_lullEdge, ↓held_setCamera, ↓held_takeIndex, held_mk, held_fold, ↓ite_self, ↓held_ite] | split | rw [foldl_held] | rw [foldl_held1] | intro _ | rfl)
theorem held_doFsyncEdge (t : Time) (rising : Bool) (s0 : State)  : State.held ((doFsyncEdge t rising s0)) = State.held (State.at s0 t) := by
  unfold doFsyncEdge
  repeat' (first | with_reducible rfl | simp only [↓held_acceptEdge, ↓ite_self, ↓held_ite] | split | rw [foldl_held] | rw [foldl_held1] | intro _ | rfl)
theorem held_doFsyncLull (t : Time) (s0 : State)  : State.held ((doFsyncLull t s0)) = State.held (State.at s0 t) := by
  unfold doFsyncLull
  repeat' (first | with_reducible rfl | simp only [↓held_count, ↓held_enterLull, ↓held_raise, ↓ite_self, ↓held_ite] | split | rw [foldl_held] | rw [foldl_held1] | intro _ | rfl)
theorem held_doCameraVirtualEdge (t : Time) (s0 : State)  : State.held ((doCameraVirtualEdge t s0)) = State.held (State.at s0 t) := by
  unfold doCameraVirtualEdge
  repeat' (first | with_reducible rfl | simp only [↓held_setCamera, held_mk, held_fold, ↓ite_self, ↓held_ite] | split | rw [foldl_held] | rw [foldl_held1] | intro _ | rfl)
theorem held_phaseBoundary (s : State) (t : Time)  : State.held ((State.phaseBoundary s t)) = State.held s := by
  unfold State.phaseBoundary
  repeat' (first | with_reducible rfl | simp only [↓held_enterLull, ↓held_enterRelock, ↓held_outOfRange, ↓held_raise, held_mk, held_fold, ↓ite_self, ↓held_ite] | split | rw [foldl_held] | rw [foldl_held1] | intro _ | rfl)
theorem held_phaseStart (s : State) (t : Time)  : State.held ((State.phaseStart s t)) = State.held s := by
  unfold State.phaseStart
  repeat' (first | with_reducible rfl | simp only [↓held_enterLull, ↓held_enterRelock, held_mk, held_fold, ↓ite_self, ↓held_ite] | split | rw [foldl_held] | rw [foldl_held1] | intro _ | rfl)
theorem held_phaseFlip (s : State) (changed : List Nat)  : State.held ((State.phaseFlip s changed)) = State.held s := by
  unfold State.phaseFlip
  repeat' (first | with_reducible rfl | simp only [↓held_enterLull, ↓held_enterRelock, held_mk, held_fold, ↓ite_self, ↓held_ite] | split | rw [foldl_held] | rw [foldl_held1] | intro _ | rfl)
theorem held_fsyncWake (s : State)  : State.held ((State.fsyncWake s)) = State.held s := by
  unfold State.fsyncWake
  repeat' (first | with_reducible rfl | simp only [held_mk, held_fold] | split | rw [foldl_held] | rw [foldl_held1] | intro _ | rfl)
theorem held_busPut (s : State) (kind payload : Nat)  : State.held ((State.busPut s kind payload)) = State.held s := by
  unfold State.busPut
  repeat' (first | with_reducible rfl | simp only [↓held_send] | split | rw [foldl_held] | rw [foldl_held1] | intro _ | rfl)
theorem held_modPeer (s : State) (p : Nat) (f : BusPeer → BusPeer)  : State.held ((State.modPeer s p f)) = State.held s := by
  unfold State.modPeer
  repeat' (first | with_reducible rfl | simp only [held_mk, held_fold] | split | rw [foldl_held] | rw [foldl_held1] | intro _ | rfl)
theorem held_busConflict (s : State) (kind position : Nat)  : State.held ((State.busConflict s kind position)) = State.held s := by
  unfold State.busConflict
  repeat' (first | with_reducible rfl | simp only [↓held_raise, held_mk, held_fold, ↓ite_self, ↓held_ite] | split | rw [foldl_held] | rw [foldl_held1] | intro _ | rfl)
theorem held_busPurge (s : State)  : State.held ((State.busPurge s)) = State.held s := by
  unfold State.busPurge
  repeat' (first | with_reducible rfl | simp only [↓held_count, held_mk, held_fold] | split | rw [foldl_held] | rw [foldl_held1] | intro _ | rfl)
theorem held_busSend (s0 : State) (kind : Nat) (at_ : Time)  : State.held ((State.busSend s0 kind at_)) = State.held s0 := by
  unfold State.busSend
  repeat' (first | with_reducible rfl | simp only [↓held_busPurge, ↓held_count, held_mk, held_fold, ↓ite_self, ↓held_ite] | split | rw [foldl_held] | rw [foldl_held1] | intro _ | rfl)
theorem held_busReceive (s : State) (own : Bool) (kind : Nat) (source : BitVec 4) (payload : U32) (crc : Byte)  : State.held ((State.busReceive s own kind source payload crc).1) = State.held s := by
  unfold State.busReceive
  repeat' (first | with_reducible rfl | simp only [↓held_busConflict, ↓held_count, ↓held_modPeer, ↓ite_self, ↓held_ite1] | split | rw [foldl_held] | rw [foldl_held1] | intro _ | rfl)
theorem held_busMismatch (s : State) (mode shot : Nat)  : State.held ((State.busMismatch s mode shot)) = State.held s := by
  unfold State.busMismatch
  repeat' (first | with_reducible rfl | simp only [↓held_raise, held_mk, held_fold, ↓ite_self, ↓held_ite] | split | rw [foldl_held] | rw [foldl_held1] | intro _ | rfl)
theorem held_doBusFrame (t : Time) (own : Bool) (source : BitVec 4) (payload : U32) (crc : Byte) (s0 : State)  : State.held ((doBusFrame t own source payload crc s0)) = State.held (State.at s0 t) := by
  unfold doBusFrame
  repeat' (first | with_reducible rfl | simp only [↓held_acceptEdge, ↓held_busConflict, ↓held_busMismatch, ↓held_busReceive, held_mk, held_fold, ↓ite_self, ↓held_ite] | split | rw [foldl_held] | rw [foldl_held1] | intro _ | rfl)
theorem held_doBusFrameSilence (t : Time) (s0 : State)  : State.held ((doBusFrameSilence t s0)) = State.held (State.at s0 t) := by
  unfold doBusFrameSilence
  repeat' (first | with_reducible rfl | simp only [held_mk, held_fold, ↓ite_self, ↓held_ite] | split | rw [foldl_held] | rw [foldl_held1] | intro _ | rfl)
theorem held_busBoundary (s : State)  : State.held ((State.busBoundary s)) = State.held s := by
  unfold State.busBoundary
  repeat' (first | with_reducible rfl | simp only [↓held_busPut, ↓held_draw, held_mk, held_fold, ↓ite_self, ↓held_ite] | split | rw [foldl_held] | rw [foldl_held1] | intro _ | rfl)
theorem held_doBusTriggerMessage (t : Time) (own : Bool) (source : BitVec 4) (payload : U32) (crc : Byte) (s0 : State)  : State.held ((doBusTriggerMessage t own source payload crc s0)) = State.held (State.at s0 t) := by
  unfold doBusTriggerMessage
  repeat' (first | with_reducible rfl | simp only [↓held_busReceive, ↓held_offer, ↓ite_self, ↓held_ite] | split | rw [foldl_held] | rw [foldl_held1] | intro _ | rfl)
theorem held_doBusProbe (t : Time) (own : Bool) (source : BitVec 4) (payload : U32) (crc : Byte) (s0 : State)  : State.held ((doBusProbe t own source payload crc s0)) = State.held (State.at s0 t) := by
  unfold doBusProbe
  repeat' (first | with_reducible rfl | simp only [↓held_busReceive, held_mk, held_fold, ↓ite_self, ↓held_ite] | split | rw [foldl_held] | rw [foldl_held1] | intro _ | rfl)
theorem held_doBusReply (t : Time) (own : Bool) (source : BitVec 4) (payload : U32) (crc : Byte) (s0 : State)  : State.held ((doBusReply t own source payload crc s0)) = State.held (State.at s0 t) := by
  unfold doBusReply
  repeat' (first | with_reducible rfl | simp only [↓held_busReceive, ↓held_modPeer, held_mk, held_fold, ↓ite_self, ↓held_ite] | split | rw [foldl_held] | rw [foldl_held1] | intro _ | rfl)
theorem held_doBusAnnounce (t : Time) (own : Bool) (source : BitVec 4) (payload : U32) (crc : Byte) (s0 : State)  : State.held ((doBusAnnounce t own source payload crc s0)) = State.held (State.at s0 t) := by
  unfold doBusAnnounce
  repeat' (first | with_reducible rfl | simp only [↓held_busReceive, ↓held_modPeer, ↓held_raise, ↓ite_self, ↓held_ite] | split | rw [foldl_held] | rw [foldl_held1] | intro _ | rfl)
theorem held_busMessage (s : State)  : State.held ((State.busMessage s)) = State.held s := by
  unfold State.busMessage
  repeat' (first | with_reducible rfl | simp only [↓held_busPut, ↓held_modPeer, held_mk, held_fold, ↓ite_self, ↓held_ite] | split | rw [foldl_held] | rw [foldl_held1] | intro _ | rfl)
theorem held_doBusWindow (t : Time) (s0 : State)  : State.held ((doBusWindow t s0)) = State.held (State.at s0 t) := by
  unfold doBusWindow
  repeat' (first | with_reducible rfl | simp only [↓held_busMessage, ↓held_busPurge, held_mk, held_fold, ↓ite_self, ↓held_ite] | split | rw [foldl_held] | rw [foldl_held1] | intro _ | rfl)
theorem held_busTriggerAction (s : State)  : State.held ((busTriggerAction s)) = State.held s := by
  unfold busTriggerAction
  repeat' (first | with_reducible rfl | simp only [↓held_busSend, ↓held_hostTrigger] | split | rw [foldl_held] | rw [foldl_held1] | intro _ | rfl)
theorem held_busAdopt (s : State)  : State.held ((State.busAdopt s)) = State.held s := by
  unfold State.busAdopt
  repeat' (first | with_reducible rfl | simp only [held_mk, held_fold] | split | rw [foldl_held] | rw [foldl_held1] | intro _ | rfl)
theorem held_doBusClockAdopt (t : Time) (s0 : State)  : State.held ((doBusClockAdopt t s0)) = State.held (State.at s0 t) := by
  unfold doBusClockAdopt
  repeat' (first | with_reducible rfl | simp only [↓held_busAdopt, held_mk, held_fold, ↓ite_self, ↓held_ite] | split | rw [foldl_held] | rw [foldl_held1] | intro _ | rfl)
theorem held_busCrystal (s : State)  : State.held ((State.busCrystal s)) = State.held s := by
  unfold State.busCrystal
  repeat' (first | with_reducible rfl | simp only [held_mk, held_fold] | split | rw [foldl_held] | rw [foldl_held1] | intro _ | rfl)
theorem held_doBusClockLost (t : Time) (s0 : State)  : State.held ((doBusClockLost t s0)) = State.held (State.at s0 t) := by
  unfold doBusClockLost
  repeat' (first | with_reducible rfl | simp only [↓held_busCrystal, ↓held_raise, held_mk, held_fold, ↓ite_self, ↓held_ite] | split | rw [foldl_held] | rw [foldl_held1] | intro _ | rfl)
theorem held_busAlign (s : State) (ran : Bool)  : State.held ((State.busAlign s ran)) = State.held s := by
  unfold State.busAlign
  repeat' (first | with_reducible rfl | simp only [↓held_busAdopt, ↓held_raise, held_mk, held_fold, ↓ite_self, ↓held_ite] | split | rw [foldl_held] | rw [foldl_held1] | intro _ | rfl)
theorem held_busFlip (s : State) (changed : List Nat)  : State.held ((State.busFlip s changed)) = State.held s := by
  unfold State.busFlip
  repeat' (first | with_reducible rfl | simp only [held_mk, held_fold, ↓ite_self, ↓held_ite] | split | rw [foldl_held] | rw [foldl_held1] | intro _ | rfl)
theorem held_busWake (s : State)  : State.held ((State.busWake s)) = State.held s := by
  unfold State.busWake
  repeat' (first | with_reducible rfl | simp only [held_mk, held_fold] | split | rw [foldl_held] | rw [foldl_held1] | intro _ | rfl)
theorem held_busSleep (s : State)  : State.held ((State.busSleep s)) = State.held s := by
  unfold State.busSleep
  repeat' (first | with_reducible rfl | simp only [held_mk, held_fold] | split | rw [foldl_held] | rw [foldl_held1] | intro _ | rfl)
theorem held_modInput (s : State) (i : Nat) (f : TinInput → TinInput)  : State.held ((State.modInput s i f)) = State.held s := by
  unfold State.modInput
  repeat' (first | with_reducible rfl | simp only [held_mk, held_fold] | split | rw [foldl_held] | rw [foldl_held1] | intro _ | rfl)
theorem held_tinDrain (s : State)  : State.held ((State.tinDrain s)) = State.held s := by
  unfold State.tinDrain
  repeat' (first | with_reducible rfl | simp only [held_mk, held_fold, ↓ite_self, ↓held_ite] | split | rw [foldl_held] | rw [foldl_held1] | intro _ | rfl)
theorem held_tinFill (s : State)  : State.held ((State.tinFill s)) = State.held s := by
  unfold State.tinFill
  repeat' (first | with_reducible rfl | simp only [held_mk, held_fold] | split | rw [foldl_held] | rw [foldl_held1] | intro _ | rfl)
theorem held_tinQueue (s : State) (r : TinRec)  : State.held ((State.tinQueue s r)) = State.held s := by
  unfold State.tinQueue
  repeat' (first | with_reducible rfl | simp only [held_mk, held_fold] | split | rw [foldl_held] | rw [foldl_held1] | intro _ | rfl)
theorem held_tinClose (s : State) (i reason : Nat)  : State.held ((State.tinClose s i reason)) = State.held s := by
  unfold State.tinClose
  repeat' (first | with_reducible rfl | simp only [↓held_modInput, ↓held_raise, ↓held_tinQueue, ↓ite_self, ↓held_ite] | split | rw [foldl_held] | rw [foldl_held1] | intro _ | rfl)
theorem held_tinCloseAll (s : State) (reason : Nat)  : State.held ((State.tinCloseAll s reason)) = State.held s := by
  unfold State.tinCloseAll
  repeat' (first | with_reducible rfl | simp only [↓held_tinClose] | split | rw [foldl_held] | rw [foldl_held1] | intro _ | rfl)
theorem held_tinOpen (s : State) (kind : Nat) (t : Int) (back : Int) (rising : Bool) (prev : Option Int) (seen : Bool)  : State.held ((State.tinOpen s kind t back rising prev seen).1) = State.held s := by
  unfold State.tinOpen
  repeat' (first | with_reducible rfl | simp only [↓held_busSend, ↓held_offer, ↓held_tinFill, held_mk, held_fold] | split | rw [foldl_held] | rw [foldl_held1] | intro _ | rfl)
theorem held_tinAnchor (s : State) (i : Nat) (t back : Int) (rising : Bool)  : State.held ((State.tinAnchor s i t back rising)) = State.held s := by
  unfold State.tinAnchor
  repeat' (first | with_reducible rfl | simp only [↓held_modInput, ↓held_tinClose, ↓held_tinOpen, ↓ite_self, ↓held_ite] | split | rw [foldl_held] | rw [foldl_held1] | intro _ | rfl)
theorem held_tinAppend (s : State) (i : Nat) (r : TinRec) (t : Int) (rising : Bool)  : State.held ((State.tinAppend s i r t rising)) = State.held s := by
  unfold State.tinAppend
  repeat' (first | with_reducible rfl | simp only [↓held_count, ↓held_modInput, ↓held_tinClose, ↓held_tinFill, ↓ite_self, ↓held_ite] | split | rw [foldl_held] | rw [foldl_held1] | intro _ | rfl)
theorem held_tinAccept (s : State) (i : Nat) (t back : Int) (rising : Bool)  : State.held ((State.tinAccept s i t back rising)) = State.held s := by
  unfold State.tinAccept
  repeat' (first | with_reducible rfl | simp only [↓held_count, ↓held_modInput, ↓held_tinAnchor, ↓held_tinAppend, ↓held_tinClose, ↓ite_self, ↓held_ite] | split | rw [foldl_held] | rw [foldl_held1] | intro _ | rfl)
theorem held_doTinEdge (t : Time) (input : Fin 4) (rising : Bool) (s0 : State)  : State.held ((doTinEdge t input rising s0)) = State.held (State.at s0 t) := by
  unfold doTinEdge
  repeat' (first | with_reducible rfl | simp only [↓held_count, ↓held_modInput, ↓held_tinAccept, ↓held_tinDrain, ↓ite_self, ↓held_ite] | split | rw [foldl_held] | rw [foldl_held1] | intro _ | rfl)
theorem held_gateRecord (s : State) (rising : Bool)  : State.held ((State.gateRecord s rising)) = State.held s := by
  unfold State.gateRecord
  repeat' (first | with_reducible rfl | simp only [↓held_tinOpen, ↓held_tinQueue, held_mk, held_fold] | split | rw [foldl_held] | rw [foldl_held1] | intro _ | rfl)
theorem held_doGateEdge (t : Time) (rising : Bool) (s0 : State)  : State.held ((doGateEdge t rising s0)) = State.held (State.at s0 t) := by
  unfold doGateEdge
  repeat' (first | with_reducible rfl | simp only [↓held_gateRecord, ↓held_tinCloseAll, ↓held_tinDrain, held_mk, held_fold, ↓ite_self, ↓held_ite] | split | rw [foldl_held] | rw [foldl_held1] | intro _ | rfl)
theorem held_doTinRecordCloseIdle (t : Time) (input : Fin 4) (s0 : State)  : State.held ((doTinRecordCloseIdle t input s0)) = State.held (State.at s0 t) := by
  unfold doTinRecordCloseIdle
  repeat' (first | with_reducible rfl | simp only [↓held_tinClose, ↓ite_self, ↓held_ite] | split | rw [foldl_held] | rw [foldl_held1] | intro _ | rfl)
theorem held_doTinRecordDelivery (t : Time) (s0 : State)  : State.held ((doTinRecordDelivery t s0)) = State.held (State.at s0 t) := by
  unfold doTinRecordDelivery
  repeat' (first | with_reducible rfl | simp only [↓held_pushItems, ↓held_tinDrain, held_mk, held_fold, ↓ite_self, ↓held_ite] | split | rw [foldl_held] | rw [foldl_held1] | intro _ | rfl)
theorem held_doRefinEdge (t : Time) (s0 : State)  : State.held ((doRefinEdge t s0)) = State.held (State.at s0 t) := by
  unfold doRefinEdge
  repeat' (first | with_reducible rfl | simp only [held_mk, held_fold, ↓ite_self, ↓held_ite] | split | rw [foldl_held] | rw [foldl_held1] | intro _ | rfl)
theorem held_refinGone (s : State)  : State.held ((State.refinGone s)) = State.held s := by
  unfold State.refinGone
  repeat' (first | with_reducible rfl | simp only [held_mk, held_fold] | split | rw [foldl_held] | rw [foldl_held1] | intro _ | rfl)
theorem held_tinFlip (s : State) (changed : List Nat)  : State.held ((State.tinFlip s changed)) = State.held s := by
  unfold State.tinFlip
  repeat' (first | with_reducible rfl | simp only [↓held_tinCloseAll, ↓ite_self, ↓held_ite] | split | rw [foldl_held] | rw [foldl_held1] | intro _ | rfl)
theorem held_tinWake (s : State)  : State.held ((State.tinWake s)) = State.held s := by
  unfold State.tinWake
  repeat' (first | with_reducible rfl | simp only [held_mk, held_fold] | split | rw [foldl_held] | rw [foldl_held1] | intro _ | rfl)
theorem held_timxIsolate (s : State)  : State.held ((State.timxIsolate s)) = State.held s := by
  unfold State.timxIsolate
  repeat' (first | with_reducible rfl | simp only [↓held_busSleep, ↓held_refinGone, ↓held_tinCloseAll, held_mk, held_fold] | split | rw [foldl_held] | rw [foldl_held1] | intro _ | rfl)
theorem held_padReleaseAction (m : Nat) (s : State)  : State.held ((padReleaseAction m s)) = State.held s := by
  unfold padReleaseAction
  repeat' (first | with_reducible rfl | simp only [held_mk, held_fold] | split | rw [foldl_held] | rw [foldl_held1] | intro _ | rfl)
theorem held_modLane (s : State) (l : LaneId) (f : Lane → Lane)  : State.held ((State.modLane s l f)) = State.held s := by
  unfold State.modLane
  repeat' (first | with_reducible rfl | simp only [↓held_setLane] | split | rw [foldl_held] | rw [foldl_held1] | intro _ | rfl)
theorem held_modEngine (s : State) (l : LaneId) (f : Engine → Engine)  : State.held ((State.modEngine s l f)) = State.held s := by
  unfold State.modEngine
  repeat' (first | with_reducible rfl | simp only [↓held_modLane] | split | rw [foldl_held] | rw [foldl_held1] | intro _ | rfl)
theorem held_engineEvent (s : State) (e : EngineEvent)  : State.held ((State.engineEvent s e)) = State.held s := by
  unfold State.engineEvent
  repeat' (first | with_reducible rfl | simp only [↓held_count, ↓held_raise] | split | rw [foldl_held] | rw [foldl_held1] | intro _ | rfl)
theorem held_engineEvents (s : State) (l : List EngineEvent)  : State.held ((State.engineEvents s l)) = State.held s := by
  unfold State.engineEvents
  repeat' (first | with_reducible rfl | simp only [↓held_engineEvent] | split | rw [foldl_held] | rw [foldl_held1] | intro _ | rfl)
theorem held_bothEngines (s : State) (f : LaneId → Engine → Engine × List EngineEvent)  : State.held ((State.bothEngines s f)) = State.held s := by
  unfold State.bothEngines
  repeat' (first | with_reducible rfl | simp only [↓held_engineEvents, ↓held_modEngine, ↓ite_self, ↓held_ite] | split | rw [foldl_held] | rw [foldl_held1] | intro _ | rfl)
theorem held_follow (s : State)  : State.held ((State.follow s)) = State.held s := by
  unfold State.follow
  repeat' (first | with_reducible rfl | simp only [↓held_parkCoil, ↓held_trip, held_mk, held_fold, ↓ite_self, ↓held_ite] | split | rw [foldl_held] | rw [foldl_held1] | intro _ | rfl)
theorem held_dequeueAll (s : State) (l : List U32)  : State.held ((State.dequeueAll s l)) = State.held s := by
  unfold State.dequeueAll
  repeat' (first | with_reducible rfl | simp only [↓held_dequeue] | split | rw [foldl_held] | rw [foldl_held1] | intro _ | rfl)
theorem held_laneSample (s : State) (x : Section) (r : Sample) (lateA lateB : Bool)  : State.held ((State.laneSample s x r lateA lateB)) = State.held s := by
  unfold State.laneSample
  repeat' (first | with_reducible rfl | simp only [↓held_bothEngines, ↓held_dequeueAll, ↓held_modLane, ↓ite_self, ↓held_ite] | split | rw [foldl_held] | rw [foldl_held1] | intro _ | rfl)
theorem held_doControlSample (t : Time) (x : SampleIn) (above lateA lateB : Bool) (s0 : State)  : State.held ((doControlSample t x above lateA lateB s0)) = State.held (State.at s0 t) := by
  unfold doControlSample
  repeat' (first | with_reducible rfl | simp only [↓held_afterSample, ↓held_applyRange, ↓held_captureSample, ↓held_convert, ↓held_emitAdvance, ↓held_follow, ↓held_formSample, ↓held_laneSample, held_mk, held_fold, ↓ite_self, ↓held_ite] | split | rw [foldl_held] | rw [foldl_held1] | intro _ | rfl)
theorem held_modeRequestAction (mode : Nat) (k : U32) (s : State)  : State.held ((modeRequestAction mode k s)) = State.held s := by
  unfold modeRequestAction
  repeat' (first | with_reducible rfl | simp only [↓held_dequeue, ↓held_raise, ↓ite_self, ↓held_ite] | split | rw [foldl_held] | rw [foldl_held1] | intro _ | rfl)
theorem held_doHomingFailed (t : Time) (s0 : State)  : State.held ((doHomingFailed t s0)) = State.held (State.at s0 t) := by
  unfold doHomingFailed
  repeat' (first | with_reducible rfl | simp only [↓held_bothEngines, ↓held_follow] | split | rw [foldl_held] | rw [foldl_held1] | intro _ | rfl)
theorem held_doCoilTrip (t : Time) (iCoil : W20) (s0 : State)  : State.held ((doCoilTrip t iCoil s0)) = State.held (State.at s0 t) := by
  unfold doCoilTrip
  repeat' (first | with_reducible rfl | simp only [↓held_count, ↓held_raise, ↓held_tripSet, held_mk, held_fold, ↓ite_self, ↓held_ite] | split | rw [foldl_held] | rw [foldl_held1] | intro _ | rfl)
theorem held_coilTripClearAction (k : U32) (s : State)  : State.held ((coilTripClearAction k s)) = State.held s := by
  unfold coilTripClearAction
  repeat' (first | with_reducible rfl | simp only [↓held_dequeue, ↓held_raise, ↓held_trip, held_mk, held_fold, ↓ite_self, ↓held_ite] | split | rw [foldl_held] | rw [foldl_held1] | intro _ | rfl)
theorem held_doParkRampDone (t : Time) (s0 : State)  : State.held ((doParkRampDone t s0)) = State.held (State.at s0 t) := by
  unfold doParkRampDone
  repeat' (first | with_reducible rfl | simp only [held_mk, held_fold, ↓ite_self, ↓held_ite] | split | rw [foldl_held] | rw [foldl_held1] | intro _ | rfl)
theorem held_engineBoundary (s : State) (old : Cfg) (columns period : Nat)  : State.held ((State.engineBoundary s old columns period)) = State.held s := by
  unfold State.engineBoundary
  repeat' (first | with_reducible rfl | simp only [↓held_bothEngines, ↓held_follow] | split | rw [foldl_held] | rw [foldl_held1] | intro _ | rfl)
theorem held_engineAutostart (s : State)  : State.held ((State.engineAutostart s)) = State.held s := by
  unfold State.engineAutostart
  repeat' (first | with_reducible rfl | simp only [↓held_modEngine] | split | rw [foldl_held] | rw [foldl_held1] | intro _ | rfl)
theorem held_enginePark (s : State) (cause : Nat)  : State.held ((State.enginePark s cause)) = State.held s := by
  unfold State.enginePark
  repeat' (first | with_reducible rfl | simp only [↓held_bothEngines, ↓held_follow] | split | rw [foldl_held] | rw [foldl_held1] | intro _ | rfl)
theorem held_mirrPark (s : State)  : State.held ((State.mirrPark s)) = State.held s := by
  unfold State.mirrPark
  repeat' (first | with_reducible rfl | simp only [↓held_parkCoil, ↓held_trip] | split | rw [foldl_held] | rw [foldl_held1] | intro _ | rfl)
theorem held_flashKick (s : State)  : State.held ((State.flashKick s)) = State.held s := by
  unfold State.flashKick
  repeat' (first | with_reducible rfl | simp only [held_mk, held_fold, ↓ite_self, ↓held_ite] | split | rw [foldl_held] | rw [foldl_held1] | intro _ | rfl)
theorem held_doFlashGroupStart (t : Time) (s0 : State)  : State.held ((doFlashGroupStart t s0)) = State.held (State.at s0 t) := by
  unfold doFlashGroupStart
  repeat' (first | with_reducible rfl | simp only [↓held_flashKick] | split | rw [foldl_held] | rw [foldl_held1] | intro _ | rfl)
theorem held_flashQueue (s : State) (l : List FlashGroup)  : State.held ((State.flashQueue s l)) = State.held s := by
  unfold State.flashQueue
  repeat' (first | with_reducible rfl | simp only [↓held_flashKick, held_mk, held_fold] | split | rw [foldl_held] | rw [foldl_held1] | intro _ | rfl)
theorem held_flashItem (s : State) (work : FlashWork) (host : Bool) (pages : Nat)  : State.held ((State.flashItem s work host pages)) = State.held s := by
  unfold State.flashItem
  repeat' (first | with_reducible rfl | simp only [↓held_flashQueue] | split | rw [foldl_held] | rw [foldl_held1] | intro _ | rfl)
theorem held_writeVersion (s : State)  : State.held ((State.writeVersion s)) = State.held s := by
  unfold State.writeVersion
  repeat' (first | with_reducible rfl | simp only [↓held_flashItem, held_mk, held_fold, ↓ite_self, ↓held_ite] | split | rw [foldl_held] | rw [foldl_held1] | intro _ | rfl)
theorem held_storeCal (s : State) (ticket : U32) (mask : Nat) (host : Bool)  : State.held ((State.storeCal s ticket mask host)) = State.held s := by
  unfold State.storeCal
  repeat' (first | with_reducible rfl | simp only [↓held_flashItem, ↓held_raise, held_mk, held_fold, ↓held_ite] | split | rw [foldl_held] | rw [foldl_held1] | intro _ | rfl)
theorem held_doCalStoreRetry (t : Time) (s0 : State)  : State.held ((doCalStoreRetry t s0)) = State.held (State.at s0 t) := by
  unfold doCalStoreRetry
  repeat' (first | with_reducible rfl | simp only [↓held_storeCal, ↓ite_self, ↓held_ite] | split | rw [foldl_held] | rw [foldl_held1] | intro _ | rfl)
theorem held_recShrink (s : State)  : State.held ((State.recShrink s)) = State.held s := by
  unfold State.recShrink
  repeat' (first | with_reducible rfl | simp only [held_mk, held_fold] | split | rw [foldl_held] | rw [foldl_held1] | intro _ | rfl)
theorem held_retireBlock (s : State) (block cause : Nat)  : State.held ((State.retireBlock s block cause).1) = State.held s := by
  unfold State.retireBlock
  repeat' (first | with_reducible rfl | simp only [↓held_raise, ↓held_recShrink, held_mk, held_fold, ↓ite_self, ↓held_ite1] | split | rw [foldl_held] | rw [foldl_held1] | intro _ | rfl)
theorem held_relocate (s : State) (block : Nat)  : State.held ((State.relocate s block)) = State.held s := by
  unfold State.relocate
  repeat' (first | with_reducible rfl | simp only [↓held_flashQueue] | split | rw [foldl_held] | rw [foldl_held1] | intro _ | rfl)
theorem held_uncorrectable (s : State) (r : ScrubRead)  : State.held ((State.uncorrectable s r)) = State.held s := by
  unfold State.uncorrectable
  repeat' (first | with_reducible rfl | simp only [↓held_raise, ↓held_retireBlock, held_mk, held_fold, ↓ite_self, ↓held_ite] | split | rw [foldl_held] | rw [foldl_held1] | intro _ | rfl)
theorem held_doScrub (t : Time) (r : ScrubRead) (s0 : State)  : State.held ((doScrub t r s0)) = State.held (State.at s0 t) := by
  unfold doScrub
  repeat' (first | with_reducible rfl | simp only [↓held_count, ↓held_relocate, ↓held_retireBlock, ↓held_uncorrectable, held_mk, held_fold, ↓ite_self, ↓held_ite] | split | rw [foldl_held] | rw [foldl_held1] | intro _ | rfl)
theorem held_doWearMove (t : Time) (least most : Nat) (s0 : State)  : State.held ((doWearMove t least most s0)) = State.held (State.at s0 t) := by
  unfold doWearMove
  repeat' (first | with_reducible rfl | simp only [↓held_relocate, ↓ite_self, ↓held_ite] | split | rw [foldl_held] | rw [foldl_held1] | intro _ | rfl)
theorem held_recorderStore (s : State) (num : U32)  : State.held ((State.recorderStore s num)) = State.held s := by
  unfold State.recorderStore
  repeat' (first | with_reducible rfl | simp only [↓held_freeSegment, ↓held_modHeld, held_mk, held_fold, ↓ite_self, ↓held_ite] | split | rw [foldl_held] | rw [foldl_held1] | intro _ | rfl)
theorem held_doRecorderCopy (t : Time) (s0 : State)  : State.held ((doRecorderCopy t s0)) = State.held (State.at s0 t) := by
  unfold doRecorderCopy
  repeat' (first | with_reducible rfl | simp only [↓held_flashQueue, ↓held_skipCopy, ↓held_ite] | split | rw [foldl_held] | rw [foldl_held1] | intro _ | rfl)
theorem held_modSlot (s : State) (i : Nat) (f : FwSlot → FwSlot)  : State.held ((State.modSlot s i f)) = State.held s := by
  unfold State.modSlot
  repeat' (first | with_reducible rfl | simp only [held_mk, held_fold] | split | rw [foldl_held] | rw [foldl_held1] | intro _ | rfl)
theorem held_calHold (s : State)  : State.held ((State.calHold s)) = State.held s := by
  unfold State.calHold
  repeat' (first | with_reducible rfl | simp only [↓held_modBand, ↓held_setDom, ↓ite_self, ↓held_ite] | split | rw [foldl_held] | rw [foldl_held1] | intro _ | rfl)
theorem held_calRelease (s : State)  : State.held ((State.calRelease s)) = State.held s := by
  unfold State.calRelease
  repeat' (first | with_reducible rfl | simp only [↓held_modBand, ↓held_setDom, ↓ite_self, ↓held_ite] | split | rw [foldl_held] | rw [foldl_held1] | intro _ | rfl)
theorem held_calStart (s : State)  : State.held ((State.calStart s)) = State.held s := by
  unfold State.calStart
  repeat' (first | with_reducible rfl | simp only [↓held_calHold, held_mk, held_fold, ↓ite_self, ↓held_ite] | split | rw [foldl_held] | rw [foldl_held1] | intro _ | rfl)
theorem held_calQueue (s : State) (k : CalTicket)  : State.held ((State.calQueue s k)) = State.held s := by
  unfold State.calQueue
  repeat' (first | with_reducible rfl | simp only [↓held_calStart, held_mk, held_fold] | split | rw [foldl_held] | rw [foldl_held1] | intro _ | rfl)
theorem held_calDone (s : State) (k : CalTicket) (result : Nat)  : State.held ((State.calDone s k result)) = State.held s := by
  unfold State.calDone
  repeat' (first | with_reducible rfl | simp only [↓held_raise] | split | rw [foldl_held] | rw [foldl_held1] | intro _ | rfl)
theorem held_calEnd (s : State) (result : Nat)  : State.held ((State.calEnd s result)) = State.held s := by
  unfold State.calEnd
  repeat' (first | with_reducible rfl | simp only [↓held_calDone, ↓held_calRelease, ↓held_calStart, held_mk, held_fold] | split | rw [foldl_held] | rw [foldl_held1] | intro _ | rfl)
theorem held_calKeep (s : State) (l : List CalValue)  : State.held ((State.calKeep s l)) = State.held s := by
  unfold State.calKeep
  repeat' (first | with_reducible rfl | simp only [↓held_storeCal, held_mk, held_fold, ↓ite_self, ↓held_ite] | split | rw [foldl_held] | rw [foldl_held1] | intro _ | rfl)
theorem held_calSettle (s : State)  : State.held ((State.calSettle s)) = State.held s := by
  unfold State.calSettle
  repeat' (first | with_reducible rfl | simp only [↓held_calEnd, ↓held_calKeep, ↓ite_self, ↓held_ite] | split | rw [foldl_held] | rw [foldl_held1] | intro _ | rfl)
theorem held_calJudge (s : State) (k : CalTicket) (a b : CalValue)  : State.held ((State.calJudge s k a b)) = State.held s := by
  unfold State.calJudge
  repeat' (first | with_reducible rfl | simp only [↓held_count, ↓held_raise, held_mk, held_fold] | split | rw [foldl_held] | rw [foldl_held1] | intro _ | rfl)
theorem held_doCalRunDone (t : Time) (r : RunResult) (s0 : State)  : State.held ((doCalRunDone t r s0)) = State.held (State.at s0 t) := by
  unfold doCalRunDone
  repeat' (first | with_reducible rfl | simp only [↓held_calJudge, ↓held_calSettle, ↓held_count, held_mk, held_fold, ↓held_ite] | split | rw [foldl_held] | rw [foldl_held1] | intro _ | rfl)
theorem held_doCalTicketLimit (t : Time) (s0 : State)  : State.held ((doCalTicketLimit t s0)) = State.held (State.at s0 t) := by
  unfold doCalTicketLimit
  repeat' (first | with_reducible rfl | simp only [↓held_calEnd, ↓ite_self, ↓held_ite] | split | rw [foldl_held] | rw [foldl_held1] | intro _ | rfl)
theorem held_calAbort (s : State) (keep : Nat → Bool)  : State.held ((State.calAbort s keep)) = State.held s := by
  unfold State.calAbort
  repeat' (first | with_reducible rfl | simp only [↓held_calDone, ↓held_calRelease, ↓held_calStart, held_mk, held_fold, ↓ite_self, ↓held_ite] | split | rw [foldl_held] | rw [foldl_held1] | intro _ | rfl)
theorem held_calBecalm (s : State)  : State.held ((State.calBecalm s)) = State.held s := by
  unfold State.calBecalm
  repeat' (first | with_reducible rfl | simp only [↓held_calAbort] | split | rw [foldl_held] | rw [foldl_held1] | intro _ | rfl)
theorem held_calHoldEntry (s : State)  : State.held ((State.calHoldEntry s)) = State.held s := by
  unfold State.calHoldEntry
  repeat' (first | with_reducible rfl | simp only [↓held_calAbort] | split | rw [foldl_held] | rw [foldl_held1] | intro _ | rfl)
theorem held_calSleep (s : State)  : State.held ((State.calSleep s)) = State.held s := by
  unfold State.calSleep
  repeat' (first | with_reducible rfl | simp only [↓held_calAbort, held_mk, held_fold] | split | rw [foldl_held] | rw [foldl_held1] | intro _ | rfl)
theorem held_doRefinAbsent (t : Time) (s0 : State)  : State.held ((doRefinAbsent t s0)) = State.held (State.at s0 t) := by
  unfold doRefinAbsent
  repeat' (first | with_reducible rfl | simp only [↓held_calEnd, ↓held_refinGone, ↓ite_self, ↓held_ite] | split | rw [foldl_held] | rw [foldl_held1] | intro _ | rfl)
theorem held_calFlip (s : State) (changed : List Nat)  : State.held ((State.calFlip s changed)) = State.held s := by
  unfold State.calFlip
  repeat' (first | with_reducible rfl | simp only [held_mk, held_fold, ↓ite_self, ↓held_ite] | split | rw [foldl_held] | rw [foldl_held1] | intro _ | rfl)
theorem held_calPreFlip (s : State)  : State.held ((State.calPreFlip s)) = State.held s := by
  unfold State.calPreFlip
  repeat' (first | with_reducible rfl | simp only [↓held_calEnd, held_mk, held_fold, ↓ite_self, ↓held_ite] | split | rw [foldl_held] | rw [foldl_held1] | intro _ | rfl)
theorem held_calApply (s : State)  : State.held ((State.calApply s)) = State.held s := by
  unfold State.calApply
  repeat' (first | with_reducible rfl | simp only [↓held_raise, held_mk, held_fold, ↓ite_self, ↓held_ite] | split | rw [foldl_held] | rw [foldl_held1] | intro _ | rfl)
theorem held_calAuto (s : State)  : State.held ((State.calAuto s).1) = State.held s := by
  unfold State.calAuto
  repeat' (first | with_reducible rfl | simp only [↓held_calQueue, ↓held_issueTicket, held_mk, held_fold, ↓ite_self, ↓held_ite1] | split | rw [foldl_held] | rw [foldl_held1] | intro _ | rfl)
theorem held_calTrigger (s : State)  : State.held ((State.calTrigger s)) = State.held s := by
  unfold State.calTrigger
  repeat' (first | with_reducible rfl | simp only [↓held_calAuto, ↓held_raise, held_mk, held_fold, ↓held_ite] | split | rw [foldl_held] | rw [foldl_held1] | intro _ | rfl)
theorem held_calBoundary (s : State)  : State.held ((State.calBoundary s)) = State.held s := by
  unfold State.calBoundary
  repeat' (first | with_reducible rfl | simp only [↓held_calApply, ↓held_calTrigger] | split | rw [foldl_held] | rw [foldl_held1] | intro _ | rfl)
theorem held_traceCommit (s : State) (k : U32)  : State.held ((State.traceCommit s k)) = State.held s := by
  unfold State.traceCommit
  repeat' (first | with_reducible rfl | simp only [↓held_storeCal, held_mk, held_fold] | split | rw [foldl_held] | rw [foldl_held1] | intro _ | rfl)
theorem held_calRequestAction (code : Nat) (k : U32) (s : State)  : State.held ((calRequestAction code k s)) = State.held s := by
  unfold calRequestAction
  repeat' (first | with_reducible rfl | simp only [↓held_calDone, ↓held_calQueue, ↓held_traceCommit, held_mk, held_fold, ↓ite_self, ↓held_ite] | split | rw [foldl_held] | rw [foldl_held1] | intro _ | rfl)
theorem held_timerStop (s : State)  : State.held ((State.timerStop s)) = State.held s := by
  unfold State.timerStop
  repeat' (first | with_reducible rfl | simp only [↓held_capTimerStop, held_mk, held_fold, ↓ite_self, ↓held_ite] | split | rw [foldl_held] | rw [foldl_held1] | intro _ | rfl)
theorem held_becalm (s : State) (cause : Nat)  : State.held ((State.becalm s cause)) = State.held s := by
  unfold State.becalm
  repeat' (first | with_reducible rfl | simp only [↓held_bankDischarge, ↓held_calBecalm, ↓held_enginePark, ↓held_mirrPark, ↓held_timerStop, ↓held_tripSet, held_mk, held_fold] | split | rw [foldl_held] | rw [foldl_held1] | intro _ | rfl)
theorem held_noteRedundancy (s : State)  : State.held ((State.noteRedundancy s)) = State.held s := by
  unfold State.noteRedundancy
  repeat' (first | with_reducible rfl | simp only [held_mk, held_fold, ↓ite_self, ↓held_ite] | split | rw [foldl_held] | rw [foldl_held1] | intro _ | rfl)
theorem held_setLaneState (s : State) (l : LaneId) (v : LaneState)  : State.held ((State.setLaneState s l v)) = State.held s := by
  unfold State.setLaneState
  repeat' (first | with_reducible rfl | simp only [↓held_modLane, ↓held_noteRedundancy, ↓held_raise, ↓ite_self, ↓held_ite] | split | rw [foldl_held] | rw [foldl_held1] | intro _ | rfl)
theorem held_laneOff (s : State) (l : LaneId)  : State.held ((State.laneOff s l)) = State.held s := by
  unfold State.laneOff
  repeat' (first | with_reducible rfl | simp only [↓held_modLane, ↓held_setLaneState] | split | rw [foldl_held] | rw [foldl_held1] | intro _ | rfl)
theorem held_rejoinLost (s : State)  : State.held ((State.rejoinLost s)) = State.held s := by
  unfold State.rejoinLost
  repeat' (first | with_reducible rfl | simp only [held_mk, held_fold] | split | rw [foldl_held] | rw [foldl_held1] | intro _ | rfl)
theorem held_abortRejoin (s : State) (reason : Nat)  : State.held ((State.abortRejoin s reason)) = State.held s := by
  unfold State.abortRejoin
  repeat' (first | with_reducible rfl | simp only [↓held_raise, ↓held_rejoinLost, ↓held_setLaneState] | split | rw [foldl_held] | rw [foldl_held1] | intro _ | rfl)
theorem held_startRejoin (s : State) (l : LaneId) (ticket : U32)  : State.held ((State.startRejoin s l ticket)) = State.held s := by
  unfold State.startRejoin
  repeat' (first | with_reducible rfl | simp only [↓held_count, ↓held_modLane, ↓held_raise, ↓held_setLaneState, held_mk, held_fold] | split | rw [foldl_held] | rw [foldl_held1] | intro _ | rfl)
theorem held_rejoinRestart (s : State)  : State.held ((State.rejoinRestart s)) = State.held s := by
  unfold State.rejoinRestart
  repeat' (first | with_reducible rfl | simp only [held_mk, held_fold, ↓ite_self, ↓held_ite] | split | rw [foldl_held] | rw [foldl_held1] | intro _ | rfl)
theorem held_laneRejoinAction (l : LaneId) (k : U32) (s : State)  : State.held ((laneRejoinAction l k s)) = State.held s := by
  unfold laneRejoinAction
  repeat' (first | with_reducible rfl | simp only [↓held_startRejoin] | split | rw [foldl_held] | rw [foldl_held1] | intro _ | rfl)
theorem held_doRejoinAutoStart (t : Time) (s0 : State)  : State.held ((doRejoinAutoStart t s0)) = State.held (State.at s0 t) := by
  unfold doRejoinAutoStart
  repeat' (first | with_reducible rfl | simp only [↓held_startRejoin] | split | rw [foldl_held] | rw [foldl_held1] | intro _ | rfl)
theorem held_doRejoinCopyDone (t : Time) (s0 : State)  : State.held ((doRejoinCopyDone t s0)) = State.held (State.at s0 t) := by
  unfold doRejoinCopyDone
  repeat' (first | with_reducible rfl | simp only [held_mk, held_fold, ↓ite_self, ↓held_ite] | split | rw [foldl_held] | rw [foldl_held1] | intro _ | rfl)
theorem held_rejoinTick (s : State) (tick : Time)  : State.held ((State.rejoinTick s tick)) = State.held s := by
  unfold State.rejoinTick
  repeat' (first | with_reducible rfl | simp only [held_mk, held_fold, ↓ite_self, ↓held_ite] | split | rw [foldl_held] | rw [foldl_held1] | intro _ | rfl)
theorem held_doRejoinSnapshot (t : Time) (s0 : State)  : State.held ((doRejoinSnapshot t s0)) = State.held (State.at s0 t) := by
  unfold doRejoinSnapshot
  repeat' (first | with_reducible rfl | simp only [↓held_modLane, ↓held_setLaneState, held_mk, held_fold, ↓ite_self, ↓held_ite] | split | rw [foldl_held] | rw [foldl_held1] | intro _ | rfl)
theorem held_modColumn (s : State) (seq : U32) (f : ColumnRec → ColumnRec)  : State.held ((State.modColumn s seq f)) = State.held s := by
  unfold State.modColumn
  repeat' (first | with_reducible rfl | simp only [held_mk, held_fold] | split | rw [foldl_held] | rw [foldl_held1] | intro _ | rfl)
theorem held_doLaneColumnDone (t : Time) (l : LaneId) (upset : List (Nat × Byte)) (s0 : State)  : State.held ((doLaneColumnDone t l upset s0)) = State.held (State.at s0 t) := by
  unfold doLaneColumnDone
  repeat' (first | with_reducible rfl | simp only [↓held_draw, ↓held_modColumn, ↓held_modLane, ↓ite_self, ↓held_ite] | split | rw [foldl_held] | rw [foldl_held1] | intro _ | rfl)
theorem held_writeAmbient (s : State) (l : LaneColumn)  : State.held ((State.writeAmbient s l)) = State.held s := by
  unfold State.writeAmbient
  repeat' (first | with_reducible rfl | simp only [↓held_modBand] | split | rw [foldl_held] | rw [foldl_held1] | intro _ | rfl)
theorem held_countColumn (s : State) (r : Released)  : State.held ((State.countColumn s r)) = State.held s := by
  unfold State.countColumn
  repeat' (first | with_reducible rfl | simp only [↓held_count, held_mk, held_fold] | split | rw [foldl_held] | rw [foldl_held1] | intro _ | rfl)
theorem held_giveToken (s : State) (l : LaneId)  : State.held ((State.giveToken s l)) = State.held s := by
  unfold State.giveToken
  repeat' (first | with_reducible rfl | simp only [↓held_follow, ↓held_setLaneState, ↓held_tripSet, held_mk, held_fold] | split | rw [foldl_held] | rw [foldl_held1] | intro _ | rfl)
theorem held_lapse (s : State) (cause : Nat)  : State.held ((State.lapse s cause)) = State.held s := by
  unfold State.lapse
  repeat' (first | with_reducible rfl | simp only [↓held_abortRejoin, ↓held_becalm, ↓held_capSettle, ↓held_raise, ↓held_setLaneState, ↓held_tripSet, held_mk, held_fold, ↓ite_self, ↓held_ite] | split | rw [foldl_held] | rw [foldl_held1] | intro _ | rfl)
theorem held_doLeaseConfirmTimeout (t : Time) (s0 : State)  : State.held ((doLeaseConfirmTimeout t s0)) = State.held (State.at s0 t) := by
  unfold doLeaseConfirmTimeout
  repeat' (first | with_reducible rfl | simp only [↓held_lapse, ↓held_setLaneState, ↓ite_self, ↓held_ite] | split | rw [foldl_held] | rw [foldl_held1] | intro _ | rfl)
theorem held_noteMismatch (s : State) (x : ColumnRec)  : State.held ((State.noteMismatch s x)) = State.held s := by
  unfold State.noteMismatch
  repeat' (first | with_reducible rfl | simp only [↓held_count, ↓held_raise, held_mk, held_fold, ↓ite_self, ↓held_ite] | split | rw [foldl_held] | rw [foldl_held1] | intro _ | rfl)
theorem held_qualify (s : State) (l : LaneId) (v : Option Nat)  : State.held ((State.qualify s l v)) = State.held s := by
  unfold State.qualify
  repeat' (first | with_reducible rfl | simp only [↓held_modLane, ↓held_raise, ↓held_setLaneState, held_mk, held_fold, ↓ite_self, ↓held_ite] | split | rw [foldl_held] | rw [foldl_held1] | intro _ | rfl)
theorem held_towpathHear (s : State) (l : LaneId)  : State.held ((State.towpathHear s l)) = State.held s := by
  unfold State.towpathHear
  repeat' (first | with_reducible rfl | simp only [held_mk, held_fold, ↓ite_self, ↓held_ite] | split | rw [foldl_held] | rw [foldl_held1] | intro _ | rfl)
theorem held_testMoors (s : State) (l : LaneId)  : State.held ((State.testMoors s l)) = State.held s := by
  unfold State.testMoors
  repeat' (first | with_reducible rfl | simp only [↓held_rejoinLost, ↓held_setLaneState, ↓ite_self, ↓held_ite] | split | rw [foldl_held] | rw [foldl_held1] | intro _ | rfl)
theorem held_doLinkLost (t : Time) (l : LaneId) (s0 : State)  : State.held ((doLinkLost t l s0)) = State.held (State.at s0 t) := by
  unfold doLinkLost
  repeat' (first | with_reducible rfl | simp only [held_mk, held_fold, ↓ite_self, ↓held_ite] | split | rw [foldl_held] | rw [foldl_held1] | intro _ | rfl)
theorem held_towpathDown (s : State)  : State.held ((State.towpathDown s)) = State.held s := by
  unfold State.towpathDown
  repeat' (first | with_reducible rfl | simp only [↓held_abortRejoin, ↓held_count, ↓held_raise, ↓held_setLaneState, held_mk, held_fold, ↓ite_self, ↓held_ite] | split | rw [foldl_held] | rw [foldl_held1] | intro _ | rfl)
theorem held_doTowpathPendingTimeout (t : Time) (s0 : State)  : State.held ((doTowpathPendingTimeout t s0)) = State.held (State.at s0 t) := by
  unfold doTowpathPendingTimeout
  repeat' (first | with_reducible rfl | simp only [↓held_towpathDown, held_mk, held_fold, ↓ite_self, ↓held_ite] | split | rw [foldl_held] | rw [foldl_held1] | intro _ | rfl)
theorem held_doTowpathGraceExpiry (t : Time) (s0 : State)  : State.held ((doTowpathGraceExpiry t s0)) = State.held (State.at s0 t) := by
  unfold doTowpathGraceExpiry
  repeat' (first | with_reducible rfl | simp only [↓held_raise, held_mk, held_fold, ↓ite_self, ↓held_ite] | split | rw [foldl_held] | rw [foldl_held1] | intro _ | rfl)
theorem held_doTowpathUp (t : Time) (s0 : State)  : State.held ((doTowpathUp t s0)) = State.held (State.at s0 t) := by
  unfold doTowpathUp
  repeat' (first | with_reducible rfl | simp only [↓held_raise, held_mk, held_fold, ↓ite_self, ↓held_ite] | split | rw [foldl_held] | rw [foldl_held1] | intro _ | rfl)
theorem held_lanesStart (s : State)  : State.held ((State.lanesStart s)) = State.held s := by
  unfold State.lanesStart
  repeat' (first | with_reducible rfl | simp only [↓held_modLane, held_mk, held_fold] | split | rw [foldl_held] | rw [foldl_held1] | intro _ | rfl)
theorem held_laneJoin (s : State) (l : LaneId)  : State.held ((State.laneJoin s l)) = State.held s := by
  unfold State.laneJoin
  repeat' (first | with_reducible rfl | simp only [↓held_setLaneState, ↓held_startRejoin, ↓ite_self, ↓held_ite] | split | rw [foldl_held] | rw [foldl_held1] | intro _ | rfl)
theorem held_doLaneReady (t : Time) (l : LaneId) (s0 : State)  : State.held ((doLaneReady t l s0)) = State.held (State.at s0 t) := by
  unfold doLaneReady
  repeat' (first | with_reducible rfl | simp only [↓held_giveToken, ↓held_laneJoin, ↓held_modLane, ↓ite_self, ↓held_ite] | split | rw [foldl_held] | rw [foldl_held1] | intro _ | rfl)
theorem held_doLanePreferredTimeout (t : Time) (s0 : State)  : State.held ((doLanePreferredTimeout t s0)) = State.held (State.at s0 t) := by
  unfold doLanePreferredTimeout
  repeat' (first | with_reducible rfl | simp only [↓held_giveToken, ↓held_modLane, ↓held_raise, held_mk, held_fold, ↓ite_self, ↓held_ite] | split | rw [foldl_held] | rw [foldl_held1] | intro _ | rfl)
theorem held_modSession (s : State) (tr : Transport) (num : Byte) (f : Session → Session)  : State.held ((State.modSession s tr num f)) = State.held s := by
  unfold State.modSession
  repeat' (first | with_reducible rfl | simp only [held_mk, held_fold] | split | rw [foldl_held] | rw [foldl_held1] | intro _ | rfl)
theorem held_abandonLock (s : State) (tr : Transport) (num : Byte) (reason : Nat)  : State.held ((State.abandonLock s tr num reason)) = State.held s := by
  unfold State.abandonLock
  repeat' (first | with_reducible rfl | simp only [↓held_modSession, ↓held_raise, ↓ite_self, ↓held_ite] | split | rw [foldl_held] | rw [foldl_held1] | intro _ | rfl)
theorem held_closeSession (s : State) (tr : Transport) (num : Byte) (reason : Nat)  : State.held ((State.closeSession s tr num reason)) = State.held s := by
  unfold State.closeSession
  repeat' (first | with_reducible rfl | simp only [↓held_abandonLock, ↓held_endSubs, ↓held_raise, held_mk, held_fold] | split | rw [foldl_held] | rw [foldl_held1] | intro _ | rfl)
theorem held_closeSessions (s : State) (p : Session → Bool) (reason : Nat)  : State.held ((State.closeSessions s p reason)) = State.held s := by
  unfold State.closeSessions
  repeat' (first | with_reducible rfl | simp only [↓held_closeSession] | split | rw [foldl_held] | rw [foldl_held1] | intro _ | rfl)
theorem held_linkLost (s : State)  : State.held ((State.linkLost s)) = State.held s := by
  unfold State.linkLost
  repeat' (first | with_reducible rfl | simp only [↓held_raise, ↓held_streamLost, held_mk, held_fold, ↓ite_self, ↓held_ite] | split | rw [foldl_held] | rw [foldl_held1] | intro _ | rfl)
theorem held_networkFlip (s : State) (changed : List Nat)  : State.held ((State.networkFlip s changed)) = State.held s := by
  unfold State.networkFlip
  repeat' (first | with_reducible rfl | simp only [↓held_closeSessions, ↓held_linkLost, ↓ite_self, ↓held_ite] | split | rw [foldl_held] | rw [foldl_held1] | intro _ | rfl)
theorem held_closeWindows (s : State)  : State.held ((State.closeWindows s)) = State.held s := by
  unfold State.closeWindows
  repeat' (first | with_reducible rfl | simp only [↓held_modEngine, held_mk, held_fold] | split | rw [foldl_held] | rw [foldl_held1] | intro _ | rfl)
theorem held_endColumn (s : State) (x : TickIn) (e : Time) (boundary : Bool)  : State.held ((State.endColumn s x e boundary)) = State.held s := by
  unfold State.endColumn
  repeat' (first | with_reducible rfl | simp only [↓held_bandsEnd, ↓held_closeWindows, held_mk, held_fold] | split | rw [foldl_held] | rw [foldl_held1] | intro _ | rfl)
theorem held_openColumn (s : State) (e : Time) (c : Nat)  : State.held ((State.openColumn s e c)) = State.held s := by
  unfold State.openColumn
  repeat' (first | with_reducible rfl | simp only [↓held_openSection, ↓held_rejoinTick, ↓held_stepBias, held_mk, held_fold] | split | rw [foldl_held] | rw [foldl_held1] | intro _ | rfl)
theorem held_openFirst (s : State)  : State.held ((State.openFirst s)) = State.held s := by
  unfold State.openFirst
  repeat' (first | with_reducible rfl | simp only [held_mk, held_fold] | split | rw [foldl_held] | rw [foldl_held1] | intro _ | rfl)
theorem held_doColumnTick (t : Time) (x : TickIn) (s0 : State)  : State.held ((doColumnTick t x s0)) = State.held (State.at s0 t) := by
  unfold doColumnTick
  repeat' (first | with_reducible rfl | simp only [↓held_bandsStart, ↓held_closeWindows, ↓held_endColumn, ↓held_openColumn, ↓held_openFirst, ↓ite_self, ↓held_ite] | split | rw [foldl_held] | rw [foldl_held1] | intro _ | rfl)
theorem held_restoreBars (s : State) (counted : BitVec 16)  : State.held ((State.restoreBars s counted)) = State.held s := by
  unfold State.restoreBars
  repeat' (first | with_reducible rfl | simp only [↓held_raise, held_mk, held_fold, ↓held_ite] | split | rw [foldl_held] | rw [foldl_held1] | intro _ | rfl)
theorem held_planFlip (s : State) (old : Cfg) (idle : Bool) (changed : List Nat)  : State.held ((State.planFlip s old idle changed)) = State.held s := by
  unfold State.planFlip
  repeat' (first | with_reducible rfl | simp only [↓held_raise, held_mk, held_fold, ↓held_ite] | split | rw [foldl_held] | rw [foldl_held1] | intro _ | rfl)
theorem held_rangeFlip (s : State) (idle : Bool) (changed : List Nat)  : State.held ((State.rangeFlip s idle changed)) = State.held s := by
  unfold State.rangeFlip
  repeat' (first | with_reducible rfl | simp only [↓held_applyRange, held_mk, held_fold, ↓ite_self, ↓held_ite] | split | rw [foldl_held] | rw [foldl_held1] | intro _ | rfl)
theorem held_applyCfg (s : State) (new : Store) (counted : BitVec 16) (idle : Bool)  : State.held ((State.applyCfg s new counted idle).1) = State.held s := by
  unfold State.applyCfg
  repeat' (first | with_reducible rfl | simp only [↓held_bankRetarget, ↓held_biasFlip, ↓held_busFlip, ↓held_calFlip, ↓held_captureFlip, ↓held_coincFlip, ↓held_modEngine, ↓held_networkFlip, ↓held_phaseFlip, ↓held_planFlip, ↓held_rangeFlip, ↓held_refreshBands, ↓held_rejoinRestart, ↓held_restoreBars, ↓held_tinFlip, held_mk, held_fold, ↓ite_self, ↓held_ite] | split | rw [foldl_held] | rw [foldl_held1] | intro _ | rfl)
theorem held_lockFlip (s : State) (k : Commit) (idle : Bool)  : State.held ((State.lockFlip s k idle).1) = State.held s := by
  unfold State.lockFlip
  repeat' (first | with_reducible rfl | simp only [↓held_applyCfg, ↓held_modSession, ↓held_raise, ↓held_writeVersion, held_mk, held_fold, ↓ite_self, ↓held_ite] | split | rw [foldl_held] | rw [foldl_held1] | intro _ | rfl)
theorem held_revertFlip (s : State) (left num ticket : U32) (idle : Bool)  : State.held ((State.revertFlip s left num ticket idle).1) = State.held s := by
  unfold State.revertFlip
  repeat' (first | with_reducible rfl | simp only [↓held_applyCfg, ↓held_raise, held_mk, held_fold] | split | rw [foldl_held] | rw [foldl_held1] | intro _ | rfl)
theorem held_doLockIdleFlip (t : Time) (s0 : State)  : State.held ((doLockIdleFlip t s0)) = State.held (State.at s0 t) := by
  unfold doLockIdleFlip
  repeat' (first | with_reducible rfl | simp only [↓held_lockFlip, ↓held_revertFlip, ↓ite_self, ↓held_ite] | split | rw [foldl_held] | rw [foldl_held1] | intro _ | rfl)
theorem held_lockMove (s : State) (k : Commit) (dom : Nat)  : State.held ((State.lockMove s k dom)) = State.held s := by
  unfold State.lockMove
  repeat' (first | with_reducible rfl | simp only [↓held_modSession, ↓held_raise, held_mk, held_fold, ↓ite_self, ↓held_ite] | split | rw [foldl_held] | rw [foldl_held1] | intro _ | rfl)
theorem held_boundaryLock (s : State) (e : Time) (unconfirmed : Option Nat)  : State.held ((State.boundaryLock s e unconfirmed).1) = State.held s := by
  unfold State.boundaryLock
  repeat' (first | with_reducible rfl | simp only [↓held_lockFlip, ↓held_lockMove, ↓held_ite1] | split | rw [foldl_held] | rw [foldl_held1] | intro _ | rfl)
theorem held_boundaryFlips (s : State) (e : Time) (unconfirmed : Option Nat)  : State.held ((State.boundaryFlips s e unconfirmed).1) = State.held s := by
  unfold State.boundaryFlips
  repeat' (first | with_reducible rfl | simp only [↓held_boundaryLock, ↓held_revertFlip] | split | rw [foldl_held] | rw [foldl_held1] | intro _ | rfl)
theorem held_frameEvents (s : State)  : State.held ((State.frameEvents s)) = State.held s := by
  unfold State.frameEvents
  repeat' (first | with_reducible rfl | simp only [↓held_raise, held_mk, held_fold, ↓ite_self, ↓held_ite] | split | rw [foldl_held] | rw [foldl_held1] | intro _ | rfl)
theorem held_throttleBoundary (s : State)  : State.held ((State.throttleBoundary s)) = State.held s := by
  unfold State.throttleBoundary
  repeat' (first | with_reducible rfl | simp only [↓held_count, held_mk, held_fold] | split | rw [foldl_held] | rw [foldl_held1] | intro _ | rfl)
theorem held_xtalBoundary (s : State)  : State.held ((State.xtalBoundary s)) = State.held s := by
  unfold State.xtalBoundary
  repeat' (first | with_reducible rfl | simp only [held_mk, held_fold] | split | rw [foldl_held] | rw [foldl_held1] | intro _ | rfl)
theorem held_beginFrame (s : State) (e : Time)  : State.held ((State.beginFrame s e)) = State.held s := by
  unfold State.beginFrame
  repeat' (first | with_reducible rfl | simp only [↓held_noteRedundancy, held_mk, held_fold] | split | rw [foldl_held] | rw [foldl_held1] | intro _ | rfl)
theorem held_frameOpens (s : State) (old : Cfg) (columns period : Nat) (flip : Option (List Nat)) (e : Time)  : State.held ((State.frameOpens s old columns period flip e)) = State.held s := by
  unfold State.frameOpens
  repeat' (first | with_reducible rfl | simp only [↓held_beginFrame, ↓held_engineBoundary, ↓held_openSection, ↓held_rangeBoundary] | split | rw [foldl_held] | rw [foldl_held1] | intro _ | rfl)
theorem held_frameUpdates (s : State) (old : Cfg) (columns period : Nat) (ran : Bool) (flip : Option (List Nat)) (e : Time)  : State.held ((State.frameUpdates s old columns period ran flip e)) = State.held s := by
  unfold State.frameUpdates
  repeat' (first | with_reducible rfl | simp only [↓held_busAlign, ↓held_busBoundary, ↓held_calBoundary, ↓held_emitBoundary, ↓held_frameOpens, ↓held_rejoinTick, ↓held_stepBias, ↓held_throttleBoundary, ↓held_wakeRestarted, ↓held_xtalBoundary] | split | rw [foldl_held] | rw [foldl_held1] | intro _ | rfl)
theorem held_frameTurn (s : State) (e : Time) (unconfirmed : Option Nat)  : State.held ((State.frameTurn s e unconfirmed)) = State.held s := by
  unfold State.frameTurn
  repeat' (first | with_reducible rfl | simp only [↓held_boundaryFlips, ↓held_calPreFlip, ↓held_frameEvents, ↓held_frameUpdates, ↓held_phaseBoundary, held_mk, held_fold] | split | rw [foldl_held] | rw [foldl_held1] | intro _ | rfl)
theorem held_timerStart (s : State) (e : Time)  : State.held ((State.timerStart s e)) = State.held s := by
  unfold State.timerStart
  repeat' (first | with_reducible rfl | simp only [↓held_capTimerStart, ↓held_frameUpdates, ↓held_phaseStart, held_mk, held_fold, ↓ite_self, ↓held_ite] | split | rw [foldl_held] | rw [foldl_held1] | intro _ | rfl)
theorem held_timerEnd (s : State)  : State.held ((State.timerEnd s)) = State.held s := by
  unfold State.timerEnd
  repeat' (first | with_reducible rfl | simp only [↓held_capTimerStop, held_mk, held_fold] | split | rw [foldl_held] | rw [foldl_held1] | intro _ | rfl)
theorem held_keepCap (s : State) (r : CapResult)  : State.held ((State.keepCap s r)) = State.held s := by
  unfold State.keepCap
  repeat' (first | with_reducible rfl | simp only [held_mk, held_fold] | split | rw [foldl_held] | rw [foldl_held1] | intro _ | rfl)
theorem held_enterBackoff (s : State) (level : Nat)  : State.held ((State.enterBackoff s level)) = State.held s := by
  unfold State.enterBackoff
  repeat' (first | with_reducible rfl | simp only [↓held_flashQueue, ↓held_raise, held_mk, held_fold] | split | rw [foldl_held] | rw [foldl_held1] | intro _ | rfl)
theorem held_authFail (s : State) (role : Nat) (tr : Transport)  : State.held ((State.authFail s role tr)) = State.held s := by
  unfold State.authFail
  repeat' (first | with_reducible rfl | simp only [↓held_count, ↓held_enterBackoff, ↓held_raise, held_mk, held_fold, ↓ite_self, ↓held_ite] | split | rw [foldl_held] | rw [foldl_held1] | intro _ | rfl)
theorem held_doBackoffEnd (t : Time) (s0 : State)  : State.held ((doBackoffEnd t s0)) = State.held (State.at s0 t) := by
  unfold doBackoffEnd
  repeat' (first | with_reducible rfl | simp only [↓held_raise, held_mk, held_fold, ↓ite_self, ↓held_ite] | split | rw [foldl_held] | rw [foldl_held1] | intro _ | rfl)
theorem held_secSleep (s : State)  : State.held ((State.secSleep s)) = State.held s := by
  unfold State.secSleep
  repeat' (first | with_reducible rfl | simp only [held_mk, held_fold] | split | rw [foldl_held] | rw [foldl_held1] | intro _ | rfl)
theorem held_versionCommit (s : State) (num lockId : U32) (time : U64) (values : Store)  : State.held ((State.versionCommit s num lockId time values)) = State.held s := by
  unfold State.versionCommit
  repeat' (first | with_reducible rfl | simp only [↓held_count, ↓held_raise, held_mk, held_fold] | split | rw [foldl_held] | rw [foldl_held1] | intro _ | rfl)
theorem held_modVersion (s : State) (num : U32) (f : Version → Version)  : State.held ((State.modVersion s num f)) = State.held s := by
  unfold State.modVersion
  repeat' (first | with_reducible rfl | simp only [held_mk, held_fold] | split | rw [foldl_held] | rw [foldl_held1] | intro _ | rfl)
theorem held_pointerCommit (s : State) (num ticket : U32)  : State.held ((State.pointerCommit s num ticket)) = State.held s := by
  unfold State.pointerCommit
  repeat' (first | with_reducible rfl | simp only [held_mk, held_fold] | split | rw [foldl_held] | rw [foldl_held1] | intro _ | rfl)
theorem held_confirmCommit (s : State) (num : U32)  : State.held ((State.confirmCommit s num)) = State.held s := by
  unfold State.confirmCommit
  repeat' (first | with_reducible rfl | simp only [↓held_modVersion, held_mk, held_fold, ↓ite_self, ↓held_ite] | split | rw [foldl_held] | rw [foldl_held1] | intro _ | rfl)
theorem held_calCommit (s : State) (ticket : U32) (mask : Nat)  : State.held ((State.calCommit s ticket mask)) = State.held s := by
  unfold State.calCommit
  repeat' (first | with_reducible rfl | simp only [↓held_calDone, ↓held_raise, held_mk, held_fold, ↓ite_self, ↓held_ite] | split | rw [foldl_held] | rw [foldl_held1] | intro _ | rfl)
theorem held_fwConfirmed (s : State) (slot : Nat)  : State.held ((State.fwConfirmed s slot)) = State.held s := by
  unfold State.fwConfirmed
  repeat' (first | with_reducible rfl | simp only [↓held_modSlot, ↓held_raise, held_mk, held_fold] | split | rw [foldl_held] | rw [foldl_held1] | intro _ | rfl)
theorem held_dropWork (s : State) (work : FlashWork)  : State.held ((State.dropWork s work)) = State.held s := by
  unfold State.dropWork
  repeat' (first | with_reducible rfl | simp only [held_mk, held_fold] | split | rw [foldl_held] | rw [foldl_held1] | intro _ | rfl)
theorem held_fwAbandon (s : State)  : State.held ((State.fwAbandon s)) = State.held s := by
  unfold State.fwAbandon
  repeat' (first | with_reducible rfl | simp only [↓held_modSlot, held_mk, held_fold] | split | rw [foldl_held] | rw [foldl_held1] | intro _ | rfl)
theorem held_workFailed (s : State) (work : FlashWork)  : State.held ((State.workFailed s work)) = State.held s := by
  unfold State.workFailed
  repeat' (first | with_reducible rfl | simp only [↓held_calDone, ↓held_dropWork, ↓held_fwAbandon, ↓held_skipCopy, held_mk, held_fold, ↓ite_self, ↓held_ite] | split | rw [foldl_held] | rw [foldl_held1] | intro _ | rfl)
theorem held_doFlashWaitTimeout (t : Time) (s0 : State)  : State.held ((doFlashWaitTimeout t s0)) = State.held (State.at s0 t) := by
  unfold doFlashWaitTimeout
  repeat' (first | with_reducible rfl | simp only [↓held_flashKick, ↓held_workFailed, ↓ite_self, ↓held_ite] | split | rw [foldl_held] | rw [foldl_held1] | intro _ | rfl)
theorem held_recClearAction (s : State)  : State.held ((recClearAction s)) = State.held s := by
  unfold recClearAction
  repeat' (first | with_reducible rfl | simp only [↓held_flashQueue, held_mk, held_fold] | split | rw [foldl_held] | rw [foldl_held1] | intro _ | rfl)
theorem held_versionRevertAction (value : Nat) (k : U32) (s : State)  : State.held ((versionRevertAction value k s)) = State.held s := by
  unfold versionRevertAction
  repeat' (first | with_reducible rfl | simp only [↓held_flashItem, ↓held_keepCap] | split | rw [foldl_held] | rw [foldl_held1] | intro _ | rfl)
theorem held_rejectVersion (s : State) (num : U32)  : State.held ((State.rejectVersion s num)) = State.held s := by
  unfold State.rejectVersion
  repeat' (first | with_reducible rfl | simp only [↓held_modVersion, ↓held_raise, held_mk, held_fold] | split | rw [foldl_held] | rw [foldl_held1] | intro _ | rfl)
theorem held_loadVersion (n : Nat) (s : State)  : State.held ((State.loadVersion n s)) = State.held s := by
  induction n generalizing s with
  | zero => rfl
  | succ n ih =>
    unfold State.loadVersion
    repeat' (first | with_reducible rfl | simp only [↓held_keepCap, ↓held_raise, ↓held_rejectVersion, held_mk, held_fold, ih, ↓ite_self, ↓held_ite] | split | rw [foldl_held] | intro _ | rfl)
theorem held_repairCopy (s : State)  : State.held ((State.repairCopy s)) = State.held s := by
  unfold State.repairCopy
  repeat' (first | with_reducible rfl | simp only [↓held_flashItem, ↓held_raise, ↓ite_self, ↓held_ite] | split | rw [foldl_held] | rw [foldl_held1] | intro _ | rfl)
theorem held_restoreCal (s : State)  : State.held ((State.restoreCal s)) = State.held s := by
  unfold State.restoreCal
  repeat' (first | with_reducible rfl | simp only [held_mk, held_fold] | split | rw [foldl_held] | rw [foldl_held1] | intro _ | rfl)
theorem held_confirmBoot (s : State)  : State.held ((State.confirmBoot s)) = State.held s := by
  unfold State.confirmBoot
  repeat' (first | with_reducible rfl | simp only [↓held_flashItem, held_mk, held_fold, ↓ite_self, ↓held_ite] | split | rw [foldl_held] | rw [foldl_held1] | intro _ | rfl)
theorem held_fwBeginAction (s : State)  : State.held ((fwBeginAction s)) = State.held s := by
  unfold fwBeginAction
  repeat' (first | with_reducible rfl | simp only [↓held_flashQueue, ↓held_modSlot, held_mk, held_fold] | split | rw [foldl_held] | rw [foldl_held1] | intro _ | rfl)
theorem held_fwPages (s : State) (before after : Nat)  : State.held ((State.fwPages s before after)) = State.held s := by
  unfold State.fwPages
  repeat' (first | with_reducible rfl | simp only [↓held_flashQueue] | split | rw [foldl_held] | rw [foldl_held1] | intro _ | rfl)
theorem held_fwActivateAction (k : U32) (s : State)  : State.held ((fwActivateAction k s)) = State.held s := by
  unfold fwActivateAction
  repeat' (first | with_reducible rfl | simp only [↓held_flashItem] | split | rw [foldl_held] | rw [foldl_held1] | intro _ | rfl)
theorem held_imageVerdict (s0 : State)  : State.held ((State.imageVerdict s0).1) = State.held s0 := by
  unfold State.imageVerdict
  repeat' (first | with_reducible rfl | simp only [↓held_fwAbandon, ↓held_modSlot, ↓held_raise, held_mk, held_fold, ↓held_ite1] | split | rw [foldl_held] | rw [foldl_held1] | intro _ | rfl)
theorem held_trialFailed (s : State) (slot cause : Nat)  : State.held ((State.trialFailed s slot cause)) = State.held s := by
  unfold State.trialFailed
  repeat' (first | with_reducible rfl | simp only [↓held_modSlot, ↓held_raise, held_mk, held_fold] | split | rw [foldl_held] | rw [foldl_held1] | intro _ | rfl)
theorem held_bootActive (s : State) (good : Nat → Bool)  : State.held ((State.bootActive s good)) = State.held s := by
  unfold State.bootActive
  repeat' (first | with_reducible rfl | simp only [↓held_raise, held_mk, held_fold, ↓ite_self, ↓held_ite] | split | rw [foldl_held] | rw [foldl_held1] | intro _ | rfl)
theorem held_bootFirmware (s0 : State) (x : BootIn)  : State.held ((State.bootFirmware s0 x)) = State.held s0 := by
  unfold State.bootFirmware
  repeat' (first | with_reducible rfl | simp only [↓held_bootActive, ↓held_modSlot, ↓held_trialFailed, held_mk, held_fold, ↓ite_self, ↓held_ite] | split | rw [foldl_held] | rw [foldl_held1] | intro _ | rfl)
theorem held_writeLoss (s : State) (trigger : Nat)  : State.held ((State.writeLoss s trigger)) = State.held s := by
  unfold State.writeLoss
  repeat' (first | with_reducible rfl | simp only [held_mk, held_fold, ↓ite_self, ↓held_ite] | split | rw [foldl_held] | rw [foldl_held1] | intro _ | rfl)
theorem held_flashLost (s : State)  : State.held ((State.flashLost s)) = State.held s := by
  unfold State.flashLost
  repeat' (first | with_reducible rfl | simp only [held_mk, held_fold] | split | rw [foldl_held] | rw [foldl_held1] | intro _ | rfl)
theorem held_shotUp (s : State)  : State.held ((State.shotUp s)) = State.held s := by
  unfold State.shotUp
  repeat' (first | with_reducible rfl | simp only [held_mk, held_fold] | split | rw [foldl_held] | rw [foldl_held1] | intro _ | rfl)
theorem held_hkaUp (s : State)  : State.held ((State.hkaUp s)) = State.held s := by
  unfold State.hkaUp
  repeat' (first | with_reducible rfl | simp only [held_mk, held_fold] | split | rw [foldl_held] | rw [foldl_held1] | intro _ | rfl)
theorem held_bandUp (s : State) (b : Nat)  : State.held ((State.bandUp s b)) = State.held s := by
  unfold State.bandUp
  repeat' (first | with_reducible rfl | simp only [↓held_modBand] | split | rw [foldl_held] | rw [foldl_held1] | intro _ | rfl)
theorem held_domOn (s : State) (d : Nat)  : State.held ((State.domOn s d)) = State.held s := by
  unfold State.domOn
  repeat' (first | with_reducible rfl | simp only [↓held_bandUp, ↓held_busWake, ↓held_fsyncWake, ↓held_hkaUp, ↓held_setDom, ↓held_shotUp, ↓held_tinWake, held_mk, held_fold, ↓ite_self, ↓held_ite] | split | rw [foldl_held] | rw [foldl_held1] | intro _ | rfl)
theorem held_domDown (s : State) (d mem : Nat)  : State.held ((State.domDown s d mem)) = State.held s := by
  unfold State.domDown
  repeat' (first | with_reducible rfl | simp only [↓held_bankDischarge, ↓held_capDiscard, ↓held_flashLost, ↓held_laneOff, ↓held_modBand, ↓held_secSleep, ↓held_streamLost, ↓held_timxIsolate, held_mk, held_fold, ↓ite_self, ↓held_ite] | split | rw [foldl_held] | rw [foldl_held1] | intro _ | rfl)
theorem held_domOff (s : State) (mem d : Nat)  : State.held ((State.domOff s mem d)) = State.held s := by
  unfold State.domOff
  repeat' (first | with_reducible rfl | simp only [↓held_domDown, ↓held_setDom] | split | rw [foldl_held] | rw [foldl_held1] | intro _ | rfl)
theorem held_domsOn (s : State) (l : List Nat)  : State.held ((State.domsOn s l)) = State.held s := by
  unfold State.domsOn
  repeat' (first | with_reducible rfl | simp only [↓held_domOn] | split | rw [foldl_held] | rw [foldl_held1] | intro _ | rfl)
theorem held_domsOff (s : State) (mem : Nat) (l : List Nat)  : State.held ((State.domsOff s mem l)) = State.held s := by
  unfold State.domsOff
  repeat' (first | with_reducible rfl | simp only [↓held_domOff] | split | rw [foldl_held] | rw [foldl_held1] | intro _ | rfl)
theorem held_becalmPower (s : State) (cause dom : Nat)  : State.held ((State.becalmPower s cause dom)) = State.held s := by
  unfold State.becalmPower
  repeat' (first | with_reducible rfl | simp only [↓held_becalm, ↓held_raise, held_mk, held_fold] | split | rw [foldl_held] | rw [foldl_held1] | intro _ | rfl)
theorem held_xtalFallback (s : State)  : State.held ((State.xtalFallback s)) = State.held s := by
  unfold State.xtalFallback
  repeat' (first | with_reducible rfl | simp only [↓held_becalmPower, ↓held_raise, held_mk, held_fold] | split | rw [foldl_held] | rw [foldl_held1] | intro _ | rfl)
theorem held_doXtalFallback (t : Time) (s0 : State)  : State.held ((doXtalFallback t s0)) = State.held (State.at s0 t) := by
  unfold doXtalFallback
  repeat' (first | with_reducible rfl | simp only [↓held_xtalFallback, ↓ite_self, ↓held_ite] | split | rw [foldl_held] | rw [foldl_held1] | intro _ | rfl)
theorem held_stateChanged (s : State) (old new : Power) (who : Requester)  : State.held ((State.stateChanged s old new who)) = State.held s := by
  unfold State.stateChanged
  repeat' (first | with_reducible rfl | simp only [↓held_draw, ↓held_raise, ↓ite_self, ↓held_ite] | split | rw [foldl_held] | rw [foldl_held1] | intro _ | rfl)
theorem held_scanUp (s : State)  : State.held ((State.scanUp s)) = State.held s := by
  unfold State.scanUp
  repeat' (first | with_reducible rfl | simp only [↓held_domsOn] | split | rw [foldl_held] | rw [foldl_held1] | intro _ | rfl)
theorem held_wakeStart (s : State) (goal : Power) (who : Requester)  : State.held ((State.wakeStart s goal who)) = State.held s := by
  unfold State.wakeStart
  repeat' (first | with_reducible rfl | simp only [↓held_domsOn, ↓held_lanesStart, ↓held_scanUp, held_mk, held_fold] | split | rw [foldl_held] | rw [foldl_held1] | intro _ | rfl)
theorem held_refusal (s : State) (target : Power) (code : Nat) (ticket : U32)  : State.held ((State.refusal s target code ticket)) = State.held s := by
  unfold State.refusal
  repeat' (first | with_reducible rfl | simp only [↓held_count, ↓held_raise] | split | rw [foldl_held] | rw [foldl_held1] | intro _ | rfl)
theorem held_setEntry (s : State) (e : Option Entry)  : State.held ((State.setEntry s e)) = State.held s := by
  unfold State.setEntry
  repeat' (first | with_reducible rfl | simp only [held_mk, held_fold] | split | rw [foldl_held] | rw [foldl_held1] | intro _ | rfl)
theorem held_refuseEntry (s : State) (e : Entry) (codes : List Nat)  : State.held ((State.refuseEntry s e codes)) = State.held s := by
  unfold State.refuseEntry
  repeat' (first | with_reducible rfl | simp only [↓held_refusal, ↓held_setEntry] | split | rw [foldl_held] | rw [foldl_held1] | intro _ | rfl)
theorem held_pinFails (s : State) (who : Requester)  : State.held ((State.pinFails s who)) = State.held s := by
  unfold State.pinFails
  repeat' (first | with_reducible rfl | simp only [held_mk, held_fold, ↓ite_self, ↓held_ite] | split | rw [foldl_held] | rw [foldl_held1] | intro _ | rfl)
theorem held_abandonEntry (s : State) (e : Entry) (point reason : Nat)  : State.held ((State.abandonEntry s e point reason)) = State.held s := by
  unfold State.abandonEntry
  repeat' (first | with_reducible rfl | simp only [↓held_calStart, ↓held_count, ↓held_flashKick, ↓held_pinFails, ↓held_raise, ↓held_setEntry, ↓held_wakeStart, ↓ite_self, ↓held_ite] | split | rw [foldl_held] | rw [foldl_held1] | intro _ | rfl)
theorem held_entryP3 (s : State) (e : Entry)  : State.held ((State.entryP3 s e)) = State.held s := by
  unfold State.entryP3
  repeat' (first | with_reducible rfl | simp only [↓held_abandonEntry, ↓held_raise, ↓held_setEntry] | split | rw [foldl_held] | rw [foldl_held1] | intro _ | rfl)
theorem held_entryP2 (s : State) (e : Entry)  : State.held ((State.entryP2 s e).1) = State.held s := by
  unfold State.entryP2
  repeat' (first | with_reducible rfl | simp only [↓held_abandonEntry, ↓held_bankDischarge, ↓held_calHoldEntry, ↓held_enginePark, ↓held_entryP3, ↓held_mirrPark, ↓held_setEntry, ↓held_timerEnd, ↓held_tripSet, ↓ite_self, ↓held_ite1] | split | rw [foldl_held] | rw [foldl_held1] | intro _ | rfl)
theorem held_entryTry (s : State)  : State.held ((State.entryTry s)) = State.held s := by
  unfold State.entryTry
  repeat' (first | with_reducible rfl | simp only [↓held_abandonEntry, ↓held_entryP2, ↓held_refuseEntry, ↓held_setEntry, ↓ite_self, ↓held_ite] | split | rw [foldl_held] | rw [foldl_held1] | intro _ | rfl)
theorem held_enterRequest (s : State) (target : Power) (who : Requester) (forced : Bool)  : State.held ((State.enterRequest s target who forced)) = State.held s := by
  unfold State.enterRequest
  repeat' (first | with_reducible rfl | simp only [↓held_entryTry, ↓held_setEntry] | split | rw [foldl_held] | rw [foldl_held1] | intro _ | rfl)
theorem held_serveRequest (s : State) (target : Power) (who : Requester)  : State.held ((State.serveRequest s target who)) = State.held s := by
  unfold State.serveRequest
  repeat' (first | with_reducible rfl | simp only [↓held_enterRequest, ↓held_refusal, ↓held_wakeStart, ↓ite_self, ↓held_ite] | split | rw [foldl_held] | rw [foldl_held1] | intro _ | rfl)
theorem held_serveRequests (n : Nat) (s : State)  : State.held ((State.serveRequests n s)) = State.held s := by
  induction n generalizing s with
  | zero => rfl
  | succ n ih =>
    unfold State.serveRequests
    repeat' (first | with_reducible rfl | simp only [↓held_serveRequest, held_mk, held_fold, ih, ↓held_ite] | split | rw [foldl_held] | intro _ | rfl)
theorem held_serveAll (s : State)  : State.held ((State.serveAll s)) = State.held s := by
  unfold State.serveAll
  repeat' (first | with_reducible rfl | simp only [↓held_serveRequests] | split | rw [foldl_held] | rw [foldl_held1] | intro _ | rfl)
theorem held_reach (s : State) (v : Power)  : State.held ((State.reach s v)) = State.held s := by
  unfold State.reach
  repeat' (first | with_reducible rfl | simp only [held_mk, held_fold, ↓ite_self, ↓held_ite] | split | rw [foldl_held] | rw [foldl_held1] | intro _ | rfl)
theorem held_entryComplete (s : State) (e : Entry)  : State.held ((State.entryComplete s e)) = State.held s := by
  unfold State.entryComplete
  repeat' (first | with_reducible rfl | simp only [↓held_calStart, ↓held_reach, ↓held_serveAll, ↓held_setEntry, ↓held_stateChanged] | split | rw [foldl_held] | rw [foldl_held1] | intro _ | rfl)
theorem held_entryHold (s : State) (e : Entry)  : State.held ((State.entryHold s e)) = State.held s := by
  unfold State.entryHold
  repeat' (first | with_reducible rfl | simp only [↓held_domsOff, ↓held_entryComplete, ↓held_entryP3, ↓held_reach, ↓held_setDom, held_mk, held_fold, ↓ite_self, ↓held_ite] | split | rw [foldl_held] | rw [foldl_held1] | intro _ | rfl)
theorem held_quiesce (s : State)  : State.held ((State.quiesce s)) = State.held s := by
  unfold State.quiesce
  repeat' (first | with_reducible rfl | simp only [↓held_abandonLock, ↓held_calSleep, ↓held_closeSessions, ↓held_raise, held_mk, held_fold] | split | rw [foldl_held] | rw [foldl_held1] | intro _ | rfl)
theorem held_lanesLost (s : State)  : State.held ((State.lanesLost s)) = State.held s := by
  unfold State.lanesLost
  repeat' (first | with_reducible rfl | simp only [held_mk, held_fold] | split | rw [foldl_held] | rw [foldl_held1] | intro _ | rfl)
theorem held_entrySleep (s : State) (e : Entry)  : State.held ((State.entrySleep s e)) = State.held s := by
  unfold State.entrySleep
  repeat' (first | with_reducible rfl | simp only [↓held_capDiscard, ↓held_domsOff, ↓held_entryComplete, ↓held_lanesLost, ↓held_quiesce, ↓held_setEntry, ↓ite_self, ↓held_ite] | split | rw [foldl_held] | rw [foldl_held1] | intro _ | rfl)
theorem held_doEntryStepDone (t : Time) (s0 : State)  : State.held ((doEntryStepDone t s0)) = State.held (State.at s0 t) := by
  unfold doEntryStepDone
  repeat' (first | with_reducible rfl | simp only [↓held_abandonEntry, ↓held_entryHold, ↓held_entryP2, ↓held_entrySleep, ↓held_serveAll, ↓held_ite] | split | rw [foldl_held] | rw [foldl_held1] | intro _ | rfl)
theorem held_doEntryRecheck (t : Time) (s0 : State)  : State.held ((doEntryRecheck t s0)) = State.held (State.at s0 t) := by
  unfold doEntryRecheck
  repeat' (first | with_reducible rfl | simp only [↓held_entryP2, ↓held_entryTry, ↓held_serveAll, ↓ite_self, ↓held_ite] | split | rw [foldl_held] | rw [foldl_held1] | intro _ | rfl)
theorem held_doEntryTimeout (t : Time) (s0 : State)  : State.held ((doEntryTimeout t s0)) = State.held (State.at s0 t) := by
  unfold doEntryTimeout
  repeat' (first | with_reducible rfl | simp only [↓held_pinFails, ↓held_raise, ↓held_serveAll, ↓held_setEntry, ↓ite_self, ↓held_ite] | split | rw [foldl_held] | rw [foldl_held1] | intro _ | rfl)
theorem held_powerRefused (s : State) (target : Power)  : State.held ((State.powerRefused s target)) = State.held s := by
  unfold State.powerRefused
  repeat' (first | with_reducible rfl | simp only [↓held_refusal, ↓ite_self, ↓held_ite] | split | rw [foldl_held] | rw [foldl_held1] | intro _ | rfl)
theorem held_deferRequest (s : State) (target : Power) (who : Requester)  : State.held ((State.deferRequest s target who)) = State.held s := by
  unfold State.deferRequest
  repeat' (first | with_reducible rfl | simp only [held_mk, held_fold] | split | rw [foldl_held] | rw [foldl_held1] | intro _ | rfl)
theorem held_powerRequestAction (target : Power) (k : U32) (s : State)  : State.held ((powerRequestAction target k s)) = State.held s := by
  unfold powerRequestAction
  repeat' (first | with_reducible rfl | simp only [↓held_deferRequest, ↓held_serveRequest, ↓held_setEntry, ↓ite_self, ↓held_ite] | split | rw [foldl_held] | rw [foldl_held1] | intro _ | rfl)
theorem held_wakeEvent (s : State) (who : Requester)  : State.held ((State.wakeEvent s who)) = State.held s := by
  unfold State.wakeEvent
  repeat' (first | with_reducible rfl | simp only [↓held_setEntry, ↓held_wakeStart, held_mk, held_fold, ↓ite_self, ↓held_ite] | split | rw [foldl_held] | rw [foldl_held1] | intro _ | rfl)
theorem held_doWakePin (t : Time) (s0 : State)  : State.held ((doWakePin t s0)) = State.held (State.at s0 t) := by
  unfold doWakePin
  repeat' (first | with_reducible rfl | simp only [↓held_wakeEvent, held_mk, held_fold, ↓ite_self, ↓held_ite] | split | rw [foldl_held] | rw [foldl_held1] | intro _ | rfl)
theorem held_doWakePinLow (t : Time) (s0 : State)  : State.held ((doWakePinLow t s0)) = State.held (State.at s0 t) := by
  unfold doWakePinLow
  repeat' (first | with_reducible rfl | simp only [↓held_deferRequest, ↓held_pinFails, ↓held_serveRequest, held_mk, held_fold, ↓ite_self, ↓held_ite] | split | rw [foldl_held] | rw [foldl_held1] | intro _ | rfl)
theorem held_doCanWakeFrame (t : Time) (ident : BitVec 11) (data : U64) (s0 : State)  : State.held ((doCanWakeFrame t ident data s0)) = State.held (State.at s0 t) := by
  unfold doCanWakeFrame
  repeat' (first | with_reducible rfl | simp only [↓held_wakeEvent, ↓ite_self, ↓held_ite] | split | rw [foldl_held] | rw [foldl_held1] | intro _ | rfl)
theorem held_doDozeSleepAfter (t : Time) (s0 : State)  : State.held ((doDozeSleepAfter t s0)) = State.held (State.at s0 t) := by
  unfold doDozeSleepAfter
  repeat' (first | with_reducible rfl | simp only [↓held_enterRequest, ↓ite_self, ↓held_ite] | split | rw [foldl_held] | rw [foldl_held1] | intro _ | rfl)
theorem held_bootFail (s : State) (x : BootIn)  : State.held ((State.bootFail s x)) = State.held s := by
  unfold State.bootFail
  repeat' (first | with_reducible rfl | simp only [↓held_count, ↓held_markFailed, ↓ite_self, ↓held_ite] | split | rw [foldl_held] | rw [foldl_held1] | intro _ | rfl)
theorem held_enterRun (s : State)  : State.held ((State.enterRun s)) = State.held s := by
  unfold State.enterRun
  repeat' (first | with_reducible rfl | simp only [↓held_engineAutostart, ↓held_follow, ↓held_reach, ↓held_timerStart, ↓held_tripClear, held_mk, held_fold] | split | rw [foldl_held] | rw [foldl_held1] | intro _ | rfl)
theorem held_wakeComplete (s : State) (w : Wake)  : State.held ((State.wakeComplete s w)) = State.held s := by
  unfold State.wakeComplete
  repeat' (first | with_reducible rfl | simp only [↓held_confirmBoot, ↓held_enterRun, ↓held_reach, ↓held_serveAll, ↓held_stateChanged, held_mk, held_fold, ↓ite_self, ↓held_ite] | split | rw [foldl_held] | rw [foldl_held1] | intro _ | rfl)
theorem held_bootRecovery (s : State) (old : Power)  : State.held ((State.bootRecovery s old)) = State.held s := by
  unfold State.bootRecovery
  repeat' (first | with_reducible rfl | simp only [↓held_domsOn, ↓held_reach, ↓held_stateChanged, held_mk, held_fold] | split | rw [foldl_held] | rw [foldl_held1] | intro _ | rfl)
theorem held_bootEnd (s : State) (x : BootIn) (old : Power) (who : Requester)  : State.held ((State.bootEnd s x old who)) = State.held s := by
  unfold State.bootEnd
  repeat' (first | with_reducible rfl | simp only [↓held_becalmPower, ↓held_reach, ↓held_scanUp, ↓held_stateChanged, ↓held_wakeComplete, ↓held_xtalFallback, held_mk, held_fold, ↓ite_self, ↓held_ite] | split | rw [foldl_held] | rw [foldl_held1] | intro _ | rfl)
theorem held_coldClear (s : State) (cause : Nat)  : State.held ((State.coldClear s cause)) = State.held s := by
  unfold State.coldClear
  repeat' (first | with_reducible rfl | simp only [held_mk, held_fold] | split | rw [foldl_held] | rw [foldl_held1] | intro _ | rfl)
theorem held_powerCut (s : State)  : State.held ((State.powerCut s)) = State.held s := by
  unfold State.powerCut
  repeat' (first | with_reducible rfl | simp only [↓held_capDiscard, ↓held_domsOff, ↓held_flashLost, ↓held_lanesLost, ↓held_quiesce, ↓held_timerStop, held_mk, held_fold, ↓ite_self, ↓held_ite] | split | rw [foldl_held] | rw [foldl_held1] | intro _ | rfl)
theorem held_doFrameBoundary (t : Time) (x : TickIn) (unconfirmed : Option (Fin 32)) (s0 : State)  : State.held ((doFrameBoundary t x unconfirmed s0)) = State.held (State.at s0 t) := by
  unfold doFrameBoundary
  repeat' (first | with_reducible rfl | simp only [↓held_endColumn, ↓held_entryP2, ↓held_frameEvents, ↓held_frameTurn, ↓held_heldEvent, ↓held_serveAll, ↓ite_self, ↓held_ite] | split | rw [foldl_held] | rw [foldl_held1] | intro _ | rfl)
theorem held_restartDone (s : State)  : State.held ((State.restartDone s)) = State.held s := by
  unfold State.restartDone
  repeat' (first | with_reducible rfl | simp only [↓held_engineAutostart, ↓held_follow, ↓held_raise, ↓held_timerStart, ↓held_tripClear, held_mk, held_fold, ↓ite_self, ↓held_ite] | split | rw [foldl_held] | rw [foldl_held1] | intro _ | rfl)
theorem held_doLeaseRenew (t : Time) (l : LaneId) (s0 : State)  : State.held ((doLeaseRenew t l s0)) = State.held (State.at s0 t) := by
  unfold doLeaseRenew
  repeat' (first | with_reducible rfl | simp only [↓held_emitAdvance, ↓held_modLane, ↓held_restartDone, ↓held_towpathHear, ↓held_tripClear, held_mk, held_fold, ↓ite_self, ↓held_ite] | split | rw [foldl_held] | rw [foldl_held1] | intro _ | rfl)
theorem held_laneRestartAction (k : U32) (s : State)  : State.held ((laneRestartAction k s)) = State.held s := by
  unfold laneRestartAction
  repeat' (first | with_reducible rfl | simp only [↓held_applyCfg, ↓held_laneOff, ↓held_lanesLost, ↓held_lanesStart, held_mk, held_fold] | split | rw [foldl_held] | rw [foldl_held1] | intro _ | rfl)
theorem held_noteAnchor (s : State) (i : Nat)  : State.held ((State.noteAnchor s i)) = State.held s := by
  unfold State.noteAnchor
  repeat' (first | with_reducible rfl | simp only [↓held_raise, held_mk, held_fold, ↓ite_self, ↓held_ite] | split | rw [foldl_held] | rw [foldl_held1] | intro _ | rfl)
theorem held_judgeLevel (s : State) (n level : Nat)  : State.held ((State.judgeLevel s n level)) = State.held s := by
  unfold State.judgeLevel
  repeat' (first | with_reducible rfl | simp only [↓held_raise, held_mk, held_fold, ↓ite_self, ↓held_ite] | split | rw [foldl_held] | rw [foldl_held1] | intro _ | rfl)
theorem held_judgeNodes (s : State)  : State.held ((State.judgeNodes s)) = State.held s := by
  unfold State.judgeNodes
  repeat' (first | with_reducible rfl | simp only [↓held_judgeLevel] | split | rw [foldl_held] | rw [foldl_held1] | intro _ | rfl)
theorem held_judgeWindows (s : State) (fresh : Bool)  : State.held ((State.judgeWindows s fresh)) = State.held s := by
  unfold State.judgeWindows
  repeat' (first | with_reducible rfl | simp only [↓held_bankInhibit, ↓held_bankResume, ↓held_emitAdvance, held_mk, held_fold, ↓ite_self, ↓held_ite] | split | rw [foldl_held] | rw [foldl_held1] | intro _ | rfl)
theorem held_thermalShutdown (s : State)  : State.held ((State.thermalShutdown s)) = State.held s := by
  unfold State.thermalShutdown
  repeat' (first | with_reducible rfl | simp only [↓held_count, ↓held_deferRequest, ↓held_enterRequest, ↓held_entryTry, ↓held_setEntry, held_mk, held_fold, ↓ite_self, ↓held_ite] | split | rw [foldl_held] | rw [foldl_held1] | intro _ | rfl)
theorem held_judgeThermal (s : State)  : State.held ((State.judgeThermal s)) = State.held s := by
  unfold State.judgeThermal
  repeat' (first | with_reducible rfl | simp only [↓held_emitAdvance, ↓held_judgeNodes, ↓held_thermalShutdown, ↓held_trip, ↓ite_self, ↓held_ite] | split | rw [foldl_held] | rw [foldl_held1] | intro _ | rfl)
theorem held_thermalLost (s0 : State)  : State.held ((State.thermalLost s0)) = State.held s0 := by
  unfold State.thermalLost
  repeat' (first | with_reducible rfl | simp only [↓held_judgeThermal, ↓held_judgeWindows, ↓held_noteAnchor, held_mk, held_fold, ↓ite_self, ↓held_ite] | split | rw [foldl_held] | rw [foldl_held1] | intro _ | rfl)
theorem held_doThermalUpdate (t : Time) (x : HeatIn) (s0 : State)  : State.held ((doThermalUpdate t x s0)) = State.held (State.at s0 t) := by
  unfold doThermalUpdate
  repeat' (first | with_reducible rfl | simp only [↓held_flashKick, ↓held_judgeThermal, ↓held_judgeWindows, ↓held_noteAnchor, ↓held_thermalLost, held_mk, held_fold, ↓ite_self, ↓held_ite] | split | rw [foldl_held] | rw [foldl_held1] | intro _ | rfl)
theorem held_doThermalForcedDoze (t : Time) (s0 : State)  : State.held ((doThermalForcedDoze t s0)) = State.held (State.at s0 t) := by
  unfold doThermalForcedDoze
  repeat' (first | with_reducible rfl | simp only [↓held_enterRequest, ↓ite_self, ↓held_ite] | split | rw [foldl_held] | rw [foldl_held1] | intro _ | rfl)
theorem held_doThermalRestart (t : Time) (s0 : State)  : State.held ((doThermalRestart t s0)) = State.held (State.at s0 t) := by
  unfold doThermalRestart
  repeat' (first | with_reducible rfl | simp only [↓held_raise, ↓held_wakeStart, held_mk, held_fold, ↓ite_self, ↓held_ite] | split | rw [foldl_held] | rw [foldl_held1] | intro _ | rfl)
theorem held_doXtalComp (t : Time) (s0 : State)  : State.held ((doXtalComp t s0)) = State.held (State.at s0 t) := by
  unfold doXtalComp
  repeat' (first | with_reducible rfl | simp only [held_mk, held_fold, ↓ite_self, ↓held_ite] | split | rw [foldl_held] | rw [foldl_held1] | intro _ | rfl)
theorem held_doVinLow (t : Time) (s0 : State)  : State.held ((doVinLow t s0)) = State.held (State.at s0 t) := by
  unfold doVinLow
  repeat' (first | with_reducible rfl | simp only [↓held_bankInhibit, ↓held_raise, held_mk, held_fold, ↓ite_self, ↓held_ite] | split | rw [foldl_held] | rw [foldl_held1] | intro _ | rfl)
theorem held_doVinResumeRise (t : Time) (s0 : State)  : State.held ((doVinResumeRise t s0)) = State.held (State.at s0 t) := by
  unfold doVinResumeRise
  repeat' (first | with_reducible rfl | simp only [↓held_bankResume, ↓held_emitAdvance, ↓held_raise, held_mk, held_fold, ↓ite_self, ↓held_ite] | split | rw [foldl_held] | rw [foldl_held1] | intro _ | rfl)
theorem held_doVinHigh (t : Time) (s0 : State)  : State.held ((doVinHigh t s0)) = State.held (State.at s0 t) := by
  unfold doVinHigh
  repeat' (first | with_reducible rfl | simp only [↓held_raise, held_mk, held_fold, ↓ite_self, ↓held_ite] | split | rw [foldl_held] | rw [foldl_held1] | intro _ | rfl)
theorem held_doInputSwitchClose (t : Time) (s0 : State)  : State.held ((doInputSwitchClose t s0)) = State.held (State.at s0 t) := by
  unfold doInputSwitchClose
  repeat' (first | with_reducible rfl | simp only [↓held_flashKick, ↓held_raise, held_mk, held_fold, ↓ite_self, ↓held_ite] | split | rw [foldl_held] | rw [foldl_held1] | intro _ | rfl)
theorem held_supplyLoss (s : State) (trigger : Nat)  : State.held ((State.supplyLoss s trigger)) = State.held s := by
  unfold State.supplyLoss
  repeat' (first | with_reducible rfl | simp only [↓held_bankDischarge, ↓held_domsOff, ↓held_lanesLost, ↓held_mirrPark, ↓held_quiesce, ↓held_raise, ↓held_setDom, ↓held_setEntry, ↓held_timerStop, ↓held_tripSet, ↓held_writeLoss, held_mk, held_fold, ↓ite_self, ↓held_ite] | split | rw [foldl_held] | rw [foldl_held1] | intro _ | rfl)
theorem held_doHoldupExhausted (t : Time) (s0 : State)  : State.held ((doHoldupExhausted t s0)) = State.held (State.at s0 t) := by
  unfold doHoldupExhausted
  repeat' (first | with_reducible rfl | simp only [↓held_supplyLoss, ↓ite_self, ↓held_ite] | split | rw [foldl_held] | rw [foldl_held1] | intro _ | rfl)
theorem held_doVinShutdownFall (t : Time) (s0 : State)  : State.held ((doVinShutdownFall t s0)) = State.held (State.at s0 t) := by
  unfold doVinShutdownFall
  repeat' (first | with_reducible rfl | simp only [↓held_supplyLoss, ↓ite_self, ↓held_ite] | split | rw [foldl_held] | rw [foldl_held1] | intro _ | rfl)
theorem held_ntcJudge (s : State) (reading : Ntc)  : State.held ((State.ntcJudge s reading)) = State.held s := by
  unfold State.ntcJudge
  repeat' (first | with_reducible rfl | simp only [↓held_raise, held_mk, held_fold, ↓ite_self, ↓held_ite] | split | rw [foldl_held] | rw [foldl_held1] | intro _ | rfl)
theorem held_ntcResult (s : State) (result : Nat)  : State.held ((State.ntcResult s result)) = State.held s := by
  unfold State.ntcResult
  repeat' (first | with_reducible rfl | simp only [↓held_ntcJudge] | split | rw [foldl_held] | rw [foldl_held1] | intro _ | rfl)
theorem held_holdupResult (s : State) (mv : Nat)  : State.held ((State.holdupResult s mv)) = State.held s := by
  unfold State.holdupResult
  repeat' (first | with_reducible rfl | simp only [↓held_raise, held_mk, held_fold, ↓ite_self, ↓held_ite] | split | rw [foldl_held] | rw [foldl_held1] | intro _ | rfl)
theorem held_anchorResult (s : State) (i result : Nat)  : State.held ((State.anchorResult s i result)) = State.held s := by
  unfold State.anchorResult
  repeat' (first | with_reducible rfl | simp only [held_mk, held_fold] | split | rw [foldl_held] | rw [foldl_held1] | intro _ | rfl)
theorem held_hkNext (s : State)  : State.held ((State.hkNext s)) = State.held s := by
  unfold State.hkNext
  repeat' (first | with_reducible rfl | simp only [held_mk, held_fold] | split | rw [foldl_held] | rw [foldl_held1] | intro _ | rfl)
theorem held_bankResult (s : State) (mv : Nat)  : State.held ((State.bankResult s mv)) = State.held s := by
  unfold State.bankResult
  repeat' (first | with_reducible rfl | simp only [held_mk, held_fold] | split | rw [foldl_held] | rw [foldl_held1] | intro _ | rfl)
theorem held_hkFeed (s : State) (input result : Nat)  : State.held ((State.hkFeed s input result)) = State.held s := by
  unfold State.hkFeed
  repeat' (first | with_reducible rfl | simp only [↓held_anchorResult, ↓held_bankResult, ↓held_holdupResult, ↓held_ntcResult, ↓ite_self, ↓held_ite] | split | rw [foldl_held] | rw [foldl_held1] | intro _ | rfl)
theorem held_doHkResult (t : Time) (raw : W20) (s0 : State)  : State.held ((doHkResult t raw s0)) = State.held (State.at s0 t) := by
  unfold doHkResult
  repeat' (first | with_reducible rfl | simp only [↓held_flashKick, ↓held_hkFeed, ↓held_hkNext, held_mk, held_fold, ↓ite_self, ↓held_ite] | split | rw [foldl_held] | rw [foldl_held1] | intro _ | rfl)
theorem held_hkCalibrateAction (k : U32) (s : State)  : State.held ((hkCalibrateAction k s)) = State.held s := by
  unfold hkCalibrateAction
  repeat' (first | with_reducible rfl | simp only [↓held_enqueue, held_mk, held_fold, ↓ite_self, ↓held_ite] | split | rw [foldl_held] | rw [foldl_held1] | intro _ | rfl)
theorem held_hkCalNext (s : State)  : State.held ((State.hkCalNext s)) = State.held s := by
  unfold State.hkCalNext
  repeat' (first | with_reducible rfl | simp only [↓held_dequeue, ↓held_hkCalibrateAction] | split | rw [foldl_held] | rw [foldl_held1] | intro _ | rfl)
theorem held_doHkCalDone (t : Time) (sum14 sum15 : Nat) (s0 : State)  : State.held ((doHkCalDone t sum14 sum15 s0)) = State.held (State.at s0 t) := by
  unfold doHkCalDone
  repeat' (first | with_reducible rfl | simp only [↓held_draw, ↓held_hkCalNext, ↓held_raise, held_mk, held_fold, ↓ite_self, ↓held_ite] | split | rw [foldl_held] | rw [foldl_held1] | intro _ | rfl)
theorem held_nextFresh (s : State) (tr : Transport) (num : Byte)  : State.held ((State.nextFresh s tr num).1) = State.held s := by
  unfold State.nextFresh
  repeat' (first | with_reducible rfl | simp only [↓held_modSession, held_mk, held_fold] | split | rw [foldl_held] | rw [foldl_held1] | intro _ | rfl)
theorem held_freshLimit (s : State) (tr : Transport) (num : Byte)  : State.held ((State.freshLimit s tr num)) = State.held s := by
  unfold State.freshLimit
  repeat' (first | with_reducible rfl | simp only [↓held_closeSession, ↓ite_self, ↓held_ite] | split | rw [foldl_held] | rw [foldl_held1] | intro _ | rfl)
theorem held_sendBaspo (s : State) (tr : Transport) (addr : BitVec 128) (port : U16) (ident : Nat) (bytes : Bytes)  : State.held ((State.sendBaspo s tr addr port ident bytes)) = State.held s := by
  unfold State.sendBaspo
  repeat' (first | with_reducible rfl | simp only [↓held_send] | split | rw [foldl_held] | rw [foldl_held1] | intro _ | rfl)
theorem held_answer (s : State) (h : Hdr) (svc flags : Nat) (payload : Bytes)  : State.held ((State.answer s h svc flags payload)) = State.held s := by
  unfold State.answer
  repeat' (first | with_reducible rfl | simp only [↓held_freshLimit, ↓held_modSession, ↓held_nextFresh, ↓held_sendBaspo, ↓ite_self, ↓held_ite] | split | rw [foldl_held] | rw [foldl_held1] | intro _ | rfl)
theorem held_no (s : State) (a : Abort)  : State.held ((State.no s a).1) = State.held s := by
  unfold State.no
  repeat' (first | with_reducible rfl | simp only [held_mk, held_fold, ↓ite_self, ↓held_ite, ↓held_ite1] | split | rw [foldl_held] | rw [foldl_held1] | intro _ | rfl)
theorem held_lockOpen (s : State) (x : Session)  : State.held ((State.lockOpen s x).1) = State.held s := by
  unfold State.lockOpen
  repeat' (first | with_reducible rfl | simp only [↓held_modSession, ↓held_no, held_mk, held_fold] | split | rw [foldl_held] | rw [foldl_held1] | intro _ | rfl)
theorem held_lockAbandon (s : State) (x : Session)  : State.held ((State.lockAbandon s x).1) = State.held s := by
  unfold State.lockAbandon
  repeat' (first | with_reducible rfl | simp only [↓held_abandonLock, ↓held_no] | split | rw [foldl_held] | rw [foldl_held1] | intro _ | rfl)
theorem held_lockEqualize (s : State) (h : Hdr) (svc : Nat) (x : Session) (persist : Bool)  : State.held ((State.lockEqualize s h svc x persist).1) = State.held s := by
  unfold State.lockEqualize
  repeat' (first | with_reducible rfl | simp only [↓held_modSession, held_mk, held_fold] | split | rw [foldl_held] | rw [foldl_held1] | intro _ | rfl)
theorem held_lockCommit (s : State) (h : Hdr) (svc : Nat) (x : Session) (persist : Bool)  : State.held ((State.lockCommit s h svc x persist).1) = State.held s := by
  unfold State.lockCommit
  repeat' (first | with_reducible rfl | simp only [↓held_abandonLock, ↓held_lockEqualize, ↓held_no, ↓held_ite1] | split | rw [foldl_held] | rw [foldl_held1] | intro _ | rfl)
theorem held_lockControl (s : State) (h : Hdr) (svc : Nat) (x : Session) (v : Nat)  : State.held ((State.lockControl s h svc x v).1) = State.held s := by
  unfold State.lockControl
  repeat' (first | with_reducible rfl | simp only [↓held_lockAbandon, ↓held_lockCommit, ↓held_lockOpen, ↓ite_self, ↓held_ite1] | split | rw [foldl_held] | rw [foldl_held1] | intro _ | rfl)
theorem held_stage (s : State) (x : Session) (o : Obj) (v : Bytes)  : State.held ((State.stage s x o v).1) = State.held s := by
  unfold State.stage
  repeat' (first | with_reducible rfl | simp only [↓held_modSession, ↓held_no, ↓ite_self, ↓held_ite1] | split | rw [foldl_held] | rw [foldl_held1] | intro _ | rfl)
theorem held_doLockTimeout (t : Time) (tr : Transport) (num : Byte) (s0 : State)  : State.held ((doLockTimeout t tr num s0)) = State.held (State.at s0 t) := by
  unfold doLockTimeout
  repeat' (first | with_reducible rfl | simp only [↓held_abandonLock, ↓ite_self, ↓held_ite] | split | rw [foldl_held] | rw [foldl_held1] | intro _ | rfl)
theorem held_ticketed (s : State) (f : U32 → State → State) (hf : ∀ k y, (f k y).held = y.held) : State.held ((State.ticketed s f).1) = State.held s := by
  unfold State.ticketed
  repeat' (first | with_reducible rfl | with_reducible refine held_if1 ?_ ?_ | simp only [↓held_issueTicket] | split | rw [held_ticketed] | rw [held_ifOk] | rw [held_queueing] | rw [held_checked] | rw [hf] | rw [foldl_held] | intro _ | rfl)
theorem held_ifOk (s : State) (ok : Bool) (f : U32 → State → State) (hf : ∀ k y, (f k y).held = y.held) : State.held ((State.ifOk s ok f).1) = State.held s := by
  unfold State.ifOk
  repeat' (first | with_reducible rfl | with_reducible refine held_if1 ?_ ?_ | simp only [↓held_no] | split | rw [held_ticketed] | rw [held_ifOk] | rw [held_queueing] | rw [held_checked] | rw [hf] | rw [foldl_held] | intro _ | rfl)
theorem held_queueing (s : State) (waiting : Nat) (f : U32 → State → State) (hf : ∀ k y, (f k y).held = y.held) : State.held ((State.queueing s waiting f).1) = State.held s := by
  unfold State.queueing
  repeat' (first | with_reducible rfl | with_reducible refine held_if1 ?_ ?_ | simp only [↓held_no] | split | rw [held_ticketed] | rw [held_ifOk] | rw [held_queueing] | rw [held_checked] | rw [hf] | rw [foldl_held] | intro _ | rfl)
theorem held_enqueued (s : State) (obj value : Nat) (k : U32)  : State.held ((State.enqueued s obj value k)) = State.held s := by
  unfold State.enqueued
  repeat' (first | with_reducible rfl | simp only [↓held_enqueue] | split | rw [foldl_held] | rw [foldl_held1] | intro _ | rfl)
theorem held_powerCommand (s : State) (target : Power)  : State.held ((State.powerCommand s target).1) = State.held s := by
  unfold State.powerCommand
  repeat' (first | with_reducible rfl | with_reducible refine held_if1 ?_ ?_ | simp only [↓held_no, ↓held_powerRefused, ↓held_powerRequestAction] | split | rw [held_ticketed] | rw [held_ifOk] | rw [held_queueing] | rw [held_checked] | rw [hf] | rw [foldl_held] | intro _ | rfl)
theorem held_capControl (s : State) (v : Nat)  : State.held ((State.capControl s v).1) = State.held s := by
  unfold State.capControl
  repeat' (first | with_reducible rfl | with_reducible refine held_if1 ?_ ?_ | simp only [↓held_capArm, ↓held_capDisarm, ↓held_hostTrigger, ↓held_no] | split | rw [held_ticketed] | rw [held_ifOk] | rw [held_queueing] | rw [held_checked] | rw [hf] | rw [foldl_held] | intro _ | rfl)
theorem held_capRelease (s : State) (v : Nat)  : State.held ((State.capRelease s v).1) = State.held s := by
  unfold State.capRelease
  repeat' (first | with_reducible rfl | with_reducible refine held_if1 ?_ ?_ | simp only [↓held_freeSegment, ↓held_no] | split | rw [held_ticketed] | rw [held_ifOk] | rw [held_queueing] | rw [held_checked] | rw [hf] | rw [foldl_held] | intro _ | rfl)
theorem held_codeSource (s : State) (h : Hdr) (x : Session) (v : Nat)  : State.held ((State.codeSource s h x v).1) = State.held s := by
  unfold State.codeSource
  repeat' (first | with_reducible rfl | simp only [↓held_count, ↓held_modSession, ↓held_no, ↓ite_self, ↓held_ite1] | split | rw [foldl_held] | rw [foldl_held1] | intro _ | rfl)
theorem held_calCommand (s : State) (v : Nat)  : State.held ((State.calCommand s v).1) = State.held s := by
  unfold State.calCommand
  repeat' (first | with_reducible rfl | with_reducible refine held_if1 ?_ ?_ | simp only [↓held_no, ↓held_calRequestAction] | split | rw [held_ticketed] | rw [held_ifOk] | rw [held_queueing] | rw [held_checked] | rw [hf] | rw [foldl_held] | intro _ | rfl)
theorem held_revertCommand (s : State) (v : Nat)  : State.held ((State.revertCommand s v).1) = State.held s := by
  unfold State.revertCommand
  repeat' (first | with_reducible rfl | with_reducible refine held_if1 ?_ ?_ | simp only [↓held_versionRevertAction, held_mk, held_fold, ↓ite_self, ↓held_ite] | split | rw [held_ticketed] | rw [held_ifOk] | rw [held_queueing] | rw [held_checked] | rw [hf] | rw [foldl_held] | intro _ | rfl)
theorem held_checked (s : State) (g : GroupKind) (f : U32 → State → State) (hf : ∀ k y, (f k y).held = y.held) : State.held ((State.checked s g f).1) = State.held s := by
  unfold State.checked
  repeat' (first | with_reducible rfl | with_reducible refine held_if1 ?_ ?_ | simp only [↓held_no] | split | rw [held_ticketed] | rw [held_ifOk] | rw [held_queueing] | rw [held_checked] | rw [hf] | rw [foldl_held] | intro _ | rfl)
theorem held_fwCommand (s : State) (v : Nat)  : State.held ((State.fwCommand s v).1) = State.held s := by
  unfold State.fwCommand
  repeat' (first | with_reducible rfl | with_reducible refine held_if1 ?_ ?_ | simp only [↓held_fwAbandon, ↓held_no, ↓held_fwActivateAction, ↓held_fwBeginAction] | split | rw [held_ticketed] | rw [held_ifOk] | rw [held_queueing] | rw [held_checked] | rw [hf] | rw [foldl_held] | intro _ | rfl)
theorem held_secCommand (s : State) (obj : Nat)  : State.held ((State.secCommand s obj).1) = State.held s := by
  unfold State.secCommand
  repeat' (first | with_reducible rfl | with_reducible refine held_if1 ?_ ?_ | simp only [↓held_flashItem, ↓held_no] | split | rw [held_ticketed] | rw [held_ifOk] | rw [held_queueing] | rw [held_checked] | rw [hf] | rw [foldl_held] | intro _ | rfl)
theorem held_bandCommand (s : State) (b : Nat)  : State.held ((State.bandCommand s b).1) = State.held s := by
  unfold State.bandCommand
  repeat' (first | with_reducible rfl | with_reducible refine held_if1 ?_ ?_ | simp only [↓held_bandRestartAction] | split | rw [held_ticketed] | rw [held_ifOk] | rw [held_queueing] | rw [held_checked] | rw [hf] | rw [foldl_held] | intro _ | rfl)
theorem held_laterCommand (s : State) (id v : Nat)  : State.held ((State.laterCommand s id v).1) = State.held s := by
  unfold State.laterCommand
  repeat' (first | with_reducible rfl | with_reducible refine held_if1 ?_ ?_ | simp only [↓held_calCommand, ↓held_capControl, ↓held_capRelease, ↓held_enqueued, ↓held_fwCommand, ↓held_revertCommand, ↓held_secCommand, ↓held_coilTripClearAction, ↓held_feClearAction, ↓held_hkCalibrateAction, ↓held_modeRequestAction, ↓held_recClearAction] | split | rw [held_ticketed] | rw [held_ifOk] | rw [held_queueing] | rw [held_checked] | rw [hf] | rw [foldl_held] | intro _ | rfl)
theorem held_command (s : State) (h : Hdr) (svc : Nat) (x : Session) (id v : Nat)  : State.held ((State.command s h svc x id v).1) = State.held s := by
  unfold State.command
  repeat' (first | with_reducible rfl | with_reducible refine held_if1 ?_ ?_ | simp only [↓held_bandCommand, ↓held_codeSource, ↓held_enqueued, ↓held_laterCommand, ↓held_lockControl, ↓held_no, ↓held_powerCommand, ↓held_busTriggerAction, ↓held_channelUnmaskAction, ↓held_emitClearAction, ↓held_emitStopAction, ↓held_laneRejoinAction, ↓held_laneRestartAction, ↓held_padReleaseAction] | split | rw [held_ticketed] | rw [held_ifOk] | rw [held_queueing] | rw [held_checked] | rw [hf] | rw [foldl_held] | intro _ | rfl)
theorem held_selectSegment (s : State) (x : Session) (v : Bytes)  : State.held ((State.selectSegment s x v).1) = State.held s := by
  unfold State.selectSegment
  repeat' (first | with_reducible rfl | simp only [↓held_modSession, ↓held_no] | split | rw [foldl_held] | rw [foldl_held1] | intro _ | rfl)
theorem held_selectEntry (s : State) (x : Session) (v : Bytes)  : State.held ((State.selectEntry s x v).1) = State.held s := by
  unfold State.selectEntry
  repeat' (first | with_reducible rfl | simp only [↓held_modSession, ↓held_no] | split | rw [foldl_held] | rw [foldl_held1] | intro _ | rfl)
theorem held_keyWrite (s : State) (x : Session) (v : Bytes)  : State.held ((State.keyWrite s x v).1) = State.held s := by
  unfold State.keyWrite
  repeat' (first | with_reducible rfl | simp only [↓held_flashItem, ↓held_no] | split | rw [foldl_held] | rw [foldl_held1] | intro _ | rfl)
theorem held_imageFinal (s : State) (h : Hdr) (v : Bytes)  : State.held ((State.imageFinal s h v).1) = State.held s := by
  unfold State.imageFinal
  repeat' (first | with_reducible rfl | simp only [↓held_no, held_mk, held_fold, ↓ite_self, ↓held_ite1] | split | rw [foldl_held] | rw [foldl_held1] | intro _ | rfl)
theorem held_apply (s : State) (h : Hdr) (svc : Nat) (x : Session) (o : Obj) (v : Bytes) (flags : Nat)  : State.held ((State.apply s h svc x o v flags).1) = State.held s := by
  unfold State.apply
  repeat' (first | with_reducible rfl | simp only [↓held_clearCounter, ↓held_command, ↓held_imageFinal, ↓held_keyWrite, ↓held_no, ↓held_selectEntry, ↓held_selectSegment, ↓held_stage, held_mk, held_fold, ↓ite_self, ↓held_ite1] | split | rw [foldl_held] | rw [foldl_held1] | intro _ | rfl)
theorem held_writeValue (s : State) (h : Hdr) (svc : Nat) (x : Session) (o : Obj) (v : Bytes)  : State.held ((State.writeValue s h svc x o v).1) = State.held s := by
  unfold State.writeValue
  repeat' (first | with_reducible rfl | simp only [↓held_apply, ↓held_no, ↓held_ite1] | split | rw [foldl_held] | rw [foldl_held1] | intro _ | rfl)
theorem held_writeObject (s : State) (h : Hdr) (svc : Nat) (x : Session) (o : Obj) (v : Bytes)  : State.held ((State.writeObject s h svc x o v).1) = State.held s := by
  unfold State.writeObject
  repeat' (first | with_reducible rfl | simp only [↓held_no, ↓held_writeValue, ↓ite_self, ↓held_ite1] | split | rw [foldl_held] | rw [foldl_held1] | intro _ | rfl)
theorem held_setBlock (s : State) (x : Session) (b : Option BlockXfer)  : State.held ((State.setBlock s x b)) = State.held s := by
  unfold State.setBlock
  repeat' (first | with_reducible rfl | simp only [↓held_modSession] | split | rw [foldl_held] | rw [foldl_held1] | intro _ | rfl)
theorem held_imagePages (s : State) (old : Option BlockXfer) (b : BlockXfer) (final : Bool)  : State.held ((State.imagePages s old b final)) = State.held s := by
  unfold State.imagePages
  repeat' (first | with_reducible rfl | simp only [↓held_fwPages] | split | rw [foldl_held] | rw [foldl_held1] | intro _ | rfl)
theorem held_blockAccept (s : State) (h : Hdr) (svc : Nat) (x : Session) (o : Obj) (g : BlockSeg) (b : BlockXfer)  : State.held ((State.blockAccept s h svc x o g b).1) = State.held s := by
  unfold State.blockAccept
  repeat' (first | with_reducible rfl | simp only [↓held_imagePages, ↓held_setBlock, ↓held_writeValue, ↓ite_self, ↓held_ite, ↓held_ite1] | split | rw [foldl_held] | rw [foldl_held1] | intro _ | rfl)
theorem held_blockWrite (s : State) (h : Hdr) (svc : Nat) (x : Session) (o : Obj) (p : Bytes)  : State.held ((State.blockWrite s h svc x o p).1) = State.held s := by
  unfold State.blockWrite
  repeat' (first | with_reducible rfl | simp only [↓held_blockAccept, ↓held_no, ↓held_setBlock] | split | rw [foldl_held] | rw [foldl_held1] | intro _ | rfl)
theorem held_openSession (s : State) (h : Hdr) (role : Nat)  : State.held ((State.openSession s h role).1) = State.held s := by
  unfold State.openSession
  repeat' (first | with_reducible rfl | simp only [↓held_no, held_mk, held_fold, ↓ite_self, ↓held_ite1] | split | rw [foldl_held] | rw [foldl_held1] | intro _ | rfl)
theorem held_failedRole (s : State) (c : Option Challenge)  : State.held ((State.failedRole s c).1) = State.held s := by
  unfold State.failedRole
  repeat' (first | with_reducible rfl | simp only [held_mk, held_fold] | split | rw [foldl_held] | rw [foldl_held1] | intro _ | rfl)
theorem held_refuseAuth (s : State) (h : Hdr) (c : Option Challenge)  : State.held ((State.refuseAuth s h c).1) = State.held s := by
  unfold State.refuseAuth
  repeat' (first | with_reducible rfl | simp only [↓held_authFail, ↓held_failedRole, ↓held_no] | split | rw [foldl_held] | rw [foldl_held1] | intro _ | rfl)
theorem held_startSession (s : State) (h : Hdr) (num : Byte) (role : Nat) (key challenge : Bytes)  : State.held ((State.startSession s h num role key challenge)) = State.held s := by
  unfold State.startSession
  repeat' (first | with_reducible rfl | simp only [held_mk, held_fold] | split | rw [foldl_held] | rw [foldl_held1] | intro _ | rfl)
theorem held_judgeAuth (s0 : State) (h : Hdr) (num : Byte) (c : Challenge) (answer : Bytes)  : State.held ((State.judgeAuth s0 h num c answer).1) = State.held s0 := by
  unfold State.judgeAuth
  repeat' (first | with_reducible rfl | simp only [↓held_no, ↓held_refuseAuth, ↓held_startSession, held_mk, held_fold, ↓ite_self, ↓held_ite1] | split | rw [foldl_held] | rw [foldl_held1] | intro _ | rfl)
theorem held_authenticate (s : State) (h : Hdr) (p : Bytes)  : State.held ((State.authenticate s h p).1) = State.held s := by
  unfold State.authenticate
  repeat' (first | with_reducible rfl | simp only [↓held_judgeAuth, ↓held_refuseAuth, ↓ite_self, ↓held_ite1] | split | rw [foldl_held] | rw [foldl_held1] | intro _ | rfl)
theorem held_notifySubscribe (s : State) (h : Hdr) (x : Session) (p : Bytes)  : State.held ((State.notifySubscribe s h x p).1) = State.held s := by
  unfold State.notifySubscribe
  repeat' (first | with_reducible rfl | simp only [↓held_modSession, ↓held_no, ↓ite_self, ↓held_ite1] | split | rw [foldl_held] | rw [foldl_held1] | intro _ | rfl)
theorem held_streamSubscribe (s : State) (h : Hdr) (x : Session) (p : Bytes)  : State.held ((State.streamSubscribe s h x p).1) = State.held s := by
  unfold State.streamSubscribe
  repeat' (first | with_reducible rfl | simp only [↓held_no, ↓held_startOffload, held_mk, held_fold, ↓ite_self, ↓held_ite1] | split | rw [foldl_held] | rw [foldl_held1] | intro _ | rfl)
theorem held_objectService (s : State) (svc : Nat) (r : Rcvd) (x : Session)  : State.held ((State.objectService s svc r x).1) = State.held s := by
  unfold State.objectService
  repeat' (first | with_reducible rfl | simp only [↓held_blockWrite, ↓held_no, ↓held_writeObject, ↓ite_self, ↓held_ite1] | split | rw [foldl_held] | rw [foldl_held1] | intro _ | rfl)
theorem held_inSession (s : State) (svc : Nat) (r : Rcvd) (x : Session)  : State.held ((State.inSession s svc r x).1) = State.held s := by
  unfold State.inSession
  repeat' (first | with_reducible rfl | simp only [↓held_notifySubscribe, ↓held_objectService, ↓held_streamSubscribe, ↓ite_self, ↓held_ite1] | split | rw [foldl_held] | rw [foldl_held1] | intro _ | rfl)
theorem held_service (s : State) (svc : Nat) (r : Rcvd)  : State.held ((State.service s svc r).1) = State.held s := by
  unfold State.service
  repeat' (first | with_reducible rfl | simp only [↓held_authenticate, ↓held_inSession, ↓held_no, ↓held_openSession, ↓held_ite1] | split | rw [foldl_held] | rw [foldl_held1] | intro _ | rfl)
theorem held_serve (s : State) (svc : Nat) (r : Rcvd)  : State.held ((State.serve s svc r).1) = State.held s := by
  unfold State.serve
  repeat' (first | with_reducible rfl | simp only [↓held_no, ↓held_service] | split | rw [foldl_held] | rw [foldl_held1] | intro _ | rfl)
theorem held_acceptRequest (s : State) (r : Rcvd)  : State.held ((State.acceptRequest s r)) = State.held s := by
  unfold State.acceptRequest
  repeat' (first | with_reducible rfl | simp only [↓held_modSession] | split | rw [foldl_held] | rw [foldl_held1] | intro _ | rfl)
theorem held_resend (s : State) (r : Rcvd) (x : Session)  : State.held ((State.resend s r x)) = State.held s := by
  unfold State.resend
  repeat' (first | with_reducible rfl | simp only [↓held_modSession, ↓held_sendBaspo] | split | rw [foldl_held] | rw [foldl_held1] | intro _ | rfl)
theorem held_doSessionIdleTimeout (t : Time) (tr : Transport) (num : Byte) (s0 : State)  : State.held ((doSessionIdleTimeout t tr num s0)) = State.held (State.at s0 t) := by
  unfold doSessionIdleTimeout
  repeat' (first | with_reducible rfl | simp only [↓held_closeSession, ↓ite_self, ↓held_ite] | split | rw [foldl_held] | rw [foldl_held1] | intro _ | rfl)
theorem held_doNotify (t : Time) (tr : Transport) (num : Byte) (s0 : State)  : State.held ((doNotify t tr num s0)) = State.held (State.at s0 t) := by
  unfold doNotify
  repeat' (first | with_reducible rfl | simp only [↓held_freshLimit, ↓held_modSession, ↓held_nextFresh, ↓held_sendBaspo, ↓ite_self, ↓held_ite] | split | rw [foldl_held] | rw [foldl_held1] | intro _ | rfl)
theorem held_doGptpSynced (t : Time) (offset servo : Int) (s0 : State)  : State.held ((doGptpSynced t offset servo s0)) = State.held (State.at s0 t) := by
  unfold doGptpSynced
  repeat' (first | with_reducible rfl | simp only [↓held_raise, held_mk, held_fold, ↓ite_self, ↓held_ite] | split | rw [foldl_held] | rw [foldl_held1] | intro _ | rfl)
theorem held_doGptpLost (t : Time) (s0 : State)  : State.held ((doGptpLost t s0)) = State.held (State.at s0 t) := by
  unfold doGptpLost
  repeat' (first | with_reducible rfl | simp only [↓held_raise, held_mk, held_fold, ↓ite_self, ↓held_ite] | split | rw [foldl_held] | rw [foldl_held1] | intro _ | rfl)
theorem held_doCanBusOff (t : Time) (s0 : State)  : State.held ((doCanBusOff t s0)) = State.held (State.at s0 t) := by
  unfold doCanBusOff
  repeat' (first | with_reducible rfl | simp only [↓held_raise, held_mk, held_fold, ↓ite_self, ↓held_ite] | split | rw [foldl_held] | rw [foldl_held1] | intro _ | rfl)
theorem held_doCanRecovered (t : Time) (s0 : State)  : State.held ((doCanRecovered t s0)) = State.held (State.at s0 t) := by
  unfold doCanRecovered
  repeat' (first | with_reducible rfl | simp only [↓held_raise, held_mk, held_fold, ↓ite_self, ↓held_ite] | split | rw [foldl_held] | rw [foldl_held1] | intro _ | rfl)
end Sys2Proof.Machine
end

