-- ==== Sys2Proof/Laws/Requests.lean ====
section
/-! SUPPORT. How a host's message runs through the checks of R7 to its service: what Reaches and Takes give, said once. -/

namespace Sys2Proof.Machine

open Sys2Proof

/-! ### Byte encodings -/

@[simp] theorem le_length (n v : Nat) : (le n v).length = n := by
  induction n generalizing v with
  | zero => rfl
  | succ n ih => simp [le, ih]

theorem leNat_le (n v : Nat) : leNat (le n v) = v % 256 ^ n := by
  induction n generalizing v with
  | zero => simp [le, leNat, Nat.mod_one]
  | succ n ih =>
    simp only [le, leNat, ih, BitVec.toNat_ofNat]
    rw [show (2 : Nat) ^ 8 = 256 from rfl, Nat.mod_mod, Nat.pow_succ, Nat.mul_comm (256 ^ n) 256, Nat.mod_mul]

theorem writePayload_index (id : Nat) (value : Bytes) (h : id < 256 ^ 3) : indexIn 0x11 (writePayload id value) = id / 256 := by
  unfold indexIn addressed writePayload u16At slice
  have : 3 ≤ (le 2 (id / 256) ++ le 1 (id % 256) ++ [0] ++ value).length := by simp; omega
  simp only [this, decide_true, Bool.and_true, List.drop_zero]
  simp only [List.append_assoc]
  rw [List.take_append_of_le_length (by simp), List.take_of_length_le (by simp), leNat_le]
  simp
  omega

theorem writePayload_sub (id : Nat) (value : Bytes) : subIn 0x11 (writePayload id value) = id % 256 := by
  unfold subIn addressed writePayload u8At slice
  have : 3 ≤ (le 2 (id / 256) ++ le 1 (id % 256) ++ [0] ++ value).length := by simp; omega
  simp only [this, decide_true, Bool.and_true]
  simp only [List.append_assoc]
  rw [List.drop_append_of_le_length (by simp), List.drop_of_length_le (by simp), List.nil_append]
  rw [List.take_append, le_length, List.take_of_length_le (by simp)]
  simp [leNat_le]

theorem writePayload_value (id : Nat) (value : Bytes) : (writePayload id value).drop 4 = value := by
  unfold writePayload
  rw [List.drop_append, List.drop_of_length_le (by simp)]
  simp

/-! ### Acceptance -/

theorem State.request_eq (s : State) (svc : Nat) (h : Hdr) (payload : Bytes) : s.request svc h payload =
    if !s.hears h then s
    else if s.drops h (rawOf h payload) then s.count Id.BASPO_DROPPED
    else if h.session = 0 then s.process svc (Hdr.receive h (BitVec.ofNat 8 svc) (rawOf h payload) 0)
    else match s.session? h.transport h.session with
      | some x => s.sessionMessage svc (Hdr.receive h (BitVec.ofNat 8 svc) (rawOf h payload) x.rxFresh) x
      | none => s := rfl

/-- A message that reaches its service is served in the state that acceptance leaves. -/
theorem State.request_reaches {s : State} {svc : Nat} {h : Hdr} {payload : Bytes} {s2 : State} {r : Rcvd}
    (hr : s.reaches svc h payload = some (s2, r)) : s.request svc h payload = s2.process svc r := by
  unfold State.reaches at hr
  rw [State.request_eq]
  split at hr
  · cases hr
  · rename_i h1
    simp only [Bool.or_eq_true, not_or, Bool.not_eq_true, Bool.not_eq_false'] at h1
    obtain ⟨h1, h2⟩ := h1
    simp only [h1, h2, Bool.not_true, Bool.false_eq_true, if_false]
    split at hr
    · rename_i h3
      cases hr
      simp [h3]
    · rename_i h3
      simp only [h3, if_false]
      split at hr
      · cases hr
      · rename_i x hx
        rw [hx]
        simp only at hr ⊢
        split at hr
        · rename_i h4
          obtain ⟨h4, h5, h6⟩ := h4
          cases hr
          simp only [State.sessionMessage, h4, ne_eq, not_true, if_false]
          have h7 : ¬ (x.anyRequest = true ∧ (Hdr.receive h (BitVec.ofNat 8 svc) (rawOf h payload) x.rxFresh).fresh = x.rxFresh ∧
              (Hdr.receive h (BitVec.ofNat 8 svc) (rawOf h payload) x.rxFresh).h.transaction = x.lastTransaction) := by
            intro h; omega
          have h8 : ¬ ((Hdr.receive h (BitVec.ofNat 8 svc) (rawOf h payload) x.rxFresh).fresh ≤ x.rxFresh ∨
              0xFFFFFFFF < (Hdr.receive h (BitVec.ofNat 8 svc) (rawOf h payload) x.rxFresh).fresh) := by omega
          rw [if_neg h7, if_neg h8]
        · cases hr

/-- Past steps 1 and 2 of R7, a request is served and answered. -/
theorem Reaches.runs {s : State} {t : Time} {svc : Nat} {h : Hdr} {payload : Bytes} {s2 : State} {r : Rcvd}
    (H : Reaches s t svc h payload s2 r) : doRequest t svc h payload s =
      (s2.service svc r).1.respond r.h svc (indexIn svc payload) (subIn svc payload) (s2.service svc r).2 := by
  unfold doRequest
  rw [State.request_reaches H.heard]
  simp only [State.process, State.serve, H.addressed, H.admitted, H.whole]

/-- The header as served is that of the message, but for TRANSACTION and FRESHNESS. -/
theorem receive_h (h : Hdr) (svc : Byte) (raw : Bytes) (last : Nat) : (Hdr.receive h svc raw last).h.transport = h.transport ∧
    (Hdr.receive h svc raw last).h.session = h.session := by
  unfold Hdr.receive
  split <;> rename_i e <;> simp [e]

/-- A WRITE that its object takes. -/
theorem Takes.runs {s : State} {t : Time} {id : Nat} {h : Hdr} {value : Bytes} {s2 : State} {r : Rcvd} {x : Session} {o : Obj}
    {fl : Nat} (H : Takes s t id h value s2 r x o fl) (hid : id < 256 ^ 3) : doWriteObject t id h value s =
      (s2.apply r.h 0x11 x o value fl).1.respond r.h 0x11 (id / 256) (id % 256) (s2.apply r.h 0x11 x o value fl).2 := by
  unfold doWriteObject
  rw [show le 2 (id / 256) ++ le 1 (id % 256) ++ [0] ++ value = writePayload id value from rfl, H.toReaches.runs, writePayload_index id value hid, writePayload_sub]
  have hs : s2.service 0x11 r = s2.apply r.h 0x11 x o value fl := by
    unfold State.service
    rw [if_neg (by decide), if_neg (by decide), if_neg (by decide), H.session]
    simp only
    unfold State.inSession
    rw [if_neg (by decide), if_neg (by decide), if_neg (by decide), if_neg (by decide)]
    unfold State.objectService
    rw [H.whole, writePayload_index id value hid, writePayload_sub]
    rw [show id / 256 * 256 + id % 256 = id by omega, H.object]
    simp only
    rw [if_neg (by decide), if_neg (by decide), if_pos trivial, writePayload_value]
    unfold State.writeObject
    rw [H.allowed]
    simp only [H.fits, Bool.false_eq_true, if_false]
    unfold State.writeValue
    rw [H.powered]
    simp only [H.sized, Bool.not_true, Bool.false_eq_true, if_false]
    rw [H.ranged]
  rw [hs]

/-! ### Answers -/

/-- Answering sends one message, to the host that asked. -/
theorem State.answer_answered (s : State) (h : Hdr) (svc flags : Nat) (payload : Bytes) :
    (s.answer h svc flags payload).answered h svc flags payload := by
  let p := s.nextFresh h.transport h.session
  refine ⟨p.2.2, p.1.canIdent 1, p.2.1, if h.transport = .udp then h.addr else 0,
    if h.transport = .udp then h.port else BitVec.ofNat 16 (p.1.canIdent 1), ?_, fun e => by simp [e]⟩
  unfold State.answer
  simp only
  have ho : ∀ (y : State) (b : Bytes) (i : Nat), OutMsg.baspo h.transport (if h.transport = .udp then h.addr else 0)
      (if h.transport = .udp then h.port else BitVec.ofNat 16 i) b ∈ (y.sendBaspo h.transport h.addr h.port i b).out := by
    intro y b i
    unfold State.sendBaspo
    cases h.transport <;> exact List.mem_append_right _ (List.mem_singleton.mpr rfl)
  split
  · exact ho _ _ _
  · rw [State.freshLimit_out, State.modSession_out]
    exact ho _ _ _

/-- An accepted command answers with its ticket. -/
theorem State.ticketed_answered (s : State) (f : U32 → State → State) (h : Hdr) (svc idx sub : Nat) :
    ((s.ticketed f).1.respond h svc idx sub (s.ticketed f).2).answered h svc 0x80 (le 4 s.nextTicket.toNat) :=
  State.answer_answered _ _ _ _ _

end Sys2Proof.Machine
end

