-- ==== Sys2Proof/Laws/Quiet.lean ====
section
/-! SUPPORT. Raising an event, counting and answering leave everything alone but what Quiet names. -/

namespace Sys2Proof.Machine

open Sys2Proof

theorem Quiet.refl (s : State) : Quiet s s :=
  ⟨rfl, rfl, rfl, rfl, rfl, rfl, rfl, rfl, rfl, rfl, rfl, rfl, rfl, rfl, rfl, rfl, rfl, rfl, rfl, rfl, rfl, rfl, rfl⟩

theorem Quiet.trans {s u v : State} (h : Quiet s u) (k : Quiet u v) : Quiet s v where
  pending := k.pending.trans h.pending
  fac := k.fac.trans h.fac
  cfg := k.cfg.trans h.cfg
  net := k.net.trans h.net
  scan := k.scan.trans h.scan
  emit := k.emit.trans h.emit
  rx := k.rx.trans h.rx
  tin := k.tin.trans h.tin
  bus := k.bus.trans h.bus
  front := k.front.trans h.front
  hka := k.hka.trans h.hka
  coil := k.coil.trans h.coil
  laneA := k.laneA.trans h.laneA
  laneB := k.laneB.trans h.laneB
  arb := k.arb.trans h.arb
  echo := k.echo.trans h.echo
  cap := k.cap.trans h.cap
  stream := k.stream.trans h.stream
  pwr := k.pwr.trans h.pwr
  therm := k.therm.trans h.therm
  cal := k.cal.trans h.cal
  flash := k.flash.trans h.flash
  sec := k.sec.trans h.sec

theorem Quiet.ite {s a b : State} {c : Prop} [Decidable c] (h : Quiet s a) (k : Quiet s b) : Quiet s (if c then a else b) := by
  split <;> assumption

theorem State.at_quiet (s : State) (t : Time) : Quiet s (s.at t) := { Quiet.refl s with }
theorem State.offer_quiet (s : State) (g : Trigger) : Quiet s (s.offer g) := { Quiet.refl s with }
theorem State.countRaw_quiet (s : State) (id n c : Nat) : Quiet s (s.countRaw id n c) := { Quiet.refl s with }
theorem State.enqueue_quiet (s : State) (k : Ticket) : Quiet s (s.enqueue k) := { Quiet.refl s with }
theorem State.dequeue_quiet (s : State) (k : U32) : Quiet s (s.dequeue k) := { Quiet.refl s with }
theorem State.issueTicket_quiet (s : State) : Quiet s s.issueTicket.1 := { Quiet.refl s with }
theorem State.send_quiet (s : State) (m : OutMsg) : Quiet s (s.send m) := { Quiet.refl s with }
theorem State.modSession_quiet (s : State) (tr : Transport) (n : Byte) (f : Session → Session) : Quiet s (s.modSession tr n f) :=
  { Quiet.refl s with }
theorem State.acceptRequest_quiet (s : State) (r : Rcvd) : Quiet s (s.acceptRequest r) := { Quiet.refl s with }
theorem State.endSubs_quiet (s : State) (tr : Transport) (n : Byte) : Quiet s (s.endSubs tr n) := { Quiet.refl s with }

theorem State.raiseRaw_quiet (s : State) (code sev : Nat) (tk p1 p2 p3 : U32) : Quiet s (s.raiseRaw code sev tk p1 p2 p3) := by
  unfold State.raiseRaw
  split
  · refine Quiet.trans ?_ (State.offer_quiet _ _)
    exact { Quiet.refl s with }
  · exact { Quiet.refl s with }

theorem State.saturate_quiet (s : State) (id : Nat) : Quiet s (s.saturate id) := by
  unfold State.saturate
  split
  · refine Quiet.trans ?_ (State.raiseRaw_quiet _ _ _ _ _ _ _)
    exact { Quiet.refl s with }
  · exact Quiet.refl s

theorem State.count_quiet (s : State) (id n : Nat) : Quiet s (s.count id n) := by
  unfold State.count
  split
  · exact Quiet.refl s
  · exact (State.countRaw_quiet s id n _).trans (State.saturate_quiet _ _)

theorem State.raise_quiet (s : State) (code sev : Nat) (p1 p2 p3 tk : U32) : Quiet s (s.raise code sev p1 p2 p3 tk) :=
  (State.raiseRaw_quiet s code sev tk p1 p2 p3).trans (State.count_quiet _ _ _)

theorem State.abandonLock_quiet (s : State) (tr : Transport) (n : Byte) (r : Nat) : Quiet s (s.abandonLock tr n r) := by
  unfold State.abandonLock
  split
  · split
    · exact (State.modSession_quiet s tr n _).trans (State.raise_quiet _ _ _ _ _ _ _)
    · exact Quiet.refl s
  · exact Quiet.refl s

theorem State.closeSession_quiet (s : State) (tr : Transport) (n : Byte) (r : Nat) : Quiet s (s.closeSession tr n r) := by
  unfold State.closeSession
  split
  · exact Quiet.refl s
  · refine Quiet.trans ?_ (State.raise_quiet _ _ _ _ _ _ _)
    refine (State.abandonLock_quiet s tr n 3).trans ((State.endSubs_quiet _ tr n).trans ?_)
    exact { Quiet.refl _ with }

theorem State.freshLimit_quiet (s : State) (tr : Transport) (n : Byte) : Quiet s (s.freshLimit tr n) := by
  unfold State.freshLimit
  split
  · exact Quiet.ite (State.closeSession_quiet _ _ _ _) (Quiet.refl s)
  · exact Quiet.refl s

theorem State.nextFresh_quiet (s : State) (tr : Transport) (n : Byte) : Quiet s (s.nextFresh tr n).1 := by
  unfold State.nextFresh
  split
  · exact State.modSession_quiet _ _ _ _
  · exact { Quiet.refl s with }

theorem State.sendBaspo_quiet (s : State) (tr : Transport) (a : BitVec 128) (p : U16) (i : Nat) (b : Bytes) :
    Quiet s (s.sendBaspo tr a p i b) := by
  unfold State.sendBaspo
  split <;> exact State.send_quiet _ _

theorem State.answer_quiet (s : State) (h : Hdr) (svc flags : Nat) (p : Bytes) : Quiet s (s.answer h svc flags p) := by
  unfold State.answer
  refine (State.nextFresh_quiet s h.transport h.session).trans ?_
  simp only
  split
  · exact State.sendBaspo_quiet _ _ _ _ _ _
  · refine Quiet.trans ?_ (State.freshLimit_quiet _ _ _)
    refine Quiet.trans ?_ (State.modSession_quiet _ _ _ _)
    exact State.sendBaspo_quiet _ _ _ _ _ _

/-- A host's command is its message. -/
theorem hostMessage_exec (c : Instr) (s : State) {t : Time} {svc : Nat} {h : Hdr} {p : Bytes} (hc : hostMessage c = some (t, svc, h, p)) :
    exec c s = .next (doRequest t svc h p s) := by
  cases c <;> simp only [hostMessage, Option.some.injEq, Prod.mk.injEq, reduceCtorEq] at hc <;>
    obtain ⟨rfl, rfl, rfl, rfl⟩ := hc <;> rfl

/-- A request that no service takes is answered with an abort. -/
theorem State.process_abort {s : State} {svc : Nat} {r : Rcvd} {a : Abort} {d : Nat} (h : s.serve svc r = (s, .abort a d)) :
    s.process svc r = s.answer r.h svc 0xC0 (abortBytes a (indexIn svc r.payload) (subIn svc r.payload) d) := by
  unfold State.process
  rw [h]
  rfl

/-- Acceptance changes the session alone. -/
theorem reaches_quiet {s : State} {svc : Nat} {h : Hdr} {p : Bytes} {s2 : State} {r : Rcvd} (hr : s.reaches svc h p = some (s2, r)) :
    Quiet s s2 := by
  unfold State.reaches at hr
  split at hr
  · cases hr
  · split at hr
    · cases hr; exact Quiet.refl s
    · split at hr
      · cases hr
      · simp only at hr
        split at hr
        · cases hr; exact State.acceptRequest_quiet _ _
        · cases hr

/-- Counters through an answer. -/
theorem State.answer_counter (s : State) (h : Hdr) (svc flags : Nat) (p : Bytes) (j : Nat) (hj : j ≠ Id.NOTIFY_DROPPED) :
    (s.answer h svc flags p).counter j = s.counter j := by
  have h1 : ∀ (s : State) (tr : Transport) (n : Byte), (s.nextFresh tr n).1.counter j = s.counter j := by
    intro s tr n; unfold State.nextFresh; split <;> rfl
  have h2 : ∀ (s : State) (tr : Transport) (a : BitVec 128) (q : U16) (i : Nat) (b : Bytes), (s.sendBaspo tr a q i b).counter j = s.counter j := by
    intro s tr a q i b; unfold State.sendBaspo; split <;> rfl
  have h3 : ∀ (s : State) (tr : Transport) (n : Byte) (k : Nat), (s.abandonLock tr n k).counter j = s.counter j := by
    intro s tr n k; unfold State.abandonLock
    split
    · split
      · exact State.raise_counter _ _ _ _ _ _ _ _ hj
      · rfl
    · rfl
  have h4 : ∀ (s : State) (tr : Transport) (n : Byte) (k : Nat), (s.closeSession tr n k).counter j = s.counter j := by
    intro s tr n k; unfold State.closeSession
    split
    · rfl
    · simp only
      rw [State.raise_counter _ _ _ _ _ _ _ _ hj]
      exact h3 s tr n 3
  have h5 : ∀ (s : State) (tr : Transport) (n : Byte), (s.freshLimit tr n).counter j = s.counter j := by
    intro s tr n; unfold State.freshLimit
    split
    · split
      · exact h4 _ _ _ _
      · rfl
    · rfl
  unfold State.answer
  simp only
  split
  · rw [h2, h1]
  · rw [h5]
    show ((State.sendBaspo _ _ _ _ _ _)).counter j = _
    rw [h2, h1]

end Sys2Proof.Machine
end

