-- ==== Sys2Proof/Laws/Sessions.lean ====
section
/-! SUPPORT. What an open session becomes when an event is raised, when it is changed and when it is answered; and that closing it takes it
out. -/

namespace Sys2Proof.Machine

open Sys2Proof

/-- Find in a list whose entries change but keep what the search looks at. -/
theorem find_map_keep {α : Type} (l : List α) (p : α → Bool) (f : α → α) (h : ∀ a, p (f a) = p a) :
    (l.map f).find? p = (l.find? p).map f := by
  induction l with
  | nil => rfl
  | cons a l ih =>
    simp only [List.map_cons, List.find?_cons, h]
    split
    · rfl
    · exact ih

/-- A change of a session that keeps its transport and number. -/
theorem State.modSession_session (s : State) (tr : Transport) (n : Byte) (f : Session → Session)
    (h : ∀ x, (f x).transport = x.transport ∧ (f x).num = x.num) (tr' : Transport) (n' : Byte) :
    (s.modSession tr n f).session? tr' n' = (s.session? tr' n').map fun x => if x.transport = tr ∧ x.num = n then f x else x := by
  unfold State.session? State.modSession
  simp only
  refine find_map_keep _ _ _ ?_
  intro a
  split
  · rw [(h a).1, (h a).2]
  · rfl

/-- What session? finds has that transport and number. -/
theorem State.session_spec {s : State} {tr : Transport} {n : Byte} {x : Session} (h : s.session? tr n = some x) :
    x.transport = tr ∧ x.num = n := by
  unfold State.session? at h
  have := List.find?_some h
  simpa using this

/-- A change of the session itself. -/
theorem State.modSession_same {s : State} {tr : Transport} {n : Byte} {x : Session} (hx : s.session? tr n = some x)
    (f : Session → Session) (h : ∀ x, (f x).transport = x.transport ∧ (f x).num = x.num) :
    (s.modSession tr n f).session? tr n = some (f x) := by
  rw [State.modSession_session s tr n f h, hx, Option.map_some, if_pos (State.session_spec hx)]

theorem State.raiseRaw_session (s : State) (code sev : Nat) (tk p1 p2 p3 : U32) (tr : Transport) (n : Byte) :
    ∃ g : Option Subscriber → Option Subscriber, (s.raiseRaw code sev tk p1 p2 p3).session? tr n =
      (s.session? tr n).map fun x => { x with sub := g x.sub } := by
  refine ⟨fun b => b.map fun b => b.offer
    { seq := s.evt.seq + 1, time := s.stampNow, code := BitVec.ofNat 16 code, severity := BitVec.ofNat 8 sev, unsync := s.unsync,
      ticket := tk, p1, p2, p3 }, ?_⟩
  unfold State.raiseRaw
  simp only
  split <;>
  · unfold State.session?
    exact find_map_keep _ _ _ (fun a => rfl)

/-- A session with another subscription state. -/
def SameButSub (x y : Option Session) : Prop := ∃ g : Option Subscriber → Option Subscriber, y = x.map fun a => { a with sub := g a.sub }

theorem SameButSub.refl (x : Option Session) : SameButSub x x := ⟨id, by cases x <;> rfl⟩
theorem SameButSub.trans {x y z : Option Session} (h : SameButSub x y) (k : SameButSub y z) : SameButSub x z := by
  obtain ⟨g, rfl⟩ := h
  obtain ⟨g', rfl⟩ := k
  exact ⟨fun b => g' (g b), by cases x <;> rfl⟩

theorem SameButSub.some {x : Session} {y : Option Session} (h : SameButSub (some x) y) : ∃ b, y = some { x with sub := b } := by
  obtain ⟨g, rfl⟩ := h
  exact ⟨_, rfl⟩

theorem State.count_session (s : State) (id k : Nat) (tr : Transport) (n : Byte) :
    SameButSub (s.session? tr n) ((s.count id k).session? tr n) := by
  unfold State.count
  split
  · exact SameButSub.refl _
  · unfold State.saturate
    split
    · exact State.raiseRaw_session _ _ _ _ _ _ _ _ _
    · exact SameButSub.refl _

theorem State.raise_session (s : State) (code sev : Nat) (p1 p2 p3 tk : U32) (tr : Transport) (n : Byte) :
    SameButSub (s.session? tr n) ((s.raise code sev p1 p2 p3 tk).session? tr n) :=
  SameButSub.trans (State.raiseRaw_session s code sev tk p1 p2 p3 tr n) (State.count_session _ _ _ _ _)

/-- An answered session: its own counter moved by one, and the response may be kept. -/
theorem State.answer_session {s : State} {h : Hdr} {x : Session} (h0 : h.session ≠ 0) (hx : s.session? h.transport h.session = some x)
    (hl : x.lasts) (svc flags : Nat) (p : Bytes) : ∃ b, (s.answer h svc flags p).session? h.transport h.session =
      some { x with txFresh := x.txFresh + 1, lastResponse := b } := by
  have h1 : (s.nextFresh h.transport h.session).1.session? h.transport h.session = some { x with txFresh := x.txFresh + 1 } := by
    unfold State.nextFresh
    rw [if_neg h0, hx]
    exact State.modSession_same hx _ (fun y => ⟨rfl, rfl⟩)
  unfold State.answer
  simp only [if_neg h0]
  have h2 : ∀ (i : Nat) (b : Bytes), ((s.nextFresh h.transport h.session).1.sendBaspo h.transport h.addr h.port i b).session?
      h.transport h.session = some { x with txFresh := x.txFresh + 1 } := by
    intro i b
    unfold State.sendBaspo
    split <;> exact h1
  generalize wireMessage h.transport (s.nextFresh h.transport h.session).2.2 ((s.nextFresh h.transport h.session).1.canIdent 1)
    (BitVec.ofNat 8 flags) (BitVec.ofNat 8 svc) h.session h.transaction (s.nextFresh h.transport h.session).2.1 p = w
  generalize (s.nextFresh h.transport h.session).1.canIdent 1 = i
  have h3 := State.modSession_same (h2 i w) (fun y => if y.isLast h = true then { y with lastResponse := some w } else y)
    (fun y => by split <;> exact ⟨rfl, rfl⟩)
  unfold State.freshLimit
  rw [h3]
  simp only
  unfold Session.lasts at hl
  rw [if_neg (by split <;> simp <;> omega), h3]
  split
  · exact ⟨_, rfl⟩
  · exact ⟨x.lastResponse, rfl⟩

/-- A session that closes is gone. -/
theorem State.closeSession_gone (s : State) (tr : Transport) (n : Byte) (k : Nat) : (s.closeSession tr n k).session? tr n = none := by
  cases hx : s.session? tr n with
  | none => unfold State.closeSession; rw [hx]; exact hx
  | some x =>
    unfold State.closeSession
    rw [hx]
    simp only
    have h := State.raise_session { ((s.abandonLock tr n 3).endSubs tr n) with
      baspo := { ((s.abandonLock tr n 3).endSubs tr n).baspo with
        sessions := ((s.abandonLock tr n 3).endSubs tr n).baspo.sessions.filter fun x => !(x.transport == tr && x.num == n) }
      flash := ((s.abandonLock tr n 3).endSubs tr n).flash.unask tr n } 0x8006 0 (u32 n.toNat) (u32 k) 0 0 tr n
    have h2 : ∀ l : List Session, (l.filter fun x => !(x.transport == tr && x.num == n)).find? (fun x => x.transport == tr && x.num == n) =
        none := by
      intro l
      rw [List.find?_eq_none]
      intro a ha
      have := (List.mem_filter.mp ha).2
      simp at this ⊢
      exact fun e f => this.elim (fun k => k e) (fun k => k f)
    have h3 : State.session? { ((s.abandonLock tr n 3).endSubs tr n) with
      baspo := { ((s.abandonLock tr n 3).endSubs tr n).baspo with
        sessions := ((s.abandonLock tr n 3).endSubs tr n).baspo.sessions.filter fun x => !(x.transport == tr && x.num == n) }
      flash := ((s.abandonLock tr n 3).endSubs tr n).flash.unask tr n } tr n = none := h2 _
    rw [h3] at h
    obtain ⟨g, hg⟩ := h
    exact hg

/-- A change of another session. -/
theorem State.modSession_other (s : State) (tr : Transport) (n : Byte) (f : Session → Session)
    (h : ∀ x, (f x).transport = x.transport ∧ (f x).num = x.num) (tr' : Transport) (n' : Byte) (hne : ¬ (tr' = tr ∧ n' = n)) :
    (s.modSession tr n f).session? tr' n' = s.session? tr' n' := by
  rw [State.modSession_session s tr n f h]
  cases hx : s.session? tr' n' with
  | none => rfl
  | some x =>
    have := State.session_spec hx
    rw [Option.map_some, if_neg (by rw [this.1, this.2]; exact hne)]

theorem find_filter_other {α : Type} (l : List α) (p q : α → Bool) (h : ∀ a, p a = true → q a = true) :
    (l.filter q).find? p = l.find? p := by
  rw [List.find?_filter]
  congr 1
  funext a
  cases hp : p a
  · simp
  · simp [h a hp]

theorem State.abandonLock_other (s : State) (tr : Transport) (n : Byte) (k : Nat) (tr' : Transport) (n' : Byte)
    (hne : ¬ (tr' = tr ∧ n' = n)) : SameButSub (s.session? tr' n') ((s.abandonLock tr n k).session? tr' n') := by
  unfold State.abandonLock
  split
  · split
    · have h := State.raise_session (s.modSession tr n fun y => { y with lock := y.lock.drop (k == 2) }) 0xA302 0
        (by assumption : Session).lock.id (u32 k) 0 0 tr' n'
      rw [State.modSession_other s tr n (fun y => { y with lock := y.lock.drop (k == 2) }) (fun x => ⟨rfl, rfl⟩) tr' n' hne] at h
      exact h
    · exact SameButSub.refl _
  · exact SameButSub.refl _

/-- Closing a session leaves the others open. -/
theorem State.closeSession_other (s : State) (tr : Transport) (n : Byte) (k : Nat) (tr' : Transport) (n' : Byte)
    (hne : ¬ (tr' = tr ∧ n' = n)) : SameButSub (s.session? tr' n') ((s.closeSession tr n k).session? tr' n') := by
  unfold State.closeSession
  split
  · exact SameButSub.refl _
  · simp only
    refine SameButSub.trans (State.abandonLock_other s tr n 3 tr' n' hne) (SameButSub.trans ?_ (State.raise_session _ _ _ _ _ _ _ _ _))
    have : ∀ l : List Session, (l.filter fun x => !(x.transport == tr && x.num == n)).find? (fun x => x.transport == tr' && x.num == n') =
        l.find? fun x => x.transport == tr' && x.num == n' := by
      intro l
      refine find_filter_other _ _ _ ?_
      intro a ha
      simp at ha ⊢
      rcases Decidable.em (a.transport = tr) with e | e
      · exact Or.inr fun f => hne ⟨ha.1.symm.trans e, ha.2.symm.trans f⟩
      · exact Or.inl e
    unfold State.session?
    simp only
    rw [this]
    exact SameButSub.refl _

/-- Answering in one session leaves the others open. -/
theorem State.answer_other (s : State) (h : Hdr) (svc flags : Nat) (p : Bytes) (tr' : Transport) (n' : Byte)
    (hne : ¬ (tr' = h.transport ∧ n' = h.session)) :
    SameButSub (s.session? tr' n') ((s.answer h svc flags p).session? tr' n') := by
  have h1 : (s.nextFresh h.transport h.session).1.session? tr' n' = s.session? tr' n' := by
    unfold State.nextFresh
    split
    · exact State.modSession_other _ _ _ _ (fun x => by exact ⟨rfl, rfl⟩) _ _ hne
    · rfl
  have h2 : ∀ (y : State) (a : BitVec 128) (q : U16) (i : Nat) (b : Bytes), (y.sendBaspo h.transport a q i b).session? tr' n' =
      y.session? tr' n' := by
    intro y a q i b
    unfold State.sendBaspo
    split <;> rfl
  unfold State.answer
  simp only
  split
  · rw [h2, h1]
    exact SameButSub.refl _
  · have h3 : ∀ y : State, SameButSub (y.session? tr' n') ((y.freshLimit h.transport h.session).session? tr' n') := by
      intro y
      unfold State.freshLimit
      split
      · split
        · exact State.closeSession_other _ _ _ _ _ _ hne
        · exact SameButSub.refl _
      · exact SameButSub.refl _
    refine SameButSub.trans ?_ (h3 _)
    rw [State.modSession_other _ _ _ _ (fun x => by split <;> exact ⟨rfl, rfl⟩) _ _ hne, h2, h1]
    exact SameButSub.refl _

/-! ### Subscriptions of a session -/

theorem State.abandonLock_subs (s : State) (tr : Transport) (n : Byte) (k : Nat) : (s.abandonLock tr n k).stream = s.stream := by simp

theorem State.closeSession_subs {s : State} {tr : Transport} {n : Byte} {x : Session} (hx : s.session? tr n = some x) (k : Nat) :
    ∀ b ∈ (s.closeSession tr n k).stream.subs, ¬ (b.transport = tr ∧ b.session = n) := by
  unfold State.closeSession
  rw [hx]
  simp only [State.raise_stream]
  intro b hb
  have : b ∈ (s.abandonLock tr n 3).stream.subs.filter fun b => !(b.transport == tr && b.session == n) := hb
  have h2 := (List.mem_filter.mp this).2
  simp at h2
  exact fun e => h2.elim (fun k => k e.1) (fun k => k e.2)

end Sys2Proof.Machine
end

