-- ==== Sys2Proof/Laws/Writers.lean ====
section
/-! SUPPORT. The functions that write the echo store or move the security state: what they keep, and that the echo store stays in its
canonical form. -/

namespace Sys2Proof.Machine
open Sys2Proof

set_option maxRecDepth 4000

theorem kept_fold (s : State) : (s.pending, s.now, s.fac) = s.kept := rfl
theorem secret_fold (s : State) : (s.sec.state, s.sec.sealIntent, s.sec.keys) = s.secret := rfl
theorem held_kept {s u : State} (h : s.held = u.held) : State.kept s = State.kept u := congrArg (fun p => p.1) h
theorem held_echo {s u : State} (h : s.held = u.held) : State.echo s = State.echo u := congrArg (fun p => p.2.1) h
theorem held_secret {s u : State} (h : s.held = u.held) : State.secret s = State.secret u := congrArg (fun p => p.2.2) h
theorem kept_mk (a b c d e f g h i j k l m n o p q r s t u v w x y z aa ab) :
    State.kept ⟨a,b,c,d,e,f,g,h,i,j,k,l,m,n,o,p,q,r,s,t,u,v,w,x,y,z,aa,ab⟩ = (a, b, e) := rfl
theorem kept_ite (c : Prop) [Decidable c] (a b : State) : State.kept (if c then a else b) = if c then State.kept a else State.kept b := by split <;> rfl
theorem kept_ite1 {α : Type} (c : Prop) [Decidable c] (a b : State × α) : State.kept (if c then a else b).1 = if c then State.kept a.1 else State.kept b.1 := by split <;> rfl
theorem foldl_kept {α : Type} (f : State → α → State) (h : ∀ y x, (f y x).kept = y.kept) (l : List α) (s : State) : (l.foldl f s).kept = s.kept := by
  induction l generalizing s with
  | nil => rfl
  | cons a l ih => rw [List.foldl_cons, ih, h]
theorem echo_mk (a b c d e f g h i j k l m n o p q r s t u v w x y z aa ab) :
    State.echo ⟨a,b,c,d,e,f,g,h,i,j,k,l,m,n,o,p,q,r,s,t,u,v,w,x,y,z,aa,ab⟩ = u := rfl
theorem echo_ite (c : Prop) [Decidable c] (a b : State) : State.echo (if c then a else b) = if c then State.echo a else State.echo b := by split <;> rfl
theorem echo_ite1 {α : Type} (c : Prop) [Decidable c] (a b : State × α) : State.echo (if c then a else b).1 = if c then State.echo a.1 else State.echo b.1 := by split <;> rfl
theorem foldl_echo {α : Type} (f : State → α → State) (h : ∀ y x, (f y x).echo = y.echo) (l : List α) (s : State) : (l.foldl f s).echo = s.echo := by
  induction l generalizing s with
  | nil => rfl
  | cons a l ih => rw [List.foldl_cons, ih, h]
theorem secret_mk (a b c d e f g h i j k l m n o p q r s t u v w x y z aa ab) :
    State.secret ⟨a,b,c,d,e,f,g,h,i,j,k,l,m,n,o,p,q,r,s,t,u,v,w,x,y,z,aa,ab⟩ = (ab.state, ab.sealIntent, ab.keys) := rfl
theorem secret_ite (c : Prop) [Decidable c] (a b : State) : State.secret (if c then a else b) = if c then State.secret a else State.secret b := by split <;> rfl
theorem secret_ite1 {α : Type} (c : Prop) [Decidable c] (a b : State × α) : State.secret (if c then a else b).1 = if c then State.secret a.1 else State.secret b.1 := by split <;> rfl
theorem foldl_secret {α : Type} (f : State → α → State) (h : ∀ y x, (f y x).secret = y.secret) (l : List α) (s : State) : (l.foldl f s).secret = s.secret := by
  induction l generalizing s with
  | nil => rfl
  | cons a l ih => rw [List.foldl_cons, ih, h]
theorem kept_count (s : State) (id : Nat) (n : Nat) : State.kept ((State.count s id n)) = State.kept s := held_kept (held_count s id n)
theorem echo_count (s : State) (id : Nat) (n : Nat) : State.echo ((State.count s id n)) = State.echo s := held_echo (held_count s id n)
theorem secret_count (s : State) (id : Nat) (n : Nat) : State.secret ((State.count s id n)) = State.secret s := held_secret (held_count s id n)
theorem kept_raise (s : State) (code sev : Nat) (p1 : U32) (p2 : U32) (p3 : U32) (ticket : U32) : State.kept ((State.raise s code sev p1 p2 p3 ticket)) = State.kept s := held_kept (held_raise s code sev p1 p2 p3 ticket)
theorem echo_raise (s : State) (code sev : Nat) (p1 : U32) (p2 : U32) (p3 : U32) (ticket : U32) : State.echo ((State.raise s code sev p1 p2 p3 ticket)) = State.echo s := held_echo (held_raise s code sev p1 p2 p3 ticket)
theorem secret_raise (s : State) (code sev : Nat) (p1 : U32) (p2 : U32) (p3 : U32) (ticket : U32) : State.secret ((State.raise s code sev p1 p2 p3 ticket)) = State.secret s := held_secret (held_raise s code sev p1 p2 p3 ticket)
theorem kept_setDom (s : State) (d : Nat) (v : DomState) : State.kept ((State.setDom s d v)) = State.kept s := held_kept (held_setDom s d v)
theorem echo_setDom (s : State) (d : Nat) (v : DomState) : State.echo ((State.setDom s d v)) = State.echo s := held_echo (held_setDom s d v)
theorem secret_setDom (s : State) (d : Nat) (v : DomState) : State.secret ((State.setDom s d v)) = State.secret s := held_secret (held_setDom s d v)
theorem kept_markFailed (s : State) (d cause : Nat) : State.kept ((State.markFailed s d cause)) = State.kept s := held_kept (held_markFailed s d cause)
theorem echo_markFailed (s : State) (d cause : Nat) : State.echo ((State.markFailed s d cause)) = State.echo s := held_echo (held_markFailed s d cause)
theorem secret_markFailed (s : State) (d cause : Nat) : State.secret ((State.markFailed s d cause)) = State.secret s := held_secret (held_markFailed s d cause)
theorem kept_bandLost (s : State) (b cause : Nat) : State.kept ((State.bandLost s b cause)) = State.kept s := held_kept (held_bandLost s b cause)
theorem echo_bandLost (s : State) (b cause : Nat) : State.echo ((State.bandLost s b cause)) = State.echo s := held_echo (held_bandLost s b cause)
theorem secret_bandLost (s : State) (b cause : Nat) : State.secret ((State.bandLost s b cause)) = State.secret s := held_secret (held_bandLost s b cause)
theorem kept_mark (s : State) (g : Trigger) (outcome : Nat) (frame : U32) (column : Nat) (camera segment : U32) : State.kept ((State.mark s g outcome frame column camera segment).1) = State.kept s := held_kept (held_mark s g outcome frame column camera segment)
theorem echo_mark (s : State) (g : Trigger) (outcome : Nat) (frame : U32) (column : Nat) (camera segment : U32) : State.echo ((State.mark s g outcome frame column camera segment).1) = State.echo s := held_echo (held_mark s g outcome frame column camera segment)
theorem secret_mark (s : State) (g : Trigger) (outcome : Nat) (frame : U32) (column : Nat) (camera segment : U32) : State.secret ((State.mark s g outcome frame column camera segment).1) = State.secret s := held_secret (held_mark s g outcome frame column camera segment)
theorem kept_streamColumn (s : State) (r : Released) : State.kept ((State.streamColumn s r)) = State.kept s := held_kept (held_streamColumn s r)
theorem echo_streamColumn (s : State) (r : Released) : State.echo ((State.streamColumn s r)) = State.echo s := held_echo (held_streamColumn s r)
theorem secret_streamColumn (s : State) (r : Released) : State.secret ((State.streamColumn s r)) = State.secret s := held_secret (held_streamColumn s r)
theorem kept_capEnable (s : State) : State.kept ((State.capEnable s)) = State.kept s := held_kept (held_capEnable s)
theorem echo_capEnable (s : State) : State.echo ((State.capEnable s)) = State.echo s := held_echo (held_capEnable s)
theorem secret_capEnable (s : State) : State.secret ((State.capEnable s)) = State.secret s := held_secret (held_capEnable s)
theorem kept_captureColumn (s0 : State) (r : Released) : State.kept ((State.captureColumn s0 r)) = State.kept s0 := held_kept (held_captureColumn s0 r)
theorem echo_captureColumn (s0 : State) (r : Released) : State.echo ((State.captureColumn s0 r)) = State.echo s0 := held_echo (held_captureColumn s0 r)
theorem secret_captureColumn (s0 : State) (r : Released) : State.secret ((State.captureColumn s0 r)) = State.secret s0 := held_secret (held_captureColumn s0 r)
theorem kept_capSettle (s : State) : State.kept ((State.capSettle s)) = State.kept s := held_kept (held_capSettle s)
theorem echo_capSettle (s : State) : State.echo ((State.capSettle s)) = State.echo s := held_echo (held_capSettle s)
theorem secret_capSettle (s : State) : State.secret ((State.capSettle s)) = State.secret s := held_secret (held_capSettle s)
theorem kept_modLane (s : State) (l : LaneId) (f : Lane → Lane) : State.kept ((State.modLane s l f)) = State.kept s := held_kept (held_modLane s l f)
theorem echo_modLane (s : State) (l : LaneId) (f : Lane → Lane) : State.echo ((State.modLane s l f)) = State.echo s := held_echo (held_modLane s l f)
theorem secret_modLane (s : State) (l : LaneId) (f : Lane → Lane) : State.secret ((State.modLane s l f)) = State.secret s := held_secret (held_modLane s l f)
theorem kept_flashKick (s : State) : State.kept ((State.flashKick s)) = State.kept s := held_kept (held_flashKick s)
theorem echo_flashKick (s : State) : State.echo ((State.flashKick s)) = State.echo s := held_echo (held_flashKick s)
theorem secret_flashKick (s : State) : State.secret ((State.flashKick s)) = State.secret s := held_secret (held_flashKick s)
theorem kept_retireBlock (s : State) (block cause : Nat) : State.kept ((State.retireBlock s block cause).1) = State.kept s := held_kept (held_retireBlock s block cause)
theorem echo_retireBlock (s : State) (block cause : Nat) : State.echo ((State.retireBlock s block cause).1) = State.echo s := held_echo (held_retireBlock s block cause)
theorem secret_retireBlock (s : State) (block cause : Nat) : State.secret ((State.retireBlock s block cause).1) = State.secret s := held_secret (held_retireBlock s block cause)
theorem kept_relocate (s : State) (block : Nat) : State.kept ((State.relocate s block)) = State.kept s := held_kept (held_relocate s block)
theorem echo_relocate (s : State) (block : Nat) : State.echo ((State.relocate s block)) = State.echo s := held_echo (held_relocate s block)
theorem secret_relocate (s : State) (block : Nat) : State.secret ((State.relocate s block)) = State.secret s := held_secret (held_relocate s block)
theorem kept_recorderStore (s : State) (num : U32) : State.kept ((State.recorderStore s num)) = State.kept s := held_kept (held_recorderStore s num)
theorem echo_recorderStore (s : State) (num : U32) : State.echo ((State.recorderStore s num)) = State.echo s := held_echo (held_recorderStore s num)
theorem secret_recorderStore (s : State) (num : U32) : State.secret ((State.recorderStore s num)) = State.secret s := held_secret (held_recorderStore s num)
theorem kept_modSlot (s : State) (i : Nat) (f : FwSlot → FwSlot) : State.kept ((State.modSlot s i f)) = State.kept s := held_kept (held_modSlot s i f)
theorem echo_modSlot (s : State) (i : Nat) (f : FwSlot → FwSlot) : State.echo ((State.modSlot s i f)) = State.echo s := held_echo (held_modSlot s i f)
theorem secret_modSlot (s : State) (i : Nat) (f : FwSlot → FwSlot) : State.secret ((State.modSlot s i f)) = State.secret s := held_secret (held_modSlot s i f)
theorem kept_setLaneState (s : State) (l : LaneId) (v : LaneState) : State.kept ((State.setLaneState s l v)) = State.kept s := held_kept (held_setLaneState s l v)
theorem echo_setLaneState (s : State) (l : LaneId) (v : LaneState) : State.echo ((State.setLaneState s l v)) = State.echo s := held_echo (held_setLaneState s l v)
theorem secret_setLaneState (s : State) (l : LaneId) (v : LaneState) : State.secret ((State.setLaneState s l v)) = State.secret s := held_secret (held_setLaneState s l v)
theorem kept_abortRejoin (s : State) (reason : Nat) : State.kept ((State.abortRejoin s reason)) = State.kept s := held_kept (held_abortRejoin s reason)
theorem echo_abortRejoin (s : State) (reason : Nat) : State.echo ((State.abortRejoin s reason)) = State.echo s := held_echo (held_abortRejoin s reason)
theorem secret_abortRejoin (s : State) (reason : Nat) : State.secret ((State.abortRejoin s reason)) = State.secret s := held_secret (held_abortRejoin s reason)
theorem kept_rejoinRestart (s : State) : State.kept ((State.rejoinRestart s)) = State.kept s := held_kept (held_rejoinRestart s)
theorem echo_rejoinRestart (s : State) : State.echo ((State.rejoinRestart s)) = State.echo s := held_echo (held_rejoinRestart s)
theorem secret_rejoinRestart (s : State) : State.secret ((State.rejoinRestart s)) = State.secret s := held_secret (held_rejoinRestart s)
theorem kept_modColumn (s : State) (seq : U32) (f : ColumnRec → ColumnRec) : State.kept ((State.modColumn s seq f)) = State.kept s := held_kept (held_modColumn s seq f)
theorem echo_modColumn (s : State) (seq : U32) (f : ColumnRec → ColumnRec) : State.echo ((State.modColumn s seq f)) = State.echo s := held_echo (held_modColumn s seq f)
theorem secret_modColumn (s : State) (seq : U32) (f : ColumnRec → ColumnRec) : State.secret ((State.modColumn s seq f)) = State.secret s := held_secret (held_modColumn s seq f)
theorem kept_writeAmbient (s : State) (l : LaneColumn) : State.kept ((State.writeAmbient s l)) = State.kept s := held_kept (held_writeAmbient s l)
theorem echo_writeAmbient (s : State) (l : LaneColumn) : State.echo ((State.writeAmbient s l)) = State.echo s := held_echo (held_writeAmbient s l)
theorem secret_writeAmbient (s : State) (l : LaneColumn) : State.secret ((State.writeAmbient s l)) = State.secret s := held_secret (held_writeAmbient s l)
theorem kept_countColumn (s : State) (r : Released) : State.kept ((State.countColumn s r)) = State.kept s := held_kept (held_countColumn s r)
theorem echo_countColumn (s : State) (r : Released) : State.echo ((State.countColumn s r)) = State.echo s := held_echo (held_countColumn s r)
theorem secret_countColumn (s : State) (r : Released) : State.secret ((State.countColumn s r)) = State.secret s := held_secret (held_countColumn s r)
theorem kept_giveToken (s : State) (l : LaneId) : State.kept ((State.giveToken s l)) = State.kept s := held_kept (held_giveToken s l)
theorem echo_giveToken (s : State) (l : LaneId) : State.echo ((State.giveToken s l)) = State.echo s := held_echo (held_giveToken s l)
theorem secret_giveToken (s : State) (l : LaneId) : State.secret ((State.giveToken s l)) = State.secret s := held_secret (held_giveToken s l)
theorem kept_lapse (s : State) (cause : Nat) : State.kept ((State.lapse s cause)) = State.kept s := held_kept (held_lapse s cause)
theorem echo_lapse (s : State) (cause : Nat) : State.echo ((State.lapse s cause)) = State.echo s := held_echo (held_lapse s cause)
theorem secret_lapse (s : State) (cause : Nat) : State.secret ((State.lapse s cause)) = State.secret s := held_secret (held_lapse s cause)
theorem kept_noteMismatch (s : State) (x : ColumnRec) : State.kept ((State.noteMismatch s x)) = State.kept s := held_kept (held_noteMismatch s x)
theorem echo_noteMismatch (s : State) (x : ColumnRec) : State.echo ((State.noteMismatch s x)) = State.echo s := held_echo (held_noteMismatch s x)
theorem secret_noteMismatch (s : State) (x : ColumnRec) : State.secret ((State.noteMismatch s x)) = State.secret s := held_secret (held_noteMismatch s x)
theorem kept_qualify (s : State) (l : LaneId) (v : Option Nat) : State.kept ((State.qualify s l v)) = State.kept s := held_kept (held_qualify s l v)
theorem echo_qualify (s : State) (l : LaneId) (v : Option Nat) : State.echo ((State.qualify s l v)) = State.echo s := held_echo (held_qualify s l v)
theorem secret_qualify (s : State) (l : LaneId) (v : Option Nat) : State.secret ((State.qualify s l v)) = State.secret s := held_secret (held_qualify s l v)
theorem kept_towpathHear (s : State) (l : LaneId) : State.kept ((State.towpathHear s l)) = State.kept s := held_kept (held_towpathHear s l)
theorem echo_towpathHear (s : State) (l : LaneId) : State.echo ((State.towpathHear s l)) = State.echo s := held_echo (held_towpathHear s l)
theorem secret_towpathHear (s : State) (l : LaneId) : State.secret ((State.towpathHear s l)) = State.secret s := held_secret (held_towpathHear s l)
theorem kept_testMoors (s : State) (l : LaneId) : State.kept ((State.testMoors s l)) = State.kept s := held_kept (held_testMoors s l)
theorem echo_testMoors (s : State) (l : LaneId) : State.echo ((State.testMoors s l)) = State.echo s := held_echo (held_testMoors s l)
theorem secret_testMoors (s : State) (l : LaneId) : State.secret ((State.testMoors s l)) = State.secret s := held_secret (held_testMoors s l)
theorem kept_lanesStart (s : State) : State.kept ((State.lanesStart s)) = State.kept s := held_kept (held_lanesStart s)
theorem echo_lanesStart (s : State) : State.echo ((State.lanesStart s)) = State.echo s := held_echo (held_lanesStart s)
theorem secret_lanesStart (s : State) : State.secret ((State.lanesStart s)) = State.secret s := held_secret (held_lanesStart s)
theorem kept_modSession (s : State) (tr : Transport) (num : Byte) (f : Session → Session) : State.kept ((State.modSession s tr num f)) = State.kept s := held_kept (held_modSession s tr num f)
theorem echo_modSession (s : State) (tr : Transport) (num : Byte) (f : Session → Session) : State.echo ((State.modSession s tr num f)) = State.echo s := held_echo (held_modSession s tr num f)
theorem secret_modSession (s : State) (tr : Transport) (num : Byte) (f : Session → Session) : State.secret ((State.modSession s tr num f)) = State.secret s := held_secret (held_modSession s tr num f)
theorem kept_closeSession (s : State) (tr : Transport) (num : Byte) (reason : Nat) : State.kept ((State.closeSession s tr num reason)) = State.kept s := held_kept (held_closeSession s tr num reason)
theorem echo_closeSession (s : State) (tr : Transport) (num : Byte) (reason : Nat) : State.echo ((State.closeSession s tr num reason)) = State.echo s := held_echo (held_closeSession s tr num reason)
theorem secret_closeSession (s : State) (tr : Transport) (num : Byte) (reason : Nat) : State.secret ((State.closeSession s tr num reason)) = State.secret s := held_secret (held_closeSession s tr num reason)
theorem kept_closeSessions (s : State) (p : Session → Bool) (reason : Nat) : State.kept ((State.closeSessions s p reason)) = State.kept s := held_kept (held_closeSessions s p reason)
theorem echo_closeSessions (s : State) (p : Session → Bool) (reason : Nat) : State.echo ((State.closeSessions s p reason)) = State.echo s := held_echo (held_closeSessions s p reason)
theorem secret_closeSessions (s : State) (p : Session → Bool) (reason : Nat) : State.secret ((State.closeSessions s p reason)) = State.secret s := held_secret (held_closeSessions s p reason)
theorem kept_keepCap (s : State) (r : CapResult) : State.kept ((State.keepCap s r)) = State.kept s := held_kept (held_keepCap s r)
theorem echo_keepCap (s : State) (r : CapResult) : State.echo ((State.keepCap s r)) = State.echo s := held_echo (held_keepCap s r)
theorem secret_keepCap (s : State) (r : CapResult) : State.secret ((State.keepCap s r)) = State.secret s := held_secret (held_keepCap s r)
theorem kept_enterBackoff (s : State) (level : Nat) : State.kept ((State.enterBackoff s level)) = State.kept s := held_kept (held_enterBackoff s level)
theorem echo_enterBackoff (s : State) (level : Nat) : State.echo ((State.enterBackoff s level)) = State.echo s := held_echo (held_enterBackoff s level)
theorem secret_enterBackoff (s : State) (level : Nat) : State.secret ((State.enterBackoff s level)) = State.secret s := held_secret (held_enterBackoff s level)
theorem kept_versionCommit (s : State) (num lockId : U32) (time : U64) (values : Store) : State.kept ((State.versionCommit s num lockId time values)) = State.kept s := held_kept (held_versionCommit s num lockId time values)
theorem echo_versionCommit (s : State) (num lockId : U32) (time : U64) (values : Store) : State.echo ((State.versionCommit s num lockId time values)) = State.echo s := held_echo (held_versionCommit s num lockId time values)
theorem secret_versionCommit (s : State) (num lockId : U32) (time : U64) (values : Store) : State.secret ((State.versionCommit s num lockId time values)) = State.secret s := held_secret (held_versionCommit s num lockId time values)
theorem kept_modVersion (s : State) (num : U32) (f : Version → Version) : State.kept ((State.modVersion s num f)) = State.kept s := held_kept (held_modVersion s num f)
theorem echo_modVersion (s : State) (num : U32) (f : Version → Version) : State.echo ((State.modVersion s num f)) = State.echo s := held_echo (held_modVersion s num f)
theorem secret_modVersion (s : State) (num : U32) (f : Version → Version) : State.secret ((State.modVersion s num f)) = State.secret s := held_secret (held_modVersion s num f)
theorem kept_pointerCommit (s : State) (num ticket : U32) : State.kept ((State.pointerCommit s num ticket)) = State.kept s := held_kept (held_pointerCommit s num ticket)
theorem echo_pointerCommit (s : State) (num ticket : U32) : State.echo ((State.pointerCommit s num ticket)) = State.echo s := held_echo (held_pointerCommit s num ticket)
theorem secret_pointerCommit (s : State) (num ticket : U32) : State.secret ((State.pointerCommit s num ticket)) = State.secret s := held_secret (held_pointerCommit s num ticket)
theorem kept_confirmCommit (s : State) (num : U32) : State.kept ((State.confirmCommit s num)) = State.kept s := held_kept (held_confirmCommit s num)
theorem echo_confirmCommit (s : State) (num : U32) : State.echo ((State.confirmCommit s num)) = State.echo s := held_echo (held_confirmCommit s num)
theorem secret_confirmCommit (s : State) (num : U32) : State.secret ((State.confirmCommit s num)) = State.secret s := held_secret (held_confirmCommit s num)
theorem kept_calCommit (s : State) (ticket : U32) (mask : Nat) : State.kept ((State.calCommit s ticket mask)) = State.kept s := held_kept (held_calCommit s ticket mask)
theorem echo_calCommit (s : State) (ticket : U32) (mask : Nat) : State.echo ((State.calCommit s ticket mask)) = State.echo s := held_echo (held_calCommit s ticket mask)
theorem secret_calCommit (s : State) (ticket : U32) (mask : Nat) : State.secret ((State.calCommit s ticket mask)) = State.secret s := held_secret (held_calCommit s ticket mask)
theorem kept_fwConfirmed (s : State) (slot : Nat) : State.kept ((State.fwConfirmed s slot)) = State.kept s := held_kept (held_fwConfirmed s slot)
theorem echo_fwConfirmed (s : State) (slot : Nat) : State.echo ((State.fwConfirmed s slot)) = State.echo s := held_echo (held_fwConfirmed s slot)
theorem secret_fwConfirmed (s : State) (slot : Nat) : State.secret ((State.fwConfirmed s slot)) = State.secret s := held_secret (held_fwConfirmed s slot)
theorem kept_workFailed (s : State) (work : FlashWork) : State.kept ((State.workFailed s work)) = State.kept s := held_kept (held_workFailed s work)
theorem echo_workFailed (s : State) (work : FlashWork) : State.echo ((State.workFailed s work)) = State.echo s := held_echo (held_workFailed s work)
theorem secret_workFailed (s : State) (work : FlashWork) : State.secret ((State.workFailed s work)) = State.secret s := held_secret (held_workFailed s work)
theorem kept_rejectVersion (s : State) (num : U32) : State.kept ((State.rejectVersion s num)) = State.kept s := held_kept (held_rejectVersion s num)
theorem echo_rejectVersion (s : State) (num : U32) : State.echo ((State.rejectVersion s num)) = State.echo s := held_echo (held_rejectVersion s num)
theorem secret_rejectVersion (s : State) (num : U32) : State.secret ((State.rejectVersion s num)) = State.secret s := held_secret (held_rejectVersion s num)
theorem kept_loadVersion (n : Nat) (s : State) : State.kept ((State.loadVersion n s)) = State.kept s := held_kept (held_loadVersion n s)
theorem echo_loadVersion (n : Nat) (s : State) : State.echo ((State.loadVersion n s)) = State.echo s := held_echo (held_loadVersion n s)
theorem secret_loadVersion (n : Nat) (s : State) : State.secret ((State.loadVersion n s)) = State.secret s := held_secret (held_loadVersion n s)
theorem kept_repairCopy (s : State) : State.kept ((State.repairCopy s)) = State.kept s := held_kept (held_repairCopy s)
theorem echo_repairCopy (s : State) : State.echo ((State.repairCopy s)) = State.echo s := held_echo (held_repairCopy s)
theorem secret_repairCopy (s : State) : State.secret ((State.repairCopy s)) = State.secret s := held_secret (held_repairCopy s)
theorem kept_restoreCal (s : State) : State.kept ((State.restoreCal s)) = State.kept s := held_kept (held_restoreCal s)
theorem echo_restoreCal (s : State) : State.echo ((State.restoreCal s)) = State.echo s := held_echo (held_restoreCal s)
theorem secret_restoreCal (s : State) : State.secret ((State.restoreCal s)) = State.secret s := held_secret (held_restoreCal s)
theorem kept_imageVerdict (s0 : State) : State.kept ((State.imageVerdict s0).1) = State.kept s0 := held_kept (held_imageVerdict s0)
theorem echo_imageVerdict (s0 : State) : State.echo ((State.imageVerdict s0).1) = State.echo s0 := held_echo (held_imageVerdict s0)
theorem secret_imageVerdict (s0 : State) : State.secret ((State.imageVerdict s0).1) = State.secret s0 := held_secret (held_imageVerdict s0)
theorem kept_trialFailed (s : State) (slot cause : Nat) : State.kept ((State.trialFailed s slot cause)) = State.kept s := held_kept (held_trialFailed s slot cause)
theorem echo_trialFailed (s : State) (slot cause : Nat) : State.echo ((State.trialFailed s slot cause)) = State.echo s := held_echo (held_trialFailed s slot cause)
theorem secret_trialFailed (s : State) (slot cause : Nat) : State.secret ((State.trialFailed s slot cause)) = State.secret s := held_secret (held_trialFailed s slot cause)
theorem kept_bootFirmware (s0 : State) (x : BootIn) : State.kept ((State.bootFirmware s0 x)) = State.kept s0 := held_kept (held_bootFirmware s0 x)
theorem echo_bootFirmware (s0 : State) (x : BootIn) : State.echo ((State.bootFirmware s0 x)) = State.echo s0 := held_echo (held_bootFirmware s0 x)
theorem secret_bootFirmware (s0 : State) (x : BootIn) : State.secret ((State.bootFirmware s0 x)) = State.secret s0 := held_secret (held_bootFirmware s0 x)
theorem kept_flashLost (s : State) : State.kept ((State.flashLost s)) = State.kept s := held_kept (held_flashLost s)
theorem echo_flashLost (s : State) : State.echo ((State.flashLost s)) = State.echo s := held_echo (held_flashLost s)
theorem secret_flashLost (s : State) : State.secret ((State.flashLost s)) = State.secret s := held_secret (held_flashLost s)
theorem kept_domDown (s : State) (d mem : Nat) : State.kept ((State.domDown s d mem)) = State.kept s := held_kept (held_domDown s d mem)
theorem echo_domDown (s : State) (d mem : Nat) : State.echo ((State.domDown s d mem)) = State.echo s := held_echo (held_domDown s d mem)
theorem secret_domDown (s : State) (d mem : Nat) : State.secret ((State.domDown s d mem)) = State.secret s := held_secret (held_domDown s d mem)
theorem kept_domsOn (s : State) (l : List Nat) : State.kept ((State.domsOn s l)) = State.kept s := held_kept (held_domsOn s l)
theorem echo_domsOn (s : State) (l : List Nat) : State.echo ((State.domsOn s l)) = State.echo s := held_echo (held_domsOn s l)
theorem secret_domsOn (s : State) (l : List Nat) : State.secret ((State.domsOn s l)) = State.secret s := held_secret (held_domsOn s l)
theorem kept_domsOff (s : State) (mem : Nat) (l : List Nat) : State.kept ((State.domsOff s mem l)) = State.kept s := held_kept (held_domsOff s mem l)
theorem echo_domsOff (s : State) (mem : Nat) (l : List Nat) : State.echo ((State.domsOff s mem l)) = State.echo s := held_echo (held_domsOff s mem l)
theorem secret_domsOff (s : State) (mem : Nat) (l : List Nat) : State.secret ((State.domsOff s mem l)) = State.secret s := held_secret (held_domsOff s mem l)
theorem kept_becalmPower (s : State) (cause dom : Nat) : State.kept ((State.becalmPower s cause dom)) = State.kept s := held_kept (held_becalmPower s cause dom)
theorem echo_becalmPower (s : State) (cause dom : Nat) : State.echo ((State.becalmPower s cause dom)) = State.echo s := held_echo (held_becalmPower s cause dom)
theorem secret_becalmPower (s : State) (cause dom : Nat) : State.secret ((State.becalmPower s cause dom)) = State.secret s := held_secret (held_becalmPower s cause dom)
theorem kept_scanUp (s : State) : State.kept ((State.scanUp s)) = State.kept s := held_kept (held_scanUp s)
theorem echo_scanUp (s : State) : State.echo ((State.scanUp s)) = State.echo s := held_echo (held_scanUp s)
theorem secret_scanUp (s : State) : State.secret ((State.scanUp s)) = State.secret s := held_secret (held_scanUp s)
theorem kept_serveAll (s : State) : State.kept ((State.serveAll s)) = State.kept s := held_kept (held_serveAll s)
theorem echo_serveAll (s : State) : State.echo ((State.serveAll s)) = State.echo s := held_echo (held_serveAll s)
theorem secret_serveAll (s : State) : State.secret ((State.serveAll s)) = State.secret s := held_secret (held_serveAll s)
theorem kept_reach (s : State) (v : Power) : State.kept ((State.reach s v)) = State.kept s := held_kept (held_reach s v)
theorem echo_reach (s : State) (v : Power) : State.echo ((State.reach s v)) = State.echo s := held_echo (held_reach s v)
theorem secret_reach (s : State) (v : Power) : State.secret ((State.reach s v)) = State.secret s := held_secret (held_reach s v)
theorem kept_bootFail (s : State) (x : BootIn) : State.kept ((State.bootFail s x)) = State.kept s := held_kept (held_bootFail s x)
theorem echo_bootFail (s : State) (x : BootIn) : State.echo ((State.bootFail s x)) = State.echo s := held_echo (held_bootFail s x)
theorem secret_bootFail (s : State) (x : BootIn) : State.secret ((State.bootFail s x)) = State.secret s := held_secret (held_bootFail s x)
theorem kept_wakeComplete (s : State) (w : Wake) : State.kept ((State.wakeComplete s w)) = State.kept s := held_kept (held_wakeComplete s w)
theorem echo_wakeComplete (s : State) (w : Wake) : State.echo ((State.wakeComplete s w)) = State.echo s := held_echo (held_wakeComplete s w)
theorem secret_wakeComplete (s : State) (w : Wake) : State.secret ((State.wakeComplete s w)) = State.secret s := held_secret (held_wakeComplete s w)
theorem kept_bootRecovery (s : State) (old : Power) : State.kept ((State.bootRecovery s old)) = State.kept s := held_kept (held_bootRecovery s old)
theorem echo_bootRecovery (s : State) (old : Power) : State.echo ((State.bootRecovery s old)) = State.echo s := held_echo (held_bootRecovery s old)
theorem secret_bootRecovery (s : State) (old : Power) : State.secret ((State.bootRecovery s old)) = State.secret s := held_secret (held_bootRecovery s old)
theorem kept_bootEnd (s : State) (x : BootIn) (old : Power) (who : Requester) : State.kept ((State.bootEnd s x old who)) = State.kept s := held_kept (held_bootEnd s x old who)
theorem echo_bootEnd (s : State) (x : BootIn) (old : Power) (who : Requester) : State.echo ((State.bootEnd s x old who)) = State.echo s := held_echo (held_bootEnd s x old who)
theorem secret_bootEnd (s : State) (x : BootIn) (old : Power) (who : Requester) : State.secret ((State.bootEnd s x old who)) = State.secret s := held_secret (held_bootEnd s x old who)
theorem kept_coldClear (s : State) (cause : Nat) : State.kept ((State.coldClear s cause)) = State.kept s := held_kept (held_coldClear s cause)
theorem echo_coldClear (s : State) (cause : Nat) : State.echo ((State.coldClear s cause)) = State.echo s := held_echo (held_coldClear s cause)
theorem secret_coldClear (s : State) (cause : Nat) : State.secret ((State.coldClear s cause)) = State.secret s := held_secret (held_coldClear s cause)
theorem kept_powerCut (s : State) : State.kept ((State.powerCut s)) = State.kept s := held_kept (held_powerCut s)
theorem echo_powerCut (s : State) : State.echo ((State.powerCut s)) = State.echo s := held_echo (held_powerCut s)
theorem secret_powerCut (s : State) : State.secret ((State.powerCut s)) = State.secret s := held_secret (held_powerCut s)
theorem kept_answer (s : State) (h : Hdr) (svc flags : Nat) (payload : Bytes) : State.kept ((State.answer s h svc flags payload)) = State.kept s := held_kept (held_answer s h svc flags payload)
theorem echo_answer (s : State) (h : Hdr) (svc flags : Nat) (payload : Bytes) : State.echo ((State.answer s h svc flags payload)) = State.echo s := held_echo (held_answer s h svc flags payload)
theorem secret_answer (s : State) (h : Hdr) (svc flags : Nat) (payload : Bytes) : State.secret ((State.answer s h svc flags payload)) = State.secret s := held_secret (held_answer s h svc flags payload)
theorem kept_service (s : State) (svc : Nat) (r : Rcvd) : State.kept ((State.service s svc r).1) = State.kept s := held_kept (held_service s svc r)
theorem echo_service (s : State) (svc : Nat) (r : Rcvd) : State.echo ((State.service s svc r).1) = State.echo s := held_echo (held_service s svc r)
theorem secret_service (s : State) (svc : Nat) (r : Rcvd) : State.secret ((State.service s svc r).1) = State.secret s := held_secret (held_service s svc r)
theorem kept_serve (s : State) (svc : Nat) (r : Rcvd) : State.kept ((State.serve s svc r).1) = State.kept s := held_kept (held_serve s svc r)
theorem echo_serve (s : State) (svc : Nat) (r : Rcvd) : State.echo ((State.serve s svc r).1) = State.echo s := held_echo (held_serve s svc r)
theorem secret_serve (s : State) (svc : Nat) (r : Rcvd) : State.secret ((State.serve s svc r).1) = State.secret s := held_secret (held_serve s svc r)
theorem kept_acceptRequest (s : State) (r : Rcvd) : State.kept ((State.acceptRequest s r)) = State.kept s := held_kept (held_acceptRequest s r)
theorem echo_acceptRequest (s : State) (r : Rcvd) : State.echo ((State.acceptRequest s r)) = State.echo s := held_echo (held_acceptRequest s r)
theorem secret_acceptRequest (s : State) (r : Rcvd) : State.secret ((State.acceptRequest s r)) = State.secret s := held_secret (held_acceptRequest s r)
theorem kept_resend (s : State) (r : Rcvd) (x : Session) : State.kept ((State.resend s r x)) = State.kept s := held_kept (held_resend s r x)
theorem echo_resend (s : State) (r : Rcvd) (x : Session) : State.echo ((State.resend s r x)) = State.echo s := held_echo (held_resend s r x)
theorem secret_resend (s : State) (r : Rcvd) (x : Session) : State.secret ((State.resend s r x)) = State.secret s := held_secret (held_resend s r x)
theorem kept_writeQueues (s : State) (x : ColumnRec) (l : LaneColumn) : State.kept ((State.writeQueues s x l)) = State.kept s := by
  unfold State.writeQueues
  repeat' (first | with_reducible rfl | simp only [kept_mk, kept_fold] | split | rw [foldl_kept] | intro _ | rfl)
theorem secret_writeQueues (s : State) (x : ColumnRec) (l : LaneColumn) : State.secret ((State.writeQueues s x l)) = State.secret s := by
  unfold State.writeQueues
  repeat' (first | with_reducible rfl | simp only [secret_mk, secret_fold] | split | rw [foldl_secret] | intro _ | rfl)
theorem kept_release (s : State) (x : ColumnRec) (h : LaneId) (compare : Nat) (gap : Bool) : State.kept ((State.release s x h compare gap)) = State.kept s := by
  unfold State.release
  repeat' (first | with_reducible rfl | simp only [↓kept_capSettle, ↓kept_captureColumn, ↓kept_countColumn, ↓kept_streamColumn, ↓kept_writeAmbient, ↓kept_writeQueues, kept_mk, kept_fold] | split | rw [foldl_kept] | intro _ | rfl)
theorem secret_release (s : State) (x : ColumnRec) (h : LaneId) (compare : Nat) (gap : Bool) : State.secret ((State.release s x h compare gap)) = State.secret s := by
  unfold State.release
  repeat' (first | with_reducible rfl | simp only [↓secret_capSettle, ↓secret_captureColumn, ↓secret_countColumn, ↓secret_streamColumn, ↓secret_writeAmbient, ↓secret_writeQueues, secret_mk, secret_fold] | split | rw [foldl_secret] | intro _ | rfl)
theorem kept_releaseGaps (s : State) (h : LaneId) : State.kept ((State.releaseGaps s h)) = State.kept s := by
  unfold State.releaseGaps
  repeat' (first | with_reducible rfl | simp only [↓kept_release] | split | rw [foldl_kept] | intro _ | rfl)
theorem secret_releaseGaps (s : State) (h : LaneId) : State.secret ((State.releaseGaps s h)) = State.secret s := by
  unfold State.releaseGaps
  repeat' (first | with_reducible rfl | simp only [↓secret_release] | split | rw [foldl_secret] | intro _ | rfl)
theorem kept_loseLease (s : State) (old : LaneId) (cause : Nat) : State.kept ((State.loseLease s old cause)) = State.kept s := by
  unfold State.loseLease
  repeat' (first | with_reducible rfl | simp only [↓kept_count, ↓kept_giveToken, ↓kept_lapse, ↓kept_raise, ↓kept_releaseGaps, ↓kept_setLaneState, kept_mk, kept_fold, ↓ite_self, ↓kept_ite] | split | rw [foldl_kept] | intro _ | rfl)
theorem secret_loseLease (s : State) (old : LaneId) (cause : Nat) : State.secret ((State.loseLease s old cause)) = State.secret s := by
  unfold State.loseLease
  repeat' (first | with_reducible rfl | simp only [↓secret_count, ↓secret_giveToken, ↓secret_lapse, ↓secret_raise, ↓secret_releaseGaps, ↓secret_setLaneState, secret_mk, secret_fold, ↓ite_self, ↓secret_ite] | split | rw [foldl_secret] | intro _ | rfl)
theorem kept_doLeaseExpiry (t : Time) (s0 : State) : State.kept ((doLeaseExpiry t s0)) = State.kept (State.at s0 t) := by
  unfold doLeaseExpiry
  repeat' (first | with_reducible rfl | simp only [↓kept_loseLease, ↓ite_self, ↓kept_ite] | split | rw [foldl_kept] | intro _ | rfl)
theorem secret_doLeaseExpiry (t : Time) (s0 : State) : State.secret ((doLeaseExpiry t s0)) = State.secret (State.at s0 t) := by
  unfold doLeaseExpiry
  repeat' (first | with_reducible rfl | simp only [↓secret_loseLease, ↓ite_self, ↓secret_ite] | split | rw [foldl_secret] | intro _ | rfl)
theorem kept_doYield (t : Time) (l : LaneId) (s0 : State) : State.kept ((doYield t l s0)) = State.kept (State.at s0 t) := by
  unfold doYield
  repeat' (first | with_reducible rfl | simp only [↓kept_loseLease, ↓ite_self, ↓kept_ite] | split | rw [foldl_kept] | intro _ | rfl)
theorem secret_doYield (t : Time) (l : LaneId) (s0 : State) : State.secret ((doYield t l s0)) = State.secret (State.at s0 t) := by
  unfold doYield
  repeat' (first | with_reducible rfl | simp only [↓secret_loseLease, ↓ite_self, ↓secret_ite] | split | rw [foldl_secret] | intro _ | rfl)
theorem kept_laneFatal (s : State) (l : LaneId) : State.kept ((State.laneFatal s l)) = State.kept s := by
  unfold State.laneFatal
  repeat' (first | with_reducible rfl | simp only [↓kept_abortRejoin, ↓kept_loseLease, ↓kept_modLane, ↓kept_setLaneState, ↓ite_self, ↓kept_ite] | split | rw [foldl_kept] | intro _ | rfl)
theorem secret_laneFatal (s : State) (l : LaneId) : State.secret ((State.laneFatal s l)) = State.secret s := by
  unfold State.laneFatal
  repeat' (first | with_reducible rfl | simp only [↓secret_abortRejoin, ↓secret_loseLease, ↓secret_modLane, ↓secret_setLaneState, ↓ite_self, ↓secret_ite] | split | rw [foldl_secret] | intro _ | rfl)
theorem kept_doFatalLaneFault (t : Time) (l : LaneId) (s0 : State) : State.kept ((doFatalLaneFault t l s0)) = State.kept (State.at s0 t) := by
  unfold doFatalLaneFault
  repeat' (first | with_reducible rfl | simp only [↓kept_laneFatal, ↓ite_self, ↓kept_ite] | split | rw [foldl_kept] | intro _ | rfl)
theorem secret_doFatalLaneFault (t : Time) (l : LaneId) (s0 : State) : State.secret ((doFatalLaneFault t l s0)) = State.secret (State.at s0 t) := by
  unfold doFatalLaneFault
  repeat' (first | with_reducible rfl | simp only [↓secret_laneFatal, ↓ite_self, ↓secret_ite] | split | rw [foldl_secret] | intro _ | rfl)
theorem kept_doLaneWatchdogExpiry (t : Time) (l : LaneId) (s0 : State) : State.kept ((doLaneWatchdogExpiry t l s0)) = State.kept (State.at s0 t) := by
  unfold doLaneWatchdogExpiry
  repeat' (first | with_reducible rfl | simp only [↓kept_laneFatal, ↓ite_self, ↓kept_ite] | split | rw [foldl_kept] | intro _ | rfl)
theorem secret_doLaneWatchdogExpiry (t : Time) (l : LaneId) (s0 : State) : State.secret ((doLaneWatchdogExpiry t l s0)) = State.secret (State.at s0 t) := by
  unfold doLaneWatchdogExpiry
  repeat' (first | with_reducible rfl | simp only [↓secret_laneFatal, ↓ite_self, ↓secret_ite] | split | rw [foldl_secret] | intro _ | rfl)
theorem kept_doCompareVerdict (t : Time) (s0 : State) : State.kept ((doCompareVerdict t s0)) = State.kept (State.at s0 t) := by
  unfold doCompareVerdict
  repeat' (first | with_reducible rfl | simp only [↓kept_modColumn, ↓kept_modLane, ↓kept_noteMismatch, ↓kept_qualify, ↓kept_release, ↓ite_self, ↓kept_ite] | split | rw [foldl_kept] | intro _ | rfl)
theorem secret_doCompareVerdict (t : Time) (s0 : State) : State.secret ((doCompareVerdict t s0)) = State.secret (State.at s0 t) := by
  unfold doCompareVerdict
  repeat' (first | with_reducible rfl | simp only [↓secret_modColumn, ↓secret_modLane, ↓secret_noteMismatch, ↓secret_qualify, ↓secret_release, ↓ite_self, ↓secret_ite] | split | rw [foldl_secret] | intro _ | rfl)
theorem kept_mismatchRule (s : State) (seq : Nat) (mismatch : Bool) : State.kept ((State.mismatchRule s seq mismatch)) = State.kept s := by
  unfold State.mismatchRule
  repeat' (first | with_reducible rfl | simp only [↓kept_loseLease, kept_mk, kept_fold, ↓ite_self, ↓kept_ite] | split | rw [foldl_kept] | intro _ | rfl)
theorem secret_mismatchRule (s : State) (seq : Nat) (mismatch : Bool) : State.secret ((State.mismatchRule s seq mismatch)) = State.secret s := by
  unfold State.mismatchRule
  repeat' (first | with_reducible rfl | simp only [↓secret_loseLease, secret_mk, secret_fold, ↓ite_self, ↓secret_ite] | split | rw [foldl_secret] | intro _ | rfl)
theorem kept_doLaneReport (t : Time) (l : LaneId) (s0 : State) : State.kept ((doLaneReport t l s0)) = State.kept (State.at s0 t) := by
  unfold doLaneReport
  repeat' (first | with_reducible rfl | simp only [↓kept_mismatchRule, ↓kept_modLane, ↓kept_towpathHear, ↓kept_ite] | split | rw [foldl_kept] | intro _ | rfl)
theorem secret_doLaneReport (t : Time) (l : LaneId) (s0 : State) : State.secret ((doLaneReport t l s0)) = State.secret (State.at s0 t) := by
  unfold doLaneReport
  repeat' (first | with_reducible rfl | simp only [↓secret_mismatchRule, ↓secret_modLane, ↓secret_towpathHear, ↓secret_ite] | split | rw [foldl_secret] | intro _ | rfl)
theorem kept_doSelftestResult (t : Time) (resA resB : Option Bool) (s0 : State) : State.kept ((doSelftestResult t resA resB s0)) = State.kept (State.at s0 t) := by
  unfold doSelftestResult
  repeat' (first | with_reducible rfl | simp only [↓kept_loseLease, ↓kept_raise, ↓kept_testMoors, kept_mk, kept_fold, ↓ite_self, ↓kept_ite] | split | rw [foldl_kept] | intro _ | rfl)
theorem secret_doSelftestResult (t : Time) (resA resB : Option Bool) (s0 : State) : State.secret ((doSelftestResult t resA resB s0)) = State.secret (State.at s0 t) := by
  unfold doSelftestResult
  repeat' (first | with_reducible rfl | simp only [↓secret_loseLease, ↓secret_raise, ↓secret_testMoors, secret_mk, secret_fold, ↓ite_self, ↓secret_ite] | split | rw [foldl_secret] | intro _ | rfl)
theorem kept_securityCommit (s : State) (new : Nat) (ticket : U32) : State.kept ((State.securityCommit s new ticket)) = State.kept s := by
  unfold State.securityCommit
  repeat' (first | with_reducible rfl | simp only [↓kept_closeSessions, ↓kept_raise, kept_mk, kept_fold, ↓ite_self, ↓kept_ite] | split | rw [foldl_kept] | intro _ | rfl)
theorem echo_securityCommit (s : State) (new : Nat) (ticket : U32) : State.echo ((State.securityCommit s new ticket)) = State.echo s := by
  unfold State.securityCommit
  repeat' (first | with_reducible rfl | simp only [↓echo_closeSessions, ↓echo_raise, ↓ite_self, ↓echo_ite] | split | rw [foldl_echo] | intro _ | rfl)
theorem kept_keyCommit (s : State) (role : Nat) (key : Bytes) (tr : Transport) (num : Byte) : State.kept ((State.keyCommit s role key tr num)) = State.kept s := by
  unfold State.keyCommit
  repeat' (first | with_reducible rfl | simp only [↓kept_closeSessions, ↓kept_raise, kept_mk, kept_fold] | split | rw [foldl_kept] | intro _ | rfl)
theorem echo_keyCommit (s : State) (role : Nat) (key : Bytes) (tr : Transport) (num : Byte) : State.echo ((State.keyCommit s role key tr num)) = State.echo s := by
  unfold State.keyCommit
  repeat' (first | with_reducible rfl | simp only [↓echo_closeSessions, ↓echo_raise] | split | rw [foldl_echo] | intro _ | rfl)
theorem kept_secBoot (s : State) (powerOn : Bool) : State.kept ((State.secBoot s powerOn)) = State.kept s := by
  unfold State.secBoot
  repeat' (first | with_reducible rfl | simp only [↓kept_enterBackoff, kept_mk, kept_fold, ↓ite_self, ↓kept_ite] | split | rw [foldl_kept] | intro _ | rfl)
theorem echo_secBoot (s : State) (powerOn : Bool) : State.echo ((State.secBoot s powerOn)) = State.echo s := by
  unfold State.secBoot
  repeat' (first | with_reducible rfl | simp only [↓echo_enterBackoff, ↓ite_self, ↓echo_ite] | split | rw [foldl_echo] | intro _ | rfl)
theorem kept_itemDone (s : State) (work : FlashWork) : State.kept ((State.itemDone s work)) = State.kept s := by
  unfold State.itemDone
  repeat' (first | with_reducible rfl | simp only [↓kept_calCommit, ↓kept_confirmCommit, ↓kept_count, ↓kept_fwConfirmed, ↓kept_keyCommit, ↓kept_modSlot, ↓kept_modVersion, ↓kept_pointerCommit, ↓kept_raise, ↓kept_recorderStore, ↓kept_securityCommit, ↓kept_versionCommit, kept_mk, kept_fold, ↓ite_self, ↓kept_ite] | split | rw [foldl_kept] | intro _ | rfl)
theorem echo_itemDone (s : State) (work : FlashWork) : State.echo ((State.itemDone s work)) = State.echo s := by
  unfold State.itemDone
  repeat' (first | with_reducible rfl | simp only [↓echo_calCommit, ↓echo_confirmCommit, ↓echo_count, ↓echo_fwConfirmed, ↓echo_keyCommit, ↓echo_modSlot, ↓echo_modVersion, ↓echo_pointerCommit, ↓echo_raise, ↓echo_recorderStore, ↓echo_securityCommit, ↓echo_versionCommit, ↓ite_self, ↓echo_ite] | split | rw [foldl_echo] | intro _ | rfl)
theorem kept_groupDone (s : State) (e : GroupEnd) : State.kept ((State.groupDone s e)) = State.kept s := by
  unfold State.groupDone
  repeat' (first | with_reducible rfl | simp only [↓kept_flashKick, ↓kept_itemDone, ↓kept_raise, ↓kept_retireBlock, ↓kept_workFailed, kept_mk, kept_fold, ↓ite_self, ↓kept_ite] | split | rw [foldl_kept] | intro _ | rfl)
theorem echo_groupDone (s : State) (e : GroupEnd) : State.echo ((State.groupDone s e)) = State.echo s := by
  unfold State.groupDone
  repeat' (first | with_reducible rfl | simp only [↓echo_flashKick, ↓echo_itemDone, ↓echo_raise, ↓echo_retireBlock, ↓echo_workFailed, ↓ite_self, ↓echo_ite] | split | rw [foldl_echo] | intro _ | rfl)
theorem kept_doFlashGroupDone (t : Time) (e : GroupEnd) (s0 : State) : State.kept ((doFlashGroupDone t e s0)) = State.kept (State.at s0 t) := by
  unfold doFlashGroupDone
  repeat' (first | with_reducible rfl | simp only [↓kept_groupDone, ↓kept_setDom, ↓ite_self, ↓kept_ite] | split | rw [foldl_kept] | intro _ | rfl)
theorem echo_doFlashGroupDone (t : Time) (e : GroupEnd) (s0 : State) : State.echo ((doFlashGroupDone t e s0)) = State.echo (State.at s0 t) := by
  unfold doFlashGroupDone
  repeat' (first | with_reducible rfl | simp only [↓echo_groupDone, ↓echo_setDom, ↓ite_self, ↓echo_ite] | split | rw [foldl_echo] | intro _ | rfl)
theorem kept_domainFailed (s : State) (d cause : Nat) : State.kept ((State.domainFailed s d cause)) = State.kept s := by
  unfold State.domainFailed
  repeat' (first | with_reducible rfl | simp only [↓kept_bandLost, ↓kept_becalmPower, ↓kept_closeSessions, ↓kept_domDown, ↓kept_laneFatal, ↓kept_markFailed, ↓kept_setLaneState, ↓ite_self, ↓kept_ite] | split | rw [foldl_kept] | intro _ | rfl)
theorem secret_domainFailed (s : State) (d cause : Nat) : State.secret ((State.domainFailed s d cause)) = State.secret s := by
  unfold State.domainFailed
  repeat' (first | with_reducible rfl | simp only [↓secret_bandLost, ↓secret_becalmPower, ↓secret_closeSessions, ↓secret_domDown, ↓secret_laneFatal, ↓secret_markFailed, ↓secret_setLaneState, ↓ite_self, ↓secret_ite] | split | rw [foldl_secret] | intro _ | rfl)
theorem kept_doCrossingNoResponse (t : Time) (d : Fin 32) (s0 : State) : State.kept ((doCrossingNoResponse t d s0)) = State.kept (State.at s0 t) := by
  unfold doCrossingNoResponse
  repeat' (first | with_reducible rfl | simp only [↓kept_count, ↓kept_domainFailed, ↓ite_self, ↓kept_ite] | split | rw [foldl_kept] | intro _ | rfl)
theorem secret_doCrossingNoResponse (t : Time) (d : Fin 32) (s0 : State) : State.secret ((doCrossingNoResponse t d s0)) = State.secret (State.at s0 t) := by
  unfold doCrossingNoResponse
  repeat' (first | with_reducible rfl | simp only [↓secret_count, ↓secret_domainFailed, ↓ite_self, ↓secret_ite] | split | rw [foldl_secret] | intro _ | rfl)
theorem kept_doDomainPowerGoodFail (t : Time) (d : Fin 32) (clock : Bool) (s0 : State) : State.kept ((doDomainPowerGoodFail t d clock s0)) = State.kept (State.at s0 t) := by
  unfold doDomainPowerGoodFail
  repeat' (first | with_reducible rfl | simp only [↓kept_count, ↓kept_domainFailed, kept_mk, kept_fold, ↓ite_self, ↓kept_ite] | split | rw [foldl_kept] | intro _ | rfl)
theorem secret_doDomainPowerGoodFail (t : Time) (d : Fin 32) (clock : Bool) (s0 : State) : State.secret ((doDomainPowerGoodFail t d clock s0)) = State.secret (State.at s0 t) := by
  unfold doDomainPowerGoodFail
  repeat' (first | with_reducible rfl | simp only [↓secret_count, ↓secret_domainFailed, secret_mk, secret_fold, ↓ite_self, ↓secret_ite] | split | rw [foldl_secret] | intro _ | rfl)
theorem kept_bootLoad (s : State) (x : BootIn) : State.kept ((State.bootLoad s x)) = State.kept s := by
  unfold State.bootLoad
  repeat' (first | with_reducible rfl | simp only [↓kept_bootFail, ↓kept_capEnable, ↓kept_domsOn, ↓kept_keepCap, ↓kept_lanesStart, ↓kept_loadVersion, ↓kept_repairCopy, ↓kept_restoreCal, kept_mk, kept_fold, ↓ite_self, ↓kept_ite] | split | rw [foldl_kept] | intro _ | rfl)
theorem secret_bootLoad (s : State) (x : BootIn) : State.secret ((State.bootLoad s x)) = State.secret s := by
  unfold State.bootLoad
  repeat' (first | with_reducible rfl | simp only [↓secret_bootFail, ↓secret_capEnable, ↓secret_domsOn, ↓secret_keepCap, ↓secret_lanesStart, ↓secret_loadVersion, ↓secret_repairCopy, ↓secret_restoreCal, secret_mk, secret_fold, ↓ite_self, ↓secret_ite] | split | rw [foldl_secret] | intro _ | rfl)
theorem kept_boot (s : State) (x : BootIn) (powerOn : Bool) (old : Power) (who : Requester) : State.kept ((State.boot s x powerOn old who)) = State.kept s := by
  unfold State.boot
  repeat' (first | with_reducible rfl | simp only [↓kept_bootEnd, ↓kept_bootFail, ↓kept_bootFirmware, ↓kept_bootLoad, ↓kept_bootRecovery, ↓kept_domsOn, ↓kept_secBoot, ↓kept_serveAll, ↓ite_self, ↓kept_ite] | split | rw [foldl_kept] | intro _ | rfl)
theorem kept_restartCold (s : State) (x : BootIn) (cause : Nat) : State.kept ((State.restartCold s x cause)) = State.kept s := by
  unfold State.restartCold
  repeat' (first | with_reducible rfl | simp only [↓kept_boot, ↓kept_coldClear, ↓kept_powerCut] | split | rw [foldl_kept] | intro _ | rfl)
theorem kept_doAoWatchdogExpiry (t : Time) (x : BootIn) (s0 : State) : State.kept ((doAoWatchdogExpiry t x s0)) = State.kept (State.at s0 t) := by
  unfold doAoWatchdogExpiry
  repeat' (first | with_reducible rfl | simp only [↓kept_restartCold, ↓kept_trialFailed, ↓ite_self, ↓kept_ite] | split | rw [foldl_kept] | intro _ | rfl)
theorem kept_powerOn (s : State) : State.kept ((State.powerOn s)) = State.kept s := by
  unfold State.powerOn
  repeat' (first | with_reducible rfl | simp only [kept_mk, kept_fold] | split | rw [foldl_kept] | intro _ | rfl)
theorem secret_powerOn (s : State) : State.secret ((State.powerOn s)) = State.secret s := by
  unfold State.powerOn
  repeat' (first | with_reducible rfl | simp only [secret_mk, secret_fold] | split | rw [foldl_secret] | intro _ | rfl)
theorem kept_doVinStartRise (t : Time) (x : BootIn) (s0 : State) : State.kept ((doVinStartRise t x s0)) = State.kept (State.at s0 t) := by
  unfold doVinStartRise
  repeat' (first | with_reducible rfl | simp only [↓kept_boot, ↓kept_coldClear, ↓kept_powerOn, ↓kept_restartCold, kept_mk, kept_fold, ↓ite_self, ↓kept_ite] | split | rw [foldl_kept] | intro _ | rfl)
theorem kept_doWakeDone (t : Time) (x : BootIn) (s0 : State) : State.kept ((doWakeDone t x s0)) = State.kept (State.at s0 t) := by
  unfold doWakeDone
  repeat' (first | with_reducible rfl | simp only [↓kept_boot, ↓kept_coldClear, ↓kept_domsOff, ↓kept_reach, ↓kept_scanUp, ↓kept_serveAll, ↓kept_wakeComplete, kept_mk, kept_fold, ↓ite_self, ↓kept_ite] | split | rw [foldl_kept] | intro _ | rfl)
theorem kept_doVersionConfirmTimeout (t : Time) (x : BootIn) (s0 : State) : State.kept ((doVersionConfirmTimeout t x s0)) = State.kept (State.at s0 t) := by
  unfold doVersionConfirmTimeout
  repeat' (first | with_reducible rfl | simp only [↓kept_rejectVersion, ↓kept_restartCold, ↓kept_trialFailed, kept_mk, kept_fold, ↓ite_self, ↓kept_ite] | split | rw [foldl_kept] | intro _ | rfl)
theorem kept_respond (s : State) (h : Hdr) (svc idx sub : Nat) (r : Reply) : State.kept ((State.respond s h svc idx sub r)) = State.kept s := by
  cases r
  all_goals unfold State.respond
  repeat' (first | with_reducible rfl | simp only [↓kept_answer, ↓kept_closeSession, ↓kept_count, ↓kept_domainFailed] | split | rw [foldl_kept] | intro _ | rfl)
theorem secret_respond (s : State) (h : Hdr) (svc idx sub : Nat) (r : Reply) : State.secret ((State.respond s h svc idx sub r)) = State.secret s := by
  cases r
  all_goals unfold State.respond
  repeat' (first | with_reducible rfl | simp only [↓secret_answer, ↓secret_closeSession, ↓secret_count, ↓secret_domainFailed] | split | rw [foldl_secret] | intro _ | rfl)
theorem kept_lockFails (s : State) (k : Commit) (detail : Nat) : State.kept ((State.lockFails s k detail)) = State.kept s := by
  unfold State.lockFails
  repeat' (first | with_reducible rfl | simp only [↓kept_modSession, ↓kept_raise, ↓kept_respond, kept_mk, kept_fold] | split | rw [foldl_kept] | intro _ | rfl)
theorem secret_lockFails (s : State) (k : Commit) (detail : Nat) : State.secret ((State.lockFails s k detail)) = State.secret s := by
  unfold State.lockFails
  repeat' (first | with_reducible rfl | simp only [↓secret_modSession, ↓secret_raise, ↓secret_respond, secret_mk, secret_fold] | split | rw [foldl_secret] | intro _ | rfl)
theorem kept_lockPasses (s : State) (k : Commit) : State.kept ((State.lockPasses s k)) = State.kept s := by
  unfold State.lockPasses
  repeat' (first | with_reducible rfl | simp only [↓kept_modSession, ↓kept_rejoinRestart, ↓kept_respond, kept_mk, kept_fold] | split | rw [foldl_kept] | intro _ | rfl)
theorem secret_lockPasses (s : State) (k : Commit) : State.secret ((State.lockPasses s k)) = State.secret s := by
  unfold State.lockPasses
  repeat' (first | with_reducible rfl | simp only [↓secret_modSession, ↓secret_rejoinRestart, ↓secret_respond, secret_mk, secret_fold] | split | rw [foldl_secret] | intro _ | rfl)
theorem kept_doLockEqualizationDone (t : Time) (s0 : State) : State.kept ((doLockEqualizationDone t s0)) = State.kept (State.at s0 t) := by
  unfold doLockEqualizationDone
  repeat' (first | with_reducible rfl | simp only [↓kept_keepCap, ↓kept_lockFails, ↓kept_lockPasses, kept_mk, kept_fold, ↓kept_ite] | split | rw [foldl_kept] | intro _ | rfl)
theorem secret_doLockEqualizationDone (t : Time) (s0 : State) : State.secret ((doLockEqualizationDone t s0)) = State.secret (State.at s0 t) := by
  unfold doLockEqualizationDone
  repeat' (first | with_reducible rfl | simp only [↓secret_keepCap, ↓secret_lockFails, ↓secret_lockPasses, secret_mk, secret_fold, ↓secret_ite] | split | rw [foldl_secret] | intro _ | rfl)
theorem kept_process (s : State) (svc : Nat) (r : Rcvd) : State.kept ((State.process s svc r)) = State.kept s := by
  unfold State.process
  repeat' (first | with_reducible rfl | simp only [↓kept_respond, ↓kept_serve] | split | rw [foldl_kept] | intro _ | rfl)
theorem secret_process (s : State) (svc : Nat) (r : Rcvd) : State.secret ((State.process s svc r)) = State.secret s := by
  unfold State.process
  repeat' (first | with_reducible rfl | simp only [↓secret_respond, ↓secret_serve] | split | rw [foldl_secret] | intro _ | rfl)
theorem kept_sessionMessage (s : State) (svc : Nat) (r : Rcvd) (x : Session) : State.kept ((State.sessionMessage s svc r x)) = State.kept s := by
  unfold State.sessionMessage
  repeat' (first | with_reducible rfl | simp only [↓kept_acceptRequest, ↓kept_count, ↓kept_process, ↓kept_resend, ↓kept_respond, ↓ite_self, ↓kept_ite] | split | rw [foldl_kept] | intro _ | rfl)
theorem secret_sessionMessage (s : State) (svc : Nat) (r : Rcvd) (x : Session) : State.secret ((State.sessionMessage s svc r x)) = State.secret s := by
  unfold State.sessionMessage
  repeat' (first | with_reducible rfl | simp only [↓secret_acceptRequest, ↓secret_count, ↓secret_process, ↓secret_resend, ↓secret_respond, ↓ite_self, ↓secret_ite] | split | rw [foldl_secret] | intro _ | rfl)
theorem kept_request (s : State) (svc : Nat) (h : Hdr) (payload : Bytes) : State.kept ((State.request s svc h payload)) = State.kept s := by
  unfold State.request
  repeat' (first | with_reducible rfl | simp only [↓kept_count, ↓kept_process, ↓kept_sessionMessage, ↓kept_ite] | split | rw [foldl_kept] | intro _ | rfl)
theorem secret_request (s : State) (svc : Nat) (h : Hdr) (payload : Bytes) : State.secret ((State.request s svc h payload)) = State.secret s := by
  unfold State.request
  repeat' (first | with_reducible rfl | simp only [↓secret_count, ↓secret_process, ↓secret_sessionMessage, ↓secret_ite] | split | rw [foldl_secret] | intro _ | rfl)
theorem kept_doRequest (t : Time) (svc : Nat) (h : Hdr) (payload : Bytes) (s0 : State) : State.kept ((doRequest t svc h payload s0)) = State.kept (State.at s0 t) := by
  unfold doRequest
  repeat' (first | with_reducible rfl | simp only [↓kept_request] | split | rw [foldl_kept] | intro _ | rfl)
theorem secret_doRequest (t : Time) (svc : Nat) (h : Hdr) (payload : Bytes) (s0 : State) : State.secret ((doRequest t svc h payload s0)) = State.secret (State.at s0 t) := by
  unfold doRequest
  repeat' (first | with_reducible rfl | simp only [↓secret_request] | split | rw [foldl_secret] | intro _ | rfl)
theorem kept_doWriteObject (t : Time) (id : Nat) (h : Hdr) (value : Bytes) (s0 : State) : State.kept ((doWriteObject t id h value s0)) = State.kept (State.at s0 t) := by
  unfold doWriteObject
  repeat' (first | with_reducible rfl | simp only [↓kept_doRequest] | split | rw [foldl_kept] | intro _ | rfl)
theorem secret_doWriteObject (t : Time) (id : Nat) (h : Hdr) (value : Bytes) (s0 : State) : State.secret ((doWriteObject t id h value s0)) = State.secret (State.at s0 t) := by
  unfold doWriteObject
  repeat' (first | with_reducible rfl | simp only [↓secret_doRequest] | split | rw [foldl_secret] | intro _ | rfl)
theorem kept_doFwImageCheckDone (t : Time) (s0 : State) : State.kept ((doFwImageCheckDone t s0)) = State.kept (State.at s0 t) := by
  unfold doFwImageCheckDone
  repeat' (first | with_reducible rfl | simp only [↓kept_imageVerdict, ↓kept_respond, ↓ite_self, ↓kept_ite] | split | rw [foldl_kept] | intro _ | rfl)
theorem secret_doFwImageCheckDone (t : Time) (s0 : State) : State.secret ((doFwImageCheckDone t s0)) = State.secret (State.at s0 t) := by
  unfold doFwImageCheckDone
  repeat' (first | with_reducible rfl | simp only [↓secret_imageVerdict, ↓secret_respond, ↓ite_self, ↓secret_ite] | split | rw [foldl_secret] | intro _ | rfl)

theorem echoWf_nil : echoWf [] = true := rfl
theorem wf_writeQueues (s : State) (x : ColumnRec) (l : LaneColumn) (hw : echoWf (State.echo s) = true) : echoWf (State.echo ((State.writeQueues s x l))) = true := by
  exact echoWf_writeAll _ _ _ hw
theorem wf_release (s : State) (x : ColumnRec) (h : LaneId) (compare : Nat) (gap : Bool) (hw : echoWf (State.echo s) = true) : echoWf (State.echo ((State.release s x h compare gap))) = true := by
  unfold State.release
  repeat' (first | with_reducible assumption | simp only [↓echo_capSettle, ↓echo_captureColumn, ↓echo_countColumn, ↓echo_streamColumn, ↓echo_writeAmbient] | split | rw [foldl_echo] | intro _ | with_reducible apply wf_writeQueues | with_reducible exact echoWf_nil)
theorem wf_releaseGaps (s : State) (h : LaneId) (hw : echoWf (State.echo s) = true) : echoWf (State.echo ((State.releaseGaps s h))) = true := by
  unfold State.releaseGaps
  generalize List.filter _ _ = l
  induction l generalizing s with
  | nil => exact hw
  | cons x l ih =>
    rw [List.foldl_cons]
    exact ih _ (wf_release s x h 2 true hw)
theorem wf_loseLease (s : State) (old : LaneId) (cause : Nat) (hw : echoWf (State.echo s) = true) : echoWf (State.echo ((State.loseLease s old cause))) = true := by
  unfold State.loseLease
  repeat' (first | with_reducible assumption | simp only [↓echo_count, ↓echo_giveToken, ↓echo_lapse, ↓echo_raise, ↓echo_setLaneState, ↓echo_ite] | split | rw [foldl_echo] | intro _ | with_reducible apply wf_releaseGaps | with_reducible exact echoWf_nil)
theorem wf_doLeaseExpiry (t : Time) (s0 : State) (hw : echoWf (State.echo s0) = true) : echoWf (State.echo ((doLeaseExpiry t s0))) = true := by
  unfold doLeaseExpiry
  repeat' (first | with_reducible assumption | simp only [State.at_echo, ↓echo_ite] | split | rw [foldl_echo] | intro _ | with_reducible apply wf_loseLease | with_reducible exact echoWf_nil)
theorem wf_doYield (t : Time) (l : LaneId) (s0 : State) (hw : echoWf (State.echo s0) = true) : echoWf (State.echo ((doYield t l s0))) = true := by
  unfold doYield
  repeat' (first | with_reducible assumption | simp only [State.at_echo, ↓echo_ite] | split | rw [foldl_echo] | intro _ | with_reducible apply wf_loseLease | with_reducible exact echoWf_nil)
theorem wf_laneFatal (s : State) (l : LaneId) (hw : echoWf (State.echo s) = true) : echoWf (State.echo ((State.laneFatal s l))) = true := by
  unfold State.laneFatal
  repeat' (first | with_reducible assumption | simp only [↓echo_abortRejoin, ↓echo_modLane, ↓echo_setLaneState, ↓echo_ite] | split | rw [foldl_echo] | intro _ | with_reducible apply wf_loseLease | with_reducible exact echoWf_nil)
theorem wf_doFatalLaneFault (t : Time) (l : LaneId) (s0 : State) (hw : echoWf (State.echo s0) = true) : echoWf (State.echo ((doFatalLaneFault t l s0))) = true := by
  unfold doFatalLaneFault
  repeat' (first | with_reducible assumption | simp only [State.at_echo, ↓echo_ite] | split | rw [foldl_echo] | intro _ | with_reducible apply wf_laneFatal | with_reducible exact echoWf_nil)
theorem wf_doLaneWatchdogExpiry (t : Time) (l : LaneId) (s0 : State) (hw : echoWf (State.echo s0) = true) : echoWf (State.echo ((doLaneWatchdogExpiry t l s0))) = true := by
  unfold doLaneWatchdogExpiry
  repeat' (first | with_reducible assumption | simp only [State.at_echo, ↓echo_ite] | split | rw [foldl_echo] | intro _ | with_reducible apply wf_laneFatal | with_reducible exact echoWf_nil)
theorem wf_doCompareVerdict (t : Time) (s0 : State) (hw : echoWf (State.echo s0) = true) : echoWf (State.echo ((doCompareVerdict t s0))) = true := by
  unfold doCompareVerdict
  repeat' (first | with_reducible assumption | simp only [↓echo_modColumn, ↓echo_modLane, ↓echo_noteMismatch, ↓echo_qualify, State.at_echo, ↓echo_ite] | split | rw [foldl_echo] | intro _ | with_reducible apply wf_release | with_reducible exact echoWf_nil)
theorem wf_mismatchRule (s : State) (seq : Nat) (mismatch : Bool) (hw : echoWf (State.echo s) = true) : echoWf (State.echo ((State.mismatchRule s seq mismatch))) = true := by
  unfold State.mismatchRule
  repeat' (first | with_reducible assumption | simp only [↓echo_ite] | split | rw [foldl_echo] | intro _ | with_reducible apply wf_loseLease | with_reducible exact echoWf_nil)
theorem wf_doLaneReport (t : Time) (l : LaneId) (s0 : State) (hw : echoWf (State.echo s0) = true) : echoWf (State.echo ((doLaneReport t l s0))) = true := by
  unfold doLaneReport
  repeat' (first | with_reducible assumption | simp only [↓echo_modLane, ↓echo_towpathHear, State.at_echo, ↓echo_ite] | split | rw [foldl_echo] | intro _ | with_reducible apply wf_mismatchRule | with_reducible exact echoWf_nil)
theorem wf_doSelftestResult (t : Time) (resA resB : Option Bool) (s0 : State) (hw : echoWf (State.echo s0) = true) : echoWf (State.echo ((doSelftestResult t resA resB s0))) = true := by
  unfold doSelftestResult
  repeat' (first | with_reducible assumption | simp only [↓echo_raise, ↓echo_testMoors, State.at_echo, ↓echo_ite] | split | rw [foldl_echo] | intro _ | with_reducible apply wf_loseLease | with_reducible exact echoWf_nil)
theorem wf_domainFailed (s : State) (d cause : Nat) (hw : echoWf (State.echo s) = true) : echoWf (State.echo ((State.domainFailed s d cause))) = true := by
  unfold State.domainFailed
  repeat' (first | with_reducible assumption | simp only [↓echo_bandLost, ↓echo_becalmPower, ↓echo_closeSessions, ↓echo_domDown, ↓echo_markFailed, ↓echo_setLaneState, ↓echo_ite] | split | rw [foldl_echo] | intro _ | with_reducible apply wf_laneFatal | with_reducible exact echoWf_nil)
theorem wf_doCrossingNoResponse (t : Time) (d : Fin 32) (s0 : State) (hw : echoWf (State.echo s0) = true) : echoWf (State.echo ((doCrossingNoResponse t d s0))) = true := by
  unfold doCrossingNoResponse
  repeat' (first | with_reducible assumption | simp only [↓echo_count, State.at_echo, ↓echo_ite] | split | rw [foldl_echo] | intro _ | with_reducible apply wf_domainFailed | with_reducible exact echoWf_nil)
theorem wf_doDomainPowerGoodFail (t : Time) (d : Fin 32) (clock : Bool) (s0 : State) (hw : echoWf (State.echo s0) = true) : echoWf (State.echo ((doDomainPowerGoodFail t d clock s0))) = true := by
  unfold doDomainPowerGoodFail
  repeat' (first | with_reducible assumption | simp only [↓echo_count, State.at_echo, ↓echo_ite] | split | rw [foldl_echo] | intro _ | with_reducible apply wf_domainFailed | with_reducible exact echoWf_nil)
theorem wf_bootLoad (s : State) (x : BootIn) (hw : echoWf (State.echo s) = true) : echoWf (State.echo ((State.bootLoad s x))) = true := by
  unfold State.bootLoad
  repeat' (first | with_reducible assumption | simp only [↓echo_bootFail, ↓echo_capEnable, ↓echo_domsOn, ↓echo_lanesStart] | split | rw [foldl_echo] | intro _ | with_reducible exact echoWf_nil)
theorem wf_boot (s : State) (x : BootIn) (powerOn : Bool) (old : Power) (who : Requester) (hw : echoWf (State.echo s) = true) : echoWf (State.echo ((State.boot s x powerOn old who))) = true := by
  unfold State.boot
  repeat' (first | with_reducible assumption | simp only [↓echo_bootEnd, ↓echo_bootFail, ↓echo_bootFirmware, ↓echo_bootRecovery, ↓echo_domsOn, ↓echo_secBoot, ↓echo_serveAll, ↓echo_ite] | split | rw [foldl_echo] | intro _ | with_reducible apply wf_bootLoad | with_reducible exact echoWf_nil)
theorem wf_restartCold (s : State) (x : BootIn) (cause : Nat) (hw : echoWf (State.echo s) = true) : echoWf (State.echo ((State.restartCold s x cause))) = true := by
  unfold State.restartCold
  repeat' (first | with_reducible assumption | simp only [↓echo_coldClear, ↓echo_powerCut] | split | rw [foldl_echo] | intro _ | with_reducible apply wf_boot | with_reducible exact echoWf_nil)
theorem wf_doAoWatchdogExpiry (t : Time) (x : BootIn) (s0 : State) (hw : echoWf (State.echo s0) = true) : echoWf (State.echo ((doAoWatchdogExpiry t x s0))) = true := by
  unfold doAoWatchdogExpiry
  repeat' (first | with_reducible assumption | simp only [↓echo_trialFailed, State.at_echo, ↓echo_ite] | split | rw [foldl_echo] | intro _ | with_reducible apply wf_restartCold | with_reducible exact echoWf_nil)
theorem wf_powerOn (s : State) (hw : echoWf (State.echo s) = true) : echoWf (State.echo ((State.powerOn s))) = true := by
  rfl
theorem wf_doVinStartRise (t : Time) (x : BootIn) (s0 : State) (hw : echoWf (State.echo s0) = true) : echoWf (State.echo ((doVinStartRise t x s0))) = true := by
  unfold doVinStartRise
  repeat' (first | with_reducible assumption | simp only [↓echo_coldClear, State.at_echo, ↓echo_ite] | split | rw [foldl_echo] | intro _ | with_reducible apply wf_boot | with_reducible apply wf_restartCold | with_reducible apply wf_powerOn | with_reducible exact echoWf_nil)
theorem wf_doWakeDone (t : Time) (x : BootIn) (s0 : State) (hw : echoWf (State.echo s0) = true) : echoWf (State.echo ((doWakeDone t x s0))) = true := by
  unfold doWakeDone
  repeat' (first | with_reducible assumption | simp only [↓echo_coldClear, ↓echo_domsOff, ↓echo_reach, ↓echo_scanUp, ↓echo_serveAll, ↓echo_wakeComplete, State.at_echo, ↓echo_ite] | split | rw [foldl_echo] | intro _ | with_reducible apply wf_boot | with_reducible exact echoWf_nil)
theorem wf_doVersionConfirmTimeout (t : Time) (x : BootIn) (s0 : State) (hw : echoWf (State.echo s0) = true) : echoWf (State.echo ((doVersionConfirmTimeout t x s0))) = true := by
  unfold doVersionConfirmTimeout
  repeat' (first | with_reducible assumption | simp only [↓echo_rejectVersion, ↓echo_trialFailed, State.at_echo, ↓echo_ite] | split | rw [foldl_echo] | intro _ | with_reducible apply wf_restartCold | with_reducible exact echoWf_nil)
theorem wf_respond (s : State) (h : Hdr) (svc idx sub : Nat) (r : Reply) (hw : echoWf (State.echo s) = true) : echoWf (State.echo ((State.respond s h svc idx sub r))) = true := by
  cases r
  all_goals unfold State.respond
  repeat' (first | with_reducible assumption | simp only [↓echo_answer, ↓echo_closeSession, ↓echo_count] | split | rw [foldl_echo] | intro _ | with_reducible apply wf_domainFailed | with_reducible exact echoWf_nil)
theorem wf_lockFails (s : State) (k : Commit) (detail : Nat) (hw : echoWf (State.echo s) = true) : echoWf (State.echo ((State.lockFails s k detail))) = true := by
  unfold State.lockFails
  repeat' (first | with_reducible assumption | simp only [↓echo_modSession, ↓echo_raise] | split | rw [foldl_echo] | intro _ | with_reducible apply wf_respond | with_reducible exact echoWf_nil)
theorem wf_lockPasses (s : State) (k : Commit) (hw : echoWf (State.echo s) = true) : echoWf (State.echo ((State.lockPasses s k))) = true := by
  unfold State.lockPasses
  repeat' (first | with_reducible assumption | simp only [↓echo_modSession, ↓echo_rejoinRestart] | split | rw [foldl_echo] | intro _ | with_reducible apply wf_respond | with_reducible exact echoWf_nil)
theorem wf_doLockEqualizationDone (t : Time) (s0 : State) (hw : echoWf (State.echo s0) = true) : echoWf (State.echo ((doLockEqualizationDone t s0))) = true := by
  unfold doLockEqualizationDone
  repeat' (first | with_reducible assumption | simp only [↓echo_keepCap, State.at_echo, ↓echo_ite] | split | rw [foldl_echo] | intro _ | with_reducible apply wf_lockFails | with_reducible apply wf_lockPasses | with_reducible exact echoWf_nil)
theorem wf_process (s : State) (svc : Nat) (r : Rcvd) (hw : echoWf (State.echo s) = true) : echoWf (State.echo ((State.process s svc r))) = true := by
  unfold State.process
  repeat' (first | with_reducible assumption | simp only [↓echo_serve] | split | rw [foldl_echo] | intro _ | with_reducible apply wf_respond | with_reducible exact echoWf_nil)
theorem wf_sessionMessage (s : State) (svc : Nat) (r : Rcvd) (x : Session) (hw : echoWf (State.echo s) = true) : echoWf (State.echo ((State.sessionMessage s svc r x))) = true := by
  unfold State.sessionMessage
  repeat' (first | with_reducible assumption | simp only [↓echo_acceptRequest, ↓echo_count, ↓echo_resend, ↓echo_ite] | split | rw [foldl_echo] | intro _ | with_reducible apply wf_respond | with_reducible apply wf_process | with_reducible exact echoWf_nil)
theorem wf_request (s : State) (svc : Nat) (h : Hdr) (payload : Bytes) (hw : echoWf (State.echo s) = true) : echoWf (State.echo ((State.request s svc h payload))) = true := by
  unfold State.request
  repeat' (first | with_reducible assumption | simp only [↓echo_count, ↓echo_ite] | split | rw [foldl_echo] | intro _ | with_reducible apply wf_process | with_reducible apply wf_sessionMessage | with_reducible exact echoWf_nil)
theorem wf_doRequest (t : Time) (svc : Nat) (h : Hdr) (payload : Bytes) (s0 : State) (hw : echoWf (State.echo s0) = true) : echoWf (State.echo ((doRequest t svc h payload s0))) = true := by
  unfold doRequest
  repeat' (first | with_reducible assumption | simp only [State.at_echo] | split | rw [foldl_echo] | intro _ | with_reducible apply wf_request | with_reducible exact echoWf_nil)
theorem wf_doWriteObject (t : Time) (id : Nat) (h : Hdr) (value : Bytes) (s0 : State) (hw : echoWf (State.echo s0) = true) : echoWf (State.echo ((doWriteObject t id h value s0))) = true := by
  unfold doWriteObject
  repeat' (first | with_reducible assumption | simp only [echo_mk, State.at_echo, ↓echo_ite, ↓echo_ite1] | split | rw [foldl_echo] | intro _ | with_reducible apply wf_doRequest | with_reducible exact echoWf_nil)
theorem wf_doFwImageCheckDone (t : Time) (s0 : State) (hw : echoWf (State.echo s0) = true) : echoWf (State.echo ((doFwImageCheckDone t s0))) = true := by
  unfold doFwImageCheckDone
  repeat' (first | with_reducible assumption | simp only [↓echo_imageVerdict, State.at_echo, ↓echo_ite] | split | rw [foldl_echo] | intro _ | with_reducible apply wf_respond | with_reducible exact echoWf_nil)
end Sys2Proof.Machine
end

