-- ==== Sys2Proof/WellFormed.lean ====
section
/-! DEFINITION. Well-formed commands: what the surroundings hand over has the shape that the spec gives it. Of a host's message only the
shape of its tag is asked: the block itself discards or aborts what R56 and R57 say. -/

namespace Sys2Proof

/-- One count for each of the 16 bands, and every row once. -/
def TickIn.wf (x : TickIn) : Bool := x.primary.length == 16

/-- One LAUNCH_REF stamp for each of the 16 bands (R134). -/
def SlotIn.wf (x : SlotIn) : Bool := x.launch.length == 16

/-- Events of 32 channels (Table 06.7). -/
def BandResult.wf (r : BandResult) : Bool := r.hot.length == 32

/-- One power for each of the 32 domains (R304). -/
def HeatIn.wf (x : HeatIn) : Bool := x.domains.length == 32

/-- No bar is read twice. -/
def readingsWf (l : List BarReading) : Bool := decide (l.map (fun r => r.bar)).Nodup

/-- The four modulators run on one clock, so they hand over equally many bits (R200). -/
def SampleIn.wf : SampleIn → Bool
  | .delivered _ _ _ _ => true
  | .modulator a b c d _ => b.length == a.length && c.length == a.length && d.length == a.length

/-- A run measures every row, band, input or range that it names (Table 15.2). -/
def RunResult.wf : RunResult → Bool
  | .skew rows => rows.length == 512
  | .scale sums => sums.length == 16
  | .zero _ => true
  | .tin skews => skews.length == 4
  | .psd gains => gains.length == 4
  | .refin _ sums => sums.length == 16
  | .target rows _ => rows.length == 512

/-- A tag is 8 bytes or absent (R55). -/
def Hdr.wf (h : Hdr) : Bool := h.tag.length == 0 || h.tag.length == 8

/-- Well-formedness of a command. -/
def Instr.wf : Instr → Bool
  | .frameBoundary _ x _ => x.wf
  | .columnTick _ x => x.wf
  | .slotDecision _ _ x => x.wf
  | .barTest _ l => readingsWf l
  | .barFullTest _ l => readingsWf l
  | .bandTest _ _ r => r.wf
  | .controlSample _ x _ _ _ => x.wf
  | .thermalUpdate _ x => x.wf
  | .calRunDone _ r => r.wf
  | .identify _ h _ | .sessionOpen _ h _ | .sessionAuth _ h _ | .sessionClose _ h _ | .keepalive _ h _ | .read _ h _
  | .blockRead _ h _ | .write _ h _ | .blockWrite _ h _ | .notifySubscribe _ h _ | .streamSubscribe _ h _
  | .cameraIndexSet _ h _ | .emitClear _ h _ | .barRetireClear _ h _ | .bandRestart _ h _ | .channelUnmask _ h _
  | .laneRejoin _ h _ | .capRelease _ h _ | .capReadSelect _ h _ | .codeSource _ h _ | .versionRevert _ h _ | .recSelect _ h _
  | .fwImage _ h _ | .keyWrite _ h _ => h.wf
  | .lockOpen _ h | .lockCommit _ h | .lockCommitPersist _ h | .lockAbandon _ h | .emitStop _ h | .padReleaseTimin _ h
  | .padReleaseTbus _ h | .laneRestart _ h | .modeRequestTrack _ h | .modeRequestHold _ h | .modeRequestPark _ h
  | .coilTripClear _ h | .feClear _ h | .hkCalibrate _ h | .capArm _ h | .capDisarm _ h | .capTrigger _ h | .busTrigger _ h
  | .powerRequestRun _ h | .powerRequestHold _ h | .powerRequestDoze _ h | .powerRequestSleep _ h | .calField _ h
  | .calScale _ h | .calZero _ h | .calSkew _ h | .calTin _ h | .calPsdTrim _ h | .traceRefin _ h | .traceTarget _ h
  | .traceCommit _ h | .traceDiscard _ h | .recClear _ h | .fwUpdateBegin _ h | .fwUpdateActivate _ h | .fwUpdateCancel _ h
  | .secProvision _ h | .secUnprovision _ h | .secSeal _ h => h.wf
  | _ => true

end Sys2Proof
end

