-- ==== Sys2Proof/Tests/Slice0.lean ====
section
/-! SUPPORT. The model's own tests: ill-formed commands that WellFormed refuses, worked examples of the spec, and for every statement
of Certificates/Slice0/Obligations.lean a theorem witness_… that meets the hypotheses of its clauses with concrete states and operands. -/

open Sys2Proof Sys2Proof.Machine

namespace Sys2Proof.Tests

-- One theorem after another: evaluations side by side need more memory than they save time.
set_option Elab.async false

/-! ### A message under a right tag -/

/-- Bytes exclusive-ored are as many as the shorter side. -/
theorem xorBytes_length (a b : Bytes) : (xorBytes a b).length = min a.length b.length := by simp [xorBytes]

/-- The key of the test sessions. -/
abbrev key : Bytes := rep 16 0

/-- The last round key of the test key has 16 bytes. -/
theorem key_last : ((roundKeys key).getD 10 []).length = 16 := by decide +kernel

/-- AES under the test key answers 16 bytes. -/
theorem aes_length (b : Bytes) : (aesEncrypt key b).length = 16 := by
  simp only [aesEncrypt, xorBytes_length, key_last]
  simp [shiftRows]

/-- A tag under the test key has 8 bytes. -/
theorem tag_length (m : Bytes) : (tagOf key m).length = 8 := by
  simp [tagOf, cmac, aes_length]

/-- An open session over UDP. -/
def session : Session :=
  { transport := .udp, num := 1, role := 3, key := key, addr := 9, port := 9, rxFresh := 0, txFresh := 0, lastTransaction := 0,
    anyRequest := false, lastResponse := none, heard := 0, lock := ⟨.absent, false, 0, [], 0, 0⟩, block := none, sub := none,
    readSelect := 0, readSource := none, recSelect := 0, recSource := none, codeView := none }

/-- A request of the test host in session 1, with a right tag. -/
def header (svc : Nat) (p : Bytes) : Hdr :=
  { transport := .udp, addr := 9, port := 9, dest := 0xBA50, dlc := 0, magic := 0xBA50, version := 1, flags := 0, session := 1,
    length := BitVec.ofNat 16 p.length, transaction := 1, freshness := 1,
    tag := tagOf key (udpHead 0xBA50 1 0 (BitVec.ofNat 8 svc) 1 p.length 1 1 ++ p), noAck := false }

/-- A message without a session. -/
def open_ (p : Bytes) : Hdr := { header 0 p with session := 0, tag := [] }

/-- The message as it is taken apart. -/
def rcvd (svc : Nat) (p : Bytes) : Rcvd := Hdr.receive (header svc p) (BitVec.ofNat 8 svc) (p ++ (header svc p).tag) 0

/-- What reaches the service of a request of the test host. -/
theorem reaches (s : State) (t svc : Nat) (p : Bytes) (x : Session) (hp : p.length ≤ 1024) (hh : (s.at t).hears (header svc p) = true)
    (hs : (s.at t).session? .udp 1 = some x) (hk : x.key = key) (hf : x.rxFresh = 0) :
    (s.at t).reaches svc (header svc p) p = some ((s.at t).acceptRequest (rcvd svc p), rcvd svc p) ∧ (rcvd svc p).payload = p := by
  have hn : (BitVec.ofNat 16 p.length).toNat = p.length := by simp; omega
  have ht : (header svc p).tag.length = 8 := by simp only [header, tag_length]
  have hr : rawOf (header svc p) p = p ++ (header svc p).tag := rfl
  have h1 : (header svc p).session = 1 := rfl
  have h2 : (header svc p).transport = .udp := rfl
  have h3 : (header svc p).length = BitVec.ofNat 16 p.length := rfl
  have hs' : (s.at t).session? (header svc p).transport (header svc p).session = some x := hs
  have hd : (s.at t).drops (header svc p) (rawOf (header svc p) p) = false := by
    have h4 : (header svc p).magic = 0xBA50 := rfl
    have h5 : (header svc p).flags = 0 := rfl
    simp only [State.drops, hr, hs, h1, h2, h3, h4, h5, hn, ht, List.length_append]
    simp only [limitsOf]
    simp [show ¬ 1024 < p.length by omega]
  refine ⟨?_, ?_⟩
  · unfold State.reaches
    rw [if_neg (by simp [hh, hd]), if_neg (by simp [h1]), hs']
    simp only [hf]
    rw [if_pos]
    · rfl
    · refine ⟨?_, ?_, ?_⟩
      · simp only [Hdr.receive, h2, h3, hn, hr, List.drop_left, List.take_left, hk]
        rfl
      · simp [Hdr.receive, header]
      · simp [Hdr.receive, header]
  · simp only [rcvd, Hdr.receive, header, hn, List.take_left]

/-- The checks of a request as one condition, and one more on what it finds. -/
def asks (s : State) (t svc : Nat) (p : Bytes) (q : State → Rcvd → Session → Bool) : Bool :=
  let s2 := (s.at t).acceptRequest (rcvd svc p)
  decide (p.length ≤ 1024) && (s.at t).hears (header svc p) &&
    (match (s.at t).session? .udp 1 with
      | some x => decide (x.key = key) && x.rxFresh == 0
      | none => false) &&
    (addressing svc (rcvd svc p)).isNone && (s2.admission svc (rcvd svc p)).isNone &&
    match s2.session? .udp 1 with
      | some x => q s2 (rcvd svc p) x
      | none => false

/-- A request that passes them reaches its service. -/
theorem reachesIn_of {s : State} {t svc : Nat} {p : Bytes} {q : State → Rcvd → Session → Bool} (h : asks s t svc p q = true) :
    ∃ x, ReachesIn s t svc (header svc p) p ((s.at t).acceptRequest (rcvd svc p)) (rcvd svc p) x ∧
      q ((s.at t).acceptRequest (rcvd svc p)) (rcvd svc p) x = true := by
  simp only [asks, Bool.and_eq_true, decide_eq_true_eq, Option.isNone_iff_eq_none] at h
  obtain ⟨⟨⟨⟨⟨hp, hh⟩, hs⟩, ha⟩, hm⟩, hx⟩ := h
  split at hs
  · rename_i x he
    simp only [Bool.and_eq_true, decide_eq_true_eq, beq_iff_eq] at hs
    split at hx
    · rename_i y hy
      obtain ⟨h1, h2⟩ := reaches s t svc p x hp hh he hs.1 hs.2
      exact ⟨y, ⟨⟨h1, h2, ha, hm⟩, hy⟩, hx⟩
    · cases hx
  · cases hs

/-- The checks of a WRITE as one condition, and one more on what it finds. -/
def takesIf (s : State) (t id : Nat) (v : Bytes) (q : State → Rcvd → Session → Bool) : Bool :=
  asks s t 0x11 (writePayload id v) fun s2 r x => q s2 r x && match lookup id with
    | some o => (s2.writeCheck x o v).isNone && !o.tooLong v.length && o.sizeOk v.length && (s2.valueCheck x o v).isNone &&
      !s2.recoveryBars o && match s2.writeDomain r.h o v with
        | .value _ [] => true
        | _ => false
    | none => false

/-- A WRITE that passes them is taken. -/
theorem takes_of {s : State} {t id : Nat} {v : Bytes} (q : State → Rcvd → Session → Bool) (h : takesIf s t id v q = true) :
    ∃ h s2 r x o fl, Takes s t id h v s2 r x o fl ∧ q s2 r x = true := by
  obtain ⟨x, hr, hq⟩ := reachesIn_of h
  simp only [Bool.and_eq_true] at hq
  obtain ⟨h0, hq⟩ := hq
  split at hq
  · rename_i o ho
    simp only [Bool.and_eq_true, Option.isNone_iff_eq_none, Bool.not_eq_true'] at hq
    obtain ⟨⟨⟨⟨⟨a1, a2⟩, a3⟩, a4⟩, a5⟩, a6⟩ := hq
    split at a6
    · rename_i fl hf
      exact ⟨_, _, _, x, o, fl, ⟨hr, ho, a1, a2, hf, a3, a4, a5⟩, h0⟩
    · cases a6
  · cases hq

/-- A module in RUN with every domain on, the network up, lane A active, and one INTEGRATOR session. -/
def awake : State :=
  { State.reset with
    pwr := { Pwr.reset with state := .run, served := true, doms := rep 32 .on }
    net := { Net.reset with link := true }
    baspo := { Baspo.reset with sessions := [session] }
    laneA := { Lane.reset with state := .active }
    arb := { Arbiter.reset with holder := some .a } }


/-- A WRITE of the test host that is taken, with a condition on what it finds. -/
theorem take (s : State) (t id : Nat) (v : Bytes) (Q : State → Rcvd → Session → Prop) [∀ a b c, Decidable (Q a b c)]
    (h : takesIf s t id v (fun a b c => decide (Q a b c)) = true) : ∃ h s2 r x o fl, Takes s t id h v s2 r x o fl ∧ Q s2 r x := by
  obtain ⟨h, s2, r, x, o, fl, k, q⟩ := takes_of _ h
  exact ⟨h, s2, r, x, o, fl, k, of_decide_eq_true q⟩

/-- A request of the test host that reaches its service, with a condition on what it finds. -/
theorem ask (s : State) (t svc : Nat) (p : Bytes) (Q : State → Rcvd → Session → Prop) [∀ a b c, Decidable (Q a b c)]
    (h : asks s t svc p (fun a b c => decide (Q a b c)) = true) : ∃ h s2 r x, ReachesIn s t svc h p s2 r x ∧ Q s2 r x := by
  obtain ⟨x, k, q⟩ := reachesIn_of h
  exact ⟨_, _, _, x, k, of_decide_eq_true q⟩

/-! ### Witnesses: each theorem meets the hypotheses of the clauses of one statement -/

/-- A WRITE of the test host. -/
abbrev wr (id : Nat) (v : Bytes) : Hdr := header 0x11 (writePayload id v)

/-- What the bands show for a quiet column. -/
def tickIn : TickIn := { primary := rep 16 0, parity := [], wordLost := false }

/-- StepTakesOnlyTheFrontCommand, EchoStoreStaysCanonical, SecurityMovesOnlyByFlashOrStartUp and the frames. -/
theorem witness_step : (∃ u, step { State.reset with pending := [.bankReady 5] } = .next u) ∧ State.reset.echoCanonical ∧
    (partsOf (.bankReady 5)).length ≤ 5 ∧ (∃ u, exec (.bankReady 5) State.reset = .next u) ∧
    5 < (partsOf (.columnTick 0 tickIn)).length ∧ (∃ u, exec (.columnTick 0 tickIn) State.reset = .next u) :=
  ⟨⟨_, rfl⟩, rfl, by decide, ⟨_, rfl⟩, by decide, ⟨_, rfl⟩⟩

/-- WritesTouchOnlyTheirParts. -/
theorem witness_writes_frame : ∃ (c : Instr) (t : Time) (id : Nat) (h : Hdr) (v : Bytes) (s s2 u : State) (r : Rcvd) (x : Session)
    (o : Obj) (fl : Nat), hostMessage c = some (t, 0x11, h, writePayload id v) ∧ Takes s t id h v s2 r x o fl ∧ exec c s = .next u := by
  obtain ⟨h, s2, r, x, o, fl, k, q⟩ := takes_of (s := awake) (t := 0) (id := Id.EMIT_STOP) (v := [1]) (fun _ _ _ => true) (by decide +kernel)
  exact ⟨.emitStop 0 h, _, _, _, _, _, _, _, _, _, _, _, rfl, k, rfl⟩

/-- A message of version 2 without a session. -/
def versionTwo : Hdr := { open_ [] with version := 2 }

/-- A message of the test session whose tag is not right. -/
def badTag : Hdr := { header 5 [] with tag := zeros 8 }

/-- MalformedMessagesAreDiscardedAndCounted: a wrong MAGIC is dropped, a tag of zeros fails, another version is reached. -/
theorem witness_malformed :
    (hostMessage (.keepalive 0 { header 5 [] with magic := 0 } []) = some (0, 5, { header 5 [] with magic := 0 }, []) ∧
      (awake.at 0).hears { header 5 [] with magic := 0 } = true ∧
      (awake.at 0).drops { header 5 [] with magic := 0 } (rawOf { header 5 [] with magic := 0 } []) = true) ∧
    ((awake.at 0).hears badTag = true ∧ (awake.at 0).drops badTag (rawOf badTag []) = false ∧ badTag.session ≠ 0 ∧
      (awake.at 0).session? badTag.transport badTag.session = some session ∧
      (Hdr.receive badTag 5 (rawOf badTag []) session.rxFresh).tag ≠
        tagOf session.key (Hdr.receive badTag 5 (rawOf badTag []) session.rxFresh).input) ∧
    (∃ s2 r, (awake.at 0).hears versionTwo = true ∧ (awake.at 0).reaches 1 versionTwo [] = some (s2, r) ∧ versionTwo.transport = .udp ∧
      versionTwo.version ≠ 1) :=
  ⟨⟨rfl, by decide +kernel, by decide +kernel⟩,
   ⟨by decide +kernel, by decide +kernel, by decide, by decide +kernel, by decide +kernel⟩,
   ⟨_, _, by decide +kernel, rfl, rfl, by decide⟩⟩

/-- The test session after a request under FRESHNESS 1. -/
def heardOnce : Session := { session with rxFresh := 1, anyRequest := true, lastTransaction := 1 }

/-- The same request again. -/
def rcvdAgain : Rcvd := Hdr.receive (header 5 []) 5 (rawOf (header 5 []) []) heardOnce.rxFresh

/-- OnlyFreshMessagesAreExecuted: the same message again; under another TRANSACTION it is the other clause. -/
theorem witness_fresh : ∃ s : State, (s.at 0).hears (header 5 []) = true ∧ (s.at 0).session? .udp 1 = some heardOnce ∧
    (s.at 0).drops (header 5 []) (rawOf (header 5 []) []) = false ∧
    (rcvdAgain.tag = tagOf heardOnce.key rcvdAgain.input ∧ rcvdAgain.fresh = heardOnce.rxFresh ∧ heardOnce.anyRequest = true ∧
      rcvdAgain.h.transaction = heardOnce.lastTransaction) := by
  refine ⟨{ awake with baspo := { awake.baspo with sessions := [heardOnce] } }, by decide +kernel, by decide +kernel, ?_, ?_⟩
  · simp [State.drops, rawOf, header, tag_length, limitsOf]
    decide +kernel
  · refine ⟨?_, rfl, rfl, rfl⟩
    simp [rcvdAgain, Hdr.receive, header, rawOf, heardOnce, session]

/-- ChecksAbortAtTheFirstFailure: an unknown object, a request without a session, and a WRITE of a read-only object. -/
theorem witness_checks :
    (∃ s2 r, (awake.at 0).reaches 1 versionTwo [] = some (s2, r) ∧ addressing 1 r = some .versionUnsupported) ∧
    (∃ s2 r, (awake.at 0).reaches 5 (open_ []) [] = some (s2, r) ∧ addressing 5 r = none ∧ s2.admission 5 r = some .authRequired) ∧
    (∃ s2 r x o, ReachesIn awake 0 0x11 (wr Id.MAC_ADDRESS [1]) (writePayload Id.MAC_ADDRESS [1]) s2 r x ∧ lookup Id.MAC_ADDRESS = some o ∧
      s2.writeCheck x o [1] = some .readOnly) := by
  refine ⟨⟨_, _, rfl, by decide +kernel⟩, ⟨_, _, rfl, by decide +kernel, by decide +kernel⟩, ?_⟩
  obtain ⟨x, h, q⟩ := reachesIn_of (s := awake) (t := 0) (svc := 0x11) (p := writePayload Id.MAC_ADDRESS [1])
    (q := fun s2 _ x => match lookup Id.MAC_ADDRESS with
      | some o => decide (s2.writeCheck x o [1] = some .readOnly)
      | none => false) (by decide +kernel)
  split at q
  · rename_i o ho
    exact ⟨_, _, x, o, h, ho, of_decide_eq_true q⟩
  · cases q

/-- The module with a session changed. -/
def withSession (x : Session) : State := { awake with baspo := { awake.baspo with sessions := [x] } }

/-- IdentifyAndKeepaliveAnswer. -/
theorem witness_identify : (∃ s2 r, Reaches awake 0 1 (open_ []) [] s2 r) ∧
    ∃ h s2 r x, ReachesIn awake 0 5 h [] s2 r x ∧ x.rxFresh < 0xFFFFFFFF ∧ x.txFresh + 1 < 0xFFFFFFFF :=
  ⟨⟨_, _, rfl, rfl, by decide +kernel, by decide +kernel⟩, ask _ _ _ _ _ (by decide +kernel)⟩

/-- SessionsCloseOnRequestAndOnSilence: at 10 s, and one instant before. -/
theorem witness_close : (∃ h s2 r x, ReachesIn awake 0 4 h [] s2 r x ∧ True) ∧ awake.session? .udp 1 = some session ∧
    session.heard + sec 10 ≤ max awake.now 320000000000 ∧ max awake.now 319999999999 < session.heard + sec 10 :=
  ⟨ask _ _ _ _ _ (by decide +kernel), by decide +kernel, by decide +kernel, by decide +kernel⟩

/-- A challenge handed to the test host at 0. -/
def challenge : Challenge := { transport := .udp, addr := 9, port := 9, role := 1, bytes := rep 16 7, since := 0, void := false }

/-- The module with that challenge. -/
def asked : State := { awake with sec := { awake.sec with challenges := [challenge] }, fac := { awake.fac with kT := key } }

/-- The challenge and the response to it. -/
def response : Bytes := challenge.bytes ++ [193, 9, 118, 125, 194, 118, 218, 18, 67, 36, 4, 127, 46, 28, 63, 81]

/-- AuthenticationOpensASession: BLANK uses K_T; the response is computed under it. -/
theorem witness_auth : (∃ s2 r k, Reaches awake 0 2 (open_ [3]) [3] s2 r ∧ 1 ≤ u8At [3] 0 ∧ u8At [3] 0 ≤ 3 ∧ s2.roleKey (u8At [3] 0) = some k) ∧
    ∃ s2 r, Reaches asked 0 3 (open_ response) response s2 r ∧ s2.freeNumber r.h.transport = some 2 ∧
      s2.sec.challenges.find? (fun d => d.from r.h) = some challenge ∧ challenge.bytes = response.take 16 ∧ challenge.void = false ∧
      s2.now < challenge.since + sec 10 ∧ s2.roleKey challenge.role = some key ∧
      cmac key (s2.authInput 1 challenge.role challenge.bytes) = response.drop 16 :=
  ⟨⟨_, _, _, ⟨rfl, rfl, by decide +kernel, by decide +kernel⟩, by decide, by decide, rfl⟩,
   ⟨_, _, ⟨rfl, rfl, by decide +kernel, by decide +kernel⟩, by decide +kernel, by decide +kernel, by decide, rfl, by decide +kernel,
    by decide +kernel, by decide +kernel⟩⟩

/-- The module with a session in a phase of its Lock. -/
def locking (phase : LockPhase) (staged : Store) : State :=
  withSession { session with lock := ⟨phase, false, 4, staged, sec 60, 0⟩ }

/-- ReadsAnswerWithTheValue: BASPO_PORT live and by block, a staged value, and the shadow of CAP_SOURCE while MEM is off. -/
theorem witness_reads :
    (∃ h s2 r x, ReachesIn awake 0 0x10 h [0x00, 0x11, 9, 0] s2 r x ∧ ((lookup (indexIn 0x10 [0x00, 0x11, 9, 0] * 256 +
      subIn 0x10 [0x00, 0x11, 9, 0])).any fun o => decide (s2.readCheck x o = none ∧ s2.readLength x o ≤ 1024 ∧
        s2.fetch r.h x o = .value 0 [0x50, 0xBA] ∧ find? x.lock.staged o.id = none ∧ o.kind = .cfg ∧ s2.recoveryBars o = false ∧
        s2.serving o = .dom 2 ∧ r.h.noAck = false)) = true) ∧
    (∃ h s2 r x, ReachesIn awake 0 0x20 h [0x00, 0x11, 9, 0, 0, 0, 0, 0, 2, 0] s2 r x ∧ ((lookup (indexIn 0x20
      [0x00, 0x11, 9, 0, 0, 0, 0, 0, 2, 0] * 256 + subIn 0x20 [0x00, 0x11, 9, 0, 0, 0, 0, 0, 2, 0])).any fun o =>
        decide (s2.readCheck x o = none ∧ s2.fetch r.h x o = .value 0 [0x50, 0xBA])) = true) ∧
    find? (⟨.staged, false, 4, [(Id.BASPO_PORT, [1, 2])], 0, 0⟩ : Lock).staged Id.BASPO_PORT = some [1, 2] ∧
    ((lookup Id.CAP_SOURCE).any fun o => decide (o.kind = .cfg ∧ find? session.lock.staged o.id = none ∧
      State.reset.recoveryBars o = false ∧ State.reset.serving o = .off)) = true :=
  ⟨ask _ _ _ _ _ (by decide +kernel), ask _ _ _ _ _ (by decide +kernel), by decide, by decide +kernel⟩

/-- WritesTakeEffectByAccessCode: an RW value, a counter, and a staged value that fills the Lock's first place. -/
theorem witness_access :
    (∃ h s2 r x o fl, Takes awake 0 0x20000A h [1] s2 r x o fl ∧ ((lookup 0x20000A).any fun o =>
      decide (o.acc = .rw ∧ o.kind = .cfg)) = true) ∧
    (∃ h s2 r x o fl, Takes awake 0 Id.CAL_RUNS h (le 4 0) s2 r x o fl ∧ ((lookup Id.CAL_RUNS).any fun o =>
      decide (o.acc = .rw ∧ o.kind = .counter)) = true) ∧
    (∃ h s2 r x o fl, Takes (locking .opened []) 0 Id.CAP_SOURCE h [1] s2 r x o fl ∧ ((lookup Id.CAP_SOURCE).any fun o =>
      decide (o.acc = .rwl)) = true ∧ x.rxFresh < 0xFFFFFFFF ∧ x.txFresh + 1 < 0xFFFFFFFF ∧ x.lock.phase = .opened ∧
      (put x.lock.staged Id.CAP_SOURCE [1]).length ≤ 1024 ∧
      sumNat ((put x.lock.staged Id.CAP_SOURCE [1]).map fun q => q.2.length) ≤ 262144) :=
  ⟨take _ _ _ _ _ (by decide +kernel), take _ _ _ _ _ (by decide +kernel), take _ _ _ _ _ (by decide +kernel)⟩

/-- A first segment of CAP_SOURCE, and a FINAL one. -/
def segments : Bytes × Bytes :=
  ([0x00, 0x50, 0x02, 0] ++ le 4 0 ++ le 4 1 ++ [1], [0x00, 0x50, 0x02, 1] ++ le 4 0 ++ le 4 1 ++ [1] ++ le 4 (crc32 [1]).toNat)

/-- BlockWritesJoinTheirSegments. -/
theorem witness_blocks :
    (∃ h s2 r x, ReachesIn (locking .opened []) 0 0x21 h segments.1 s2 r x ∧ x.rxFresh < 0xFFFFFFFF ∧ x.txFresh + 1 < 0xFFFFFFFF ∧
      (BlockXfer.next x.block Id.CAP_SOURCE (segmentOf segments.1)).isSome = true ∧ (segmentOf segments.1).final = false ∧
      ((lookup Id.CAP_SOURCE).any fun o => decide (lookup (indexIn 0x21 segments.1 * 256 + subIn 0x21 segments.1) = some o ∧
        (segmentOf segments.1).check r.h.transport o (BlockXfer.next x.block o.id (segmentOf segments.1)) = none ∧
        s2.writeCheck x o [] = none)) = true) ∧
    (∃ h s2 r x, ReachesIn (locking .opened []) 0 0x21 h segments.2 s2 r x ∧ x.lock.phase = .opened ∧ (segmentOf segments.2).final = true ∧
      (BlockXfer.next x.block Id.CAP_SOURCE (segmentOf segments.2)).map (fun b => b.head ++ b.last) = some [1] ∧
      ((lookup Id.CAP_SOURCE).any fun o => decide (lookup (indexIn 0x21 segments.2 * 256 + subIn 0x21 segments.2) = some o ∧
        (segmentOf segments.2).check r.h.transport o (BlockXfer.next x.block o.id (segmentOf segments.2)) = none ∧
        o.acc = .rwl ∧ s2.writeCheck x o [1] = none ∧ o.sizeOk 1 = true ∧ s2.valueCheck x o [1] = none ∧ s2.recoveryBars o = false)) = true) :=
  ⟨ask _ _ _ _ _ (by decide +kernel), ask _ _ _ _ _ (by decide +kernel)⟩

/-- LocksOpenAndEnd: none yet, an open one, and its timeout of 60 s at its instant and one before. -/
theorem witness_locks :
    (∃ h s2 r x o fl, Takes awake 0 Id.LOCK_CONTROL h [1] s2 r x o fl ∧ x.rxFresh < 0xFFFFFFFF ∧ x.txFresh + 1 < 0xFFFFFFFF ∧
      x.lock.phase = .absent) ∧
    (∃ h s2 r x o fl, Takes (locking .opened []) 0 Id.LOCK_CONTROL h [4] s2 r x o fl ∧ x.rxFresh < 0xFFFFFFFF ∧
      x.txFresh + 1 < 0xFFFFFFFF ∧ x.lock.isOpen = true) ∧
    (∃ x, (locking .staged []).session? .udp 1 = some x ∧ x.lock.isOpen = true ∧ x.lock.since + x.lock.budget ≤ max 0 (sec 60) ∧
      max 0 (sec 60 - 1) < x.lock.since + x.lock.budget) :=
  ⟨take _ _ _ _ _ (by decide +kernel), take _ _ _ _ _ (by decide +kernel), ⟨_, rfl, by decide, by decide, by decide⟩⟩

/-- A Lock that shortens FLYBACK on its way; committed where c holds. -/
def commitOf (c : Bool) : Commit :=
  { transport := .udp, num := 1, id := 4, staged := [(Id.FLYBACK, le 4 500000)], persist := false, committed := c, moves := 0, counted := 0,
    at_ := 0, request := open_ [], service := 0x11 }

/-- The module with that Lock. -/
def committing (c : Bool) : State :=
  let s := locking .equalizing [(Id.FLYBACK, le 4 500000)]
  { s with baspo := { s.baspo with commit := some (commitOf c) } }

/-- The configuration that it makes. -/
def shortFlyback : Cfg := State.reset.confOf (putAll State.reset.fac [] [(Id.FLYBACK, le 4 500000)])

/-- LocksCommitByEqualization: a commit, one with PERSIST, an equalization with a finding, and an idle flip. -/
theorem witness_commit :
    (∃ h s2 r x o fl, Takes (locking .staged []) 0 Id.LOCK_CONTROL h [2] s2 r x o fl ∧ x.lock.phase = .staged ∧
      x.lock.expired s2.now = false ∧ s2.holdOff = false ∧ s2.lockBusy = false) ∧
    (∃ s k x, s = committing false ∧ s.baspo.commit = some k ∧ k.committed = false ∧ s.session? k.transport k.num = some x ∧ x.lock.id = k.id) ∧
    (∃ rest, shortFlyback.checks State.reset.conf 0 (State.reset.fadeCase shortFlyback) = rest ∧ rest.2.head? = some 0x30000001) ∧
    (∃ s k, s = committing true ∧ s.scan.timer = false ∧ s.baspo.commit = some k ∧ k.committed = true ∧ s.flash.revert = none) :=
  ⟨take _ _ _ _ _ (by decide +kernel), ⟨_, _, _, rfl, rfl, rfl, rfl, rfl⟩, ⟨_, rfl, by decide +kernel⟩, ⟨_, _, rfl, rfl, rfl, rfl, rfl⟩⟩

/-- An event. -/
def event : Event := { seq := 1, time := 0, code := 1, severity := 1, unsync := true, ticket := 0, p1 := 0, p2 := 0, p3 := 0 }

/-- NotificationsReachTheirSubscriber. -/
theorem witness_notify :
    (∃ h s2 r x, ReachesIn awake 0 0x30 h [3, 1, 0, 0] s2 r x ∧ x.rxFresh < 0xFFFFFFFF ∧ x.txFresh + 1 < 0xFFFFFFFF ∧
      u8At [3, 1, 0, 0] 0 ≤ 3 ∧ u8At [3, 1, 0, 0] 1 ≤ 1 ∧ s2.pwr.recovery = false) ∧
    ∃ s x b, s = withSession { session with sub := some ⟨0, 9, [event], false⟩ } ∧ (1 : Byte) ≠ 0 ∧ s.session? .udp 1 = some x ∧
      x.sub = some b ∧ b.queue ≠ [] ∧ s.carries .udp = true :=
  ⟨ask _ _ _ _ _ (by decide +kernel), ⟨_, _, _, rfl, by decide, rfl, rfl, by decide, by decide +kernel⟩⟩

/-- StreamSubscriptionsOpenAndEnd: stream 0 with STREAM_ENABLE, and an end. -/
theorem witness_subscribe :
    (∃ h s2 r x, ReachesIn { awake with cfg := put [] Id.STREAM_ENABLE [1] } 0 0x40 h ([0, 1] ++ zeros 18) s2 r x ∧
      x.rxFresh < 0xFFFFFFFF ∧ x.txFresh + 1 < 0xFFFFFFFF ∧ s2.pwr.recovery = false ∧ s2.streamClass 0 ≤ s2.classOf x.role ∧
      s2.cfgN Id.STREAM_ENABLE ≠ 0 ∧ s2.stream.subs.length < 4) ∧
    (∃ h s2 r x, ReachesIn awake 0 0x40 h (zeros 20) s2 r x ∧ bit (u8At (zeros 20) 1) 0 = false) :=
  ⟨ask _ _ _ _ _ (by decide +kernel), ask _ _ _ _ _ (by decide +kernel)⟩

/-- The module with its column timer in a column. -/
def inColumn (n : Nat) : State := { awake with scan := { awake.scan with timer := true, flyback := false, column := n } }

/-- The module with its column timer in the flyback of frame 0. -/
def inFlyback : State := { awake with scan := { awake.scan with timer := true } }

/-- TicksOpenColumnsAndFrames: at the tick's instant (64,000,000 and 2,250,000 units of 31.25 ps) and one before. -/
theorem witness_ticks :
    (inFlyback.scan.timer = true ∧ inFlyback.scan.flyback = true ∧ inFlyback.scan.tick + inFlyback.scan.flyLen ≤ max inFlyback.now 64000000) ∧
    ((inColumn 3).scan.timer = true ∧ (inColumn 3).scan.flyback = false ∧ (inColumn 3).scan.column + 1 < (inColumn 3).scan.columns ∧
      (inColumn 3).scan.tick + (inColumn 3).scan.period ≤ max (inColumn 3).now 2250000) ∧
    ((inColumn 255).scan.column + 1 = (inColumn 255).scan.columns ∧ (inColumn 255).pwr.entry = none) ∧
    max (inColumn 3).now 2249999 < (inColumn 3).scan.tick + (inColumn 3).scan.period := by decide +kernel

/-- The module with EMIT_ENABLE high, the angle in the window and every bucket empty. -/
def emitting : State :=
  { inColumn 3 with
    emit := { Emit.reset with enable := 1 }
    front := { Front.reset with inWindow := true } }

/-- SlotsFireAtTheirDecision: slot 0 at 70 V, with EMIT_ENABLE high and low. -/
theorem witness_slots :
    ((inColumn 3).scan.timer = true ∧ (inColumn 3).scan.flyback = false ∧
      (inColumn 3).scan.slot < planUsed ((inColumn 3).planFor (inColumn 3).scan.column).image ∧ (inColumn 3).emit.enable = 0) ∧
    (let p := emitting.planFor emitting.scan.column
      let d := emitting.judgeSlot (planEntry p.image (planPattern p.image 3) 0) none none 3 0 70000 (0 - 400 * 32)
      emitting.scan.timer = true ∧ emitting.scan.flyback = false ∧ emitting.scan.slot < planUsed p.image ∧ emitting.emit.enable ≠ 0 ∧
        emitting.darkColumn 3 = false ∧ d.held = false ∧ d.mask ≠ 0) := by decide +kernel

/-- What the driver and the receivers show for a slot. -/
def slotIn : SlotIn := ⟨70000, 15000, 90000, false, rep 16 0xFFFFF⟩

/-- NoShotExceedsItsLimits. -/
theorem witness_limits : ∃ u, exec (.slotDecision 0 none slotIn) emitting = .next u ∧ u.emit.acc ≠ emitting.emit.acc ∧
    (∀ l ∈ emitting.emit.buckets, l ≤ bucketDepth) := ⟨_, rfl, by decide +kernel, by decide +kernel⟩

/-- The module in a phase of phasing, with an accepted edge at 0 and an interval of 4,000 units. -/
def phasing (p : Phasing) : State :=
  { awake with scan := { awake.scan with phasing := p, lastEdge := some 0, fsyncPeriod := 4000 } }

/-- EdgesCountCameraFrames: free, early at 1,999, silent at 6,000 and not at 5,999, a virtual edge due, and a ticket. -/
theorem witness_edges :
    ((phasing .free).timinLive = true ∧ (phasing .free).cfgN Id.FSYNC_SOURCE ≠ 2 ∧ true = ((phasing .free).cfgN Id.FSYNC_EDGE == 0) ∧
      (phasing .free).scan.phasing = .free ∧ (phasing .free).queued Id.CAMERA_INDEX_SET = []) ∧
    ((phasing .locked).scan.phasing = .locked ∧ (phasing .locked).scan.lastEdge = some (0 : Int) ∧
      2 * ((max (phasing .locked).now 1999 : Int) - 0) < ((phasing .locked).scan.fsyncPeriod : Int) ∧
      3 * ((phasing .locked).scan.fsyncPeriod : Int) ≤ 2 * ((max (phasing .locked).now 6000 : Int) - 0) ∧
      2 * ((max (phasing .locked).now 5999 : Int) - 0) < 3 * ((phasing .locked).scan.fsyncPeriod : Int)) ∧
    ((phasing .lull).scan.phasing = .lull ∧ (phasing .lull).scan.virtuals < (phasing .lull).scan.virtualsAt (max (phasing .lull).now 100000)) ∧
    (∃ h s2 r x o fl, Takes awake 0 Id.CAMERA_INDEX_SET h (le 4 7) s2 r x o fl ∧ (awake.queued Id.CAMERA_INDEX_SET).length < 8) :=
  ⟨by decide +kernel, by decide +kernel, by decide +kernel, take _ _ _ _ _ (by decide +kernel)⟩

/-- The module with its bank charging since 0. -/
def charging : State := { awake with emit := { awake.emit with bankState := 1, chargeSince := some 0 } }

/-- TripsAndBankFaultsTakeTheEmitterAway: 20 ms of charging and one instant less; a latch to clear, and one still asserted. -/
theorem witness_trips :
    (awake.isOn 8 = true ∧ awake.emit.active.getLsbD (6 : Fin 11).val = false) ∧
    (∃ h s2 r x o fl, Takes awake 0 Id.EMIT_STOP h [1] s2 r x o fl ∧ awake.isOn 8 = true ∧ awake.emit.active.getLsbD 9 = false) ∧
    (∃ h s2 r x o fl, Takes { awake with emit := { awake.emit with latch := 0x200 } } 0 Id.EMIT_CLEAR h (le 2 0x200) s2 r x o fl ∧
      s2.emit.latch.toNat &&& leNat (le 2 0x200) &&& s2.emit.active.toNat = 0) ∧
    (∃ h s2 r x o fl, Takes { awake with emit := { awake.emit with latch := 4, active := 4 } } 0 Id.EMIT_CLEAR h (le 2 4) s2 r x o fl ∧
      s2.emit.latch.toNat &&& leNat (le 2 4) &&& s2.emit.active.toNat ≠ 0) ∧
    (charging.emit.bankState = 1 ∧ charging.emit.chargeSince = some 0 ∧ charging.isOn 8 = true ∧ charging.emit.active.getLsbD 6 = false ∧
      0 + msec 20 ≤ max charging.now 640000000 ∧ max charging.now 639999999 < 0 + msec 20) :=
  ⟨by decide +kernel, take _ _ _ _ _ (by decide +kernel), take _ _ _ _ _ (by decide +kernel), take _ _ _ _ _ (by decide +kernel),
   by decide +kernel⟩

/-- BarTestsRetireBars: bar 0 of frame 0 shorted, a full test due, and a command. -/
theorem witness_bars :
    (∃ r : BarReading, r = ⟨0, 1999, true, 0, 999⟩ ∧ inFlyback.scan.timer = true ∧ inFlyback.scan.flyback = true ∧ inFlyback.isOn 10 = true ∧
      r.bar.val = inFlyback.scan.frame.toNat % 16 ∧ inFlyback.queued Id.BAR_RETIRE_CLEAR = [] ∧ barNeighbour r = false ∧ barT1 r = .short) ∧
    (∃ s : State, s = { inFlyback with emit := { inFlyback.emit with fullTestDue := true } } ∧ s.emit.fullTestDue = true ∧ s.scan.timer = true ∧
      s.scan.flyback = true ∧ s.isOn 8 = true ∧ s.emit.active.getLsbD 7 = false) ∧
    (∃ h s2 r x o fl, Takes awake 0 Id.BAR_RETIRE_CLEAR h (le 2 0xFFFF) s2 r x o fl ∧ awake.pwr.state = .run ∧
      (awake.queued Id.BAR_RETIRE_CLEAR).length < 8) :=
  ⟨⟨_, rfl, by decide, by decide, by decide +kernel, by decide, by decide, by decide, by decide⟩,
   ⟨_, rfl, by decide, by decide, by decide, by decide +kernel, by decide⟩, take _ _ _ _ _ (by decide +kernel)⟩

/-- A slot of column 3 that fired at 0 for every band. -/
def slotRec : SlotRec :=
  { num := 0, start := 0, fire := 0, fired := true, lent := false, mask := 0xFFFF, width := 6, launch := rep 16 0 }

/-- The module in a column with a slot fired, stops kept of row 5, and the last of them. -/
def listening (x : SlotRec) (stamps : List (Nat × U32)) (last : List (Nat × Time)) : State :=
  { inColumn 3 with rx := { Rx.reset with acc := { ColumnAcc.empty with slots := [x], stamps, lastStop := last } } }

/-- What the stop statements ask of a module at 20,000 units. -/
abbrev Hears (s : State) : Prop :=
  s.scan.timer = true ∧ s.scan.flyback = false ∧ s.isOn (bandDom (bandOf 5)) = true ∧ (s.band (bandOf 5)).state ≠ .failed ∧
    s.masked 5 = false ∧ (s.band (bandOf 5)).depth ≤ 2

/-- StopsBeyondEightAreLost: a ninth stop, 64 units after the last one, and one 63 units after it. -/
theorem witness_stop_limit :
    (∃ s : State, s = listening slotRec (rep 8 (5, 0)) [(5, 19936)] ∧ Hears s ∧ s.listening (max s.now 20000) = some slotRec ∧
      slotRec.lit (bandOf 5) = true ∧ s.rx.acc.lastStop.find? (fun q => q.1 == 5) = some (5, 19936) ∧ 19936 + 64 ≤ max s.now 20000 ∧
      8 ≤ (s.rx.acc.stamps.filter fun p => p.1 == 5 && p.2.toNat / 67108864 == slotRec.num).length ∧
      s.flightOf 5 slotRec (max s.now 20000) < 524288) ∧
    (∃ s : State, s = listening slotRec [] [(5, 19937)] ∧ Hears s ∧ s.rx.acc.lastStop.find? (fun q => q.1 == 5) = some (5, 19937) ∧
      max s.now 20000 < 19937 + 64) :=
  ⟨⟨_, rfl, by decide +kernel, by decide +kernel, by decide, by decide, by decide, by decide, by decide +kernel⟩,
   ⟨_, rfl, by decide +kernel, by decide, by decide⟩⟩

/-- StopsAreStampedAndHistogrammed: a lit window, an unlit one, and none. -/
theorem witness_stops :
    (∃ s : State, s = listening slotRec [] [] ∧ Hears s ∧ s.rx.acc.lastStop.find? (fun q => q.1 == 5) = none ∧
      s.listening (max s.now 20000) = some slotRec ∧ slotRec.lit (bandOf 5) = true ∧ s.flightOf 5 slotRec (max s.now 20000) < 524288 ∧
      s.cfgN Id.HIST_WEIGHT = 0 ∧ s.flightOf 5 slotRec (max s.now 20000) / s.conf.binLsb < 1536) ∧
    (∃ s x, x = { slotRec with mask := 0 } ∧ s = listening x [] [] ∧ Hears s ∧ s.listening (max s.now 20000) = some x ∧ x.lent = false ∧
      x.lit (bandOf 5) = false) ∧
    (Hears (inColumn 3) ∧ (inColumn 3).listening 20000 = none) :=
  ⟨⟨_, rfl, by decide +kernel, by decide, by decide +kernel, by decide, by decide +kernel, by decide +kernel, by decide +kernel⟩,
   ⟨_, _, rfl, rfl, by decide +kernel, by decide +kernel, by decide, by decide⟩, by decide +kernel, by decide +kernel⟩

/-- The module with band 3 changed. -/
def withBand (f : Band → Band) (s : State) : State := { s with rx := { s.rx with bands := setAt s.rx.bands 3 (f (s.band 3)) } }

/-- BandsFollowBiasLockAndTests: the third unlock, a relock, a test of band 0 in frame 0, a restart, and unmasking with and without a
masked row. -/
theorem witness_bands :
    (awake.rx.bands.length = 16 ∧ awake.isOn (bandDom (3 : Fin 16).val) = true ∧ (awake.band 3).state ≠ .failed ∧
      ((awake.band 3).unlockFrames.filter fun k => awake.scan.frame.toNat < k + 16).length < 2) ∧
    (∃ s : State, s = withBand (fun b => { b with unlockFrames := [0, 0] }) awake ∧
      2 ≤ ((s.band 3).unlockFrames.filter fun k => s.scan.frame.toNat < k + 16).length) ∧
    (∃ s : State, s = withBand (fun b => { b with unlocked := true }) inFlyback ∧ s.rx.bands.length = 16 ∧ (s.band 3).unlocked = true ∧
      s.scan.flyback = true) ∧
    (inFlyback.pwr.state = .run ∧ inFlyback.scan.timer = true ∧ inFlyback.scan.flyback = true ∧ inFlyback.isOn (bandDom 0) = true ∧
      (inFlyback.band 0).state ≠ .failed ∧ (0 : Fin 16).val = inFlyback.scan.frame.toNat % 16 ∧ (inFlyback.band 0).restart = none) ∧
    (∃ h s2 r x o fl, Takes awake 0 Id.BAND_RESTART h [15] s2 r x o fl ∧ s2.pwr.state = .run ∧ leNat [15] < s2.rx.bands.length ∧
      (s2.band (leNat [15])).restart = none ∧ bandDom (leNat [15]) < s2.pwr.doms.length) ∧
    (∃ h s2 r x o fl, Takes awake 0 Id.CHANNEL_UNMASK h (le 2 511) s2 r x o fl ∧ s2.rx.unmasks.length < 8 ∧
      s2.unmaskRows (leNat (le 2 511)) = []) ∧
    (∃ h s2 r x o fl, Takes { awake with rx := { Rx.reset with maskTest := 1 <<< 511 } } 0 Id.CHANNEL_UNMASK h (le 2 511) s2 r x o fl ∧
      s2.unmaskRows (leNat (le 2 511)) ≠ []) :=
  ⟨by decide +kernel, ⟨_, rfl, by decide +kernel⟩, ⟨_, rfl, by decide +kernel, by decide +kernel, by decide⟩, by decide +kernel,
   take _ _ _ _ _ (by decide +kernel), take _ _ _ _ _ (by decide +kernel), take _ _ _ _ _ (by decide +kernel)⟩

/-- The module with GATE high or low, TIN1 enabled and its last edge at 0. -/
def gated (g : Bool) : State :=
  { awake with
    cfg := put [] Id.TIN_ENABLE [2]
    tin := { Tin.reset with gate := g, gatePin := g, inputs := rep 4 { openRec := none, stamped := some 0, last := none, seen := false, lastEdge := (0, false) } } }

/-- InputsAreBlindAfterAnEdge and EdgesOpenRecordsWhileGateIsHigh: 127 units after an edge, and 128. -/
theorem witness_inputs :
    ((gated true).timinLive = true ∧ bit ((gated true).cfgN Id.TIN_ENABLE) (1 : Fin 4).val = true ∧
      (1 : Fin 4).val < (gated true).tin.inputs.length ∧ ((gated true).input 1).stamped = some 0 ∧ max (gated true).now 127 < 0 + 128) ∧
    (0 + 128 ≤ max (gated true).now 128 ∧ (gated true).tin.gate = true ∧ (gated true).conf.tinSelects 1 true = true) ∧
    ((gated false).tin.gate = false ∧ bit ((gated false).cfgN Id.TIN_ENABLE) 1 = true ∧ (gated false).timinLive = true) ∧
    ((gated true).tin.gatePin ≠ false ∧ (gated true).tin.inputs.length = 4) := by decide +kernel

/-- An open record of TIN1. -/
def tinRec : TinRec :=
  { kind := 1, seq := 1, anchor := 0, anchorRising := true, gap := 0, gapMark := true, unsync := true, holdover := false, close := false,
    lost := false, lostCount := 0, reason := 0, edges := [] }

/-- The module with REFIN's last edge at 0. -/
def refin : State := { awake with tin := { Tin.reset with refinLast := some 0, refinRun := 999 } }

/-- RecordsCloseAndReferencesComeAndGo: an idle record, a closed one, REFIN at 3,040 and 3,361 units and 1 µs, and both pads. -/
theorem witness_records :
    (∃ s : State, s = { gated true with tin := { (gated true).tin with inputs := rep 4 ⟨some tinRec, none, some 0, true, (0, true)⟩ } } ∧ 1 < s.tin.inputs.length ∧ (s.input 1).openRec = some tinRec ∧
      (s.input 1).last.getD 0 + (usec (s.cfgN Id.TIN_IDLE_TIMEOUT) : Nat) ≤ (s.at (sec 1)).deviceTicks (max s.now (sec 1)) - s.cal.vals.tin.getD 1 0) ∧
    (∃ s : State, s = { awake with tin := { Tin.reset with closed := [tinRec] }, cfg := put [] Id.STREAM_RECORDS [0] } ∧ s.tin.closed = tinRec :: [] ∧ s.cfgN Id.STREAM_RECORDS ≠ 1) ∧
    (refin.timinLive = true ∧ refin.tin.refinLast = some 0 ∧ 3040 ≤ max refin.now 3040 - 0 ∧ max refin.now 3040 - 0 ≤ 3360 ∧
      999 ≤ refin.tin.refinRun ∧ 3360 < max refin.now 3361 - 0 ∧ 0 + usec 1 ≤ max refin.now 32000 ∧ refin.cal.running = none) ∧
    (∃ h s2 r x o fl, Takes awake 0 Id.PAD_RELEASE h [1] s2 r x o fl ∧ True) ∧
    (∃ h s2 r x o fl, Takes awake 0 Id.PAD_RELEASE h [2] s2 r x o fl ∧ True) :=
  ⟨⟨_, rfl, by decide, by decide, by decide +kernel⟩, ⟨_, rfl, by decide, by decide +kernel⟩, by decide +kernel,
   take _ _ _ _ _ (by decide +kernel), take _ _ _ _ _ (by decide +kernel)⟩

/-- A finished column. -/
def columnRec (a b : Option LaneColumn) : ColumnRec :=
  { seq := 7, frame := 0, column := 0, columns := 256, opened := 0, ended := 2250000, period := 2250000, shotPeriod := 1250, used := 56, cfg := [],
    acc := .empty, valid := 0xFFFF, depth := rep 16 2, primary := rep 16 0, masked := 0, parity := [], wordLost := false, time := 0,
    unsync := true, previous := false, dark := false, pattern := 0, camera := 0, borrowed := 0, heldCount := 0, heldReason := 0, scale := 0,
    zero := 0, skew := rep 512 0, closed := false, laneA := a, laneB := b, ctlA := ⟨[], 0⟩, ctlB := ⟨[], 0⟩, selftest := false, judged := false }

/-- A lane's result without an echo. -/
def laneColumn (n : Nat) : LaneColumn :=
  { queues := zeros 64, incomplete := false, histSat := false, cutRows := n, ambSource := 0, ambient := rep 16 0, dropped := 0, excluded := 0,
    saturations := 0 }

/-- The module with both lanes in step and a finished column. -/
def comparing (a b : Option LaneColumn) : State :=
  { awake with
    laneB := { Lane.reset with state := .qualified, report := some (0, true) }
    arb := { awake.arb with columns := [columnRec a b] } }

/-- A column with results of both lanes at t_e + c: its verdict is due, and whether the signatures agree. -/
def verdictOn (n : Nat) : Bool × Option Bool :=
  let s := comparing (some (laneColumn 0)) (some (laneColumn n))
  let x := columnRec (some (laneColumn 0)) (some (laneColumn n))
  ((s.at 4500000).verdictDue x, (s.blockOf x .a).bind fun a => (s.blockOf x .b).map fun b => sameSignature a b)

/-- LanesAnswerAndAreCompared: a column that lane A owes, and equal results at t_e + c. -/
theorem witness_lanes :
    (((comparing none none).lane .a).runs = true ∧ ((comparing none none).arb.columns.find? fun x => (x.resultOf .a).isNone &&
      decide (((comparing none none).lane .a).joined ≤ x.ended)) = some (columnRec none none)) ∧
    (comparing (some (laneColumn 0)) (some (laneColumn 0))).arb.columns.find? (fun x => !x.judged) =
      some (columnRec (some (laneColumn 0)) (some (laneColumn 0))) ∧
    (verdictOn 0).1 = true ∧ (verdictOn 0).2 = some true :=
  ⟨⟨by decide, rfl⟩, rfl, by decide +kernel, by decide +kernel⟩

/-- The module with lane B QUALIFIED by a report 200 µs before the lease's end. -/
def standingBy : State :=
  { awake with laneB := { Lane.reset with state := .qualified, report := some (usec 800, true) } }

/-- TheLeaseIsRenewedTakenOverOrLapses: with an eligible standby and without one; the lease's 1,000 µs, the confirmation's 5 µs. -/
theorem witness_lease :
    ((awake.lane .a).runs = true ∧ (awake.lane .a).fatal = false ∧ (awake.lane .a).toReport = none ∧ awake.arb.holder = some .a ∧
      max awake.now 0 / aoCycle < awake.leaseEnd / aoCycle ∧ (awake.at 0).lateColumn .a = false) ∧
    (awake.leaseEnd / aoCycle ≤ max awake.now (usec 1000) / aoCycle ∧ (awake.at (usec 1000)).eligible .b = false ∧
      (standingBy.at (usec 1000)).eligible .b = true ∧ standingBy.arb.holder = some .a ∧
      standingBy.leaseEnd / aoCycle ≤ max standingBy.now (usec 1000) / aoCycle) ∧
    (∃ s : State, s = { awake with arb := { awake.arb with unconfirmed := some 0 } } ∧ s.arb.holder = some .a ∧ s.arb.unconfirmed = some 0 ∧
      0 + usec 5 ≤ max s.now (usec 5) ∧ max s.now (usec 5 - 1) < 0 + usec 5) :=
  ⟨by decide +kernel, by decide +kernel, ⟨_, rfl, by decide, by decide, by decide, by decide⟩⟩

/-- The module without a lease holder, its lanes OFF. -/
def noLane : State := { awake with laneA := .reset, arb := .reset }

/-- The module with the Towpath in a state since 0. -/
def towpath (n : Nat) (heard : Bool) : State := { awake with arb := { awake.arb with towpath := n, peerHeard := heard } }

/-- LanesStartAndFailAndTheTowpathParts: 50 ms, 250 µs and 200 µs at their instants and one before, and the grace time. -/
theorem witness_start :
    (noLane.isOn (laneDom noLane.preferred) = true ∧ (noLane.lane noLane.preferred).state = .off ∧
      (noLane.lane noLane.preferred).ready = none ∧ noLane.arb.holder = none) ∧
    (∃ s : State, s = { noLane with laneB := { Lane.reset with ready := some 0 } } ∧ s.arb.holder = none ∧
      (s.lane (other s.preferred)).ready = some 0 ∧ (s.lane (other s.preferred)).state = .off ∧ 0 + msec 50 ≤ max s.now (msec 50) ∧
      max s.now (msec 50 - 1) < 0 + msec 50) ∧
    (standingBy.arb.holder ≠ some .b ∧ standingBy.arb.rejoin = none ∧ standingBy.isOn (laneDom .b) = true ∧ (standingBy.lane .b).state ≠ .off ∧
      (standingBy.lane .b).runs = true ∧ (standingBy.lane .b).watchdog + usec 250 ≤ max standingBy.now (usec 250) ∧
      max standingBy.now (usec 250 - 1) < (standingBy.lane .b).watchdog + usec 250) ∧
    (awake.arb.towpath = 0 ∧ (awake.lane .a).state ≠ .off ∧ (awake.lane .a).state ≠ .failed ∧ awake.isOn (laneDom (other .a)) = true) ∧
    ((towpath 1 false).arb.towpath = 1 ∧ (towpath 1 false).arb.towpathAt + usec 200 ≤ max (towpath 1 false).now (usec 200) ∧
      (towpath 1 false).arb.peerHeard = false ∧ (towpath 1 true).arb.peerHeard = true) ∧
    ((towpath 2 true).arb.towpath = 2 ∧ (towpath 2 true).arb.graceRaised = false ∧
      (towpath 2 true).arb.towpathAt + msec ((towpath 2 true).cfgN Id.TOWPATH_GRACE) ≤ max (towpath 2 true).now (sec 100)) :=
  ⟨by decide +kernel, ⟨_, rfl, by decide +kernel⟩, by decide +kernel, by decide +kernel, by decide +kernel, by decide +kernel⟩

/-- The module with a rejoin of lane B at a step. -/
def rejoining (n : Nat) : State :=
  { awake with laneB := { Lane.reset with state := .rejoining }, arb := { awake.arb with rejoin := some ⟨.b, 0, n, 0⟩ } }

/-- LanesRestartAndRejoin. -/
theorem witness_rejoin :
    (∃ s : State, s = { awake with arb := { awake.arb with selftest := some 3 } } ∧ s.arb.selftest = some 3) ∧
    (∃ h s2 r x o fl, Takes { noLane with pwr := { noLane.pwr with becalmed := 1 } } 0 Id.LANE_RESTART h [1] s2 r x o fl ∧
      s2.pwr.becalmed = 1 ∧ s2.arb.restart = none ∧ s2.awake = true) ∧
    (∃ h s2 r x o fl, Takes { awake with laneB := { Lane.reset with state := .failed } } 0 Id.LANE_REJOIN h [1] s2 r x o fl ∧
      s2.rejoinable (laneOf (leNat [1])) = true) ∧
    (∃ s : State, s = { awake with laneB := { Lane.reset with state := .failed } } ∧ (s.at 0).autoRejoin = some .b) ∧
    ((rejoining 2).arb.rejoin = some ⟨.b, 0, 2, 0⟩ ∧ (rejoining 4).arb.rejoin = some ⟨.b, 0, 4, 0⟩) :=
  ⟨⟨_, rfl, rfl⟩, take _ _ _ _ _ (by decide +kernel), take _ _ _ _ _ (by decide +kernel), ⟨_, rfl, by decide +kernel⟩, by decide⟩

/-- The section of the flyback. -/
def section0 : Section :=
  { tick := 0, column := none, period := 2250000, k := 1, frame := 0, len := 2250000, columns := 256, boundary := true, flip := none,
    change := none, track := false, cfg := [] }

/-- The module with that section open. -/
def sampling : State := { awake with front := { awake.front with sections := [section0] } }

/-- SamplesAreDeliveredWhenDue: sample 0, FILTER_LATENCY after its instant and one unit before. -/
theorem witness_samples : sampling.dueSample = some (section0, 0) ∧ sampling.isOn 12 = true ∧ sampling.isOn 13 = true ∧
    section0.offset 0 + (section0.tick + sampling.fac.filterLatency * 32 : Nat) ≤ (max sampling.now (sampling.fac.filterLatency * 32) : Nat) ∧
    (section0.change = none ∨ (0 : Nat) ≠ 1) ∧
    (max sampling.now (sampling.fac.filterLatency * 32 - 1) : Nat) < section0.offset 0 + (section0.tick + sampling.fac.filterLatency * 32 : Nat) := by
  decide +kernel

/-- The module with its coil driver in a state. -/
def coil (n : Nat) : State := { awake with coil := { awake.coil with state := n } }

/-- ModesAreRequestedAndTheCoilTrips: awake and BECALMED, HOMING past its time and before it, an overcurrent, its end, the park ramp. -/
theorem witness_modes :
    (∃ h s2 r x o fl, Takes awake 0 Id.CONTROL_MODE_REQUEST h [1] s2 r x o fl ∧ (s2.queued Id.CONTROL_MODE_REQUEST).length < 8 ∧
      s2.pwr.becalmed = 0) ∧
    (∃ h s2 r x o fl, Takes { awake with pwr := { awake.pwr with becalmed := 2 } } 0 Id.CONTROL_MODE_REQUEST h [3] s2 r x o fl ∧
      (s2.queued Id.CONTROL_MODE_REQUEST).length < 8 ∧ s2.pwr.becalmed ≠ 0) ∧
    (∃ s : State, s = { awake with laneA := { awake.laneA with engine := { Engine.reset with mode := .homing } } } ∧ (s.lane .a).runs = true ∧
      (s.lane .a).engine.mode = .homing ∧ (s.lane .a).engine.arrived = false ∧
      (s.lane .a).engine.homingSince + msec (s.cfgN Id.HOMING_TIMEOUT) ≤ max s.now (sec 100) ∧
      max s.now 0 < (s.lane .a).engine.homingSince + msec (s.cfgN Id.HOMING_TIMEOUT)) ∧
    ((coil 1).isOn 11 = true ∧ (coil 1).coil.state ≠ 4 ∧ (coil 2).coil.state = 2) ∧
    (∃ h s2 r x o fl, Takes (coil 4) 0 Id.COIL_TRIP_CLEAR h [1] s2 r x o fl ∧ s2.coil.state = 4 ∧ s2.engine.mode = .park ∧
      s2.front.coilCurrent.natAbs < 12500) ∧
    (∃ h s2 r x o fl, Takes { coil 4 with laneA := { awake.laneA with engine := { Engine.reset with mode := .hold } } } 0 Id.COIL_TRIP_CLEAR h
      [1] s2 r x o fl ∧ s2.coil.state = 4 ∧ s2.engine.mode ≠ .park) :=
  ⟨take _ _ _ _ _ (by decide +kernel), take _ _ _ _ _ (by decide +kernel), ⟨_, rfl, by decide +kernel⟩, by decide +kernel,
   take _ _ _ _ _ (by decide +kernel), take _ _ _ _ _ (by decide +kernel)⟩

/-- The module with its front end clear, but for a latch. -/
def clearable : State := { awake with front := { awake.front with passed := 16, signal := 16, breakLatch := 1 } }

/-- BreaksAreLatchedAndCleared: 500 and 501 mV, 1,000 units of LED current, FE_CLEAR granted and not. -/
theorem witness_breaks :
    (awake.isOn 12 = true ∧ 500 ≤ 500 ∧ 500 < 501 ∧ awake.front.breakLatch = 0 ∧ awake.isOn 8 = true) ∧
    (∃ s : State, s = { awake with front := { awake.front with led := 1000 } } ∧ s.isOn 12 = true ∧ 1000 ≤ s.front.led) ∧
    (∃ h s2 r x o fl, Takes clearable 0 Id.FE_CLEAR h [1] s2 r x o fl ∧ s2.feClearable = true ∧ s2.coil.state ≠ 4) ∧
    (∃ h s2 r x o fl, Takes awake 0 Id.FE_CLEAR h [1] s2 r x o fl ∧ s2.feClearable = false) :=
  ⟨by decide +kernel, ⟨_, rfl, by decide +kernel⟩, take _ _ _ _ _ (by decide +kernel), take _ _ _ _ _ (by decide +kernel)⟩

/-- HousekeepingConvertsAndCalibrates: the bounds of the offset, 4,096, and beyond it. -/
theorem witness_hk :
    (awake.isOn 14 = true ∧ awake.hka.calTicket = none) ∧
    (∃ h s2 r x o fl, Takes awake 0 Id.HK_CALIBRATE h [1] s2 r x o fl ∧ (s2.queued Id.HK_CALIBRATE).length < 8 ∧ s2.hka.calTicket = none) ∧
    (∃ s : State, s = { awake with hka := { awake.hka with calTicket := some 1 } } ∧ s.hka.calTicket = some 1 ∧ s.isOn 14 = true ∧
      s.queued Id.HK_CALIBRATE = []) ∧
    (∃ offset gain : Int, offset = roundHalfUp (((4096 * 8 : Nat) : Rat) / 8) ∧
      gain = roundHalfUp ((1048576 * 838861 : Nat) / ((((4096 + 838861) * 8 : Nat) : Rat) / 8 - offset)) ∧
      ((((4096 + 838861) * 8 : Nat) : Rat) / 8 - offset) ≠ 0 ∧ offset.natAbs ≤ 4096 ∧ (gain - 1048576).natAbs * 100 ≤ 2 * 1048576) ∧
    (∃ offset : Int, offset = roundHalfUp (((4096 * 8 + 4 : Nat) : Rat) / 8) ∧ 4096 < offset.natAbs) :=
  ⟨by decide +kernel, take _ _ _ _ _ (by decide +kernel), ⟨_, rfl, by decide +kernel⟩, ⟨_, _, rfl, rfl, by decide +kernel⟩,
   ⟨_, rfl, by decide +kernel⟩⟩

/-- A host trigger at 0. -/
def trigger : Trigger := { source := 6, time := 0, inst := 0, unsync := true, unplaced := false }

/-- A segment of raw source, without records. -/
def segment : Segment :=
  { num := 1, source := 0, bands := 0xFFFF, binFirst := 0, binCount := 512, pre := 0, post := 1, mask := 64, autoRelease := false,
    overSlot := false, lockId := 0, trigger := none, frame := 0, column := 0, index := 0, markSeq := 0, version := 0, found := false,
    preValid := 0, postValid := 0, shortPost := false, extra := 0, extras := [], records := [], copyQueued := false, releaseDue := false,
    offloaded := false }

/-- The module with capture in a state, a segment being filled and a trigger on offer; no trigger is marked. -/
def capturing (n : Nat) : State :=
  { awake with
    cap := { Cap.reset with state := n, current := some segment, offers := [trigger] }
    cfg := put [] Id.STREAM_MARK_MASK [0, 0] }

/-- The module with a held segment. -/
def holding : State := { awake with cap := { Cap.reset with held := [segment] } }

/-- CaptureObeysTriggersAndItsHost. -/
theorem witness_capture :
    ((capturing 1).cap.offers = trigger :: [] ∧ (capturing 1).cap.due = none ∧ (capturing 1).cap.state = 1 ∧
      (capturing 1).cap.current = some segment ∧ bit segment.mask trigger.source = true ∧ (capturing 1).cap.ring = []) ∧
    ((capturing 3).cap.state = 3 ∧ (capturing 4).cap.state = 4 ∧ bit (capturing 3).triggerMask trigger.source = true ∧
      bit (capturing 4).triggerMask trigger.source = true ∧ bit ((capturing 3).cfgN Id.STREAM_MARK_MASK) trigger.source = false) ∧
    (∃ h s2 r x o fl, Takes { awake with cfg := put [] Id.CAP_ENABLE [1] } 0 Id.CAP_CONTROL h [1] s2 r x o fl ∧ s2.cap.state = 0 ∧
      s2.cfgN Id.CAP_ENABLE = 1 ∧ s2.pwr.entry = none ∧ s2.cap.held.length < s2.conf.segmentSlots) ∧
    (∃ h s2 r x o fl, Takes (capturing 1) 0 Id.CAP_CONTROL h [2] s2 r x o fl ∧ s2.cap.due = none ∧ s2.cap.state ≠ 2) ∧
    (∃ h s2 r x o fl, Takes (capturing 1) 0 Id.CAP_CONTROL h [3] s2 r x o fl ∧ s2.cap.state ≠ 0) ∧
    (∃ h s2 r x o fl, Takes awake 0 Id.CAP_CONTROL h [3] s2 r x o fl ∧ s2.cap.state = 0) ∧
    (∃ h s2 r x o fl, Takes holding 0 Id.CAP_RELEASE h (le 4 1) s2 r x o fl ∧ leNat (le 4 1) < 0xFFFFFFFF ∧
      s2.findSegment (u32 (leNat (le 4 1))) = some segment ∧ segment.copyQueued = false) ∧
    (∃ h s2 r x o fl, Takes holding 0 Id.CAP_READ_SELECT h (le 4 1) s2 r x o fl ∧ x.rxFresh < 0xFFFFFFFF ∧ x.txFresh + 1 < 0xFFFFFFFF ∧
      s2.findSegment (u32 (leNat (le 4 1))) = some segment ∧ s2.findSegment 2 = none) :=
  ⟨by decide +kernel, by decide +kernel, take _ _ _ _ _ (by decide +kernel), take _ _ _ _ _ (by decide +kernel),
   take _ _ _ _ _ (by decide +kernel), take _ _ _ _ _ (by decide +kernel), take _ _ _ _ _ (by decide +kernel),
   take _ _ _ _ _ (by decide +kernel)⟩

/-- A datagram, and a subscription to a stream. -/
def datagram : Datagram := { bytes := [1], last := false, id := 1, dests := [1] }

/-- The module with datagrams and marks waiting. -/
def sending : State :=
  { awake with
    stream := { Stream.reset with queue0 := [datagram], queue1 := [datagram], items := [[1, 2, 3, 4]], subs := [⟨1, 0, 0, 9, 9, .udp, 1⟩] } }

/-- DatagramsLeaveWhileTheNetworkIsUp. -/
theorem witness_network :
    (sending.streaming = true ∧ sending.stream.queue0 = datagram :: [] ∧ sending.stream.queue1 = datagram :: [] ∧ datagram.last = false ∧
      sending.stream.items ≠ [] ∧ sending.subsOf 0 ≠ []) ∧
    (∃ s : State, s = { awake with net := Net.reset } ∧ s.isOn 2 = true ∧ s.net.link = false ∧ s.isOn 3 = true ∧ s.net.busOff = false) ∧
    (awake.net.link = true ∧ awake.isOn 2 = true) ∧
    (∃ s : State, s = { awake with net := { Net.reset with gptp := 2, busOff := true } } ∧ s.net.gptp = 2 ∧ s.net.busOff = true) :=
  ⟨by decide +kernel, ⟨_, rfl, by decide +kernel⟩, by decide +kernel, ⟨_, rfl, by decide⟩⟩

/-- CodeSourceKeepsACodedView: MAC_ADDRESS is read; two bytes do not get shorter, 32 equal ones do. -/
theorem witness_code :
    (∃ h s2 r x o fl, Takes awake 0 Id.CODE_SOURCE h (le 4 (Id.MAC_ADDRESS * 256)) s2 r x o fl ∧ x.rxFresh < 0xFFFFFFFF ∧
      x.txFresh + 1 < 0xFFFFFFFF ∧ ((lookup (leNat (le 4 (Id.MAC_ADDRESS * 256)) / 256)).any fun p => decide (s2.readCheck x p = none ∧
        s2.readLength x p ≤ 262144 ∧ s2.fetch r.h x p = .value 0 (rep 6 0))) = true) ∧
    (codeUnit [1, 2]).2.2 = (codeUnit [1, 2]).2.1 ∧ (codeUnit (rep 32 7)).2.2 ≠ (codeUnit (rep 32 7)).2.1 :=
  ⟨take _ _ _ _ _ (by decide +kernel), by decide +kernel, by decide +kernel⟩

/-- The module as a follower on the bus at position 3, FRAME heard at 0. -/
def following : State :=
  { awake with cfg := put (put [] Id.BUS_ROLE [2]) Id.BUS_POSITION [3], bus := { Bus.reset with frames := [0], alive := true } }

/-- The same with a trigger waiting. -/
def triggering : State := { following with bus := { following.bus with trigs := [⟨5, 1, 0⟩] } }

/-- BusMessagesTakeEffect: bad and good CRC-8 from position 1, a PROBE and a REPLY to position 3, 100 µs after, an own code announced. -/
theorem witness_bus :
    (following.busListens = true ∧ crc8 (busData 1 (1 : BitVec 4).toNat (0 : U32).toNat) ≠ crc8 (busData 1 (1 : BitVec 4).toNat (0 : U32).toNat) + 1 ∧
      (1 : BitVec 4).toNat ≠ following.cfgN Id.BUS_POSITION ∧ following.bus.peers.length = 16 ∧ following.cfgN Id.BUS_ROLE = 2 ∧
      following.cfgN Id.FSYNC_SOURCE ≠ 2 ∧ (0x30000000 : U32).toNat / 2 ^ 28 = following.cfgN Id.BUS_POSITION) ∧
    (∃ s : State, s = { following with bus := { following.bus with probe := some (1, 0) } } ∧ s.bus.probe = some ((1 : BitVec 4).toNat, 0) ∧
      max s.now (usec 100) ≤ 0 + usec 100) ∧
    (following.cfgN Id.FLEET_CODE = BitVec.toNat (0 : U32) % 262144 ∧ (following.peer (1 : BitVec 4).toNat).duplicate = false) ∧
    (∃ s : State, s = { following with bus := { following.bus with peers := rep 16 ⟨none, [], none, true⟩ } } ∧
      (s.peer (1 : BitVec 4).toNat).duplicate = true) :=
  ⟨by decide +kernel, ⟨_, rfl, by decide, by decide⟩, by decide +kernel, ⟨_, rfl, by decide⟩⟩

/-- TheBusIsUsedInTurn: window 4 after FRAME is position 3's; 1.5 periods of silence and one unit less. -/
theorem witness_windows :
    (triggering.bus.trigs = ⟨5, 1, 0⟩ :: [] ∧ (∀ y ∈ triggering.bus.trigs, max triggering.now 327680 - y.at_ ≤ 2097151) ∧
      (triggering.at 327680).ownWindow = some (0, 4) ∧ triggering.busDrives = true ∧ triggering.bus.alive = true ∧
      triggering.bus.window ≠ some (0, 4)) ∧
    (∃ h s2 r x o fl, Takes awake 0 Id.BUS_TRIGGER h [1] s2 r x o fl ∧ True) ∧
    (following.busListens = true ∧ following.cfgN Id.BUS_ROLE = 2 ∧ following.bus.onClk = false) ∧
    (∃ s : State, s = { following with bus := { following.bus with onClk := true } } ∧ s.bus.onClk = true ∧ s.cfgN Id.BUS_ROLE = 2) ∧
    (following.bus.frames = 0 :: [] ∧ 3 * following.busPeriod ≤ 2 * (max following.now (2 * following.busPeriod) - 0) ∧
      2 * (max following.now following.busPeriod - 0) < 3 * following.busPeriod) :=
  ⟨by decide +kernel, take _ _ _ _ _ (by decide +kernel), by decide +kernel, ⟨_, rfl, by decide +kernel⟩, by decide +kernel⟩

/-- POWER_REQUEST at the module in a state of power. -/
def powered (p : Power) (becalmed : Nat) : State := { inColumn 3 with pwr := { awake.pwr with state := p, becalmed := becalmed } }

/-- PowerRequestsAreServed: the present state, DOZE from RUN with no refuser, RUN from HOLD, and a BECALMED device. -/
theorem witness_requests :
    (∃ h s2 r x o fl, Takes awake 0 Id.POWER_REQUEST h [0] s2 r x o fl ∧ s2.pwr.entry = none ∧ s2.pwr.wake = none ∧ s2.pwr.becalmed = 0 ∧
      s2.therm.cooldown = none ∧ s2.pwr.state = .run) ∧
    ((∃ h s2 r x o fl, Takes (inColumn 3) 0 Id.POWER_REQUEST h [2] s2 r x o fl ∧ s2.pwr.entry = none ∧ s2.pwr.wake = none ∧
      s2.pwr.becalmed = 0 ∧ s2.therm.cooldown = none ∧ s2.pwr.state = .run ∧ s2.scan.timer = true) ∧
      ∀ k, (inColumn 3).refusers .doze (.host k) = []) ∧
    (∃ h s2 r x o fl, Takes (powered .hold 0) 0 Id.POWER_REQUEST h [0] s2 r x o fl ∧ s2.pwr.entry = none ∧ s2.pwr.wake = none ∧
      s2.pwr.becalmed = 0 ∧ s2.therm.cooldown = none ∧ s2.pwr.state = .hold) ∧
    (∃ h s2 r x o fl, Takes (powered .hold 1) 0 Id.POWER_REQUEST h [0] s2 r x o fl ∧ s2.pwr.entry = none ∧ s2.pwr.wake = none ∧
      s2.pwr.becalmed ≠ 0 ∧ Power.run ≠ .sleep) :=
  ⟨take _ _ _ _ _ (by decide +kernel), ⟨take _ _ _ _ _ (by decide +kernel), fun _ => rfl⟩, take _ _ _ _ _ (by decide +kernel), take _ _ _ _ _ (by decide +kernel)⟩

/-- The module with an entry to a state at a step. -/
def entering (p : Power) (n : Nat) : State :=
  { inColumn 3 with pwr := { awake.pwr with entry := some ⟨p, .run, .host 1, 0, n, false, 0, none⟩ } }

/-- The module at rest in a state since 0, asked to sleep after 1 s. -/
def resting (p : Power) : State :=
  { awake with pwr := { awake.pwr with state := p }, cfg := put [] Id.DOZE_SLEEP_AFTER (le 4 1) }

/-- EntriesGoStepByStep: a recheck, ENTRY_TIMEOUT at its instant and before, the last column, DOZE's 1 s, and the 10 s of a cool-down. -/
theorem witness_entries :
    (∃ e : Entry, e = ⟨.hold, .run, .host 1, 0, 0, false, 0, none⟩ ∧ (entering .hold 0).pwr.entry = some e ∧ e.step = 0 ∧
      (entering .hold 0).pwr.afterWake = [] ∧ e.forced = false ∧ e.wake = none ∧ (entering .hold 0).refusers e.target e.who = [] ∧
      (entering .hold 0).scan.timer = true ∧
      e.since + msec ((entering .hold 0).cfgN Id.ENTRY_TIMEOUT) ≤ max (entering .hold 0).now (sec 100) ∧
      max (entering .hold 0).now 0 < e.since + msec ((entering .hold 0).cfgN Id.ENTRY_TIMEOUT)) ∧
    (∃ e : Entry, e = ⟨.hold, .run, .host 1, 0, 3, false, 0, none⟩ ∧ (entering .hold 3).pwr.entry = some e ∧ e.step = 3 ∧ e.target = .hold ∧
      (entering .hold 3).pwr.afterWake = []) ∧
    ((resting .doze).pwr.state = .doze ∧ (resting .doze).pwr.entry = none ∧ (resting .doze).pwr.wake = none ∧
      (resting .doze).cfgN Id.DOZE_SLEEP_AFTER ≠ 0 ∧ (resting .doze).scan.timer = false ∧ (resting .doze).refusers .sleep .timer = [] ∧
      (resting .doze).pwr.since + sec ((resting .doze).cfgN Id.DOZE_SLEEP_AFTER) ≤ max (resting .doze).now (sec 1) ∧
      max (resting .doze).now (sec 1 - 1) < (resting .doze).pwr.since + sec ((resting .doze).cfgN Id.DOZE_SLEEP_AFTER)) ∧
    (∃ s : State, s = { resting .hold with therm := { awake.therm with cooldown := some 0, holdSince := some 0, flags := 4 } } ∧
      s.therm.cooldown = some 0 ∧ s.therm.holdSince = some 0 ∧ s.therm.shut = true ∧ s.pwr.state = .hold ∧ s.pwr.entry = none ∧
      s.pwr.wake = none ∧ s.scan.timer = false ∧ 0 + sec 10 ≤ max s.now (sec 10)) :=
  ⟨⟨_, rfl, by decide +kernel⟩, ⟨_, rfl, by decide +kernel⟩, by decide +kernel, ⟨_, rfl, by decide +kernel⟩⟩

/-- The module asleep, woken by pin and CAN, and its pin's fall asking for SLEEP. -/
def wakeable (p : Power) : State :=
  { inColumn 3 with
    pwr := { awake.pwr with state := p }
    cfg := put (put [] Id.WAKE_SOURCES [3]) Id.WAKE_PIN_SLEEP [2] }

/-- TheDeviceWakes. -/
theorem witness_wakes :
    (bit ((wakeable .sleep).cfgN Id.WAKE_SOURCES) 0 = true ∧ bit ((wakeable .sleep).cfgN Id.WAKE_SOURCES) 1 = true ∧
      (BitVec.ofNat 11 ((wakeable .sleep).cfgN Id.CAN_WAKE_ID)).toNat = (wakeable .sleep).cfgN Id.CAN_WAKE_ID ∧
      (BitVec.allOnes 64) &&& BitVec.ofNat 64 ((wakeable .sleep).cfgN Id.CAN_WAKE_MASK) =
        BitVec.ofNat 64 ((wakeable .sleep).cfgN Id.CAN_WAKE_MASK) ∧ (wakeable .sleep).pwr.state = .sleep ∧
      (wakeable .sleep).pwr.losing = false ∧ (wakeable .sleep).pwr.recovery = false ∧ (wakeable .sleep).therm.cooldown = none ∧
      (wakeable .sleep).pwr.entry = none ∧ (wakeable .sleep).pwr.wake = none) ∧
    ((wakeable .run).cfgN Id.WAKE_PIN_SLEEP ≠ 0 ∧ (wakeable .run).pwr.pinAsked = false ∧ (wakeable .run).pwr.state = .run ∧
      (wakeable .run).scan.timer = true ∧ ∀ g, (wakeable .run).refusers g .pin = []) ∧
    (∃ s : State, s = { powered .hold 0 with pwr := { (powered .hold 0).pwr with wake := some ⟨.run, .hold, .pin, 0⟩ } } ∧
      s.pwr.wake = some ⟨.run, .hold, .pin, 0⟩ ∧ s.pwr.becalmed = 0 ∧ s.pwr.state = .hold ∧ s.pwr.afterWake = []) :=
  ⟨by decide +kernel, ⟨by decide +kernel, by decide, by decide, by decide, fun g => by cases g <;> decide +kernel⟩, ⟨_, rfl, by decide +kernel⟩⟩

/-- DomainsAndCrystalFail: a band's domain that wakes, the first and the third attempt, and a frame boundary's crystal correction. -/
theorem witness_domains :
    ((19 : Fin 32).val ≠ 0 ∧ awake.waking (19 : Fin 32).val = true ∧ awake.pwr.tries.getD 19 0 < 2 ∧ (19 : Fin 32).val = bandDom (3 : Fin 16).val ∧
      awake.pwr.doms.length = 32 ∧ awake.rx.bands.length = 16 ∧ awake.isOn 19 = true) ∧
    (∃ s : State, s = { awake with pwr := { awake.pwr with tries := rep 32 2 } } ∧ s.waking 19 = true ∧ 2 ≤ s.pwr.tries.getD 19 0) ∧
    (awake.awake = true ∧ awake.pwr.served = true ∧ awake.pwr.xtalFailed = false ∧ awake.arb.holder ≠ none ∧ awake.bus.onClk = false ∧
      awake.scan.timer = false) := ⟨by decide +kernel, ⟨_, rfl, by decide +kernel⟩, by decide +kernel⟩

/-- TheSupplyIsWatchedAndColdStartsBeginAnew. -/
theorem witness_supply :
    (awake.pwr.state ≠ .off ∧ awake.pwr.losing = false ∧ awake.pwr.switchOpen = false ∧ State.reset.pwr.state = .off) ∧
    (∃ s : State, s = { awake with pwr := { awake.pwr with switchOpen := true, vinOk := true, doms := rep 32 .off } } ∧ s.isOn 9 = false ∧
      s.pwr.switchOpen = true ∧ s.pwr.vinOk = true ∧ s.pwr.losing = false ∧ s.pwr.state ≠ .off) := by
  exact ⟨by decide +kernel, ⟨_, rfl, by decide +kernel⟩⟩

/-- The module with its three anchors read at 25 °C. -/
def anchored : State := { awake with therm := { awake.therm with anchors := rep 3 (some (250, 0)) } }

/-- TheThermalModelRunsAndCools: without and with HKA's anchors, and the end of a cool-down after 10 s. -/
theorem witness_thermal :
    (anchored.pwr.state ≠ .off ∧ anchored.pwr.losing = false ∧ anchored.isOn 14 = true ∧ anchored.therm.anchors.any Option.isNone = false) ∧
    (∃ s : State, s = { awake with pwr := { awake.pwr with doms := rep 32 .off } } ∧ s.isOn 14 = false) ∧
    (∃ s : State, s = { resting .hold with therm := { awake.therm with cooldown := some 0 }, cfg := put [] Id.AUTO_RESUME [0] } ∧
      s.therm.cooldown = some 0 ∧ 0 + sec 10 ≤ max s.now (sec 10) ∧ s.pwr.entry = none ∧ s.pwr.wake = none ∧ s.pwr.state = .hold ∧
      (s.therm.temps.all fun y => decide (y < 110)) = true ∧ s.cfgN Id.AUTO_RESUME ≠ 1) :=
  ⟨by decide +kernel, ⟨_, rfl, by decide +kernel⟩, ⟨_, rfl, by decide +kernel⟩⟩

/-- A running ticket of two runs. -/
def ticket : CalTicket :=
  { code := 2, num := 9, runs := [2], first := none, firstTin := none, tinDue := false, rejected := false, accepted := [], startFrame := some 0,
    extended := 0, anchors := [] }

/-- The module with that ticket running. -/
def calibrating (k : CalTicket) : State := { awake with cal := { awake.cal with running := some k } }

/-- The module with a pending trace, and with flash checks that pass. -/
def storing : State :=
  { anchored with flash := { awake.flash with holdupMv := 24000 }, cal := { awake.cal with pendRefin := some (1, 2) } }

/-- CalibrationRequestsQueueTickets: into a queue, into a free unit, a commit, a discard, and one that aborts. -/
theorem witness_cal :
    (∃ h s2 r x o fl, Takes (calibrating ticket) 0 Id.CAL_REQUEST h [5] s2 r x o fl ∧ s2.calCheck 5 = none ∧ s2.cal.running ≠ none) ∧
    (∃ h s2 r x o fl, Takes awake 0 Id.CAL_REQUEST h [6] s2 r x o fl ∧ s2.calCheck 6 = none ∧ s2.cal.running = none ∧ s2.cal.queue = [] ∧
      s2.cal.autoDue = none ∧ s2.pwr.entry = none) ∧
    (∃ h s2 r x o fl, Takes storing 0 Id.CAL_REQUEST h [18] s2 r x o fl ∧ s2.calCheck 18 = none ∧ s2.cal.pendRefin = some (1, 2)) ∧
    (∃ h s2 r x o fl, Takes awake 0 Id.CAL_REQUEST h [19] s2 r x o fl ∧ s2.calCheck 19 = none) ∧
    (∃ h s2 r x o fl, Takes awake 0 Id.CAL_REQUEST h [16] s2 r x o fl ∧ s2.calCheck 16 = some .stateConflict) :=
  ⟨take _ _ _ _ _ (by decide +kernel), take _ _ _ _ _ (by decide +kernel), take _ _ _ _ _ (by decide +kernel),
   take _ _ _ _ _ (by decide +kernel), take _ _ _ _ _ (by decide +kernel)⟩

/-- RunsAreJudgedInPairs: a TIN run, two that differ by 3 LSB, frame 16 of a ticket, and the 10 s of a failed write. -/
theorem witness_runs :
    (∃ (s : State) (k : CalTicket) (v a : CalValue), k = { ticket with code := 5, runs := [4, 2] } ∧ s = calibrating k ∧ v = .tin [3, 0, 0, 0] ∧
      a = .tin [0, 0, 0, 0] ∧ s.cal.running = some k ∧ s.runValue (.tin [3, 0, 0, 0]) = some v ∧ s.runReady (RunKind (.tin [])) = true ∧
      k.runs.head? = some (RunKind (.tin [])) ∧ k.first = none ∧ k.runs.tail ≠ [] ∧
      (judgePair (s.cfgN Id.CAL_SCALE_TOL) (s.cfgN Id.CAL_ZERO_TOL) a v).value = none) ∧
    (∃ s : State, s = { calibrating ticket with scan := { awake.scan with frame := 16 } } ∧ s.cal.running = some ticket ∧
      ticket.startFrame = some 0 ∧ s.cal.queue = [] ∧ 16 + ticket.extended ≤ (s.scan.frame - 0).toNat ∧ (s.scan.frame - 0).toNat < 2 ^ 31) ∧
    (∃ s : State, s = { storing with cal := { awake.cal with store := 2, retryAt := some 0 } } ∧ s.cal.store = 2 ∧ s.cal.retryAt = some 0 ∧
      0 + sec 10 ≤ max s.now (sec 10) ∧ max s.now (sec 10 - 1) < 0 + sec 10 ∧ s.isFailed 5 = false ∧ s.flashCheck .commit = none) ∧
    (∃ s : State, s = { awake with cal := { awake.cal with store := 2, retryAt := some 0 } } ∧ s.isFailed 5 = false ∧
      s.flashCheck .commit = some .holdupLow) :=
  ⟨⟨_, _, _, _, rfl, rfl, rfl, rfl, by decide +kernel⟩, ⟨_, rfl, by decide +kernel⟩, ⟨_, rfl, by decide +kernel⟩, ⟨_, rfl, by decide +kernel⟩⟩

/-- A group of a kind for some work. -/
def group (k : GroupKind) (w : FlashWork) : FlashGroup := { kind := k, work := w, host := true, waits := some 0 }

/-- FlashGroupsRunAndFail: a group that waits since 0, one that runs with 34 spare blocks, and the last erase of an update. -/
theorem witness_flash :
    (∃ s : State, s = { storing with flash := { storing.flash with queue := [group .commit (.version 1 1 0 [] 1)] } } ∧ s.flash.running = none ∧
      s.flash.queue = group .commit (.version 1 1 0 [] 1) :: [] ∧ (s.at 0).flashReady = true ∧
      (s.at 0).flashCheck (group .commit (.version 1 1 0 [] 1)).kind = none ∧ 0 + sec 1 ≤ max s.now (sec 1)) ∧
    (∃ s : State, s = { awake with flash := { awake.flash with running := some (group .erase (.fwErase 1)), spare := 34, update := 1 } } ∧
      s.flash.running = some (group .erase (.fwErase 1)) ∧ 33 < s.flash.spare ∧ s.flash.update = 1 ∧
      (s.flash.queue.any fun y => y.work == (group .erase (.fwErase 1)).work) = false) :=
  ⟨⟨_, rfl, by decide +kernel⟩, ⟨_, rfl, by decide +kernel⟩⟩

/-- A version held, and a recorder entry. -/
def version : Version :=
  { num := 1, lockId := 1, fw := 0, parent := 0, time := 0, values := [], confirmed := true, rejected := false, copies := 2 }

/-- As version. -/
def entry : RecEntry := { seq := 1, page := 0, header := zeros 64, data := [] }

/-- The module with them, its current version 2, flash checks that pass, and segment 1 queued for the recorder. -/
def stored : State :=
  { storing with
    flash := { storing.flash with versions := [version], current := 2, entries := [entry], copies := [1], eraseMax := 2001 }
    cap := { Cap.reset with held := [segment] } }

/-- StorageIsScrubbedAndVersionsRevert: 4 and 9 bit errors, 2,001 erases apart, a copy with and without its segment, the recorder's
commands, a revert's target, and 5 s after a cold start and one unit before. -/
theorem witness_storage :
    (stored.awake = true ∧ stored.isOn 5 = true ∧ 0 + 2000 < stored.flash.eraseMax ∧ 2001 ≤ stored.flash.eraseMax ∧
      stored.flash.copies = 1 :: [] ∧ (stored.groups.any fun g => g.work == .recorder 1) = false ∧
      (stored.cap.held.find? fun g => g.num == 1) = some segment) ∧
    (∃ s : State, s = { stored with cap := Cap.reset } ∧ (s.cap.held.find? fun g => g.num == 1) = none) ∧
    (∃ h s2 r x o fl, Takes stored 0 Id.REC_SELECT h (le 4 1) s2 r x o fl ∧ x.rxFresh < 0xFFFFFFFF ∧ x.txFresh + 1 < 0xFFFFFFFF ∧
      (s2.flash.entries.find? fun e => e.seq == u32 (leNat (le 4 1))) = some entry) ∧
    (∃ h s2 r x o fl, Takes stored 0 Id.REC_CLEAR h [1] s2 r x o fl ∧ True) ∧
    (∃ h s2 r x o fl, Takes stored 0 Id.VERSION_REVERT h (le 4 0) s2 r x o fl ∧ s2.revertTarget (leNat (le 4 0)) = some version) ∧
    (∃ s : State, s = { stored with pwr := { awake.pwr with coldStart := some 0 }, flash := { stored.flash with current := 1 } } ∧
      s.pwr.coldStart = some 0 ∧ s.pwr.losing = false ∧ s.awake = true ∧ 0 + sec 5 ≤ max s.now (sec 5) ∧ max s.now (sec 5 - 1) < 0 + sec 5 ∧
      ((s.flash.slots[s.flash.activeSlot]?).map (·.state)) ≠ some 3 ∧ s.version? s.flash.current = some version) :=
  ⟨by decide +kernel, ⟨_, rfl, by decide⟩, take _ _ _ _ _ (by decide +kernel), take _ _ _ _ _ (by decide +kernel),
   take _ _ _ _ _ (by decide +kernel), ⟨_, rfl, by decide +kernel⟩⟩

/-- The module with a firmware update in a state. -/
def updating (n : Nat) (image : Bytes) : State := { storing with flash := { storing.flash with update := n, image, checking := some { open_ [] with session := 1 } } }

/-- An image of zeros, 4,096 bytes long, signed under the private key 1. -/
def image : Bytes :=
  [0x57, 0x46, 0x4D, 0x4C, 1, 0, 0, 0, 7, 0, 0, 0, 0, 0x10, 0, 0] ++ be 32 0x12525d303b667ee3d0917d8257a21fa0ae80a706be72d4fe8fa4b06739bdbe38 ++
    be 32 0x5ecbe4d1a6330a44c8f7ef951d4bf165e6c6b721efada985fb41661bc6e7fd6c ++ be 32 0x83ad1b6e7320a183a96432b91e2657c9a23fed840beb98c63028b7693388dacc ++ zeros 16 ++ zeros 3968

/-- FirmwareIsUpdatedInSteps: begin, activate, cancel and a first segment. -/
theorem witness_update :
    (∃ h s2 r x o fl, Takes storing 0 Id.FW_UPDATE h [1] s2 r x o fl ∧ s2.awake = true ∧ s2.flash.update = 0 ∧ s2.flash.checking = none ∧
      s2.flashCheck .erase = none) ∧
    (∃ h s2 r x o fl, Takes (updating 4 []) 0 Id.FW_UPDATE h [2] s2 r x o fl ∧ s2.fwActivateOk = true ∧ s2.flashCheck .commit = none) ∧
    (∃ h s2 r x o fl, Takes (updating 3 []) 0 Id.FW_UPDATE h [3] s2 r x o fl ∧ 1 ≤ s2.flash.update ∧ s2.flash.update ≤ 3) ∧
    (∃ h s2 r x, ReachesIn (updating 2 []) 0 0x21 h ([0x00, 0x71, 0x05] ++ ([0] ++ le 4 0 ++ le 4 4096 ++ [1])) s2 r x ∧
      x.rxFresh < 0xFFFFFFFF ∧ x.txFresh + 1 < 0xFFFFFFFF ∧ ((lookup Id.FW_IMAGE).any fun o => decide ((segmentOf ([0x00, 0x71, 0x05] ++
        ([0] ++ le 4 0 ++ le 4 4096 ++ [1]))).check r.h.transport o (BlockXfer.next x.block Id.FW_IMAGE (segmentOf ([0x00, 0x71, 0x05] ++
        ([0] ++ le 4 0 ++ le 4 4096 ++ [1])))) = none ∧ s2.imageBars r.h o = none ∧ s2.writeCheck x o [] = none)) = true) :=
  ⟨take _ _ _ _ _ (by decide +kernel), take _ _ _ _ _ (by decide +kernel), take _ _ _ _ _ (by decide +kernel), ask _ _ _ _ _ (by decide +kernel)⟩

/-- FirmwareIsUpdatedInSteps: a received image that passes its check. -/
theorem witness_image : ∃ s : State, s = { updating 3 image with fac := { awake.fac with verifyX := p256G.1, verifyY := p256G.2 } } ∧
    s.flash.checking = some { open_ [] with session := 1 } ∧ (1 : Byte) ≠ 0 ∧ (s.at 0).imageVerdict.2.isNone = true :=
  ⟨_, rfl, rfl, by decide, by decide +kernel⟩

/-- The key of sixteen bytes of 5, wrapped under the test key. -/
def wrapped : Bytes := [1, 0, 65, 248, 146, 42, 37, 161, 65, 91, 4, 185, 58, 54, 127, 54, 127, 63, 222, 195, 48, 188, 84, 174, 136, 142]

/-- SecurityCommandsQueueTheirCommit: PROVISION with all keys held, a wrapped key, and BACKOFF at its end and before. -/
theorem witness_security :
    (∃ h s2 r x o fl, Takes { storing with sec := { awake.sec with keys := rep 3 (some key) } } 0 Id.SEC_PROVISION h [1] s2 r x o fl ∧
      s2.secTarget Id.SEC_PROVISION = some 1 ∧ s2.baspo.commit = none ∧ s2.secMoving = false ∧ s2.flashCheck .commit = none) ∧
    (∃ h s2 r x o fl, Takes { storing with sec := { awake.sec with state := 1 } } 0 Id.SEC_UNPROVISION h [1] s2 r x o fl ∧
      s2.secTarget Id.SEC_UNPROVISION = some 0) ∧
    (∃ h s2 r x o fl, Takes { storing with sec := { awake.sec with state := 1 } } 0 Id.SEC_SEAL h [0xA1, 0x5E] s2 r x o fl ∧
      s2.secTarget Id.SEC_SEAL = some 2) ∧
    (∃ s : State, s = { awake with sec := { awake.sec with backoff := some 7 } } ∧ s.sec.backoff = some 7 ∧ 7 ≤ max s.now 7 ∧ max s.now 6 < 7) :=
  ⟨take _ _ _ _ _ (by decide +kernel), take _ _ _ _ _ (by decide +kernel), take _ _ _ _ _ (by decide +kernel), ⟨_, rfl, by decide⟩⟩

/-- SecurityCommandsQueueTheirCommit: a wrapped key. -/
theorem witness_key : ∃ h s2 r x o fl, Takes storing 0 Id.KEY_WRITE h wrapped s2 r x o fl ∧ unwrapKey x.key (wrapped.drop 2) = some (rep 16 5) :=
  take _ _ _ _ _ (by decide +kernel)

/-! ### Ill-formed commands are refused, one for each check of WellFormed -/

/-- A COLUMN_TICK with counts for 15 bands is ill-formed, and one with counts for 16 is not. -/
theorem smoke_tick : Instr.wf (.columnTick 0 ⟨rep 15 0, [], false⟩) = false ∧ Instr.wf (.columnTick 0 ⟨rep 16 0, [], false⟩) = true ∧
    Instr.wf (.frameBoundary 0 ⟨[], [], false⟩ none) = false := by decide

/-- A slot with launch stamps of 17 bands is ill-formed. -/
theorem smoke_slot : Instr.wf (.slotDecision 0 none { bankMv := 0, peakMa := 0, stringMv := 0, limiter := false, launch := rep 17 0 }) = false := by
  decide

/-- A bar test that reads bar 3 twice is ill-formed. -/
theorem smoke_bars : Instr.wf (.barTest 0 (rep 2 ⟨3, 0, false, 0, 0⟩)) = false ∧ Instr.wf (.barFullTest 0 (rep 2 ⟨3, 0, false, 0, 0⟩)) = false := by
  decide

/-- A band test with the events of 31 channels is ill-formed. -/
theorem smoke_band : Instr.wf (.bandTest 0 0 ⟨0, 0, 0, rep 31 0⟩) = false := by decide

/-- Modulators that hand over unequal numbers of bits make an ill-formed sample. -/
theorem smoke_sample : Instr.wf (.controlSample 0 (.modulator [true] [] [true] [true] 0) false false false) = false := by decide

/-- The powers of 31 domains are ill-formed. -/
theorem smoke_heat : Instr.wf (.thermalUpdate 0 ⟨rep 31 0, 0⟩) = false := by decide

/-- A calibration run that leaves out a row, a band, an input or a range is ill-formed. -/
theorem smoke_runs : Instr.wf (.calRunDone 0 (.skew [])) = false ∧ Instr.wf (.calRunDone 0 (.scale (rep 15 none))) = false ∧
    Instr.wf (.calRunDone 0 (.tin [0])) = false ∧ Instr.wf (.calRunDone 0 (.psd [0])) = false ∧
    Instr.wf (.calRunDone 0 (.refin 0 [])) = false ∧ Instr.wf (.calRunDone 0 (.target [] [])) = false := by decide

/-- A tag of 7 bytes is ill-formed in every kind of message. -/
theorem smoke_tag : Instr.wf (.read 0 { open_ [] with tag := rep 7 0 } []) = false ∧
    Instr.wf (.lockOpen 0 { open_ [] with tag := rep 7 0 }) = false ∧ Instr.wf (.secSeal 0 { open_ [] with tag := rep 7 0 }) = false ∧
    Instr.wf (.read 0 (open_ []) []) = true := by decide

/-! ### The table gives no bits -/

/-- No word spells a command, and placing one leaves the queue as it was. -/
theorem test_no_words (n w : Nat) (s : State) : decodeTableWord n w = none ∧ s.withFetchWord n w = s := ⟨rfl, rfl⟩

/-! ### Worked examples of the spec; the numbers come from its text -/

/-- The check values that R282, R283 and the chapter on lanes rest on: CRC-32 and CRC-64 of the digits 1 to 9 (published for the two
polynomials). -/
theorem test_crc : crc32 [49, 50, 51, 52, 53, 54, 55, 56, 57] = 0xCBF43926 ∧
    crc64 [49, 50, 51, 52, 53, 54, 55, 56, 57] = 0x62EC59E3F1A4F00A := by decide +kernel

/-- Chapter 13, "coding a seven-byte block": all 26 bytes, and back. -/
theorem test_block : codeBlock [65, 66, 65, 66, 65, 66, 65] true none =
    ([0x1C, 0xDB, 1, 2, 7, 0, 0, 0, 6, 0, 0, 0, 0, 0, 0, 0, 0xED, 0x50, 0xC2, 0xDB, 0x41, 0x84, 0x08, 0x24, 0x18, 0x10], false) := by
  decide +kernel

/-- AES-CMAC of the empty message under the key of RFC 4493. -/
theorem test_cmac : cmac [0x2b, 0x7e, 0x15, 0x16, 0x28, 0xae, 0xd2, 0xa6, 0xab, 0xf7, 0x15, 0x88, 0x09, 0xcf, 0x4f, 0x3c] [] =
    [0xbb, 0x1d, 0x69, 0x29, 0xe9, 0x59, 0x37, 0x28, 0x7f, 0xa3, 0x7d, 0x12, 0x9b, 0x75, 0x67, 0x46] := by decide +kernel

/-- Chapter 04: bars 5 to 10 at 20 A and 3 ns encode as 0x07E0_78C0. -/
theorem test_entry : barsOf (entryMask 0x07E078C0) = [5, 6, 7, 8, 9, 10] ∧ entryCurrent 0x07E078C0 = 30 ∧ entryWidth 0x07E078C0 = 6 ∧
    halfAmps 30 = 40 ∧ quarterNs 6 = 12 := by decide +kernel

/-- R109: a typical bar costs 450 nJ at 20 A and 3 ns, and 1530 nJ at 30 A and 6 ns. -/
theorem test_energy : Factory.reset.barEnergy 0 40 12 = 450 ∧ Factory.reset.barEnergy 15 60 24 = 1530 := by decide +kernel

/-- Chapter 05, "a refused plan": FRAME_MODE 2 at 80 µs with 1 ms of flyback. -/
def wideCfg : Cfg :=
  { fac := .reset, store := put (put (put [] Id.FRAME_MODE [2]) Id.COLUMN_PERIOD (le 4 32000)) Id.FLYBACK (le 4 1000000) }

/-- The same example: E_limit is 373,140,000 nJ. -/
theorem test_limit : wideCfg.eLimit = 373140000 := by decide +kernel

/-- R179: the clear range is 148,953 mm with the defaults. -/
theorem test_clear_range : (⟨.reset, []⟩ : Cfg).clearRange = 148953 := by decide +kernel

/-- Chapter 07, address: frame 1,000,003, column 100 of 256, row 250. -/
theorem test_queue : queueOffset 1000003 256 100 250 = 0x00D91F40 := by decide +kernel

/-- Chapter 07, "from raw stamps to an echo record": the 14 stamps of the window, of which the first was corrected by slot 26. -/
def exampleRow : RowView :=
  { row := 250, hist := [(330, 1), (331, 4), (332, 6), (333, 2), (334, 1)],
    stamps := (0x680029B2 : U32) :: ([22, 31, 38, 44, 49, 53, 57, 62, 66, 79, 88, 97, 140].map fun o => (10600 + o : U32)),
    amb := rep 1536 43, launches := { eps := [(26, 32)], median := 33 }, lit := 56, va := 1, run := 4 }

/-- The column of the example. -/
def exampleColumn : ColumnRec :=
  { seq := 0, frame := 1000003, column := 100, columns := 256, opened := 0, ended := 0, period := 28125, shotPeriod := 1250, used := 56, cfg := [],
    acc := ColumnAcc.empty, valid := 0xFFFF, depth := rep 16 3, primary := rep 16 0, masked := 0, parity := [], wordLost := false, time := 0,
    unsync := false, previous := false, dark := false, pattern := 0, camera := 0, borrowed := 0, heldCount := 0, heldReason := 0,
    scale := 429497, zero := 1200, skew := rep 512 0, closed := true, laneA := none, laneB := none, ctlA := ⟨[], 0⟩, ctlB := ⟨[], 0⟩,
    selftest := false, judged := false }

/-- The same example: t_q, R, INTENSITY, WIDTH and CONF of the candidate at k = 331, and the first 8 bytes of its queue. -/
theorem test_echo : (refine ⟨.reset, []⟩ exampleColumn exampleRow 331).map (fun k => (k.tq, k.range, k.intensity, k.width, k.conf)) =
      some (170638, 198385, 15, 26, 6) ∧
    (refine ⟨.reset, []⟩ exampleColumn exampleRow 331).map (fun k => (queueBytes [⟨k, 0, false, false⟩] false 0).take 8) =
      some [0x18, 0x00, 0x60, 0x1A, 0x0F, 0x10, 0x6F, 0x30] := by decide +kernel

/-- Chapter 09, "angle in column 40": c01, c10, c11 and c30; x 185,517 and T_M 45.0 °C. -/
theorem test_angle : tauQ15 450 = 6554 ∧
    linAngle (zeros 4 ++ leInt 4 128000 ++ zeros 4 ++ leInt 4 51200000 ++ leInt 4 (-768000) ++ zeros 16 ++ leInt 4 (-3072000) ++ zeros 32)
      185517 6554 = 70125 := by decide +kernel

/-- Table 10.9: gain sets 4 and 7 with the shifts of the example. -/
def exampleGains : Bytes :=
  zeros 64 ++ leInt 2 20000 ++ leInt 2 1200 ++ leInt 2 24000 ++ leInt 2 30000 ++ zeros 4 ++ le 4 0x30420 ++ zeros 32 ++
    leInt 2 26000 ++ leInt 2 1500 ++ leInt 2 28000 ++ leInt 2 10000 ++ zeros 4 ++ le 4 0x30420 ++ zeros 80

/-- The configuration of the example: I_LIMIT 3700, both biquads off. -/
def exampleLaw : Cfg := { fac := .reset, store := put (put [] Id.I_LIMIT (le 2 3700)) Id.GAIN_TABLE exampleGains }

/-- A sample with nothing marked. -/
def plainSample : Sample :=
  { index := 0, frame := 0, column := some 0, sub := 0, fallback := false, stall := false, overtravel := false, inWindow := true, overload := false,
    invalid := false, unsettled := false, offset := 0, at_ := 0, psdA := 0, psdB := 0, iCoil := 0, vCoil := 0, x := 0, angle := 0 }

/-- Chapter 10, "a gain-region crossing with a clamped preload": the last sample in set 4 puts out 3802. -/
theorem test_law : ((({ Engine.reset with i := 120000000, efPrev := 2 } : Engine).law exampleLaw plainSample 4 31 0 48 false).1.outLast,
    (({ Engine.reset with i := 120000000, efPrev := 2 } : Engine).law exampleLaw plainSample 4 31 0 48 false).1.i) = (3802, 120003600) := by
  decide +kernel

/-- The same example: the switch sample in set 7 clamps i, leaves rho 25 and still puts out 3802; the next addition is 25. -/
theorem test_handover : (fun e : Engine => (e.rho, e.i, e.outLast)) (({ Engine.reset with uPrev := 3802, efPrev := 3 } : Engine).law exampleLaw
    plainSample 7 31 0 64 true).1 = (25, 121241600, 3802) := by decide +kernel

/-- Chapter 16, "a commit at the requirement": 64.0 mJ at 20.99 V and 80.0 mJ at 22.93 V with 376 µF. -/
theorem test_hold_up : (State.holdupEnergy { State.reset with flash := { Flash.reset with capacitance := 376, holdupMv := 20990 } },
    State.holdupEnergy { State.reset with flash := { Flash.reset with capacitance := 376, holdupMv := 22930 } }) = (64, 80) := by decide +kernel

/-- Chapter 15: t_exp, the mean offset and t_zp of the trace, the zero and the scale of the field ticket, and the rejected pair. -/
theorem test_calibration : targetTime 20000 = 68334 ∧
    (judgePair 200 5 (.target (-308) 1520) (.target (-307) 1522)).value = some (.target (-307) 1521) ∧
    (judgePair 200 5 (.zero 1241 1548) (.zero 1244 1551)).value = some (.zero 1243 1550) ∧
    (judgePair 200 5 (.scale 429514 38) (.scale 429507 45)).value = some (.scale 429511 42) ∧
    (judgePair 200 5 (.zero 1241 1548) (.zero 1263 1570)) = ⟨none, 1, 644⟩ := by decide +kernel

/-- Chapter 06, "a sunlit sky band": 96,467 events of 32 channels in 47,103 ns make 2000 kcps per SPAD. -/
theorem test_lambda : (bandLambda true 32 96467 47103 0 0xFFFFFFFF).map (·.floor) = some 2000 := by decide +kernel

/-- Chapter 05, "a refused plan": one pattern of 64 slots, every entry 0xFFFF_78C0. -/
def widePlan : Bytes := [0, 0, 0, 2, 1, 64] ++ zeros 58 ++ zeros 1216 ++ (rep 64 (le 4 0xFFFF78C0)).flatten

/-- The same example: a column costs 64 × 7200 nJ, the largest V_req is 130 V and V_auto 136 V. -/
theorem test_plan_energy : planColumnEnergy .reset 0 widePlan 0 = 460800 ∧ planVReq2 .reset 0 widePlan = 260000 ∧
    planVAuto .reset 0 widePlan = 136 := by decide +kernel

end Sys2Proof.Tests
end

