-- ==== Sys2Proof/Proofs/Totality.lean ====
section
/-! PROOFS. Every command ends in a next state, and none touches the queue, the factory values or, backwards, the clock. -/

namespace Sys2Proof.Machine

open Sys2Proof

/-- A command that answers u, where u keeps what the clock's move to t leaves. -/
theorem next_of_kept {t : Time} {s u : State} (h : u.kept = (s.at t).kept) :
    ∃ t v, (Host.Outcome.next u : Host.Outcome State Fault Refusal) = .next v ∧ v.kept = (s.at t).kept := ⟨t, u, rfl, h⟩

/-- An event of the surroundings keeps the queue and the factory values, and moves the clock to its instant. -/
theorem exec_event_kept (c : Instr) (s : State) (hc : hostMessage c = none) :
    ∃ t u, exec c s = .next u ∧ u.kept = (s.at t).kept := by
  cases c with
  | sessionIdleTimeout => exact next_of_kept (held_kept (held_doSessionIdleTimeout ..))
  | notify => exact next_of_kept (held_kept (held_doNotify ..))
  | lockEqualizationDone => exact next_of_kept (kept_doLockEqualizationDone ..)
  | lockTimeout => exact next_of_kept (held_kept (held_doLockTimeout ..))
  | lockIdleFlip => exact next_of_kept (held_kept (held_doLockIdleFlip ..))
  | frameBoundary => exact next_of_kept (held_kept (held_doFrameBoundary ..))
  | columnTick => exact next_of_kept (held_kept (held_doColumnTick ..))
  | slotDecision => exact next_of_kept (held_kept (held_doSlotDecision ..))
  | fsyncEdge => exact next_of_kept (held_kept (held_doFsyncEdge ..))
  | fsyncLull => exact next_of_kept (held_kept (held_doFsyncLull ..))
  | cameraVirtualEdge => exact next_of_kept (held_kept (held_doCameraVirtualEdge ..))
  | emitTrip => exact next_of_kept (held_kept (held_doEmitTrip ..))
  | bankFaultTimeout => exact next_of_kept (held_kept (held_doBankFaultTimeout ..))
  | bankOvervoltage => exact next_of_kept (held_kept (held_doBankOvervoltage ..))
  | barTest => exact next_of_kept (held_kept (held_doBarTest ..))
  | barFullTest => exact next_of_kept (held_kept (held_doBarFullTest ..))
  | stop => exact next_of_kept (held_kept (held_doStop ..))
  | biasUpdate => exact next_of_kept (held_kept (held_doBiasUpdate ..))
  | pllUnlock => exact next_of_kept (held_kept (held_doPllUnlock ..))
  | bandTest => exact next_of_kept (held_kept (held_doBandTest ..))
  | tinEdge => exact next_of_kept (held_kept (held_doTinEdge ..))
  | gateEdge => exact next_of_kept (held_kept (held_doGateEdge ..))
  | tinRecordCloseIdle => exact next_of_kept (held_kept (held_doTinRecordCloseIdle ..))
  | tinRecordDelivery => exact next_of_kept (held_kept (held_doTinRecordDelivery ..))
  | refinEdge => exact next_of_kept (held_kept (held_doRefinEdge ..))
  | refinAbsent => exact next_of_kept (held_kept (held_doRefinAbsent ..))
  | laneColumnDone => exact next_of_kept (held_kept (held_doLaneColumnDone ..))
  | compareVerdict => exact next_of_kept (kept_doCompareVerdict ..)
  | laneReport => exact next_of_kept (kept_doLaneReport ..)
  | leaseRenew => exact next_of_kept (held_kept (held_doLeaseRenew ..))
  | leaseExpiry => exact next_of_kept (kept_doLeaseExpiry ..)
  | yield => exact next_of_kept (kept_doYield ..)
  | leaseConfirmTimeout => exact next_of_kept (held_kept (held_doLeaseConfirmTimeout ..))
  | fatalLaneFault => exact next_of_kept (kept_doFatalLaneFault ..)
  | laneWatchdogExpiry => exact next_of_kept (kept_doLaneWatchdogExpiry ..)
  | lanePreferredTimeout => exact next_of_kept (held_kept (held_doLanePreferredTimeout ..))
  | linkLost => exact next_of_kept (held_kept (held_doLinkLost ..))
  | towpathPendingTimeout => exact next_of_kept (held_kept (held_doTowpathPendingTimeout ..))
  | towpathGraceExpiry => exact next_of_kept (held_kept (held_doTowpathGraceExpiry ..))
  | towpathUp => exact next_of_kept (held_kept (held_doTowpathUp ..))
  | selftestResult => exact next_of_kept (kept_doSelftestResult ..)
  | rejoinAutoStart => exact next_of_kept (held_kept (held_doRejoinAutoStart ..))
  | rejoinCopyDone => exact next_of_kept (held_kept (held_doRejoinCopyDone ..))
  | rejoinSnapshot => exact next_of_kept (held_kept (held_doRejoinSnapshot ..))
  | controlSample => exact next_of_kept (held_kept (held_doControlSample ..))
  | homingFailed => exact next_of_kept (held_kept (held_doHomingFailed ..))
  | coilTrip => exact next_of_kept (held_kept (held_doCoilTrip ..))
  | parkRampDone => exact next_of_kept (held_kept (held_doParkRampDone ..))
  | wireBreakCheck => exact next_of_kept (held_kept (held_doWireBreakCheck ..))
  | ledOpen => exact next_of_kept (held_kept (held_doLedOpen ..))
  | hkResult => exact next_of_kept (held_kept (held_doHkResult ..))
  | hkCalDone => exact next_of_kept (held_kept (held_doHkCalDone ..))
  | captureTrigger => exact next_of_kept (held_kept (held_doCaptureTrigger ..))
  | datagramSent => exact next_of_kept (held_kept (held_doDatagramSent ..))
  | marksSend => exact next_of_kept (held_kept (held_doMarksSend ..))
  | linkUp => exact next_of_kept (held_kept (held_doLinkUp ..))
  | linkDown => exact next_of_kept (held_kept (held_doLinkDown ..))
  | gptpSynced => exact next_of_kept (held_kept (held_doGptpSynced ..))
  | gptpLost => exact next_of_kept (held_kept (held_doGptpLost ..))
  | canBusOff => exact next_of_kept (held_kept (held_doCanBusOff ..))
  | canRecovered => exact next_of_kept (held_kept (held_doCanRecovered ..))
  | busFrame => exact next_of_kept (held_kept (held_doBusFrame ..))
  | busTriggerMessage => exact next_of_kept (held_kept (held_doBusTriggerMessage ..))
  | busProbe => exact next_of_kept (held_kept (held_doBusProbe ..))
  | busReply => exact next_of_kept (held_kept (held_doBusReply ..))
  | busAnnounce => exact next_of_kept (held_kept (held_doBusAnnounce ..))
  | busWindow => exact next_of_kept (held_kept (held_doBusWindow ..))
  | busClockAdopt => exact next_of_kept (held_kept (held_doBusClockAdopt ..))
  | busClockLost => exact next_of_kept (held_kept (held_doBusClockLost ..))
  | busFrameSilence => exact next_of_kept (held_kept (held_doBusFrameSilence ..))
  | entryRecheck => exact next_of_kept (held_kept (held_doEntryRecheck ..))
  | entryTimeout => exact next_of_kept (held_kept (held_doEntryTimeout ..))
  | entryStepDone => exact next_of_kept (held_kept (held_doEntryStepDone ..))
  | wakePin => exact next_of_kept (held_kept (held_doWakePin ..))
  | wakePinLow => exact next_of_kept (held_kept (held_doWakePinLow ..))
  | canWakeFrame => exact next_of_kept (held_kept (held_doCanWakeFrame ..))
  | dozeSleepAfter => exact next_of_kept (held_kept (held_doDozeSleepAfter ..))
  | wakeDone => exact next_of_kept (kept_doWakeDone ..)
  | domainPowerGoodFail => exact next_of_kept (kept_doDomainPowerGoodFail ..)
  | xtalFallback => exact next_of_kept (held_kept (held_doXtalFallback ..))
  | aoWatchdogExpiry => exact next_of_kept (kept_doAoWatchdogExpiry ..)
  | crossingNoResponse => exact next_of_kept (kept_doCrossingNoResponse ..)
  | vinStartRise => exact next_of_kept (kept_doVinStartRise ..)
  | vinLow => exact next_of_kept (held_kept (held_doVinLow ..))
  | vinResumeRise => exact next_of_kept (held_kept (held_doVinResumeRise ..))
  | vinHigh => exact next_of_kept (held_kept (held_doVinHigh ..))
  | inputSwitchClose => exact next_of_kept (held_kept (held_doInputSwitchClose ..))
  | holdupExhausted => exact next_of_kept (held_kept (held_doHoldupExhausted ..))
  | vinShutdownFall => exact next_of_kept (held_kept (held_doVinShutdownFall ..))
  | thermalUpdate => exact next_of_kept (held_kept (held_doThermalUpdate ..))
  | thermalForcedDoze => exact next_of_kept (held_kept (held_doThermalForcedDoze ..))
  | thermalRestart => exact next_of_kept (held_kept (held_doThermalRestart ..))
  | xtalComp => exact next_of_kept (held_kept (held_doXtalComp ..))
  | calRunDone => exact next_of_kept (held_kept (held_doCalRunDone ..))
  | calTicketLimit => exact next_of_kept (held_kept (held_doCalTicketLimit ..))
  | calStoreRetry => exact next_of_kept (held_kept (held_doCalStoreRetry ..))
  | flashGroupDone => exact next_of_kept (kept_doFlashGroupDone ..)
  | flashGroupStart => exact next_of_kept (held_kept (held_doFlashGroupStart ..))
  | flashWaitTimeout => exact next_of_kept (held_kept (held_doFlashWaitTimeout ..))
  | scrub => exact next_of_kept (held_kept (held_doScrub ..))
  | wearMove => exact next_of_kept (held_kept (held_doWearMove ..))
  | versionConfirmTimeout => exact next_of_kept (kept_doVersionConfirmTimeout ..)
  | recorderCopy => exact next_of_kept (held_kept (held_doRecorderCopy ..))
  | backoffEnd => exact next_of_kept (held_kept (held_doBackoffEnd ..))
  | laneReady => exact next_of_kept (held_kept (held_doLaneReady ..))
  | bankReady => exact next_of_kept (held_kept (held_doBankReady ..))
  | pllRelock => exact next_of_kept (held_kept (held_doPllRelock ..))
  | fwImageCheckDone => exact next_of_kept (kept_doFwImageCheckDone ..)
  | _ => cases hc

/-- So does a message of a host. -/
theorem exec_kept (c : Instr) (s : State) : ∃ t u, exec c s = .next u ∧ u.kept = (s.at t).kept := by
  cases hc : hostMessage c with
  | none => exact exec_event_kept c s hc
  | some m => exact ⟨m.1, _, hostMessage_exec c s hc, kept_doRequest ..⟩

/-- Settles O2: exec has no arm that stops, and each keeps `State.kept` from the state in which its clock has moved. -/
theorem everyCommandAnswersANextState : Obligations.EveryCommandAnswersANextState := by
  unfold Obligations.EveryCommandAnswersANextState
  intro c s
  obtain ⟨t, u, hu, hk⟩ := exec_kept c s
  obtain ⟨hpending, hnow, hfac⟩ : u.pending = s.pending ∧ u.now = max s.now t ∧ u.fac = s.fac := by
    simpa [State.kept] using hk
  exact ⟨u, hu, hpending, hfac, hnow ▸ Nat.le_max_left s.now t⟩

end Sys2Proof.Machine
end

