-- ==== Sys2Proof/Proofs/Writes.lean ====
section
/-! PROOFS. Requests that a check of R7 stops, and what a WRITE of an object does by its access code. -/

namespace Sys2Proof.Machine

open Sys2Proof

/-! ### Requests that fail a check (R7) -/

/-- Accepting a message and answering it leave everything alone but what Quiet names. -/
theorem answered_quiet {s s2 : State} {t : Time} {svc : Nat} {h : Hdr} {p : Bytes} {r : Rcvd}
    (hr : (s.at t).reaches svc h p = some (s2, r)) (k : Hdr) (svc' flags : Nat) (q : Bytes) : Quiet s (s2.answer k svc' flags q) :=
  (State.at_quiet s t).trans ((reaches_quiet hr).trans (State.answer_quiet ..))

/-- A check of step 1 or 2 that fails is the answer. -/
theorem State.serve_fails {s : State} {svc : Nat} {r : Rcvd} {a : Abort}
    (ha : addressing svc r = some a ∨ (addressing svc r = none ∧ s.admission svc r = some a)) : s.serve svc r = s.no a := by
  unfold State.serve
  rcases ha with h1 | ⟨h1, h2⟩
  · simp only [h1]
  · simp only [h1, h2]

/-- A check of steps 2 to 9 that fails is what a WRITE answers. -/
theorem State.writeObject_fails {s : State} {h : Hdr} {svc : Nat} {x : Session} {o : Obj} {v : Bytes} {a : Abort}
    (ha : s.writeCheck x o v = some a ∨
      (s.writeCheck x o v = none ∧ o.tooLong v.length = true ∧ a = .lengthLimit) ∨
      (s.writeCheck x o v = none ∧ o.tooLong v.length = false ∧ s.writeDomain h o v = .no a) ∨
      (∃ fl w, s.writeCheck x o v = none ∧ o.tooLong v.length = false ∧ s.writeDomain h o v = .value fl w ∧
        ((o.sizeOk v.length = false ∧ a = .typeMismatch) ∨ (o.sizeOk v.length = true ∧ s.valueCheck x o v = some a)))) :
    s.writeObject h svc x o v = s.no a := by
  unfold State.writeObject State.writeValue
  rcases ha with hc | ⟨hc, hl, rfl⟩ | ⟨hc, hl, hd⟩ | ⟨fl, w, hc, hl, hd, ⟨hs, rfl⟩ | ⟨hs, hv⟩⟩
  · simp only [hc]
  · simp [hc, hl]
  · simp [hc, hl, hd]
  · simp [hc, hl, hd, hs]
  · simp [hc, hl, hd, hs, hv]

/-- A WRITE that reaches its object past steps 1 and 2 is served by writeObject. -/
theorem ReachesIn.service_write {s : State} {t : Time} {id : Nat} {h : Hdr} {v : Bytes} {s2 : State} {r : Rcvd} {x : Session} {o : Obj}
    (H : ReachesIn s t 0x11 h (writePayload id v) s2 r x) (ho : lookup id = some o) (hid : id < 256 ^ 3) :
    s2.service 0x11 r = s2.writeObject r.h 0x11 x o v := by
  have hname : indexIn 0x11 (writePayload id v) * 256 + subIn 0x11 (writePayload id v) = id := by
    rw [writePayload_index id v hid, writePayload_sub, Nat.div_add_mod']
  simp [State.service, H.session, State.inSession, State.objectService, hname, ho, H.whole, writePayload_value]

/-- Settles O12: the first failing check is what `serve` and `writeObject` answer, in the state that acceptance left. -/
theorem checksAbortAtTheFirstFailure : Obligations.ChecksAbortAtTheFirstFailure := by
  unfold Obligations.ChecksAbortAtTheFirstFailure
  constructor
  · intro c s t svc h p s2 r a hc hr ha
    refine ⟨_, hostMessage_exec c s hc, ?_⟩
    unfold doRequest
    rw [State.request_reaches hr, State.process_abort (State.serve_fails ha)]
    exact ⟨answered_quiet hr .., State.answer_answered ..⟩
  · intro s t h id v s2 r x o a H ho hid ha
    refine ⟨_, rfl, ?_⟩
    rw [H.toReaches.runs, H.service_write ho hid, State.writeObject_fails ha, writePayload_index id v hid, writePayload_sub]
    exact ⟨answered_quiet H.heard .., State.answer_answered ..⟩

/-! ### What a WRITE does (R6, R9, R72) -/


/-- The configuration reads back what a WRITE of another value than the default put there, and nothing else moved. -/
theorem putCfg_bytes {f : Factory} {st : Store} {id : Nat} {v : Bytes} (hv : v ≠ defaultOf f id) :
    (Cfg.mk f (putCfg f st id v)).bytes id = v ∧ ∀ j, j ≠ id → (Cfg.mk f (putCfg f st id v)).bytes j = (Cfg.mk f st).bytes j := by
  unfold putCfg Cfg.bytes
  rw [if_neg hv]
  exact ⟨by simp [find_put_same], fun j hj => by simp [find_put_other _ _ _ _ hj]⟩

/-- Clearing a counter touches the counters alone. -/
theorem State.clearCounter_quiet (s : State) (id : Nat) : Quiet s (s.clearCounter id) := { Quiet.refl s with }

/-- A cleared counter keeps what its own clock cycle has counted (R9). -/
theorem State.clearCounter_counter (s : State) (id : Nat) : (s.clearCounter id).counter id = match find? s.evt.incs id with
    | some (c, k) => if c = counterCycle id s.now then k else 0
    | none => 0 := by
  unfold State.clearCounter State.counter natAt
  simp only [find_put_same]
  rfl

/-- A value fits the staging of an open Lock. -/
theorem State.stage_takes (s : State) {x : Session} {o : Obj} {v : Bytes} (hp : x.lock.phase = .opened ∨ x.lock.phase = .staged)
    (hn : (put x.lock.staged o.id v).length ≤ 1024) (hb : sumNat ((put x.lock.staged o.id v).map fun q => q.2.length) ≤ 262144) :
    s.stage x o v = (s.modSession x.transport x.num fun y =>
      { y with lock := { y.lock with phase := .staged, staged := put x.lock.staged o.id v } }, .ok 0x10 []) := by
  unfold State.stage
  have hfits : ¬ (1024 < (put x.lock.staged o.id v).length ∨
      262144 < sumNat ((put x.lock.staged o.id v).map fun q => q.2.length)) := by omega
  rcases hp with hp | hp <;> simp only [hp, if_neg hfits]

/-- A WRITE that its object takes is answered in the state that the object's access code makes. -/
theorem Takes.write_runs {s : State} {t : Time} {id : Nat} {h : Hdr} {v : Bytes} {s2 : State} {r : Rcvd} {x : Session} {o : Obj}
    {fl : Nat} (H : Takes s t id h v s2 r x o fl) (hid : id < 256 ^ 3) : exec (.write t h (writePayload id v)) s = .next
      ((s2.apply r.h 0x11 x o v fl).1.respond r.h 0x11 (id / 256) (id % 256) (s2.apply r.h 0x11 x o v fl).2) :=
  congrArg _ (H.runs hid)

/-- Acceptance moves the clock to the command's instant, and touches neither counters nor the ring. -/
theorem reaches_now_evt {s s2 : State} {svc : Nat} {h : Hdr} {p : Bytes} {r : Rcvd} (hr : s.reaches svc h p = some (s2, r)) :
    s2.now = s.now ∧ s2.evt = s.evt := by
  unfold State.reaches at hr
  split at hr
  · cases hr
  · split at hr
    · cases hr; exact ⟨rfl, rfl⟩
    · split at hr
      · cases hr
      · simp only at hr
        split at hr
        · cases hr; exact ⟨rfl, rfl⟩
        · cases hr

/-- A request in a session has a session number. -/
theorem ReachesIn.session_ne_zero {s : State} {t : Time} {svc : Nat} {h : Hdr} {p : Bytes} {s2 : State} {r : Rcvd} {x : Session}
    (H : ReachesIn s t svc h p s2 r x) (hsvc : svc ≠ 0x01 ∧ svc ≠ 0x02 ∧ svc ≠ 0x03) : r.h.session ≠ 0 := by
  intro h0
  have ha := H.admitted
  unfold State.admission at ha
  simp only [hsvc, h0, or_self, ne_eq, not_true_eq_false, if_false] at ha
  split at ha <;> cases ha

/-- Settles O17: `State.apply` by access code, then the answer, which keeps the configuration, the counters and the session's Lock. -/
theorem writesTakeEffectByAccessCode : Obligations.WritesTakeEffectByAccessCode := by
  unfold Obligations.WritesTakeEffectByAccessCode
  intro t h id v s s2 r x o fl H hid hoid
  have hq : Quiet s s2 := (State.at_quiet s t).trans (reaches_quiet H.heard)
  have hrun := H.write_runs hid
  unfold State.apply at hrun
  rw [H.served] at hrun
  refine ⟨fun hacc hkind => ?_, fun hacc hkind => ?_, fun hacc hl hp hn hb => ?_⟩
  · simp only [Bool.false_eq_true, if_false, hacc, hkind, State.respond, hoid] at hrun
    refine ⟨_, hrun, by simp [hq.cfg, hq.fac], fun hv => ?_, State.answer_answered ..⟩
    simpa [State.conf, hq.cfg, hq.fac] using putCfg_bytes hv
  · simp only [Bool.false_eq_true, if_false, hacc, hkind, State.respond, hoid] at hrun
    refine ⟨_, hrun, hq.trans ((State.clearCounter_quiet ..).trans (State.answer_quiet ..)), State.answer_answered .., fun hne => ?_⟩
    obtain ⟨hnow, hevt⟩ := reaches_now_evt H.heard
    rw [State.answer_counter _ _ _ _ _ _ hne, State.clearCounter_counter, hevt, hnow]
    rfl
  · obtain ⟨htr, hnum⟩ := State.session_spec H.session
    rw [← hoid] at hn hb
    simp only [Bool.false_eq_true, if_false, hacc, s2.stage_takes hp hn hb, State.respond, htr, hnum, hoid] at hrun
    have hy := State.modSession_same H.session (fun y => { y with lock := { y.lock with phase := .staged, staged := put x.lock.staged id v } })
      (fun _ => ⟨rfl, rfl⟩)
    obtain ⟨b, hb⟩ := State.answer_session (H.toReachesIn.session_ne_zero (by decide)) hy hl 0x11 0x90 []
    exact ⟨_, _, hrun, hq.trans ((State.modSession_quiet ..).trans (State.answer_quiet ..)), State.answer_answered .., hb, rfl⟩

end Sys2Proof.Machine
end

