-- ==== Sys2Proof/Proofs/Frames.lean ====
section
/-! PROOFS. Frames: `Within l s u` says that from s to u only the parts listed in l may have moved, beside what Quiet leaves open. The
frame of a function is proved once, from those of the functions it calls; the frame of a command is composed from them. -/

namespace Sys2Proof.Machine

open Sys2Proof

/-! ### The relation -/

/-- A part of the state is as before, as Quiet compares it. -/
def Part.same (s u : State) : Part → Prop
  | .cfg => u.cfg = s.cfg
  | .net => u.net = s.net
  | .scan => u.scan = s.scan
  | .emit => u.emit = s.emit
  | .rx => u.rx = s.rx
  | .tin => u.tin = s.tin
  | .bus => u.bus = s.bus
  | .front => u.front = s.front
  | .hka => u.hka = s.hka
  | .coil => u.coil = s.coil
  | .laneA => u.laneA = s.laneA
  | .laneB => u.laneB = s.laneB
  | .arb => u.arb = s.arb
  | .echo => u.echo = s.echo
  | .cap => { u.cap with offers := [] } = { s.cap with offers := [] }
  | .stream => { u.stream with subs := [] } = { s.stream with subs := [] }
  | .pwr => u.pwr = s.pwr
  | .therm => u.therm = s.therm
  | .cal => u.cal = s.cal
  | .flash => { u.flash with checking := none, running := none, queue := [] } =
    { s.flash with checking := none, running := none, queue := [] }
  | .sec => u.sec = s.sec

/-- Only the listed parts may have moved, beside what Quiet leaves open. -/
structure Within (l : List Part) (s u : State) : Prop where
  pending : u.pending = s.pending
  fac : u.fac = s.fac
  part : ∀ p, p ∉ l → p.same s u

theorem Part.same_refl (s : State) (p : Part) : p.same s s := by cases p <;> rfl

theorem Part.same_trans {s u v : State} {p : Part} (h : p.same s u) (k : p.same u v) : p.same s v := by
  cases p <;> exact Eq.trans k h

/-- What is quiet moves no part. -/
theorem Quiet.within {s u : State} (h : Quiet s u) : Within [] s u where
  pending := h.pending
  fac := h.fac
  part p _ := match p with
    | .cfg => h.cfg
    | .net => h.net
    | .scan => h.scan
    | .emit => h.emit
    | .rx => h.rx
    | .tin => h.tin
    | .bus => h.bus
    | .front => h.front
    | .hka => h.hka
    | .coil => h.coil
    | .laneA => h.laneA
    | .laneB => h.laneB
    | .arb => h.arb
    | .echo => h.echo
    | .cap => h.cap
    | .stream => h.stream
    | .pwr => h.pwr
    | .therm => h.therm
    | .cal => h.cal
    | .flash => h.flash
    | .sec => h.sec

theorem eq_ite_of_not {α β : Type} (f : α → β) {c : Prop} [Decidable c] {a b : α} (h : ¬ c → f a = f b) :
    f a = f (if c then a else b) := by
  split
  · rfl
  · exact h ‹_›

/-- The frame as the statements write it. -/
theorem Within.quiet {l : List Part} {s u : State} (h : Within l s u) : Quiet (s.overlay u l) u where
  pending := h.pending
  fac := h.fac
  cfg := eq_ite_of_not id (h.part .cfg)
  net := eq_ite_of_not id (h.part .net)
  scan := eq_ite_of_not id (h.part .scan)
  emit := eq_ite_of_not id (h.part .emit)
  rx := eq_ite_of_not id (h.part .rx)
  tin := eq_ite_of_not id (h.part .tin)
  bus := eq_ite_of_not id (h.part .bus)
  front := eq_ite_of_not id (h.part .front)
  hka := eq_ite_of_not id (h.part .hka)
  coil := eq_ite_of_not id (h.part .coil)
  laneA := eq_ite_of_not id (h.part .laneA)
  laneB := eq_ite_of_not id (h.part .laneB)
  arb := eq_ite_of_not id (h.part .arb)
  echo := eq_ite_of_not id (h.part .echo)
  cap := eq_ite_of_not (fun x : Cap => { x with offers := [] }) (h.part .cap)
  stream := eq_ite_of_not (fun x : Stream => { x with subs := [] }) (h.part .stream)
  pwr := eq_ite_of_not id (h.part .pwr)
  therm := eq_ite_of_not id (h.part .therm)
  cal := eq_ite_of_not id (h.part .cal)
  flash := eq_ite_of_not (fun x : Flash => { x with checking := none, running := none, queue := [] }) (h.part .flash)
  sec := eq_ite_of_not id (h.part .sec)

theorem Within.refl (s : State) : Within [] s s := (Quiet.refl s).within

/-- One step after another. -/
theorem Within.seq {l m : List Part} {s u v : State} (h : Within l s u) (k : Within m u v) : Within (l ++ m) s v where
  pending := k.pending.trans h.pending
  fac := k.fac.trans h.fac
  part p hp := Part.same_trans (h.part p fun e => hp (List.mem_append_left m e)) (k.part p fun e => hp (List.mem_append_right l e))

/-- A step with a frame, then one that is quiet. -/
theorem Within.then {l : List Part} {s u v : State} (h : Within l s u) (k : Quiet u v) : Within l s v where
  pending := k.pending.trans h.pending
  fac := k.fac.trans h.fac
  part p hp := Part.same_trans (h.part p hp) (k.within.part p (List.not_mem_nil))

/-- A longer list allows more. -/
theorem Within.mono {l m : List Part} {s u : State} (h : Within l s u) (hlm : l ⊆ m) : Within m s u where
  pending := h.pending
  fac := h.fac
  part p hp := h.part p fun e => hp (hlm e)

theorem Within.unchanged (l : List Part) (s : State) : Within l s s := (Within.refl s).mono (List.nil_subset l)

/-- The same for lists written out. -/
theorem Within.up {l m : List Part} {s u : State} (h : Within l s u) (hlm : l.all m.contains = true) : Within m s u :=
  h.mono fun p hp => List.contains_iff_mem.mp (List.all_eq_true.mp hlm p hp)

theorem Within.ite {l m : List Part} {s a b : State} {c : Prop} [Decidable c] (h : Within l s a) (k : Within m s b) :
    Within (l ++ m) s (if c then a else b) := by
  split
  · exact h.mono (List.subset_append_left l m)
  · exact k.mono (List.subset_append_right l m)

/-- A step that is taken or not. -/
theorem Within.when {l : List Part} {s u : State} {c : Prop} [Decidable c] (h : Within l s u) : Within l s (if c then u else s) := by
  split
  · exact h
  · exact .unchanged ..

/-- The same step for each entry of a list. -/
theorem Within.foldl {α : Type} {l : List Part} {f : State → α → State} (h : ∀ y a, Within l y (f y a)) (as : List α) (s : State) :
    Within l s (as.foldl f s) := by
  induction as generalizing s with
  | nil => exact .unchanged ..
  | cons a as ih => exact ((h s a).seq (ih (f s a))).mono (by simp)

/-- A record update of the listed parts. -/
theorem Within.update (l : List Part) {s u : State} (h : s.overlay u l = u) : Within l s u := by
  rw [← h]
  exact ⟨rfl, rfl, fun p hp => by cases p <;> simp [Part.same, State.overlay, hp]⟩

/-! ### Trips and the bank -/

theorem State.tripClear_within (s : State) (b : Nat) : Within [.emit] s (s.tripClear b) := .update _ (by rfl)

theorem State.tripSet_within (s : State) (b : Nat) : Within [.emit] s (s.tripSet b) := by
  unfold State.tripSet
  extract_lets _ e _
  split
  · exact .unchanged ..
  · exact (Within.update [.emit] (by rfl)).then ((State.count_quiet ..).trans (State.raise_quiet ..))

theorem State.trip_within (s : State) (b : Nat) (level : Bool) : Within [.emit] s (s.trip b level) :=
  ((State.tripSet_within ..).ite (State.tripClear_within ..)).up (by rfl)

theorem State.bankDischarge_within (s : State) : Within [.emit] s s.bankDischarge := .update _ (by rfl)

theorem State.emitAdvance_within (s : State) : Within [.emit] s s.emitAdvance := by
  unfold State.emitAdvance
  split
  · exact ((Within.update [.emit] (by rfl)).ite ((Within.update [.emit] (by rfl)).ite (Within.update [.emit] (by rfl)))).up (by rfl)
  · exact .unchanged ..

theorem State.bankRetarget_within (s : State) : Within [.emit] s s.bankRetarget :=
  ((Within.refl s).ite (Within.update [.emit] (by rfl))).up (by rfl)

theorem emitStopAction_within (s : State) : Within [.emit] s (emitStopAction s) :=
  ((State.tripSet_within ..).seq (State.tripClear_within ..)).up (by rfl)

theorem emitClearAction_within (m : Nat) (s : State) : Within [.emit] s (emitClearAction m s) :=
  ((Within.update [.emit] (by rfl)).seq (State.emitAdvance_within _)).up (by rfl)

theorem State.restoreBars_within (s : State) (counted : BitVec 16) : Within [.emit] s (s.restoreBars counted) := by
  unfold State.restoreBars
  extract_lets g retired done _ s1
  split
  · exact .unchanged ..
  · exact ((Within.update [.emit] (by rfl)).seq (Within.foldl (fun y k => (State.raise_quiet ..).within) done s1)).up (by rfl)

theorem State.keepCap_within (s : State) (r : CapResult) : Within [.emit] s (s.keepCap r) := .update _ (by rfl)

/-! ### Domains and bands -/

theorem State.setDom_within (s : State) (d : Nat) (v : DomState) : Within [.pwr] s (s.setDom d v) := .update _ (by rfl)

theorem State.modBand_within (s : State) (b : Nat) (f : Band → Band) : Within [.rx] s (s.modBand b f) := .update _ (by rfl)

theorem State.biasFlip_within (s : State) : Within [.rx] s s.biasFlip := Within.foldl (fun _ _ => State.modBand_within ..) _ s

theorem State.coincFlip_within (s : State) : Within [.rx] s s.coincFlip := .update _ (by rfl)

theorem State.refreshBand_within (s : State) (b : Nat) : Within [.rx] s (s.refreshBand b) := by
  unfold State.refreshBand
  extract_lets n
  split
  · exact ((Within.refl s).ite ((State.modBand_within ..).then (State.raise_quiet ..))).up (by rfl)
  · exact ((State.modBand_within ..).ite (Within.refl s)).up (by rfl)
  · exact .unchanged ..
  · exact .unchanged ..

theorem State.refreshBands_within (s : State) : Within [.rx] s s.refreshBands := Within.foldl State.refreshBand_within _ s

theorem channelUnmaskAction_within (value : Nat) (k : U32) (s : State) : Within [.rx] s (channelUnmaskAction value k s) := by
  unfold channelUnmaskAction
  extract_lets rows u s1
  split
  · exact ((State.dequeue_quiet ..).trans (State.raise_quiet ..)).within.up (by rfl)
  · exact (Within.seq (u := s1) (Within.foldl (fun _ _ => State.modBand_within ..) _ s) (.update [.rx] (by rfl))).up (by rfl)

theorem bandRestartAction_within (b : Nat) (k : U32) (s : State) : Within [.rx, .pwr] s (bandRestartAction b k s) :=
  ((Within.update [.pwr] (by rfl)).seq (State.modBand_within ..)).up (by rfl)

theorem State.shotUp_within (s : State) : Within [.scan, .emit] s s.shotUp := .update _ (by rfl)

theorem State.hkaUp_within (s : State) : Within [.hka, .therm] s s.hkaUp := .update _ (by rfl)

theorem State.tinWake_within (s : State) : Within [.tin] s s.tinWake := .update _ (by rfl)

theorem State.fsyncWake_within (s : State) : Within [.scan] s s.fsyncWake := .update _ (by rfl)

theorem State.busWake_within (s : State) : Within [.bus] s s.busWake := .update _ (by rfl)

/-- The parts that switching a domain on may write. -/
def domOnParts : List Part := [.net, .scan, .emit, .rx, .tin, .bus, .front, .hka, .coil, .pwr, .therm]

theorem State.domOn_within (s : State) (d : Nat) : Within domOnParts s (s.domOn d) := by
  unfold State.domOn
  split
  · exact .unchanged ..
  · exact .unchanged ..
  · exact (State.setDom_within ..).up (by rfl)
  · extract_lets s1 _ s2
    have timx : Within [.tin, .scan, .bus] s2 s2.tinWake.fsyncWake.busWake :=
      ((State.tinWake_within _).seq ((State.fsyncWake_within _).seq (State.busWake_within _))).up (by rfl)
    exact (Within.seq (u := s2) (.update [.pwr] (by rfl)) ((Within.update [.net] (by rfl)).ite ((Within.update [.net] (by rfl)).ite
      ((State.shotUp_within _).ite ((Within.update [.coil] (by rfl)).ite ((Within.update [.front] (by rfl)).ite ((State.hkaUp_within _).ite
        (timx.ite ((State.modBand_within ..).ite (Within.refl _)))))))))).up (by rfl)

theorem State.domsOn_within (s : State) (l : List Nat) : Within domOnParts s (s.domsOn l) := Within.foldl State.domOn_within l s

end Sys2Proof.Machine
end

