-- ==== Sys2Proof/Proofs/LaneFrames.lean ====
section
/-! PROOFS. Frames of the lanes, their engines and the coil, of the capture and of the streams. -/

namespace Sys2Proof.Machine

open Sys2Proof

/-! ### Lanes, engines and the coil -/

theorem State.setLane_within (s : State) (l : LaneId) (x : Lane) : Within [.laneA, .laneB] s (s.setLane l x) := by
  cases l with
  | a => exact (Within.update [.laneA] (by rfl)).up (by rfl)
  | b => exact (Within.update [.laneB] (by rfl)).up (by rfl)

theorem State.modLane_within (s : State) (l : LaneId) (f : Lane → Lane) : Within [.laneA, .laneB] s (s.modLane l f) :=
  State.setLane_within ..

theorem State.noteRedundancy_within (s : State) : Within [.arb] s s.noteRedundancy := .when (.update _ (by rfl))

theorem State.setLaneState_within (s : State) (l : LaneId) (v : LaneState) :
    Within [.laneA, .laneB, .arb] s (s.setLaneState l v) := by
  unfold State.setLaneState
  extract_lets old s1
  split
  · exact .unchanged ..
  · exact (((State.modLane_within ..).then (State.raise_quiet ..)).seq (State.noteRedundancy_within _)).up (by rfl)

theorem State.laneOff_within (s : State) (l : LaneId) : Within [.laneA, .laneB, .arb] s (s.laneOff l) := by
  unfold State.laneOff
  extract_lets s1
  exact ((State.setLaneState_within s ..).seq (State.modLane_within s1 ..)).up (by rfl)

theorem State.lanesLost_within (s : State) : Within [.arb] s s.lanesLost := .update _ (by rfl)

theorem State.lanesStart_within (s : State) : Within [.laneA, .laneB, .arb] s s.lanesStart :=
  ((State.modLane_within ..).seq ((State.modLane_within ..).seq (Within.update [.arb] (by rfl)))).up (by rfl)

theorem State.rejoinRestart_within (s : State) : Within [.arb] s s.rejoinRestart := by
  unfold State.rejoinRestart
  split
  · exact .when (.update _ (by rfl))
  · exact .unchanged ..

theorem laneRejoinAction_within (l : LaneId) (k : U32) (s : State) :
    Within [.laneA, .laneB, .arb] s (laneRejoinAction l k s) := by
  unfold laneRejoinAction State.startRejoin
  extract_lets s1 s2 _ s3
  exact ((State.modLane_within ..).seq ((State.setLaneState_within s1 ..).seq ((Within.update (s := s2) (u := s3) [.arb] (by rfl)).then
    ((State.count_quiet ..).trans (State.raise_quiet ..))))).up (by rfl)

theorem State.engineEvent_quiet (s : State) (e : EngineEvent) : Quiet s (s.engineEvent e) := by
  cases e with
  | modeChanged | refused | overrunRule | residual | homingFailed => exact State.raise_quiet ..
  | overrun | handover | saturated => exact State.count_quiet ..
  | oscillation => exact (State.count_quiet ..).trans (State.raise_quiet ..)

theorem State.modEngine_within (s : State) (l : LaneId) (f : Engine → Engine) : Within [.laneA, .laneB] s (s.modEngine l f) :=
  State.modLane_within ..

theorem State.bothEngines_within (s : State) (f : LaneId → Engine → Engine × List EngineEvent) :
    Within [.laneA, .laneB] s (s.bothEngines f) := by
  unfold State.bothEngines
  extract_lets one reports
  have hone : ∀ y l, Within [.laneA, .laneB] y (one y l) := fun y l => ((State.modEngine_within ..).ite (Within.refl y)).up (by rfl)
  exact ((hone s .a).seq ((hone _ .b).seq (Within.foldl (fun y e => (State.engineEvent_quiet y e).within) reports _))).up (by rfl)

theorem State.parkCoil_within (s : State) : Within [.coil] s s.parkCoil := .when (.update _ (by rfl))

theorem State.follow_within (s : State) : Within [.emit, .coil] s s.follow := by
  unfold State.follow
  extract_lets s1
  exact (Within.seq (u := s1) (State.trip_within ..)
    ((State.parkCoil_within _).ite ((Within.refl _).ite (Within.update [.coil] (by rfl))))).up (by rfl)

theorem State.enginePark_within (s : State) (cause : Nat) : Within [.emit, .coil, .laneA, .laneB] s (s.enginePark cause) :=
  ((State.bothEngines_within ..).seq (State.follow_within _)).up (by rfl)

theorem State.mirrPark_within (s : State) : Within [.emit, .coil] s s.mirrPark :=
  ((State.trip_within ..).seq (State.parkCoil_within _)).up (by rfl)

theorem modeRequestAction_quiet (mode : Nat) (k : U32) (s : State) : Quiet s (modeRequestAction mode k s) :=
  Quiet.ite ((State.dequeue_quiet ..).trans (State.raise_quiet ..)) (Quiet.refl s)

theorem coilTripClearAction_within (k : U32) (s : State) : Within [.emit, .coil] s (coilTripClearAction k s) := by
  unfold coilTripClearAction
  extract_lets _ s1
  exact (Within.seq (u := s1) ((Within.update [.coil] (by rfl)).ite (Within.refl s)) ((State.trip_within ..).then
    ((State.dequeue_quiet ..).trans (State.raise_quiet ..)))).up (by rfl)

/-! ### Capture and streams -/

theorem State.modHeld_within (s : State) (num : U32) (f : Segment → Segment) : Within [.cap] s (s.modHeld num f) := .update _ (by rfl)

theorem State.offerRecorder_within (s : State) (g : Segment) : Within [.cap, .flash] s (s.offerRecorder g) := by
  unfold State.offerRecorder
  extract_lets src
  exact ((((Within.update [.flash] (by rfl)).seq (State.modHeld_within ..)).ite
    (State.count_quiet ..).within).ite (Within.refl s)).up (by rfl)

theorem State.startOffload_within (s : State) : Within [.stream] s s.startOffload := by
  unfold State.startOffload
  extract_lets subs
  split
  · exact .unchanged ..
  · split
    · exact .unchanged ..
    · exact .update _ (by rfl)

theorem State.closeSegment_within (s : State) (short : Bool) : Within [.cap, .stream, .flash] s (s.closeSegment short) := by
  unfold State.closeSegment
  split
  · exact .unchanged ..
  · extract_lets g _ s1 s2 s3
    have h2 : Within [.cap] s s2 := (Within.update (u := s1) [.cap] (by rfl)).then ((State.count_quiet ..).trans (State.raise_quiet ..))
    have h3 : Within [.cap, .stream, .flash] s2 s3 := ((State.offerRecorder_within ..).seq (State.startOffload_within _)).up (by rfl)
    exact (h2.seq (h3.seq (((Within.update [.cap] (by rfl)).then (State.raise_quiet ..)).ite (Within.refl s3)))).up (by rfl)

theorem State.capSettle_within (s : State) : Within [.cap, .stream, .flash] s s.capSettle :=
  (((State.closeSegment_within ..).ite (Within.update [.cap] (by rfl))).ite (Within.refl s)).up (by rfl)

theorem State.capTimerStop_within (s : State) : Within [.cap, .stream, .flash] s s.capTimerStop :=
  (((Within.update [.cap] (by rfl)).seq (State.capSettle_within _)).ite (Within.refl s)).up (by rfl)

theorem State.timerEnd_within (s : State) : Within [.scan, .cap, .stream, .flash] s s.timerEnd :=
  ((Within.update [.scan] (by rfl)).seq (State.capTimerStop_within _)).up (by rfl)

theorem State.armed_within (s : State) (above : Bool) : Within [.cap] s (s.armed above) := .update _ (by rfl)

theorem State.dropSegment_within (s : State) (num : U32) : Within [.cap, .stream] s (s.dropSegment num) := by
  unfold State.dropSegment
  extract_lets _ s1
  exact ((Within.update [.cap, .stream] (by rfl)).ite (Within.update (u := s1) [.cap] (by rfl))).up (by rfl)

theorem State.skipCopy_within (s : State) (num : U32) : Within [.flash] s (s.skipCopy num) := .update _ (by rfl)

theorem State.slotFreed_within (s : State) : Within [.cap] s s.slotFreed := .when (.update _ (by rfl))

theorem State.overwriteOldest_within (s : State) : Within [.cap, .stream, .flash] s s.overwriteOldest := by
  unfold State.overwriteOldest
  split
  · exact .unchanged ..
  · extract_lets s1 _ s2 s3
    have h3 : Within [.flash] s2 s3 := (((State.skipCopy_within ..).then (State.count_quiet ..)).ite (Within.refl s2)).up (by rfl)
    exact ((State.dropSegment_within ..).seq ((Within.update (s := s1) [.cap] (by rfl)).seq (h3.then
      ((State.count_quiet ..).trans (State.raise_quiet ..))))).up (by rfl)

theorem State.capArm_within (s : State) : Within [.cap, .stream, .flash] s s.capArm := by
  unfold State.capArm
  extract_lets _ s1
  have full : Within [.cap] s (if s.cap.state = 4 then s1 else s1.raise 0x6002 1 (u32 s.cap.held.length)) :=
    ((Within.update [.cap] (by rfl)).ite ((Within.update (u := s1) [.cap] (by rfl)).then (State.raise_quiet ..))).up (by rfl)
  have rearmed : Within [.cap, .stream, .flash] s (s.overwriteOldest.armed true) :=
    ((State.overwriteOldest_within _).seq (State.armed_within ..)).up (by rfl)
  exact ((Within.update [.cap] (by rfl)).ite ((State.armed_within ..).ite (rearmed.ite full))).up (by rfl)

theorem State.capService_within (s : State) : Within [.cap, .stream, .flash] s s.capService := by
  unfold State.capService
  split
  · exact ((State.capArm_within _).ite (Within.refl s)).up (by rfl)
  · exact .unchanged ..

theorem State.capDisarm_within (s : State) : Within [.cap, .stream, .flash] s s.capDisarm := by
  unfold State.capDisarm
  extract_lets s0 s1
  have h1 : Within [.cap, .stream, .flash] s0 s1 := ((State.closeSegment_within ..).ite (Within.refl s0)).up (by rfl)
  exact ((State.capService_within s).seq (h1.seq (Within.update [.cap] (by rfl)))).up (by rfl)

theorem State.capEnable_within (s : State) : Within [.cap, .stream, .flash] s s.capEnable :=
  .when (State.capArm_within s)

theorem State.capDiscard_within (s : State) (reason : Nat) : Within [.cap, .stream, .flash] s (s.capDiscard reason) := by
  unfold State.capDiscard
  extract_lets n _ _ _ s1 s2
  have h1 : Within [.cap, .stream, .flash] s s1 := .update _ (by rfl)
  have h2 : Within [] s1 s2 := ((Within.refl s1).ite (State.raise_quiet ..).within).up (by rfl)
  exact (h1.seq (h2.seq ((State.capEnable_within s2).ite (Within.refl s2)))).up (by rfl)

theorem State.captureFlip_within (s : State) (changed : List Nat) : Within [.cap, .stream, .flash] s (s.captureFlip changed) := by
  unfold State.captureFlip
  extract_lets s1
  have h1 : Within [.cap, .stream, .flash] s s1 := ((State.capDiscard_within ..).ite (Within.refl s)).up (by rfl)
  exact (h1.seq (((State.capEnable_within s1).ite (State.capDisarm_within s1)).ite (Within.refl s1))).up (by rfl)

theorem State.freeSegment_within (s : State) (num : U32) : Within [.cap, .stream] s (s.freeSegment num) := by
  unfold State.freeSegment
  split
  · exact .unchanged ..
  · exact ((State.modHeld_within ..).ite ((State.dropSegment_within ..).seq (State.slotFreed_within _))).up (by rfl)

theorem State.hostTrigger_quiet (s : State) : Quiet s s.hostTrigger := State.offer_quiet ..

theorem State.weirEvent_within (s : State) : Within [.stream] s s.weirEvent := by
  unfold State.weirEvent
  extract_lets due _ s1
  exact (((Within.update (u := s1) [.stream] (by rfl)).then (State.raise_quiet ..)).ite (Within.refl s)).up (by rfl)

theorem State.weirDrop_within (s : State) (frame : U32) : Within [.stream] s (s.weirDrop frame) := by
  unfold State.weirDrop
  extract_lets s1 t
  exact ((State.count_quiet s ..).within.seq ((Within.update (s := s1) [.stream] (by rfl)).seq (State.weirEvent_within _))).up (by rfl)

theorem State.streamLost_within (s : State) : Within [.stream] s s.streamLost := by
  unfold State.streamLost
  extract_lets fs _ s1
  exact ((Within.update (u := s1) [.stream] (by rfl)).seq (Within.foldl State.weirDrop_within fs s1)).up (by rfl)

theorem State.linkLost_within (s : State) : Within [.net, .stream] s s.linkLost :=
  ((((Within.update [.net] (by rfl)).seq (State.streamLost_within _)).then (State.raise_quiet ..)).ite (Within.refl s)).up (by rfl)

theorem State.closeSessions_quiet (s : State) (p : Session → Bool) (reason : Nat) : Quiet s (s.closeSessions p reason) := by
  unfold State.closeSessions
  generalize s.baspo.sessions.filter p = l
  induction l generalizing s with
  | nil => exact Quiet.refl s
  | cons x l ih => exact (State.closeSession_quiet ..).trans (ih _)

theorem State.networkFlip_within (s : State) (changed : List Nat) : Within [.net, .stream] s (s.networkFlip changed) := by
  unfold State.networkFlip
  extract_lets s1 s2
  have h1 : Quiet s s1 := Quiet.ite (State.closeSessions_quiet ..) (Quiet.refl s)
  have h2 : Within [.net, .stream] s1 s2 := ((State.linkLost_within s1).ite (Within.refl s1)).up (by rfl)
  exact (h1.within.seq (h2.then (Quiet.ite (State.closeSessions_quiet ..) (Quiet.refl s2)))).up (by rfl)

end Sys2Proof.Machine
end

