-- ==== Sys2Proof/Proofs/FlashFrames.lean ====
section
/-! PROOFS. Frames of flash work and calibration, of the edge inputs, the bus, the front end and the scan, and of a configuration
that takes force. -/

namespace Sys2Proof.Machine

open Sys2Proof

/-! ### Flash work -/

/-- The group at work and the queue behind it are not compared. -/
theorem State.flashGroups_quiet (s : State) (running : Option FlashGroup) (queue : List FlashGroup) :
    Quiet s { s with flash := { s.flash with running, queue } } := by
  constructor <;> rfl

theorem State.flashKick_quiet (s : State) : Quiet s s.flashKick := by
  unfold State.flashKick
  split
  · exact Quiet.ite (State.flashGroups_quiet ..) (State.flashGroups_quiet s s.flash.running _)
  · exact Quiet.refl s

theorem State.flashQueue_quiet (s : State) (l : List FlashGroup) : Quiet s (s.flashQueue l) :=
  (State.flashGroups_quiet s s.flash.running _).trans (State.flashKick_quiet _)

theorem State.flashItem_quiet (s : State) (work : FlashWork) (host : Bool) (pages : Nat) : Quiet s (s.flashItem work host pages) :=
  State.flashQueue_quiet ..

theorem State.modSlot_within (s : State) (i : Nat) (f : FwSlot → FwSlot) : Within [.flash] s (s.modSlot i f) := .update _ (by rfl)

theorem fwBeginAction_within (s : State) : Within [.flash] s (fwBeginAction s) := by
  unfold fwBeginAction
  extract_lets slot s1 _ s2
  exact ((State.modSlot_within s ..).seq ((Within.update (s := s1) (u := s2) [.flash] (by rfl)).then
    (State.flashQueue_quiet ..))).up (by rfl)

theorem State.fwAbandon_within (s : State) : Within [.flash] s s.fwAbandon :=
  ((Within.update [.flash] (by rfl)).seq (State.modSlot_within ..)).up (by rfl)

theorem recClearAction_within (s : State) : Within [.flash] s (recClearAction s) :=
  (Within.update [.flash] (by rfl)).then (State.flashQueue_quiet ..)

theorem fwActivateAction_quiet (k : U32) (s : State) : Quiet s (fwActivateAction k s) := State.flashItem_quiet ..

theorem versionRevertAction_within (value : Nat) (k : U32) (s : State) : Within [.emit] s (versionRevertAction value k s) := by
  unfold versionRevertAction
  split
  · exact .unchanged ..
  · exact (State.keepCap_within ..).then (State.flashItem_quiet ..)

/-! ### Calibration -/

theorem State.calHold_within (s : State) : Within [.rx, .pwr] s s.calHold := by
  unfold State.calHold
  split
  · refine ((Within.foldl (l := [.rx, .pwr]) (fun y b => ?_) _ s).ite (Within.refl s)).up (by rfl)
    exact (((State.setDom_within ..).seq (State.modBand_within ..)).ite (Within.refl y)).up (by rfl)
  · exact .unchanged ..

theorem State.calRelease_within (s : State) : Within [.rx, .pwr] s s.calRelease :=
  Within.foldl (fun y _ => (((State.setDom_within ..).seq (State.modBand_within ..)).ite (Within.refl y)).up (by rfl)) _ s

theorem State.calStart_within (s : State) : Within [.rx, .pwr, .cal] s s.calStart := by
  unfold State.calStart
  split
  · exact ((Within.refl s).ite ((Within.update [.cal] (by rfl)).seq (State.calHold_within _))).up (by rfl)
  · exact .unchanged ..

theorem State.calQueue_within (s : State) (k : CalTicket) : Within [.rx, .pwr, .cal] s (s.calQueue k) :=
  ((Within.update [.cal] (by rfl)).seq (State.calStart_within _)).up (by rfl)

theorem State.calDone_quiet (s : State) (k : CalTicket) (result : Nat) : Quiet s (s.calDone k result) := State.raise_quiet ..

theorem State.calAbort_within (s : State) (keep : Nat → Bool) : Within [.rx, .pwr, .cal] s (s.calAbort keep) := by
  unfold State.calAbort
  extract_lets ended _ s1 s2
  have h2 : Within [.cal] s1 s2 := Within.foldl (fun y k => (Within.update [.cal] (by rfl)).then (State.calDone_quiet ..)) ended s1
  exact (Within.seq (u := s1) (.update [.cal] (by rfl)) (h2.seq
    (((State.calRelease_within s2).ite (Within.refl s2)).seq (State.calStart_within _)))).up (by rfl)

theorem State.calHoldEntry_within (s : State) : Within [.rx, .pwr, .cal] s s.calHoldEntry := State.calAbort_within ..

theorem State.storeCal_within (s : State) (ticket : U32) (mask : Nat) (host : Bool) : Within [.cal] s (s.storeCal ticket mask host) := by
  unfold State.storeCal
  extract_lets _ fail
  have hfail : ∀ a, Within [.cal] s (fail a) := fun a => (Within.update [.cal] (by rfl)).then (State.raise_quiet ..)
  split
  · exact hfail _
  · split
    · exact hfail _
    · exact (Within.update [.cal] (by rfl)).then (State.flashItem_quiet ..)

theorem State.traceCommit_within (s : State) (k : U32) : Within [.cal] s (s.traceCommit k) := by
  unfold State.traceCommit
  extract_lets v rec_ due1 due2 v1 v2 mask _ s1
  exact ((Within.update (u := s1) [.cal] (by rfl)).seq (State.storeCal_within ..)).up (by rfl)

theorem State.calFlip_within (s : State) (changed : List Nat) : Within [.cal] s (s.calFlip changed) :=
  .when (.update _ (by rfl))

theorem calRequestAction_within (code : Nat) (k : U32) (s : State) : Within [.rx, .pwr, .cal] s (calRequestAction code k s) :=
  ((State.traceCommit_within ..).ite (((Within.update [.cal] (by rfl)).then (State.calDone_quiet ..)).ite
    (State.calQueue_within ..))).up (by rfl)

/-- A commit of the trace writes the calibration records alone. -/
theorem calRequestAction_traceCommit (k : U32) (s : State) : Within [.cal] s (calRequestAction 18 k s) := State.traceCommit_within ..

/-! ### Edge inputs, the bus, the front end and the scan -/

theorem State.modInput_within (s : State) (i : Nat) (f : TinInput → TinInput) : Within [.tin] s (s.modInput i f) := .update _ (by rfl)

theorem State.tinQueue_within (s : State) (r : TinRec) : Within [.tin] s (s.tinQueue r) := .update _ (by rfl)

theorem State.tinClose_within (s : State) (i reason : Nat) : Within [.tin] s (s.tinClose i reason) := by
  unfold State.tinClose
  split
  · exact .unchanged ..
  · extract_lets s1
    have h1 : Within [.tin] s s1 := ((State.modInput_within ..).seq (State.tinQueue_within ..)).up (by rfl)
    exact ((h1.then (State.raise_quiet ..)).ite h1).up (by rfl)

theorem State.tinCloseAll_within (s : State) (reason : Nat) : Within [.tin] s (s.tinCloseAll reason) :=
  Within.foldl (fun _ _ => State.tinClose_within ..) _ s

theorem State.tinFlip_within (s : State) (changed : List Nat) : Within [.tin] s (s.tinFlip changed) :=
  .when (State.tinCloseAll_within ..)

theorem padReleaseAction_within (m : Nat) (s : State) : Within [.tin, .pwr] s (padReleaseAction m s) := .update _ (by rfl)

theorem State.busFlip_within (s : State) (changed : List Nat) : Within [.bus] s (s.busFlip changed) :=
  .when (.update _ (by rfl))

theorem State.busPurge_within (s : State) : Within [.bus] s s.busPurge := by
  unfold State.busPurge
  exact (Within.update [.bus] (by rfl)).then (State.count_quiet ..)

theorem State.busSend_within (s : State) (kind : Nat) (at_ : Time) : Within [.bus] s (s.busSend kind at_) := by
  unfold State.busSend
  extract_lets s1 n
  exact (((State.busPurge_within s).seq ((State.count_quiet s1 ..).within.ite (Within.update [.bus]
    (by rfl)))).ite (Within.refl s)).up (by rfl)

theorem busTriggerAction_within (s : State) : Within [.bus] s (busTriggerAction s) :=
  ((State.hostTrigger_quiet s).within.seq (State.busSend_within ..)).up (by rfl)

theorem State.applyRange_within (s : State) (code : Nat) : Within [.front] s (s.applyRange code) := by
  unfold State.applyRange
  extract_lets f cause led settles settle s1
  have h1 : Within [.front] s s1 := .update _ (by rfl)
  exact (h1.ite (h1.then ((State.count_quiet ..).trans (State.raise_quiet ..)))).up (by rfl)

theorem State.rangeFlip_within (s : State) (idle : Bool) (changed : List Nat) : Within [.front] s (s.rangeFlip idle changed) := by
  unfold State.rangeFlip
  extract_lets _ s1 ranged code _ s2
  have h1 : Within [.front] s s1 := .update _ (by rfl)
  have h2 : Within [.front] s1 s2 := .update _ (by rfl)
  exact (h1.seq ((h2.ite ((h2.seq (State.applyRange_within ..)).ite (Within.refl s1))).ite (Within.refl s1))).up (by rfl)

theorem feClearAction_within (s : State) : Within [.emit, .front] s (feClearAction s) :=
  ((Within.update [.front] (by rfl)).seq ((State.tripClear_within ..).seq ((State.trip_within ..).seq
    (State.tripClear_within ..)))).up (by rfl)

theorem hkCalibrateAction_within (k : U32) (s : State) : Within [.hka] s (hkCalibrateAction k s) :=
  ((Within.update [.hka] (by rfl)).ite (State.enqueue_quiet ..).within).up (by rfl)

theorem State.setCamera_within (s : State) (idx : U32) (at_ : Time) : Within [.scan] s (s.setCamera idx at_) := .update _ (by rfl)

theorem State.enterLull_within (s : State) : Within [.scan] s s.enterLull := by
  unfold State.enterLull
  extract_lets n s1
  have h1 : Within [.scan] s s1 := ((Within.refl s).ite (State.setCamera_within ..)).up (by rfl)
  exact (h1.seq (.update [.scan] (by rfl))).up (by rfl)

theorem State.enterRelock_within (s : State) : Within [.scan] s s.enterRelock := .update _ (by rfl)

theorem State.phaseFlip_within (s : State) (changed : List Nat) : Within [.scan] s (s.phaseFlip changed) := by
  unfold State.phaseFlip
  extract_lets fresh _ s1 _ s2 _ s3
  have h1 : Within [.scan] s s1 := .when (.update _ (by rfl))
  have h2 : Within [.scan] s1 s2 := ((Within.update [.scan] (by rfl)).ite (Within.refl s1)).up (by rfl)
  have h3 : Within [.scan] s2 s3 := State.enterLull_within s2
  exact (h1.seq (h2.seq (((Within.update [.scan] (by rfl)).ite ((State.enterRelock_within s2).ite
    (h3.seq (Within.update [.scan] (by rfl))))).ite (Within.refl s2)))).up (by rfl)

theorem State.planFlip_within (s : State) (old : Cfg) (idle : Bool) (changed : List Nat) :
    Within [.scan] s (s.planFlip old idle changed) := by
  unfold State.planFlip
  extract_lets c new f fades other _ s1
  have h1 : Within [.scan] s s1 := .update _ (by rfl)
  split
  · exact .unchanged ..
  · split
    · exact h1.then (State.raise_quiet ..)
    · exact h1

/-! ### A configuration and the restart of the lanes -/

/-- The parts that a configuration in force may write. -/
def applyCfgParts : List Part :=
  [.cfg, .net, .scan, .emit, .rx, .tin, .bus, .front, .laneA, .laneB, .arb, .cap, .stream, .cal, .flash]

theorem State.applyCfg_within (s : State) (new : Store) (counted : BitVec 16) (idle : Bool) :
    Within applyCfgParts s (s.applyCfg new counted idle).1 := by
  unfold State.applyCfg
  extract_lets old changed s1 s2 _ s3 s4 s5 s6 s7 engine
  have h1 : Within [.cfg] s s1 := .update _ (by rfl)
  have h2 : Within [.emit, .scan] s1 s2 := ((State.restoreBars_within ..).seq (State.planFlip_within ..)).up (by rfl)
  have h3 : Within [.emit] s2 s3 := .update _ (by rfl)
  have h4 : Within [.emit, .scan, .bus, .tin, .cap, .stream, .flash] s3 s4 :=
    ((State.bankRetarget_within s3).seq ((State.phaseFlip_within ..).seq ((State.busFlip_within ..).seq
      ((State.tinFlip_within ..).seq (State.captureFlip_within ..))))).up (by rfl)
  have h6 : Within [.rx] s4 s6 := ((State.coincFlip_within s4).seq ((State.biasFlip_within s5).ite (Within.refl s5))).up (by rfl)
  have h7 : Within [.rx, .cal, .arb, .front, .net, .stream] s6 s7 :=
    ((State.refreshBands_within s6).seq ((State.calFlip_within ..).seq ((State.rejoinRestart_within _).seq
      ((State.rangeFlip_within ..).seq (State.networkFlip_within ..))))).up (by rfl)
  have h8 : Within [.laneA, .laneB] s7 (if idle then (s7.modEngine .a engine).modEngine .b engine else s7) :=
    (((State.modEngine_within ..).seq (State.modEngine_within ..)).ite (Within.refl s7)).up (by rfl)
  exact (h1.seq (h2.seq (h3.seq (h4.seq (h6.seq (h7.seq h8)))))).up (by rfl)

theorem laneRestartAction_within (k : U32) (s : State) : Within applyCfgParts s (laneRestartAction k s) := by
  unfold laneRestartAction
  extract_lets s1 s2
  have h1 : Within [.laneA, .laneB, .arb] s s1 := ((State.laneOff_within ..).seq (State.laneOff_within ..)).up (by rfl)
  have h2 : Within applyCfgParts s1 s2 :=
    ((State.applyCfg_within ..).seq ((State.lanesLost_within _).seq (State.lanesStart_within _))).up (by rfl)
  exact (h1.seq (h2.seq (Within.update [.arb] (by rfl)))).up (by rfl)

end Sys2Proof.Machine
end

