-- ==== Sys2Proof/Proofs/PowerFrames.lean ====
section
/-! PROOFS. Frames of the power states and of the requests to change them. -/

namespace Sys2Proof.Machine

open Sys2Proof

/-! ### Power states -/

theorem State.setEntry_within (s : State) (e : Option Entry) : Within [.pwr] s (s.setEntry e) := .update _ (by rfl)

theorem State.deferRequest_within (s : State) (target : Power) (who : Requester) : Within [.pwr] s (s.deferRequest target who) :=
  .update _ (by rfl)

theorem State.pinFails_within (s : State) (who : Requester) : Within [.pwr] s (s.pinFails who) :=
  .when (.update _ (by rfl))

theorem State.refusal_quiet (s : State) (target : Power) (code : Nat) (ticket : U32) : Quiet s (s.refusal target code ticket) :=
  (State.count_quiet ..).trans (State.raise_quiet ..)

theorem State.powerRefused_quiet (s : State) (target : Power) : Quiet s (s.powerRefused target) :=
  Quiet.ite (State.refusal_quiet ..) (Quiet.refl s)

/-- The parts that a change of power state may write: every part but the configuration, the echo store and the security state. -/
def powerParts : List Part :=
  [.net, .scan, .emit, .rx, .tin, .bus, .front, .hka, .coil, .laneA, .laneB, .arb, .cap, .stream, .pwr, .therm, .cal, .flash]

theorem State.wakeStart_within (s : State) (goal : Power) (who : Requester) : Within powerParts s (s.wakeStart goal who) := by
  unfold State.wakeStart
  extract_lets w _ s1
  have h1 : Within [.pwr] s s1 := .update _ (by rfl)
  split
  · exact (h1.seq (State.domsOn_within ..)).up (by rfl)
  · exact (h1.seq ((State.domsOn_within ..).seq (State.lanesStart_within _))).up (by rfl)
  · exact (h1.seq (.update [.pwr] (by rfl))).up (by rfl)
  · exact h1.up (by rfl)
  · exact h1.up (by rfl)

theorem State.refuseEntry_within (s : State) (e : Entry) (codes : List Nat) : Within [.pwr] s (s.refuseEntry e codes) :=
  ((State.setEntry_within ..).seq (Within.foldl (fun _ _ => (State.refusal_quiet ..).within) _ _)).up (by rfl)

theorem State.abandonEntry_within (s : State) (e : Entry) (point reason : Nat) : Within powerParts s (s.abandonEntry e point reason) := by
  unfold State.abandonEntry
  extract_lets s1 s2 s3 s4
  have h1 : Within [.pwr] s s1 := (State.setEntry_within ..).then (State.count_quiet ..)
  have h2 : Quiet s1 s2 := Quiet.ite (State.count_quiet ..) (Quiet.refl s1)
  have h3 : Within [.pwr] s2 s3 := ((State.raise_quiet s2 ..).within.seq (State.pinFails_within ..)).up (by rfl)
  have h4 : Within [.rx, .pwr, .cal] s3 s4 := ((State.flashKick_quiet s3).within.seq (State.calStart_within _)).up (by rfl)
  exact ((h1.then h2).seq (h3.seq (h4.seq
    ((State.wakeStart_within ..).ite ((State.wakeStart_within ..).ite (Within.refl s4)))))).up (by rfl)

theorem State.entryP3_within (s : State) (e : Entry) : Within powerParts s (s.entryP3 e) := by
  unfold State.entryP3
  split
  · exact State.abandonEntry_within ..
  · exact ((State.setEntry_within ..).then (State.raise_quiet ..)).up (by rfl)

theorem State.entryP2_within (s : State) (e : Entry) : Within powerParts s (s.entryP2 e).1 := by
  unfold State.entryP2
  split
  · exact State.abandonEntry_within ..
  · split
    · exact ((State.tripSet_within ..).seq ((State.enginePark_within ..).seq ((State.mirrPark_within _).seq
        ((State.bankDischarge_within _).seq ((State.timerEnd_within _).seq ((State.calHoldEntry_within _).seq
          (State.setEntry_within ..))))))).up (by rfl)
    · exact ((State.setEntry_within ..).seq (State.entryP3_within ..)).up (by rfl)

theorem State.entryTry_within (s : State) : Within powerParts s s.entryTry := by
  unfold State.entryTry
  split
  · exact .unchanged ..
  · extract_lets codes e1 s1
    have h1 : Within [.pwr] s s1 := State.setEntry_within ..
    exact ((Within.refl s).ite ((State.refuseEntry_within ..).ite ((State.abandonEntry_within ..).ite
      (h1.ite (h1.seq (State.entryP2_within s1 e1)))))).up (by rfl)

theorem State.enterRequest_within (s : State) (target : Power) (who : Requester) (forced : Bool) :
    Within powerParts s (s.enterRequest target who forced) :=
  ((State.setEntry_within ..).seq (State.entryTry_within _)).up (by rfl)

theorem State.serveRequest_within (s : State) (target : Power) (who : Requester) : Within powerParts s (s.serveRequest target who) :=
  ((Within.refl s).ite ((Within.refl s).ite ((State.enterRequest_within ..).ite
    ((State.refusal_quiet ..).within.ite (State.wakeStart_within ..))))).up (by rfl)

theorem powerRequestAction_within (target : Power) (k : U32) (s : State) : Within powerParts s (powerRequestAction target k s) := by
  unfold powerRequestAction
  split
  · exact ((State.setEntry_within ..).seq (State.deferRequest_within ..)).up (by rfl)
  · exact ((State.deferRequest_within ..).ite (State.serveRequest_within ..)).up (by rfl)

end Sys2Proof.Machine
end

