-- ==== Sys2Proof/Proofs/WriteFrames.lean ====
section
/-! PROOFS. The frame of a write: each command stays within the parts of its object's row, every value that passes the checks
does, and with it the whole message. -/

namespace Sys2Proof.Machine

open Sys2Proof

/-! ### The objects of the dictionary -/

/-- What the frames use of an object's row: a command stands behind each CMD object, a further kind of writable value only behind four
objects, and CODE_SOURCE lives in a domain. -/
structure Obj.Regular (o : Obj) : Prop where
  id_lt : o.id < 256 ^ 3
  kind_of_cmd : o.acc = .cmd → o.kind = .cmd
  id_of_value : o.acc = .rw ∨ o.acc = .wo → o.kind ≠ .cfg → o.kind ≠ .counter →
    o.id = Id.CAP_READ_SELECT ∨ o.id = Id.REC_SELECT ∨ o.id = Id.KEY_WRITE ∨ o.id = Id.FW_IMAGE
  owner_of_codeSource : o.id = Id.CODE_SOURCE → o.owner ≠ .ao

theorem dictIndices_regular : (dictIndices.all fun p => p.2.all fun o => decide (o.id < 256 ^ 3 ∧ (o.acc = .cmd → o.kind = .cmd) ∧
    (o.acc = .rw ∨ o.acc = .wo → o.kind ≠ .cfg → o.kind ≠ .counter →
      o.id = Id.CAP_READ_SELECT ∨ o.id = Id.REC_SELECT ∨ o.id = Id.KEY_WRITE ∨ o.id = Id.FW_IMAGE) ∧
    (o.id = Id.CODE_SOURCE → o.owner ≠ .ao))) = true := by
  decide +kernel

/-- An object that the dictionary lists. -/
theorem lookup_regular {id : Nat} {o : Obj} (h : lookup id = some o) : o.id = id ∧ o.Regular := by
  unfold lookup indexOf at h
  obtain ⟨l, hl, ho⟩ := Option.bind_eq_some_iff.mp h
  obtain ⟨p, hp, rfl⟩ := Option.map_eq_some_iff.mp hl
  have hrow := List.all_eq_true.mp dictIndices_regular p (List.mem_of_find?_eq_some hp)
  obtain ⟨hlt, hcmd, hval, hown⟩ := of_decide_eq_true (List.all_eq_true.mp hrow o (List.mem_of_find?_eq_some ho))
  exact ⟨by simpa using List.find?_some ho, hlt, hcmd, hval, hown⟩

/-! ### Replies -/

/-- The replies after which only the answer, or a session's end, follows. -/
def Reply.plain : Reply → Prop
  | .silent _ => False
  | _ => True

theorem State.respond_quiet (s : State) (h : Hdr) (svc idx sub : Nat) {r : Reply} (hr : r.plain) : Quiet s (s.respond h svc idx sub r) := by
  cases r with
  | ok fl p => exact State.answer_quiet ..
  | abort a d => exact State.answer_quiet ..
  | silent d => exact hr.elim
  | closing => exact (State.answer_quiet ..).trans (State.closeSession_quiet ..)
  | later => exact Quiet.refl s

/-- An operation's next state lies within the listed parts of s, and its reply is plain. -/
structure Framed (l : List Part) (s : State) (p : State × Reply) : Prop where
  state : Within l s p.1
  reply : p.2.plain

theorem Framed.up {l m : List Part} {s : State} {p : State × Reply} (h : Framed l s p) (hlm : l.all m.contains = true) :
    Framed m s p :=
  ⟨h.state.up hlm, h.reply⟩

theorem Framed.mono {l m : List Part} {s : State} {p : State × Reply} (h : Framed l s p) (hlm : l ⊆ m) : Framed m s p :=
  ⟨h.state.mono hlm, h.reply⟩

theorem Framed.cases {l : List Part} {s : State} {c : Prop} [Decidable c] {p q : State × Reply} (h : c → Framed l s p)
    (k : ¬ c → Framed l s q) : Framed l s (if c then p else q) := by
  split
  · exact h ‹_›
  · exact k ‹_›

theorem Framed.ite {l : List Part} {s : State} {c : Prop} [Decidable c] {p q : State × Reply} (h : Framed l s p)
    (k : Framed l s q) : Framed l s (if c then p else q) :=
  .cases (fun _ => h) fun _ => k

/-- A refusal. -/
theorem State.no_framed (l : List Part) (s : State) (a : Abort) : Framed l s (s.no a) :=
  ⟨.unchanged .., trivial⟩

theorem State.ticketed_framed {l : List Part} {s : State} {f : U32 → State → State} (hf : ∀ k y, Within l y (f k y)) :
    Framed l s (s.ticketed f) :=
  ⟨(State.issueTicket_quiet s).within.seq (hf ..), trivial⟩

theorem State.ifOk_framed {l : List Part} {s : State} {ok : Bool} {f : U32 → State → State} (hf : ∀ k y, Within l y (f k y)) :
    Framed l s (s.ifOk ok f) :=
  (State.ticketed_framed hf).ite (State.no_framed ..)

theorem State.queueing_framed {l : List Part} {s : State} {n : Nat} {f : U32 → State → State} (hf : ∀ k y, Within l y (f k y)) :
    Framed l s (s.queueing n f) :=
  (State.no_framed ..).ite (State.ticketed_framed hf)

theorem State.checked_framed {l : List Part} {s : State} {g : GroupKind} {f : U32 → State → State} (hf : ∀ k y, Within l y (f k y)) :
    Framed l s (s.checked g f) := by
  unfold State.checked
  split
  · exact State.no_framed ..
  · exact State.ticketed_framed hf

/-! ### Commands that write no part -/

theorem State.baspo_quiet (s : State) (b : Baspo) : Quiet s { s with baspo := b } := { Quiet.refl s with }

theorem State.enqueued_quiet (s : State) (obj value : Nat) (k : U32) : Quiet s (s.enqueued obj value k) := State.enqueue_quiet ..

theorem State.lockOpen_framed (s : State) (x : Session) : Framed [] s (s.lockOpen x) := by
  unfold State.lockOpen
  split
  · exact ⟨((State.baspo_quiet ..).trans (State.modSession_quiet ..)).within, trivial⟩
  · exact ⟨((State.baspo_quiet ..).trans (State.modSession_quiet ..)).within, trivial⟩
  all_goals exact State.no_framed ..

theorem State.lockAbandon_framed (s : State) (x : Session) : Framed [] s (s.lockAbandon x) := by
  unfold State.lockAbandon
  split
  case h_5 | h_6 => exact ⟨(State.abandonLock_quiet ..).within, trivial⟩
  all_goals exact State.no_framed ..

theorem State.lockEqualize_framed (s : State) (h : Hdr) (svc : Nat) (x : Session) (persist : Bool) :
    Framed [] s (s.lockEqualize h svc x persist) :=
  ⟨((State.baspo_quiet ..).trans (State.modSession_quiet ..)).within, trivial⟩

theorem State.lockCommit_framed (s : State) (h : Hdr) (svc : Nat) (x : Session) (persist : Bool) :
    Framed [] s (s.lockCommit h svc x persist) := by
  unfold State.lockCommit
  refine (State.no_framed ..).ite ((State.no_framed ..).ite (Framed.ite ⟨(State.abandonLock_quiet ..).within, trivial⟩ ?_))
  split
  case h_6 =>
    split
    · exact State.no_framed ..
    · exact State.lockEqualize_framed ..
  all_goals exact State.no_framed ..

theorem State.lockControl_framed (s : State) (h : Hdr) (svc : Nat) (x : Session) (v : Nat) : Framed [] s (s.lockControl h svc x v) :=
  (State.lockOpen_framed ..).ite ((State.lockAbandon_framed ..).ite (State.lockCommit_framed ..))

theorem State.stage_framed (s : State) (x : Session) (o : Obj) (v : Bytes) : Framed [] s (s.stage x o v) := by
  have staged : ∀ st : List (Nat × Bytes), Framed [] s (s.modSession x.transport x.num fun y =>
      { y with lock := { y.lock with phase := .staged, staged := st } }, .ok 0x10 []) :=
    fun _ => ⟨(State.modSession_quiet ..).within, trivial⟩
  unfold State.stage
  split
  case h_5 | h_6 => exact (State.no_framed ..).ite (staged _)
  all_goals exact State.no_framed ..

theorem State.selectSegment_framed (s : State) (x : Session) (v : Bytes) : Framed [] s (s.selectSegment x v) := by
  unfold State.selectSegment
  split
  · exact ⟨(State.modSession_quiet ..).within, trivial⟩
  · exact State.no_framed ..

theorem State.selectEntry_framed (s : State) (x : Session) (v : Bytes) : Framed [] s (s.selectEntry x v) := by
  unfold State.selectEntry
  split
  · exact ⟨(State.modSession_quiet ..).within, trivial⟩
  · exact State.no_framed ..

theorem State.keyWrite_framed (s : State) (x : Session) (v : Bytes) : Framed [] s (s.keyWrite x v) := by
  unfold State.keyWrite
  split
  · exact ⟨(State.flashItem_quiet ..).within, trivial⟩
  · exact State.no_framed ..

theorem State.secCommand_framed (s : State) (obj : Nat) : Framed [] s (s.secCommand obj) := by
  unfold State.secCommand
  split
  · exact State.no_framed ..
  · exact (State.no_framed ..).ite (State.checked_framed fun k y => (State.flashItem_quiet ..).within)

/-! ### The coded view of an object -/

theorem State.live_ne_silent (s : State) (x : Session) (o : Obj) (fl d : Nat) : s.live x o fl ≠ .silent d := by
  unfold State.live
  split
  · exact Got.noConfusion
  · split <;> exact Got.noConfusion

/-- A domain that acknowledges answers a read. -/
theorem State.fetch_ne_silent (s : State) {h : Hdr} (x : Session) (o : Obj) (d : Nat) (hn : h.noAck = false) :
    s.fetch h x o ≠ .silent d := by
  unfold State.fetch
  split
  · exact Got.noConfusion
  · split
    · exact State.live_ne_silent _ _ _ _ _
    · simp only [hn, Bool.false_eq_true, if_false]
      split
      · exact State.live_ne_silent _ _ _ _ _
      · exact State.live_ne_silent _ _ _ _ _
      · split
        · exact State.live_ne_silent _ _ _ _ _
        · exact Got.noConfusion
      · split
        · exact State.live_ne_silent _ _ _ _ _
        · exact Got.noConfusion

theorem State.codeSource_framed (s : State) {h : Hdr} (x : Session) (v : Nat) (hn : h.noAck = false) :
    Framed [] s (s.codeSource h x v) := by
  unfold State.codeSource
  extract_lets id
  refine (State.no_framed ..).ite ?_
  split
  · exact State.no_framed ..
  · split
    · exact State.no_framed ..
    · refine (State.no_framed ..).ite ?_
      split
      · exact State.no_framed ..
      · exact absurd ‹_› (State.fetch_ne_silent _ _ _ _ hn)
      · extract_lets unit s1 view s2
        have h2 : Quiet s s2 := (State.count_quiet ..).trans ((State.count_quiet ..).trans (State.modSession_quiet s1 ..))
        exact Framed.ite ⟨h2.within, trivial⟩ ⟨h2.within, trivial⟩

/-- A write of CODE_SOURCE that passes step 7 met a domain that acknowledges. -/
theorem State.writeDomain_codeSource {s : State} {h : Hdr} {o : Obj} {v : Bytes} {fl : Nat} (hid : o.id = Id.CODE_SOURCE)
    (hacc : o.acc = .cmd) (hkind : o.kind = .cmd) (hown : o.owner ≠ .ao) (hw : s.writeDomain h o v = .value fl []) : h.noAck = false := by
  have hsh : o.shadowed = false := by simp [Obj.shadowed, hkind]
  have hao : s.serving o ≠ .ao := by
    unfold State.serving Obj.home
    rw [if_neg (by rw [hid]; decide)]
    split
    · exact absurd ‹_› hown
    · extract_lets doms
      split
      · exact Serving.noConfusion
      · split <;> exact Serving.noConfusion
  unfold State.writeDomain at hw
  rw [if_neg (by rw [hacc]; decide)] at hw
  split at hw
  · cases hw
  · rw [if_neg (by rw [hid]; decide)] at hw
    split at hw
    · exact absurd ‹_› hao
    · split at hw
      · cases hw
      · exact eq_false_of_ne_true ‹_›
    · rw [hsh] at hw; cases hw
    · rw [hsh] at hw; cases hw

/-! ### Commands -/

theorem State.powerCommand_framed (s : State) (target : Power) : Framed powerParts s (s.powerCommand target) := by
  unfold State.powerCommand
  split
  · exact ⟨(State.powerRefused_quiet ..).within.up (by rfl), trivial⟩
  · exact State.ticketed_framed fun _ _ => powerRequestAction_within ..

theorem State.capControl_framed (s : State) (v : Nat) : Framed [.cap, .stream, .flash] s (s.capControl v) :=
  ((State.no_framed ..).ite (State.ticketed_framed fun _ y => (State.hostTrigger_quiet y).within.up (by rfl))).ite
    ((State.ticketed_framed fun _ y => State.capDisarm_within y).ite
      ((State.ticketed_framed fun _ y => .unchanged ..).ite (State.ifOk_framed fun _ y => State.capArm_within y)))

theorem State.capRelease_framed (s : State) (v : Nat) : Framed [.cap, .stream] s (s.capRelease v) :=
  (State.ticketed_framed fun _ y => Within.foldl State.freeSegment_within _ y).ite
    ((State.no_framed ..).ite (State.ticketed_framed fun _ _ => State.freeSegment_within ..))

theorem State.calCommand_framed {l : List Part} (s : State) (v : Nat) (hf : ∀ k y, Within l y (calRequestAction v k y)) :
    Framed l s (s.calCommand v) := by
  unfold State.calCommand
  split
  · exact State.no_framed ..
  · exact State.ticketed_framed hf

theorem State.revertCommand_framed (s : State) (v : Nat) : Framed [.emit] s (s.revertCommand v) := by
  unfold State.revertCommand
  split
  · exact ⟨(Quiet.ite (Quiet.refl s) (State.baspo_quiet ..)).within.up (by rfl), trivial⟩
  · exact State.ticketed_framed fun _ _ => versionRevertAction_within ..

theorem State.fwCommand_framed (s : State) (v : Nat) : Framed [.flash] s (s.fwCommand v) :=
  ((State.checked_framed fun _ y => fwBeginAction_within y).ite (State.no_framed ..)).ite
    (((State.checked_framed fun k y => (fwActivateAction_quiet k y).within.up (by rfl)).ite (State.no_framed ..)).ite
      (State.ifOk_framed fun _ y => State.fwAbandon_within y))

theorem State.bandCommand_framed (s : State) (b : Nat) : Framed [.rx, .pwr] s (s.bandCommand b) :=
  State.ifOk_framed fun _ _ => bandRestartAction_within ..

theorem State.imageFinal_framed (s : State) (h : Hdr) (v : Bytes) : Framed [.flash] s (s.imageFinal h v) :=
  Framed.ite ⟨Within.update [.flash] (by rfl), trivial⟩ (State.no_framed ..)

/-- The commands of the later objects, each within the parts of its object's row. -/
theorem State.laterCommand_framed (s : State) {o : Obj} (v : Bytes) (hacc : o.acc = .cmd) (hkind : o.kind = .cmd) :
    Framed (o.parts v) s (s.laterCommand o.id (leNat v)) := by
  obtain ⟨id, ty, acc, kind, role, owner, lo, hi, step, zero, dflt, sat⟩ := o
  dsimp only at hacc hkind ⊢
  subst hacc hkind
  unfold State.laterCommand
  refine .cases (by rintro rfl; exact (State.ifOk_framed fun _ y => feClearAction_within y).up (by rfl)) fun _ => ?_
  refine .cases (by rintro rfl; exact (State.queueing_framed fun k y => hkCalibrateAction_within k y).up (by rfl)) fun _ => ?_
  refine .cases (by
    rintro rfl
    exact (State.queueing_framed (l := []) fun _ _ =>
      ((State.enqueued_quiet ..).trans (modeRequestAction_quiet ..)).within).up (by rfl)) fun _ => ?_
  refine .cases (by rintro rfl; exact (State.ifOk_framed coilTripClearAction_within).up (by rfl)) fun _ => ?_
  refine .cases (by rintro rfl; exact (State.capControl_framed ..).up (by rfl)) fun _ => ?_
  refine .cases (by rintro rfl; exact (State.capRelease_framed ..).up (by rfl)) fun _ => ?_
  refine .cases (by
    rintro rfl
    by_cases hv : leNat v = 0x12
    · rw [hv]
      exact (State.calCommand_framed s 0x12 calRequestAction_traceCommit).mono (by simp +decide [Obj.parts, hv])
    · exact (State.calCommand_framed s _ (calRequestAction_within _)).mono (by simp +decide [Obj.parts, hv])) fun _ => ?_
  refine .cases (by rintro rfl; exact (State.revertCommand_framed ..).up (by rfl)) fun _ => ?_
  refine .cases (by rintro rfl; exact (State.ticketed_framed fun _ y => recClearAction_within y).up (by rfl)) fun _ => ?_
  refine .cases (by rintro rfl; exact (State.fwCommand_framed ..).up (by rfl)) fun _ => ?_
  exact (State.secCommand_framed ..).mono (List.nil_subset _)

/-- Every command stays within the parts of its object's row; the domain of CODE_SOURCE acknowledges. -/
theorem State.command_framed (s : State) (h : Hdr) (svc : Nat) (x : Session) {o : Obj} (v : Bytes) (hacc : o.acc = .cmd)
    (hkind : o.kind = .cmd) (hn : o.id = Id.CODE_SOURCE → h.noAck = false) :
    Framed (o.parts v) s (s.command h svc x o.id (leNat v)) := by
  have later := s.laterCommand_framed v hacc hkind
  obtain ⟨id, ty, acc, kind, role, owner, lo, hi, step, zero, dflt, sat⟩ := o
  dsimp only at hacc hkind hn later ⊢
  subst hacc hkind
  unfold State.command
  refine .cases (by rintro rfl; exact (State.lockControl_framed ..).up (by rfl)) fun _ => ?_
  refine .cases (by rintro rfl; exact (State.codeSource_framed s x _ (hn rfl)).up (by rfl)) fun _ => ?_
  refine .cases (by rintro rfl; exact (State.powerCommand_framed ..).up (by rfl)) fun _ => ?_
  refine .cases (by rintro rfl; exact (State.ticketed_framed fun _ y => padReleaseAction_within _ y).up (by rfl)) fun _ => ?_
  refine .cases (by rintro rfl; exact (State.ifOk_framed laneRestartAction_within).up (by rfl)) fun _ => ?_
  refine .cases (by rintro rfl; exact (State.ifOk_framed fun k y => laneRejoinAction_within _ k y).up (by rfl)) fun _ => ?_
  refine .cases (by rintro rfl; exact (State.queueing_framed (l := []) fun _ _ => (State.enqueued_quiet ..).within).up (by rfl)) fun _ => ?_
  refine .cases (by
    rintro rfl
    exact ((State.queueing_framed (l := []) fun _ _ => (State.enqueued_quiet ..).within).ite
      (State.no_framed ..)).up (by rfl)) fun _ => ?_
  refine .cases (by rintro rfl; exact (State.ticketed_framed fun _ y => emitStopAction_within y).up (by rfl)) fun _ => ?_
  refine .cases (by rintro rfl; exact (State.ifOk_framed fun _ y => emitClearAction_within _ y).up (by rfl)) fun _ => ?_
  refine .cases (by rintro rfl; exact (State.queueing_framed fun k y => channelUnmaskAction_within _ k y).up (by rfl)) fun _ => ?_
  refine .cases (by rintro rfl; exact (State.bandCommand_framed ..).up (by rfl)) fun _ => ?_
  refine .cases (by rintro rfl; exact (State.ticketed_framed fun _ y => busTriggerAction_within y).up (by rfl)) fun _ => ?_
  exact later

/-! ### Writes -/

/-- A write that passes step 4 names no read-only object. -/
theorem State.writeCheck_writable {s : State} {x : Session} {o : Obj} {v : Bytes} (h : s.writeCheck x o v = none) : o.acc ≠ .ro := by
  intro hro
  unfold State.writeCheck at h
  rw [if_pos hro] at h
  split at h
  · cases h
  · split at h <;> cases h

theorem Obj.parts_cfg {o : Obj} (v : Bytes) (hacc : o.acc ≠ .rwl) (hkind : o.kind = .cfg) : o.parts v = [.cfg] := by
  obtain ⟨id, ty, acc, kind, role, owner, lo, hi, step, zero, dflt, sat⟩ := o
  dsimp only at hacc hkind
  subst hkind
  cases acc with
  | rwl => exact absurd rfl hacc
  | ro | rw | wo | cmd => rfl

theorem Obj.parts_image {o : Obj} (v : Bytes) (hacc : o.acc = .rw ∨ o.acc = .wo) (hcfg : o.kind ≠ .cfg) (hctr : o.kind ≠ .counter)
    (hid : o.id = Id.FW_IMAGE) : o.parts v = [.flash] := by
  obtain ⟨id, ty, acc, kind, role, owner, lo, hi, step, zero, dflt, sat⟩ := o
  dsimp only at hacc hcfg hctr hid
  subst hid
  cases kind with
  | cfg => exact absurd rfl hcfg
  | counter => exact absurd rfl hctr
  | fac | live | cmd | const | satBits =>
    obtain rfl | rfl := hacc
    · rfl
    · rfl

/-- The values that are no configuration, no counter and no command. -/
theorem State.applyValue_framed (s : State) (h : Hdr) (x : Session) {o : Obj} (v : Bytes) (hacc : o.acc = .rw ∨ o.acc = .wo)
    (hcfg : o.kind ≠ .cfg) (hctr : o.kind ≠ .counter)
    (hid : o.id = Id.CAP_READ_SELECT ∨ o.id = Id.REC_SELECT ∨ o.id = Id.KEY_WRITE ∨ o.id = Id.FW_IMAGE) :
    Framed (o.parts v) s (if o.id = Id.CAP_READ_SELECT then s.selectSegment x v
      else if o.id = Id.REC_SELECT then s.selectEntry x v
      else if o.id = Id.KEY_WRITE then s.keyWrite x v
      else s.imageFinal h v) := by
  refine .cases (fun _ => (State.selectSegment_framed ..).mono (List.nil_subset _)) fun h1 => ?_
  refine .cases (fun _ => (State.selectEntry_framed ..).mono (List.nil_subset _)) fun h2 => ?_
  refine .cases (fun _ => (State.keyWrite_framed ..).mono (List.nil_subset _)) fun h3 => ?_
  rw [Obj.parts_image v hacc hcfg hctr (((hid.resolve_left h1).resolve_left h2).resolve_left h3)]
  exact State.imageFinal_framed ..

/-- A value that passes every check stays within the parts of its object's row. -/
theorem Takes.apply_framed {s : State} {t : Time} {id : Nat} {h : Hdr} {v : Bytes} {s2 : State} {r : Rcvd} {x : Session} {o : Obj}
    {fl : Nat} (H : Takes s t id h v s2 r x o fl) : Framed (o.parts v) s2 (s2.apply r.h 0x11 x o v fl) := by
  obtain ⟨-, hlt, hcmd, hval, hown⟩ := lookup_regular H.object
  have hro := State.writeCheck_writable H.allowed
  unfold State.apply
  rw [H.served, if_neg (by decide)]
  split
  · exact (State.stage_framed ..).mono (List.nil_subset _)
  · next hacc =>
    exact State.command_framed _ _ _ _ _ hacc (hcmd hacc) fun hid =>
      State.writeDomain_codeSource hid hacc (hcmd hacc) (hown hid) H.powered
  · exact ⟨(State.clearCounter_quiet ..).within.mono (List.nil_subset _), trivial⟩
  · next hkind hrwl _ =>
    rw [Obj.parts_cfg v hrwl hkind]
    exact ⟨.update [.cfg] (by rfl), trivial⟩
  · next hrwl hcmd' hctr hcfg =>
    have hacc : o.acc = .rw ∨ o.acc = .wo := by cases ha : o.acc <;> simp_all
    exact State.applyValue_framed _ _ _ _ hacc hcfg hctr (hval hacc hcfg hctr)

/-- The message of a write runs as the write of its object. -/
theorem doRequest_write (t : Time) (id : Nat) (h : Hdr) (v : Bytes) (s : State) :
    doRequest t 0x11 h (writePayload id v) s = doWriteObject t id h v s := rfl

/-- Settles O9: the write's object gives the parts that its own change may write; the way to it and the answer are quiet. -/
theorem writesTouchOnlyTheirParts : Obligations.WritesTouchOnlyTheirParts := by
  unfold Obligations.WritesTouchOnlyTheirParts
  intro c t id h v s s2 u r x o fl hc H hu
  obtain ⟨rfl, hreg⟩ := lookup_regular H.object
  obtain ⟨hstate, hreply⟩ := H.apply_framed
  have hq : Quiet s s2 := (State.at_quiet s t).trans (reaches_quiet H.heard)
  rw [hostMessage_exec c s hc, doRequest_write, H.runs hreg.id_lt] at hu
  cases hu
  exact ((hq.within.seq hstate).then (State.respond_quiet _ _ _ _ _ hreply)).quiet

end Sys2Proof.Machine
end

