-- ==== Sys2Proof/Proofs/Steps.lean ====
section
/-! PROOFS. What one step of the block does with its queue. -/

namespace Sys2Proof.Machine

open Sys2Proof

/-- With a command at the front of the queue, a step runs it on the state with the queue's rest. -/
theorem step_of_front {s : State} {c : Instr} {rest : List Instr} (h : s.pending = c :: rest) :
    step s = exec c { s with pending := rest } := by
  unfold step
  rw [h]

/-- With an empty queue the block idles. -/
theorem step_of_empty {s : State} (h : s.pending = []) : step s = .next s := by
  unfold step
  rw [h]

/-- Settles O1: the two cases of `step`; putting a command before the queue and taking it off again gives the state back. -/
theorem stepRunsTheFrontCommand : Obligations.StepRunsTheFrontCommand := by
  unfold Obligations.StepRunsTheFrontCommand
  exact ⟨fun c s => step_of_front (s := { s with pending := c :: s.pending }) rfl, fun _ h => step_of_empty h⟩

end Sys2Proof.Machine
end

