-- ==== Sys2Proof/Proofs/ShotFrames.lean ====
section
/-! PROOFS. Frames of the events of the emitter, the slots, the camera's edges and the receiver that touch few parts of the state. -/

namespace Sys2Proof.Machine

open Sys2Proof

/-- A command first moves the clock to its instant, which no part of the state holds. -/
theorem Within.timed {l : List Part} {s u : State} {t : Time} (h : Within l (s.at t) u) : Within l s u :=
  (State.at_quiet s t).within.seq h

/-! ### The bank, the trips and the bars -/

theorem State.bankFault_within (s : State) : Within [.emit] s s.bankFault :=
  ((State.tripSet_within ..).seq ((State.tripClear_within ..).seq (.update [.emit] (by rfl)))).up (by rfl)

theorem doBankReady_within (t : Time) (s : State) : Within [.emit] s (doBankReady t s) :=
  .timed (.when (.update [.emit] (by rfl)))

theorem doBankFaultTimeout_within (t : Time) (s : State) : Within [.emit] s (doBankFaultTimeout t s) := by
  unfold doBankFaultTimeout
  extract_lets s0
  refine .timed (t := t) ?_
  split
  · exact .when (State.bankFault_within _)
  · exact .unchanged ..

theorem doBankOvervoltage_within (t : Time) (s : State) : Within [.emit] s (doBankOvervoltage t s) :=
  .timed (State.bankFault_within _)

theorem doEmitTrip_within (t : Time) (b : Fin 11) (level : Bool) (s : State) : Within [.emit] s (doEmitTrip t b level s) := by
  unfold doEmitTrip
  extract_lets s0 s1 _ s2
  have h2 : Within [.emit] s1 s2 := .when (.update [.emit] (by rfl))
  exact .timed (((State.trip_within s0 ..).seq (h2.seq (State.emitAdvance_within s2))).up (by rfl))

theorem State.keepReading_within (s : State) (r : BarReading) : Within [.emit] s (s.keepReading r) := .update _ (by rfl)

theorem State.judgeBar_within (s : State) (r : BarReading) : Within [.emit] s (s.judgeBar r) := by
  unfold State.judgeBar
  extract_lets b s1 retire s2
  have hretire : ∀ x k, Within [.emit] x (retire x k) := fun x k =>
    ((Within.refl x).ite ((Within.update [.emit] (by rfl)).then (State.raise_quiet ..))).up (by rfl)
  have h2 : Within [.emit] s1 s2 := by
    unfold s2
    split
    · exact hretire s1 1
    · exact hretire s1 2
    · exact (State.raise_quiet ..).within.up (by rfl)
    · exact .unchanged ..
  exact ((State.keepReading_within ..).seq (h2.seq (.when ((Within.update [.emit] (by rfl)).then (State.raise_quiet ..))))).up (by rfl)

theorem State.retest_within (s : State) (k : Ticket) (readings : List BarReading) : Within [.emit] s (s.retest k readings) := by
  unfold State.retest
  extract_lets named good s1 s2 g
  have h1 : Within [.emit] s s1 := Within.foldl State.keepReading_within named s
  exact ((h1.then (State.dequeue_quiet s1 _)).seq (.update [.emit] (by rfl))).up (by rfl)

theorem doBarTest_within (t : Time) (readings : List BarReading) (s : State) : Within [.emit] s (doBarTest t readings s) := by
  unfold doBarTest
  extract_lets s0
  refine .timed (t := t) (.when ?_)
  exact ((Within.foldl State.judgeBar_within _ _).seq (Within.foldl (fun _ _ => State.retest_within ..) _ _)).up (by rfl)

theorem doBarFullTest_within (t : Time) (readings : List BarReading) (s : State) :
    Within [.emit] s (doBarFullTest t readings s) := by
  unfold doBarFullTest
  extract_lets s0 _ s1 found s2
  refine .timed (t := t) (.when ?_)
  have h1 : Within [.emit] s0 s1 :=
    ((Within.update [.emit] (by rfl)).seq (Within.foldl State.judgeBar_within readings _)).up (by rfl)
  exact (h1.seq ((State.tripClear_within s1 8).seq
    ((State.emitAdvance_within s2).ite ((State.tripSet_within s2 7).seq (State.tripClear_within ..))))).up (by rfl)

theorem State.bankInhibit_within (s : State) (cause : Nat) : Within [.emit] s (s.bankInhibit cause) :=
  (Within.update [.emit] (by rfl)).then (State.raise_quiet ..)

theorem State.bankResume_within (s : State) : Within [.emit] s s.bankResume :=
  .when (((Within.update [.emit] (by rfl)).ite (.update [.emit] (by rfl))).up (by rfl))

/-! ### Slots -/

theorem State.countHeld_within (s : State) (d : Decision) : Within [.emit] s (s.countHeld d) := by
  unfold State.countHeld
  extract_lets _ _ s1 s2
  have h2 : Within [.emit] s s2 := (Within.update (u := s1) [.emit] (by rfl)).then
    ((State.count_quiet ..).trans (State.count_quiet ..))
  exact h2.then (Quiet.ite (State.raise_quiet ..) (Quiet.refl s2))

theorem State.charge_within (s : State) (d : Decision) (t : Time) (buckets : Bool) :
    Within [.emit, .therm] s (s.charge d t buckets) := .update _ (by rfl)

theorem State.monitor_within (s : State) (d : Decision) (x : SlotIn) : Within [.emit] s (s.monitor d x) := by
  unfold State.monitor
  extract_lets _ _ _ _ _ _ _ _ s1 s2 s3
  have h2 : Within [.emit] s1 s2 := .when (((State.tripSet_within ..).seq (State.tripClear_within ..)).up (by rfl))
  exact (Within.seq (u := s1) (.update [.emit] (by rfl)) (h2.seq
    (((State.tripSet_within s2 8).seq (.update (s := s3) [.emit] (by rfl))).ite (Within.refl s2)))).up (by rfl)

theorem State.fired_within (s : State) (d : Decision) (t : Time) (buckets : Bool) (x : SlotIn) :
    Within [.emit, .therm] s ((s.charge d t buckets).monitor d x) :=
  ((State.charge_within ..).seq (State.monitor_within ..)).up (by rfl)

theorem State.windowShot_within (s : State) (entry w : Nat) (x : SlotIn) :
    Within [.scan, .emit, .therm] s (s.windowShot entry w x) := by
  unfold State.windowShot
  extract_lets _ d s1 energies _ s2
  have h2 : Within [.scan] s1 s2 := .update _ (by rfl)
  exact ((Within.refl s).ite ((State.countHeld_within s d).seq
    ((Within.refl s1).ite (h2.seq (State.fired_within s2 ..))))).up (by rfl)

theorem State.columnSlot_within (s : State) (cal : Option Nat) (x : SlotIn) :
    Within [.scan, .emit, .rx, .therm] s (s.columnSlot cal x) := by
  unfold State.columnSlot
  extract_lets c k p used start fire planned borrowMax lend entry dark d tripped fired _ s1 rec_ _ _ _ s2
  have h1 : Within [.emit] s s1 := ((((Within.refl s).ite (.update [.emit] (by rfl))).ite
    ((Within.refl s).ite (State.countHeld_within ..)))).up (by rfl)
  have h2 : Within [.rx, .scan] s1 s2 := .update _ (by rfl)
  exact (h1.seq (h2.seq (.when (State.fired_within ..)))).up (by rfl)

theorem doSlotDecision_within (t : Time) (cal : Option U32) (x : SlotIn) (s : State) :
    Within [.scan, .emit, .rx, .therm] s (doSlotDecision t cal x s) := by
  unfold doSlotDecision
  extract_lets s0
  refine .timed (t := t) ?_
  split
  · exact .unchanged ..
  · split
    · split
      · exact (State.windowShot_within ..).up (by rfl)
      · exact .unchanged ..
    · exact .when (State.columnSlot_within ..)

/-! ### Camera edges -/

theorem State.outOfRange_within (s : State) : Within [.scan] s s.outOfRange :=
  (Within.update [.scan] (by rfl)).then (State.raise_quiet ..)

theorem State.lullEdge_within (s : State) : Within [.scan] s s.lullEdge := by
  unfold State.lullEdge
  split
  · exact .when ((((State.enterRelock_within s).then (State.raise_quiet ..)).ite
      ((Within.refl s).ite (State.outOfRange_within s))).up (by rfl))
  · exact .unchanged ..

theorem State.takeIndex_quiet (s : State) (stamp : Int) : Quiet s (s.takeIndex stamp).1 := by
  unfold State.takeIndex
  split
  · exact (State.dequeue_quiet ..).trans (State.raise_quiet ..)
  · exact Quiet.refl s

theorem State.acceptEdge_within (s : State) (stamp : Int) : Within [.scan] s (s.acceptEdge stamp) := by
  unfold State.acceptEdge
  extract_lets early p idx s2 x s3
  have h2 : Within [.scan] s s2 := ((State.takeIndex_quiet s stamp).within.seq (State.setCamera_within ..)).up (by rfl)
  have h3 : Within [.scan] s2 s3 := .update _ (by rfl)
  exact ((State.count_quiet s ..).within.ite (h2.seq (h3.seq (.when (State.lullEdge_within s3))))).up (by rfl)

theorem doFsyncEdge_within (t : Time) (rising : Bool) (s : State) : Within [.scan] s (doFsyncEdge t rising s) :=
  .timed (.when (State.acceptEdge_within ..))

theorem doFsyncLull_within (t : Time) (s : State) : Within [.scan] s (doFsyncLull t s) := by
  unfold doFsyncLull
  extract_lets s0 silent
  exact .timed (.when ((State.enterLull_within s0).then ((State.count_quiet ..).trans (State.raise_quiet ..))))

theorem doCameraVirtualEdge_within (t : Time) (s : State) : Within [.scan] s (doCameraVirtualEdge t s) := by
  unfold doCameraVirtualEdge
  extract_lets s0 s1
  exact .timed (.when (((State.setCamera_within s0 ..).seq (.update (s := s1) [.scan] (by rfl))).up (by rfl)))

/-! ### The receiver -/

theorem State.litStop_within (s : State) (row : Nat) (x : SlotRec) (t : Time) (spads : Nat) :
    Within [.rx] s (s.litStop row x t spads) := by
  unfold State.litStop
  extract_lets c stamp launch f held acc limited word bin raise_ hist
  exact ((Within.refl s).ite (((Within.update [.rx] (by rfl)).then (State.count_quiet ..)).ite (.update [.rx] (by rfl)))).up (by rfl)

theorem doStop_within (t : Time) (row : Fin 512) (spads : Nat) (s : State) : Within [.rx] s (doStop t row spads s) := by
  unfold doStop
  extract_lets s0 b p used hit dead last _ _ s1
  clear_value hit
  refine .timed (t := t) ?_
  split
  · exact .unchanged ..
  · split
    · exact .unchanged ..
    · have h1 : Within [.rx] s0 s1 := .update _ (by rfl)
      exact (h1.seq ((Within.refl s1).ite ((State.litStop_within s1 ..).ite (.update [.rx] (by rfl))))).up (by rfl)

theorem doBiasUpdate_within (t : Time) (s : State) : Within [.rx] s (doBiasUpdate t s) :=
  .timed (Within.foldl (fun _ _ => .when (State.modBand_within ..)) _ _)

theorem State.markFailed_within (s : State) (d cause : Nat) : Within [.pwr] s (s.markFailed d cause) :=
  (Within.update [.pwr] (by rfl)).then (State.raise_quiet ..)

theorem State.bandFail_within (s : State) (b cause : Nat) (ticket : U32) : Within [.rx, .pwr] s (s.bandFail b cause ticket) := by
  unfold State.bandFail
  extract_lets s1
  exact ((Within.refl s).ite (((State.modBand_within ..).seq (State.markFailed_within s1 ..)).then (State.raise_quiet ..))).up (by rfl)

theorem State.maskRow_within (s : State) (row cause : Nat) : Within [.rx] s (s.maskRow row cause) := by
  unfold State.maskRow
  extract_lets _ s1
  have h1 : Within [.rx] s s1 := .update _ (by rfl)
  exact ((Within.refl s).ite ((h1.then ((State.count_quiet ..).trans (State.raise_quiet ..))).seq
    (State.refreshBand_within ..))).up (by rfl)

theorem State.judgeChannel_within (s : State) (b : Nat) (fails last : List (BitVec 32)) (cleared : BitVec 32) (c : Nat) :
    Within [.rx] s (s.judgeChannel b fails last cleared c) :=
  (((Within.refl s).ite (State.maskRow_within ..)).ite ((Within.refl s).ite (State.maskRow_within ..))).up (by rfl)

theorem State.unmaskRun_within (s : State) (b : Nat) (failed : BitVec 32) : Within [.rx] s (s.unmaskRun b failed) := by
  unfold State.unmaskRun
  extract_lets upd done _ s1
  have h1 : Within [.rx] s s1 := .update _ (by rfl)
  exact (h1.seq (Within.foldl (l := [])
    (fun _ _ => ((State.dequeue_quiet ..).trans (State.raise_quiet ..)).within) done s1)).up (by rfl)

theorem State.testBand_within (s : State) (b : Nat) (r : BandResult) : Within [.rx, .pwr] s (s.testBand b r) := by
  unfold State.testBand
  extract_lets x fails all cleared any test mask _ s1 s2 s3 s4 s5
  have h2 : Within [.rx] s s2 := (Within.seq (u := s1) (.update [.rx] (by rfl))
    ((State.modBand_within s1 ..).seq (State.refreshBand_within ..))).up (by rfl)
  have h3 : Within [.rx] s2 s3 := Within.foldl (fun _ _ => State.judgeChannel_within ..) _ s2
  refine ((h2.seq (h3.seq (State.unmaskRun_within s3 b any))).seq (m := [.rx, .pwr]) ?_).up (by rfl)
  split
  · exact ((State.bandFail_within ..).ite ((State.modBand_within s4 ..).then (State.raise_quiet ..))).up (by rfl)
  · exact ((State.bandFail_within ..).ite ((State.modBand_within ..).ite (Within.refl s4))).up (by rfl)

theorem doBandTest_within (t : Time) (b : Fin 16) (r : BandResult) (s : State) : Within [.rx, .pwr] s (doBandTest t b r s) :=
  .timed (.when (State.testBand_within ..))

theorem doPllRelock_within (t : Time) (b : Fin 16) (ok : Bool) (s : State) : Within [.rx, .pwr] s (doPllRelock t b ok s) :=
  .timed (((Within.refl _).ite ((State.modBand_within ..).ite (State.bandFail_within ..))).up (by rfl))

theorem doPllUnlock_within (t : Time) (b : Fin 16) (s : State) : Within [.rx, .pwr] s (doPllUnlock t b s) := by
  unfold doPllUnlock
  extract_lets s0 x f frames s1 s2
  have h2 : Within [.rx] s0 s2 := (State.modBand_within ..).then ((State.count_quiet ..).trans (State.raise_quiet ..))
  exact .timed (((Within.refl s0).ite (h2.seq (.when (State.bandFail_within s2 ..)))).up (by rfl))

end Sys2Proof.Machine
end

