-- ==== Sys2Proof/Proofs/InterfaceFrames.lean ====
section
/-! PROOFS. Frames of the events of the edge inputs, the trigger bus, the network, the streams and the capture that touch few parts of the
state. -/

namespace Sys2Proof.Machine

open Sys2Proof

/-! ### Edge inputs -/

theorem State.tinDrain_within (s : State) : Within [.tin] s s.tinDrain :=
  ((Within.update [.tin] (by rfl)).ite (.update [.tin] (by rfl))).up (by rfl)

theorem State.tinFill_within (s : State) : Within [.tin] s s.tinFill := .update _ (by rfl)

theorem State.tinOpen_within (s : State) (kind : Nat) (t back : Int) (rising : Bool) (prev : Option Int) (seen : Bool) :
    Within [.tin, .bus] s (s.tinOpen kind t back rising prev seen).1 := by
  unfold State.tinOpen
  extract_lets n r _ s1 inst s2
  have h1 : Within [.tin] s s1 := .update _ (by rfl)
  have h2 : Within [.bus] s1 s2 := (State.offer_quiet s1 _).within.seq (State.busSend_within ..)
  exact (h1.seq (h2.seq (State.tinFill_within s2))).up (by rfl)

theorem State.tinAnchor_within (s : State) (i : Nat) (t back : Int) (rising : Bool) :
    Within [.tin, .bus] s (s.tinAnchor i t back rising) := by
  unfold State.tinAnchor
  extract_lets x p s2
  have h2 : Within [.tin, .bus] s s2 := ((State.tinOpen_within s ..).seq (State.modInput_within ..)).up (by rfl)
  exact (h2.seq (.when (State.tinClose_within s2 ..))).up (by rfl)

theorem State.tinAppend_within (s : State) (i : Nat) (r : TinRec) (t : Int) (rising : Bool) :
    Within [.tin] s (s.tinAppend i r t rising) := by
  unfold State.tinAppend
  extract_lets w r1 s1
  have h1 : Within [.tin] s s1 := ((State.modInput_within ..).seq (State.tinFill_within _)).up (by rfl)
  exact (((State.modInput_within s ..).then (State.count_quiet ..)).ite
    (h1.seq ((State.tinClose_within s1 ..).ite (Within.refl s1)))).up (by rfl)

theorem State.tinAccept_within (s : State) (i : Nat) (t back : Int) (rising : Bool) :
    Within [.tin, .bus] s (s.tinAccept i t back rising) := by
  unfold State.tinAccept
  extract_lets s1 x _
  refine (((State.modInput_within ..).then (State.count_quiet ..)).seq (u := s1) (m := [.tin, .bus]) ?_).up (by rfl)
  split
  · exact State.tinAnchor_within ..
  · exact (((State.tinClose_within s1 ..).seq (State.tinAnchor_within ..)).ite
      (((State.tinClose_within s1 ..).seq (State.tinAnchor_within ..)).ite (State.tinAppend_within s1 ..))).up (by rfl)

theorem State.gateRecord_within (s : State) (rising : Bool) : Within [.tin, .bus] s (s.gateRecord rising) :=
  ((State.tinOpen_within ..).seq ((Within.update [.tin] (by rfl)).seq (State.tinQueue_within ..))).up (by rfl)

theorem doTinEdge_within (t : Time) (input : Fin 4) (rising : Bool) (s : State) :
    Within [.tin, .bus] s (doTinEdge t input rising s) := by
  unfold doTinEdge
  extract_lets s0 i x blind s1 skew
  have h1 : Within [.tin] s0 s1 := State.modInput_within ..
  exact .timed (((State.tinDrain_within (s.at t)).seq ((Within.refl s0).ite
    (((State.modInput_within ..).then (State.count_quiet ..)).ite (h1.seq ((State.tinAccept_within s1 ..).ite (Within.refl s1)))))).up (by rfl))

theorem doGateEdge_within (t : Time) (rising : Bool) (s : State) : Within [.tin, .bus] s (doGateEdge t rising s) := by
  unfold doGateEdge
  extract_lets s0 _ s1 _ s2 s3
  have h1 : Within [.tin] s0 s1 := .update _ (by rfl)
  have h3 : Within [.tin] s1 s3 := (Within.seq (u := s2) (.update [.tin] (by rfl))
    ((Within.refl s2).ite (State.tinCloseAll_within s2 2))).up (by rfl)
  exact .timed (((State.tinDrain_within (s.at t)).seq ((Within.refl s0).ite (h1.seq ((Within.refl s1).ite
    (h3.seq ((State.gateRecord_within s3 rising).ite (Within.refl s3))))))).up (by rfl))

theorem doTinRecordCloseIdle_within (t : Time) (input : Fin 4) (s : State) :
    Within [.tin] s (doTinRecordCloseIdle t input s) :=
  .timed (.when (State.tinClose_within ..))

theorem doRefinEdge_within (t : Time) (s : State) : Within [.tin] s (doRefinEdge t s) :=
  .timed (((Within.refl _).ite (.update [.tin] (by rfl))).up (by rfl))

/-! ### The trigger bus -/

theorem State.modPeer_within (s : State) (p : Nat) (f : BusPeer → BusPeer) : Within [.bus] s (s.modPeer p f) := .update _ (by rfl)

theorem State.busConflict_within (s : State) (kind position : Nat) : Within [.bus] s (s.busConflict kind position) :=
  ((Within.refl s).ite ((Within.update [.bus] (by rfl)).then (State.raise_quiet ..))).up (by rfl)

theorem State.busReceive_within (s : State) (own : Bool) (kind : Nat) (source : BitVec 4) (payload : U32) (crc : Byte) :
    Within [.bus] s (s.busReceive own kind source payload crc).1 := by
  unfold State.busReceive
  split
  · exact .unchanged ..
  · split
    · exact (State.count_quiet s Id.BUS_CRC_ERRORS 1).within.up (by rfl)
    · split
      · exact .unchanged ..
      · split
        · exact State.busConflict_within ..
        · exact State.modPeer_within ..

theorem State.busPut_quiet (s : State) (kind payload : Nat) : Quiet s (s.busPut kind payload) := State.send_quiet ..

theorem State.busMismatch_within (s : State) (mode shot : Nat) : Within [.bus] s (s.busMismatch mode shot) :=
  ((Within.update [.bus] (by rfl)).ite ((Within.refl s).ite ((Within.update [.bus] (by rfl)).then (State.raise_quiet ..)))).up (by rfl)

theorem State.busMessage_within (s : State) : Within [.bus] s s.busMessage := by
  unfold State.busMessage
  split
  · exact (Within.update [.bus] (by rfl)).then (State.busPut_quiet ..)
  · split
    · exact (Within.update [.bus] (by rfl)).then (State.busPut_quiet ..)
    · split
      · exact ((State.modPeer_within ..).seq ((Within.update [.bus] (by rfl)).then (State.busPut_quiet ..))).up (by rfl)
      · exact .when ((Within.update [.bus] (by rfl)).then (State.busPut_quiet ..))

theorem doBusAnnounce_within (t : Time) (own : Bool) (source : BitVec 4) (payload : U32) (crc : Byte) (s : State) :
    Within [.bus] s (doBusAnnounce t own source payload crc s) := by
  unfold doBusAnnounce
  extract_lets r s0 code
  exact .timed (((State.busReceive_within (s.at t) ..).seq
    ((Within.refl s0).ite ((State.modPeer_within ..).then (State.raise_quiet ..)))).up (by rfl))

theorem doBusProbe_within (t : Time) (own : Bool) (source : BitVec 4) (payload : U32) (crc : Byte) (s : State) :
    Within [.bus] s (doBusProbe t own source payload crc s) := by
  unfold doBusProbe
  extract_lets r s0 target
  exact .timed (((State.busReceive_within (s.at t) ..).seq ((Within.refl s0).ite ((Within.update [.bus] (by rfl)).ite
    ((Within.update [.bus] (by rfl)).ite (Within.refl s0))))).up (by rfl))

theorem doBusReply_within (t : Time) (own : Bool) (source : BitVec 4) (payload : U32) (crc : Byte) (s : State) :
    Within [.bus] s (doBusReply t own source payload crc s) := by
  unfold doBusReply
  extract_lets r s0 _ s1
  have h1 : Within [.bus] s0 s1 := .update _ (by rfl)
  refine .timed (((State.busReceive_within (s.at t) ..).seq (u := s0) (m := [.bus]) ?_).up (by rfl))
  split
  · exact .unchanged ..
  · split
    · exact ((Within.refl s0).ite (h1.seq ((Within.refl s1).ite (State.modPeer_within s1 ..)))).up (by rfl)
    · exact .unchanged ..

theorem doBusTriggerMessage_within (t : Time) (own : Bool) (source : BitVec 4) (payload : U32) (crc : Byte) (s : State) :
    Within [.bus] s (doBusTriggerMessage t own source payload crc s) := by
  unfold doBusTriggerMessage
  extract_lets r s0 d back
  exact .timed ((State.busReceive_within (s.at t) ..).then (Quiet.ite (Quiet.refl s0) (State.offer_quiet ..)))

theorem doBusFrame_within (t : Time) (own : Bool) (source : BitVec 4) (payload : U32) (crc : Byte) (s : State) :
    Within [.scan, .bus] s (doBusFrame t own source payload crc s) := by
  unfold doBusFrame
  extract_lets r s0 _ s1 p s2
  have h1 : Within [.bus] s0 s1 := .update _ (by rfl)
  have h2 : Within [.bus] s1 s2 := State.busMismatch_within ..
  refine .timed (((State.busReceive_within (s.at t) ..).seq (u := s0) ((Within.refl s0).ite ((State.busConflict_within ..).ite
    (h1.seq ((Within.refl s1).ite (h2.seq (m := [.scan]) ?_)))))).up (by rfl))
  split
  · exact .when (State.acceptEdge_within s2 _)
  · exact .unchanged ..

theorem doBusClockAdopt_within (t : Time) (s : State) : Within [.bus] s (doBusClockAdopt t s) :=
  .timed (.when (((Within.update [.bus] (by rfl)).ite (.update [.bus] (by rfl))).up (by rfl)))

theorem doBusClockLost_within (t : Time) (s : State) : Within [.bus] s (doBusClockLost t s) :=
  .timed (((Within.update [.bus] (by rfl)).then (State.raise_quiet ..)).ite (.update [.bus] (by rfl)) |>.up (by rfl))

theorem doBusFrameSilence_within (t : Time) (s : State) : Within [.bus] s (doBusFrameSilence t s) := by
  unfold doBusFrameSilence
  extract_lets s0
  refine .timed (t := t) ?_
  split
  · exact .when (.update _ (by rfl))
  · exact .unchanged ..

theorem doBusWindow_within (t : Time) (s : State) : Within [.bus] s (doBusWindow t s) := by
  unfold doBusWindow
  extract_lets s0
  refine .timed (((State.busPurge_within (s.at t)).seq (u := s0) (m := [.bus]) ?_).up (by rfl))
  split
  · exact .when (((Within.update [.bus] (by rfl)).seq (State.busMessage_within _)).up (by rfl))
  · exact .unchanged ..

/-! ### The network and the streams -/

theorem doCanBusOff_within (t : Time) (s : State) : Within [.net] s (doCanBusOff t s) :=
  .timed (.when ((Within.update [.net] (by rfl)).then (State.raise_quiet ..)))

theorem doCanRecovered_within (t : Time) (s : State) : Within [.net] s (doCanRecovered t s) :=
  .timed (.when ((Within.update [.net] (by rfl)).then (State.raise_quiet ..)))

theorem doGptpLost_within (t : Time) (s : State) : Within [.net] s (doGptpLost t s) :=
  .timed (.when ((Within.update [.net] (by rfl)).then (State.raise_quiet ..)))

theorem doGptpSynced_within (t : Time) (offset servo : Int) (s : State) : Within [.net] s (doGptpSynced t offset servo s) := by
  unfold doGptpSynced
  extract_lets s0 _ s1
  have h1 : Within [.net] s0 s1 := .update _ (by rfl)
  exact .timed (((Within.refl s0).ite (h1.ite (h1.then (State.raise_quiet ..)))).up (by rfl))

theorem doLinkDown_within (t : Time) (s : State) : Within [.net, .stream] s (doLinkDown t s) :=
  .timed (((Within.refl _).ite (((Within.update [.net] (by rfl)).seq (State.streamLost_within _)).then
    (State.raise_quiet ..))).up (by rfl))

theorem doLinkUp_within (t : Time) (s : State) : Within [.net, .stream] s (doLinkUp t s) := by
  unfold doLinkUp
  extract_lets s0 _ s1
  have h1 : Within [.net] s0 s1 := .update _ (by rfl)
  exact .timed (((Within.refl s0).ite ((h1.then (State.raise_quiet ..)).seq (State.startOffload_within _))).up (by rfl))

theorem State.sendStream_within (s : State) (dests : List U32) (bs : Bytes) : Within [] s (s.sendStream dests bs) :=
  Within.foldl (fun _ _ => (State.send_quiet ..).within) _ s

theorem State.loseMark_within (s : State) (seq : U32) : Within [.stream] s (s.loseMark seq) := by
  unfold State.loseMark
  extract_lets s1 t first n quiet due s2
  exact ((State.count_quiet s ..).within.seq (((Within.update (s := s1) (u := s2) [.stream] (by rfl)).then (State.raise_quiet ..)).ite
    (.update [.stream] (by rfl)))).up (by rfl)

theorem State.trimItems_within (n : Nat) (s : State) : Within [.stream] s (s.trimItems n) := by
  induction n generalizing s with
  | zero => exact .unchanged ..
  | succ n ih =>
    unfold State.trimItems
    split
    · exact .unchanged ..
    · split
      · exact .unchanged ..
      · extract_lets _ s1
        have h1 : Within [.stream] s s1 := .update _ (by rfl)
        exact (h1.seq (((State.loseMark_within s1 _).ite (Within.refl s1)).seq (ih _))).up (by rfl)

theorem State.pushItems_within (s : State) (l : List Bytes) : Within [.stream] s (s.pushItems l) :=
  ((Within.update [.stream] (by rfl)).seq (State.trimItems_within ..)).up (by rfl)

theorem doMarksSend_within (t : Time) (s : State) : Within [.stream] s (doMarksSend t s) := by
  unfold doMarksSend
  extract_lets s0 subs p n _ s1
  have h1 : Within [.stream] s0 s1 := .update _ (by rfl)
  exact .timed (((Within.refl s0).ite (h1.seq (State.sendStream_within s1 ..))).up (by rfl))

theorem doTinRecordDelivery_within (t : Time) (s : State) : Within [.tin, .stream] s (doTinRecordDelivery t s) := by
  unfold doTinRecordDelivery
  extract_lets s0
  refine .timed (((State.tinDrain_within (s.at t)).seq (u := s0) (m := [.tin, .stream]) ?_).up (by rfl))
  split
  · exact .unchanged ..
  · extract_lets s1
    have h1 : Within [.tin] s0 s1 := .update _ (by rfl)
    exact (h1.seq ((State.pushItems_within s1 _).ite (Within.refl s1))).up (by rfl)

theorem State.offloadDone_within (s : State) (num : U32) : Within [.cap, .stream] s (s.offloadDone num) := by
  unfold State.offloadDone
  extract_lets _ s1 auto
  have h1 : Within [.cap, .stream] s s1 := ((Within.update [.stream] (by rfl)).seq (State.modHeld_within ..)).up (by rfl)
  exact (h1.seq (((State.freeSegment_within s1 num).ite (Within.refl s1)).seq (State.startOffload_within _))).up (by rfl)

theorem doDatagramSent_within (t : Time) (stream : Fin 2) (s : State) : Within [.cap, .stream] s (doDatagramSent t stream s) := by
  unfold doDatagramSent
  extract_lets s0
  refine .timed (t := t) ?_
  split
  · exact .unchanged ..
  · split
    · split
      · exact .unchanged ..
      · exact ((Within.update [.stream] (by rfl)).seq (State.sendStream_within ..)).up (by rfl)
    · split
      · exact .unchanged ..
      · extract_lets s1
        have h1 : Within [.stream] s0 s1 := ((Within.update [.stream] (by rfl)).seq (State.sendStream_within ..)).up (by rfl)
        exact (h1.seq ((State.offloadDone_within s1 _).ite (Within.refl s1))).up (by rfl)

/-! ### Capture -/

theorem State.mark_within (s : State) (g : Trigger) (outcome : Nat) (frame : U32) (column : Nat) (camera segment : U32) :
    Within [.stream] s (s.mark g outcome frame column camera segment).1 := by
  unfold State.mark
  extract_lets n _ s1
  have h1 : Within [.stream] s s1 := .update _ (by rfl)
  split
  · exact (h1.seq (State.pushItems_within ..)).up (by rfl)
  · exact .unchanged ..

theorem State.markTrigger_within (s : State) (g : Trigger) (outcome : Nat) : Within [.stream] s (s.markTrigger g outcome).1 :=
  State.mark_within ..

theorem State.storeRecord_within (s : State) (r : RingRec) : Within [.cap, .stream, .flash] s (s.storeRecord r) := by
  unfold State.storeRecord
  split
  · exact .unchanged ..
  · split
    · exact (Within.update [.cap] (by rfl)).up (by rfl)
    · extract_lets g1 _ s1
      have h1 : Within [.cap] s s1 := .update _ (by rfl)
      exact (h1.seq ((State.closeSegment_within s1 false).ite (Within.refl s1))).up (by rfl)

theorem State.startSegment_within (s : State) (g : Trigger) (x : Segment) (place : U32 × Nat × Bool) (markSeq : U32) :
    Within [.cap, .stream, .flash] s (s.startSegment g x place markSeq) :=
  ((Within.update [.cap] (by rfl)).seq (Within.foldl State.storeRecord_within _ _)).up (by rfl)

theorem State.takeTrigger_within (s : State) (g : Trigger) : Within [.cap, .stream, .flash] s (s.takeTrigger g) := by
  unfold State.takeTrigger
  extract_lets s0 outcome m s1
  have h1 : Within [.cap, .stream, .flash] s s1 := ((State.capService_within s).seq (State.markTrigger_within s0 ..)).up (by rfl)
  refine (h1.seq ((State.count_quiet ..).within.ite ((State.count_quiet ..).within.ite (m := [.cap, .stream, .flash]) ?_))).up (by rfl)
  split
  · exact .unchanged ..
  · exact ((Within.update [.cap] (by rfl)).ite ((State.startSegment_within s1 ..).ite (Within.refl s1))).up (by rfl)

theorem doCaptureTrigger_within (t : Time) (s : State) : Within [.cap, .stream, .flash] s (doCaptureTrigger t s) := by
  unfold doCaptureTrigger
  extract_lets s0
  refine .timed (t := t) ?_
  split
  · exact State.capService_within _
  · exact ((Within.update [.cap] (by rfl)).seq (State.takeTrigger_within ..)).up (by rfl)

end Sys2Proof.Machine
end

