-- ==== Sys2Proof/Proofs/DeviceFrames.lean ====
section
/-! PROOFS. Frames of the events of the sessions, the flash, the supply, the mirror, the housekeeping, the calibration and the lanes that
touch few parts of the state. -/

namespace Sys2Proof.Machine

open Sys2Proof

/-! ### Sessions and the security state -/

theorem doSessionIdleTimeout_within (t : Time) (tr : Transport) (num : Byte) (s : State) :
    Within [] s (doSessionIdleTimeout t tr num s) := by
  unfold doSessionIdleTimeout
  extract_lets s0
  refine .timed (t := t) ?_
  split
  · exact .when (State.closeSession_quiet ..).within
  · exact .unchanged ..

theorem doLockTimeout_within (t : Time) (tr : Transport) (num : Byte) (s : State) : Within [] s (doLockTimeout t tr num s) := by
  unfold doLockTimeout
  extract_lets s0
  refine .timed (t := t) ?_
  split
  · exact .when (State.abandonLock_quiet ..).within
  · exact .unchanged ..

theorem doNotify_within (t : Time) (tr : Transport) (num : Byte) (s : State) : Within [] s (doNotify t tr num s) := by
  unfold doNotify
  extract_lets s0 n
  refine .timed (t := t) ?_
  split
  · exact .unchanged ..
  · split
    · exact .unchanged ..
    · extract_lets p s1 q ident
      have hq : Quiet s0 q.1 := (State.modSession_quiet ..).trans (State.nextFresh_quiet s1 tr num)
      exact (Quiet.ite (Quiet.refl s0) (hq.trans ((State.sendBaspo_quiet q.1 ..).trans (State.freshLimit_quiet ..)))).within

theorem doBackoffEnd_within (t : Time) (s : State) : Within [.sec] s (doBackoffEnd t s) := by
  unfold doBackoffEnd
  extract_lets s0
  refine .timed (t := t) ?_
  split
  · exact .when ((Within.update [.sec] (by rfl)).then (State.raise_quiet ..))
  · exact .unchanged ..

/-! ### Flash work -/

theorem doFlashGroupStart_within (t : Time) (s : State) : Within [] s (doFlashGroupStart t s) :=
  .timed (State.flashKick_quiet _).within

theorem State.relocate_quiet (s : State) (block : Nat) : Quiet s (s.relocate block) := State.flashQueue_quiet ..

theorem doWearMove_within (t : Time) (least most : Nat) (s : State) : Within [] s (doWearMove t least most s) :=
  .timed (.when (State.relocate_quiet ..).within)

theorem State.recShrink_within (s : State) : Within [.flash] s s.recShrink := by
  unfold State.recShrink
  split <;> exact .update _ (by rfl)

theorem State.retireBlock_within (s : State) (block cause : Nat) : Within [.flash] s (s.retireBlock block cause).1 := by
  unfold State.retireBlock
  extract_lets _ s1 n _ s2
  have h1 : Within [.flash] s s1 := (Within.update [.flash] (by rfl)).then (State.raise_quiet ..)
  have h2 : Within [.flash] s1 s2 := .update _ (by rfl)
  split
  · split
    · exact (h1.seq (h2.seq ((Within.update [.flash] (by rfl)).then (State.raise_quiet ..)))).up (by rfl)
    · exact (h1.seq h2).up (by rfl)
  · split
    · exact (h1.seq (State.recShrink_within s1)).up (by rfl)
    · exact h1

theorem State.uncorrectable_within (s : State) (r : ScrubRead) : Within [.flash] s (s.uncorrectable r) := by
  unfold State.uncorrectable
  extract_lets s1 s2
  have h2 : Within [.flash] s s2 := ((State.raise_quiet s ..).within.seq (State.retireBlock_within s1 ..)).up (by rfl)
  exact (h2.seq ((Within.update [.flash] (by rfl)).ite ((Within.update [.flash] (by rfl)).ite (Within.refl s2)))).up (by rfl)

theorem doScrub_within (t : Time) (r : ScrubRead) (s : State) : Within [.flash] s (doScrub t r s) := by
  unfold doScrub
  extract_lets s0 _ s1 s2 s3
  have h2 : Within [.flash] s0 s2 := (Within.update (u := s1) [.flash] (by rfl)).then (State.count_quiet ..)
  have h3 : Within [] s2 s3 := .when (State.relocate_quiet ..).within
  exact .timed (((Within.refl s0).ite (h2.seq ((State.uncorrectable_within s2 r).ite
    (h3.seq ((State.retireBlock_within s3 ..).ite (Within.refl s3)))))).up (by rfl))

theorem doRecorderCopy_within (t : Time) (s : State) : Within [.flash] s (doRecorderCopy t s) := by
  unfold doRecorderCopy
  extract_lets s0
  refine .timed (t := t) ?_
  split
  · exact .unchanged ..
  · extract_lets busy
    split
    · exact .unchanged ..
    · split
      · exact State.skipCopy_within ..
      · exact (State.flashQueue_quiet ..).within.up (by rfl)

theorem State.dropWork_quiet (s : State) (work : FlashWork) : Quiet s (s.dropWork work) :=
  State.flashGroups_quiet s s.flash.running _

theorem State.workFailed_within (s : State) (work : FlashWork) : Within [.cal, .flash] s (s.workFailed work) := by
  unfold State.workFailed
  extract_lets s1 _ _ s2
  refine ((State.dropWork_quiet s work).within.seq (u := s1) (m := [.cal, .flash]) ?_).up (by rfl)
  split
  · exact (Within.update [.flash] (by rfl)).up (by rfl)
  · have h2 : Within [.cal] s1 s2 := .update _ (by rfl)
    exact (h2.ite (h2.then (State.calDone_quiet ..))).up (by rfl)
  · exact (State.skipCopy_within ..).up (by rfl)
  · exact (State.fwAbandon_within _).up (by rfl)
  · exact (State.fwAbandon_within _).up (by rfl)
  · exact (Within.update [.flash] (by rfl)).up (by rfl)
  · exact .unchanged ..

theorem doFlashWaitTimeout_within (t : Time) (s : State) : Within [.cal, .flash] s (doFlashWaitTimeout t s) := by
  unfold doFlashWaitTimeout
  extract_lets s0
  refine .timed (t := t) ?_
  split
  · split
    · exact .when ((State.workFailed_within ..).then (State.flashKick_quiet _))
    · exact .unchanged ..
  · exact .unchanged ..

/-! ### The supply -/

theorem doInputSwitchClose_within (t : Time) (s : State) : Within [.pwr] s (doInputSwitchClose t s) := by
  unfold doInputSwitchClose
  extract_lets s0 _ s1
  have h1 : Within [.pwr] s0 s1 := .update _ (by rfl)
  exact .timed (((Within.refl s0).ite (h1.then ((Quiet.ite (State.raise_quiet ..) (Quiet.refl s1)).trans
    (State.flashKick_quiet _)))).up (by rfl))

theorem doVinHigh_within (t : Time) (s : State) : Within [.pwr] s (doVinHigh t s) :=
  .timed (((Within.refl _).ite ((Within.update [.pwr] (by rfl)).then (State.raise_quiet ..))).up (by rfl))

theorem doVinLow_within (t : Time) (s : State) : Within [.emit, .pwr] s (doVinLow t s) := by
  unfold doVinLow
  extract_lets s0 _ s1 s2
  have h2 : Within [.pwr] s0 s2 := (Within.update (u := s1) [.pwr] (by rfl)).then (State.raise_quiet ..)
  exact .timed (((Within.refl s0).ite (h2.seq ((State.bankInhibit_within s2 1).ite (Within.refl s2)))).up (by rfl))

theorem doVinResumeRise_within (t : Time) (s : State) : Within [.emit, .pwr] s (doVinResumeRise t s) := by
  unfold doVinResumeRise
  extract_lets s0 _ s1 s2
  have h2 : Within [.pwr] s0 s2 := (Within.update (u := s1) [.pwr] (by rfl)).then (Quiet.ite (State.raise_quiet ..) (Quiet.refl s1))
  exact .timed (((Within.refl s0).ite (h2.seq ((State.bankResume_within s2).seq (State.emitAdvance_within _)))).up (by rfl))

theorem doXtalComp_within (t : Time) (s : State) : Within [.therm] s (doXtalComp t s) :=
  .timed (((Within.refl _).ite ((Within.update [.therm] (by rfl)).ite ((Within.update [.therm] (by rfl)).ite
    (.update [.therm] (by rfl))))).up (by rfl))

/-! ### The mirror and its front end -/

theorem State.senseBreak_within (s : State) (bits : Nat) : Within [.emit, .front] s (s.senseBreak bits) := by
  unfold State.senseBreak
  extract_lets f latch s1
  have h1 : Within [.front] s s1 := .update _ (by rfl)
  exact ((Within.refl s).ite ((Within.update [.front] (by rfl)).ite (h1.seq ((State.tripSet_within s1 4).then
    (State.raise_quiet ..))))).up (by rfl)

theorem doLedOpen_within (t : Time) (s : State) : Within [.emit, .front] s (doLedOpen t s) :=
  .timed (.when (State.senseBreak_within ..))

theorem doWireBreakCheck_within (t : Time) (pairA pairB : Nat) (s : State) :
    Within [.emit, .front] s (doWireBreakCheck t pairA pairB s) := by
  unfold doWireBreakCheck
  extract_lets s0 bits _ s1
  have h1 : Within [.front] s0 s1 := .update _ (by rfl)
  exact .timed (((Within.refl s0).ite (h1.seq ((Within.refl s1).ite (State.senseBreak_within s1 bits)))).up (by rfl))

theorem doCoilTrip_within (t : Time) (iCoil : W20) (s : State) : Within [.emit, .coil] s (doCoilTrip t iCoil s) := by
  unfold doCoilTrip
  extract_lets s0 s1
  have h1 : Within [.coil] s0 s1 := .update _ (by rfl)
  exact .timed (((Within.refl s0).ite ((h1.then (State.count_quiet ..)).seq ((State.tripSet_within _ 2).then
    (State.raise_quiet ..)))).up (by rfl))

theorem doParkRampDone_within (t : Time) (s : State) : Within [.coil] s (doParkRampDone t s) :=
  .timed (.when (.update _ (by rfl)))

theorem doHomingFailed_within (t : Time) (s : State) : Within [.emit, .coil, .laneA, .laneB] s (doHomingFailed t s) :=
  .timed (((State.bothEngines_within ..).seq (State.follow_within _)).up (by rfl))

/-! ### Housekeeping -/

theorem State.hkCalNext_within (s : State) : Within [.hka] s s.hkCalNext := by
  unfold State.hkCalNext
  split
  · exact ((State.dequeue_quiet ..).within.seq (hkCalibrateAction_within ..)).up (by rfl)
  · exact .unchanged ..

theorem State.draw_quiet (s : State) : Quiet s s.draw.1 := { Quiet.refl s with }

theorem doHkCalDone_within (t : Time) (sum14 sum15 : Nat) (s : State) : Within [.hka] s (doHkCalDone t sum14 sum15 s) := by
  unfold doHkCalDone
  extract_lets s0 offset span drawn gain base ok _ hka s1
  refine .timed (t := t) ?_
  split
  · extract_lets s2
    have hbase : Quiet s0 base := Quiet.ite (State.draw_quiet s0) (Quiet.refl s0)
    have h1 : Within [.hka] base s1 := .update _ (by rfl)
    have h2 : Quiet s1 s2 := Quiet.ite (State.raise_quiet ..) (State.raise_quiet ..)
    exact (((hbase.within.seq (h1.then h2)).seq (State.hkCalNext_within s2)).ite (Within.refl s0)).up (by rfl)
  · exact .unchanged ..

theorem State.ntcJudge_within (s : State) (reading : Ntc) : Within [.hka] s (s.ntcJudge reading) := by
  unfold State.ntcJudge
  split
  · extract_lets _ s1
    have h1 : Within [.hka] s s1 := .update _ (by rfl)
    exact ((h1.then (State.raise_quiet ..)).ite h1).up (by rfl)
  · extract_lets _ s1
    have h1 : Within [.hka] s s1 := .update _ (by rfl)
    exact ((h1.then (State.raise_quiet ..)).ite h1).up (by rfl)

theorem State.holdupResult_within (s : State) (mv : Nat) : Within [.flash] s (s.holdupResult mv) := by
  unfold State.holdupResult
  extract_lets _ s1
  have h1 : Within [.flash] s s1 := .update _ (by rfl)
  split
  · exact (h1.seq (.update [.flash] (by rfl))).up (by rfl)
  · split
    · extract_lets c s2
      have h2 : Within [.flash] s1 s2 := .update _ (by rfl)
      exact (h1.seq (((h2.then (State.raise_quiet ..)).ite h2).ite (Within.refl s1))).up (by rfl)
    · exact h1

theorem State.anchorResult_within (s : State) (i result : Nat) : Within [.therm] s (s.anchorResult i result) := .update _ (by rfl)

theorem State.bankResult_within (s : State) (mv : Nat) : Within [.emit] s (s.bankResult mv) := .update _ (by rfl)

theorem State.hkFeed_within (s : State) (input result : Nat) : Within [.emit, .hka, .therm, .flash] s (s.hkFeed input result) :=
  ((State.ntcJudge_within ..).ite ((State.holdupResult_within ..).ite ((State.bankResult_within ..).ite
    ((State.anchorResult_within ..).ite (Within.refl s))))).up (by rfl)

theorem State.hkNext_within (s : State) : Within [.hka] s s.hkNext := .update _ (by rfl)

theorem doHkResult_within (t : Time) (raw : W20) (s : State) : Within [.emit, .hka, .therm, .flash] s (doHkResult t raw s) := by
  unfold doHkResult
  extract_lets s0 input v _ s1
  have h1 : Within [.hka] s0 s1 := .update _ (by rfl)
  exact .timed (((h1.seq ((State.hkFeed_within s1 input v).seq ((State.hkNext_within _).then (State.flashKick_quiet _)))).ite
    (Within.refl s0)).up (by rfl))

/-! ### Calibration -/

theorem State.calEnd_within (s : State) (result : Nat) : Within [.rx, .pwr, .cal] s (s.calEnd result) := by
  unfold State.calEnd
  split
  · exact .unchanged ..
  · extract_lets _ s1
    have h1 : Within [.cal] s s1 := .update _ (by rfl)
    exact (h1.seq (((State.calRelease_within s1).then (State.calDone_quiet ..)).seq (State.calStart_within _))).up (by rfl)

theorem doCalTicketLimit_within (t : Time) (s : State) : Within [.rx, .pwr, .cal] s (doCalTicketLimit t s) := by
  unfold doCalTicketLimit
  extract_lets s0
  refine .timed (t := t) ?_
  split
  · split
    · exact .when (State.calEnd_within ..)
    · exact .unchanged ..
  · exact .unchanged ..

theorem State.refinGone_within (s : State) : Within [.tin] s s.refinGone := .update _ (by rfl)

theorem doRefinAbsent_within (t : Time) (s : State) : Within [.rx, .tin, .pwr, .cal] s (doRefinAbsent t s) := by
  unfold doRefinAbsent
  extract_lets s0 s1
  refine .timed (t := t) (.when ?_)
  refine ((State.refinGone_within s0).seq (u := s1) (m := [.rx, .pwr, .cal]) ?_).up (by rfl)
  split
  · exact .when (State.calEnd_within ..)
  · exact .unchanged ..

/-! ### Lanes -/

theorem doLinkLost_within (t : Time) (l : LaneId) (s : State) : Within [.arb] s (doLinkLost t l s) :=
  .timed (.when (.update _ (by rfl)))

theorem doRejoinCopyDone_within (t : Time) (s : State) : Within [.arb] s (doRejoinCopyDone t s) := by
  unfold doRejoinCopyDone
  extract_lets s0
  refine .timed (t := t) ?_
  split
  · exact .when (.update _ (by rfl))
  · exact .unchanged ..

theorem doTowpathGraceExpiry_within (t : Time) (s : State) : Within [.arb] s (doTowpathGraceExpiry t s) :=
  .timed (.when ((Within.update [.arb] (by rfl)).then (State.raise_quiet ..)))

theorem doTowpathUp_within (t : Time) (s : State) : Within [.arb] s (doTowpathUp t s) :=
  .timed (.when ((Within.update [.arb] (by rfl)).then (State.raise_quiet ..)))

theorem State.startRejoin_within (s : State) (l : LaneId) (ticket : U32) :
    Within [.laneA, .laneB, .arb] s (s.startRejoin l ticket) := laneRejoinAction_within ..

theorem State.modColumn_within (s : State) (seq : U32) (f : ColumnRec → ColumnRec) : Within [.arb] s (s.modColumn seq f) :=
  .update _ (by rfl)

theorem doLaneColumnDone_within (t : Time) (l : LaneId) (upset : List (Nat × Byte)) (s : State) :
    Within [.laneA, .laneB, .arb] s (doLaneColumnDone t l upset s) := by
  unfold doLaneColumnDone
  extract_lets s0 y d
  refine .timed (t := t) ?_
  split
  · exact .unchanged ..
  · extract_lets s1 late r r1 s2
    have h1 : Within [] s0 s1 := Within.when (State.draw_quiet s0).within
    have h2 : Within [.arb] s1 s2 := State.modColumn_within ..
    exact ((Within.refl s0).ite (h1.seq (h2.seq (State.modLane_within s2 ..)))).up (by rfl)

theorem doRejoinAutoStart_within (t : Time) (s : State) : Within [.laneA, .laneB, .arb] s (doRejoinAutoStart t s) := by
  unfold doRejoinAutoStart
  extract_lets s0
  refine .timed (t := t) ?_
  split
  · exact State.startRejoin_within ..
  · exact .unchanged ..

theorem doRejoinSnapshot_within (t : Time) (s : State) : Within [.laneA, .laneB, .arb] s (doRejoinSnapshot t s) := by
  unfold doRejoinSnapshot
  extract_lets s0
  refine .timed (t := t) ?_
  split
  · extract_lets x s1 _ s2
    have h1 : Within [.laneA, .laneB] s0 s1 := State.modLane_within ..
    have h2 : Within [.arb] s1 s2 := .update _ (by rfl)
    exact ((h1.seq (h2.seq (State.setLaneState_within s2 ..))).ite (Within.refl s0)).up (by rfl)
  · exact .unchanged ..

theorem State.abortRejoin_within (s : State) (reason : Nat) : Within [.laneA, .laneB, .arb] s (s.abortRejoin reason) := by
  unfold State.abortRejoin
  split
  · exact .unchanged ..
  · exact (((Within.update (u := s.rejoinLost) [.arb] (by rfl)).then (State.raise_quiet ..)).seq
      (State.setLaneState_within ..)).up (by rfl)

theorem State.towpathDown_within (s : State) : Within [.laneA, .laneB, .arb] s s.towpathDown := by
  unfold State.towpathDown
  extract_lets _ s1 s2 moor
  have hmoor : ∀ y l, Within [.laneA, .laneB, .arb] y (moor y l) := fun _ _ => .when (State.setLaneState_within ..)
  have h1 : Within [.arb] s s1 := .update _ (by rfl)
  have h2 : Within [.laneA, .laneB, .arb] s s2 :=
    ((h1.then ((State.count_quiet ..).trans (State.raise_quiet ..))).seq (State.abortRejoin_within ..)).up (by rfl)
  exact (h2.seq ((hmoor s2 .a).seq (hmoor _ .b))).up (by rfl)

theorem doTowpathPendingTimeout_within (t : Time) (s : State) :
    Within [.laneA, .laneB, .arb] s (doTowpathPendingTimeout t s) :=
  .timed (.when (((State.towpathDown_within _).ite (.update [.arb] (by rfl))).up (by rfl)))

theorem State.giveToken_within (s : State) (l : LaneId) : Within [.emit, .coil, .laneA, .laneB, .arb] s (s.giveToken l) := by
  unfold State.giveToken
  extract_lets _ s1
  have h1 : Within [.arb] s s1 := .update _ (by rfl)
  exact (h1.seq ((State.tripSet_within s1 0).seq ((State.setLaneState_within ..).seq (State.follow_within _)))).up (by rfl)

theorem State.laneJoin_within (s : State) (l : LaneId) : Within [.laneA, .laneB, .arb] s (s.laneJoin l) := by
  unfold State.laneJoin
  split
  · exact .unchanged ..
  · exact ((Within.refl s).ite ((State.startRejoin_within ..).ite (State.setLaneState_within ..))).up (by rfl)

theorem doLaneReady_within (t : Time) (l : LaneId) (s : State) :
    Within [.emit, .coil, .laneA, .laneB, .arb] s (doLaneReady t l s) := by
  unfold doLaneReady
  extract_lets s0 x s1 s2
  refine .timed (t := t) ?_
  split
  · exact .unchanged ..
  · refine ((State.modLane_within s0 ..).seq (u := s1) (m := [.emit, .coil, .laneA, .laneB, .arb]) ?_).up (by rfl)
    split
    · exact (State.laneJoin_within ..).up (by rfl)
    · exact (((State.giveToken_within s1 l).seq ((State.laneJoin_within s2 _).ite (Within.refl s2))).ite (Within.refl s1)).up (by rfl)

theorem doLanePreferredTimeout_within (t : Time) (s : State) :
    Within [.emit, .coil, .laneA, .laneB, .arb] s (doLanePreferredTimeout t s) := by
  unfold doLanePreferredTimeout
  extract_lets s0 l
  refine .timed (t := t) ?_
  split
  · exact .when (((State.modLane_within ..).seq (State.giveToken_within ..)).up (by rfl))
  · split
    · exact .when (((Within.update [.arb] (by rfl)).then (State.raise_quiet ..)).up (by rfl))
    · exact .unchanged ..
  · exact .unchanged ..

end Sys2Proof.Machine
end

