-- ==== Sys2Proof/Proofs/LocalFrames.lean ====
section
/-! PROOFS. The frames of all commands of few parts. -/

namespace Sys2Proof.Machine

open Sys2Proof

/-- A command for which partsOf lists at most five parts answers a state in which only those may have moved. -/
theorem exec_local_within (c : Instr) (s : State) (hc : (partsOf c).length ≤ 5) :
    ∃ v, exec c s = .next v ∧ Within (partsOf c) s v := by
  cases c with
  | sessionIdleTimeout => exact ⟨_, rfl, doSessionIdleTimeout_within ..⟩
  | notify => exact ⟨_, rfl, doNotify_within ..⟩
  | lockTimeout => exact ⟨_, rfl, doLockTimeout_within ..⟩
  | slotDecision => exact ⟨_, rfl, doSlotDecision_within ..⟩
  | fsyncEdge => exact ⟨_, rfl, doFsyncEdge_within ..⟩
  | fsyncLull => exact ⟨_, rfl, doFsyncLull_within ..⟩
  | cameraVirtualEdge => exact ⟨_, rfl, doCameraVirtualEdge_within ..⟩
  | emitTrip => exact ⟨_, rfl, doEmitTrip_within ..⟩
  | bankFaultTimeout => exact ⟨_, rfl, doBankFaultTimeout_within ..⟩
  | bankOvervoltage => exact ⟨_, rfl, doBankOvervoltage_within ..⟩
  | barTest => exact ⟨_, rfl, doBarTest_within ..⟩
  | barFullTest => exact ⟨_, rfl, doBarFullTest_within ..⟩
  | stop => exact ⟨_, rfl, doStop_within ..⟩
  | biasUpdate => exact ⟨_, rfl, doBiasUpdate_within ..⟩
  | pllUnlock => exact ⟨_, rfl, doPllUnlock_within ..⟩
  | bandTest => exact ⟨_, rfl, doBandTest_within ..⟩
  | tinEdge => exact ⟨_, rfl, doTinEdge_within ..⟩
  | gateEdge => exact ⟨_, rfl, doGateEdge_within ..⟩
  | tinRecordCloseIdle => exact ⟨_, rfl, doTinRecordCloseIdle_within ..⟩
  | tinRecordDelivery => exact ⟨_, rfl, doTinRecordDelivery_within ..⟩
  | refinEdge => exact ⟨_, rfl, doRefinEdge_within ..⟩
  | refinAbsent => exact ⟨_, rfl, doRefinAbsent_within ..⟩
  | laneColumnDone => exact ⟨_, rfl, doLaneColumnDone_within ..⟩
  | lanePreferredTimeout => exact ⟨_, rfl, doLanePreferredTimeout_within ..⟩
  | linkLost => exact ⟨_, rfl, doLinkLost_within ..⟩
  | towpathPendingTimeout => exact ⟨_, rfl, doTowpathPendingTimeout_within ..⟩
  | towpathGraceExpiry => exact ⟨_, rfl, doTowpathGraceExpiry_within ..⟩
  | towpathUp => exact ⟨_, rfl, doTowpathUp_within ..⟩
  | rejoinAutoStart => exact ⟨_, rfl, doRejoinAutoStart_within ..⟩
  | rejoinCopyDone => exact ⟨_, rfl, doRejoinCopyDone_within ..⟩
  | rejoinSnapshot => exact ⟨_, rfl, doRejoinSnapshot_within ..⟩
  | homingFailed => exact ⟨_, rfl, doHomingFailed_within ..⟩
  | coilTrip => exact ⟨_, rfl, doCoilTrip_within ..⟩
  | parkRampDone => exact ⟨_, rfl, doParkRampDone_within ..⟩
  | wireBreakCheck => exact ⟨_, rfl, doWireBreakCheck_within ..⟩
  | ledOpen => exact ⟨_, rfl, doLedOpen_within ..⟩
  | hkResult => exact ⟨_, rfl, doHkResult_within ..⟩
  | hkCalDone => exact ⟨_, rfl, doHkCalDone_within ..⟩
  | captureTrigger => exact ⟨_, rfl, doCaptureTrigger_within ..⟩
  | datagramSent => exact ⟨_, rfl, doDatagramSent_within ..⟩
  | marksSend => exact ⟨_, rfl, doMarksSend_within ..⟩
  | linkUp => exact ⟨_, rfl, doLinkUp_within ..⟩
  | linkDown => exact ⟨_, rfl, doLinkDown_within ..⟩
  | gptpSynced => exact ⟨_, rfl, doGptpSynced_within ..⟩
  | gptpLost => exact ⟨_, rfl, doGptpLost_within ..⟩
  | canBusOff => exact ⟨_, rfl, doCanBusOff_within ..⟩
  | canRecovered => exact ⟨_, rfl, doCanRecovered_within ..⟩
  | busFrame => exact ⟨_, rfl, doBusFrame_within ..⟩
  | busTriggerMessage => exact ⟨_, rfl, doBusTriggerMessage_within ..⟩
  | busProbe => exact ⟨_, rfl, doBusProbe_within ..⟩
  | busReply => exact ⟨_, rfl, doBusReply_within ..⟩
  | busAnnounce => exact ⟨_, rfl, doBusAnnounce_within ..⟩
  | busWindow => exact ⟨_, rfl, doBusWindow_within ..⟩
  | busClockAdopt => exact ⟨_, rfl, doBusClockAdopt_within ..⟩
  | busClockLost => exact ⟨_, rfl, doBusClockLost_within ..⟩
  | busFrameSilence => exact ⟨_, rfl, doBusFrameSilence_within ..⟩
  | vinLow => exact ⟨_, rfl, doVinLow_within ..⟩
  | vinResumeRise => exact ⟨_, rfl, doVinResumeRise_within ..⟩
  | vinHigh => exact ⟨_, rfl, doVinHigh_within ..⟩
  | inputSwitchClose => exact ⟨_, rfl, doInputSwitchClose_within ..⟩
  | xtalComp => exact ⟨_, rfl, doXtalComp_within ..⟩
  | calTicketLimit => exact ⟨_, rfl, doCalTicketLimit_within ..⟩
  | flashGroupStart => exact ⟨_, rfl, doFlashGroupStart_within ..⟩
  | flashWaitTimeout => exact ⟨_, rfl, doFlashWaitTimeout_within ..⟩
  | scrub => exact ⟨_, rfl, doScrub_within ..⟩
  | wearMove => exact ⟨_, rfl, doWearMove_within ..⟩
  | recorderCopy => exact ⟨_, rfl, doRecorderCopy_within ..⟩
  | backoffEnd => exact ⟨_, rfl, doBackoffEnd_within ..⟩
  | laneReady => exact ⟨_, rfl, doLaneReady_within ..⟩
  | bankReady => exact ⟨_, rfl, doBankReady_within ..⟩
  | pllRelock => exact ⟨_, rfl, doPllRelock_within ..⟩
  | _ => simp [partsOf] at hc

/-- Settles O7: the command's own frame, as the statement writes it. -/
theorem localCommandsTouchOnlyTheirParts : Obligations.LocalCommandsTouchOnlyTheirParts := by
  unfold Obligations.LocalCommandsTouchOnlyTheirParts
  intro c s u hc hu
  obtain ⟨v, hv, hframe⟩ := exec_local_within c s hc
  obtain rfl : v = u := by simpa [hu] using hv.symm
  exact hframe.quiet

end Sys2Proof.Machine
end

