-- ==== Sys2Proof/Proofs/TickFrames.lean ====
section
/-! PROOFS. Frames of the parts of a tick: the end and the opening of a column, and what a frame boundary updates. -/

namespace Sys2Proof.Machine

open Sys2Proof

/-! ### Columns -/

theorem State.closeWindows_within (s : State) : Within [.laneA, .laneB, .arb] s s.closeWindows := by
  unfold State.closeWindows
  extract_lets part _ s1
  have h1 : Within [.arb] s s1 := .update _ (by rfl)
  exact (h1.seq ((State.modEngine_within s1 ..).seq (State.modEngine_within ..))).up (by rfl)

theorem State.adaptBand_within (s : State) (x : TickIn) (e : Time) (boundary : Bool) (b : Nat) :
    Within [.rx] s (s.adaptBand x e boundary b) := State.modBand_within ..

theorem State.parityRow_within (s : State) (row : Nat) : Within [.rx] s (s.parityRow row) := by
  unfold State.parityRow
  extract_lets b n seen full s1 s2
  have h2 : Within [.rx] s s2 := (State.modBand_within ..).then (State.count_quiet s1 ..)
  exact (h2.seq ((State.maskRow_within s2 ..).ite (Within.refl s2))).up (by rfl)

theorem State.bandsEnd_within (s : State) (x : TickIn) (e : Time) (boundary : Bool) : Within [.rx] s (s.bandsEnd x e boundary) :=
  ((Within.foldl (fun _ _ => State.adaptBand_within ..) _ s).seq ((Within.foldl State.parityRow_within _ _).seq
    (.update [.rx] (by rfl)))).up (by rfl)

theorem State.endColumn_within (s : State) (x : TickIn) (e : Time) (boundary : Bool) :
    Within [.rx, .laneA, .laneB, .arb] s (s.endColumn x e boundary) := by
  unfold State.endColumn
  extract_lets s1 r _ s2
  have h2 : Within [.arb] s1 s2 := .update _ (by rfl)
  exact ((State.closeWindows_within s).seq (h2.seq (State.bandsEnd_within s2 ..))).up (by rfl)

theorem State.stepBias_within (s : State) : Within [.rx] s s.stepBias := .update _ (by rfl)

theorem State.openSection_within (s : State) (x : Section) : Within [.front] s (s.openSection x) := .update _ (by rfl)

theorem State.rejoinTick_within (s : State) (tick : Time) : Within [.arb] s (s.rejoinTick tick) := by
  unfold State.rejoinTick
  split
  · exact .when (.update _ (by rfl))
  · exact .unchanged ..

/-! ### The frame boundary -/

theorem State.frameEvents_within (s : State) : Within [.arb] s s.frameEvents := by
  unfold State.frameEvents
  extract_lets a s1 s2
  have h1 : Within [.arb] s s1 := .update _ (by rfl)
  have h2 : Quiet s1 s2 := Quiet.ite (Quiet.refl s1) (State.raise_quiet ..)
  exact h1.then (h2.trans (Quiet.ite (Quiet.refl s2) (State.raise_quiet ..)))

theorem State.calPreFlip_within (s : State) : Within [.rx, .pwr, .cal] s s.calPreFlip := by
  unfold State.calPreFlip
  split
  · exact .unchanged ..
  · exact ((State.calEnd_within ..).ite (.update [.cal] (by rfl))).up (by rfl)

theorem State.writeVersion_within (s : State) : Within [.flash] s s.writeVersion := by
  unfold State.writeVersion
  extract_lets n time unit p _ s1
  have h1 : Within [.flash] s s1 := .update _ (by rfl)
  exact ((Within.update [.flash] (by rfl)).ite (h1.then ((State.flashItem_quiet ..).trans (State.flashItem_quiet ..)))).up (by rfl)

/-- The state of the service is not compared. -/
theorem State.setBaspo_quiet (s : State) (b : Baspo) : Quiet s { s with baspo := b } := { Quiet.refl s with }

theorem State.lockMove_quiet (s : State) (k : Commit) (dom : Nat) : Quiet s (s.lockMove k dom) := by
  unfold State.lockMove
  extract_lets _ s1
  have h1 : Quiet s s1 := State.modSession_quiet ..
  exact Quiet.ite ((State.setBaspo_quiet s _).trans (State.raise_quiet ..))
    (h1.trans ((State.setBaspo_quiet s1 _).trans (State.raise_quiet ..)))

theorem State.rangeBoundary_within (s : State) (period k : Nat) : Within [.front] s (s.rangeBoundary period k).1 := by
  unfold State.rangeBoundary
  extract_lets f last s1 code _ s2
  have h1 : Within [.front] s s1 := .update _ (by rfl)
  have h2 : Within [.front] s1 s2 := .update _ (by rfl)
  split
  · exact h1
  · split
    · exact h1
    · split
      · exact h1
      · split
        · exact h1
        · split
          · exact h1
          · exact (h1.seq (h2.then (State.raise_quiet ..))).up (by rfl)

theorem State.throttleBoundary_within (s : State) : Within [.therm] s s.throttleBoundary :=
  (Within.update [.therm] (by rfl)).then (State.count_quiet ..)

theorem State.busBoundary_within (s : State) : Within [.bus] s s.busBoundary := by
  unfold State.busBoundary
  extract_lets d s1 payload s2
  exact .when ((((State.draw_quiet s).trans (State.busPut_quiet s1 ..)).within.seq (.update (s := s2) [.bus] (by rfl))).up (by rfl))

theorem State.busAlign_within (s : State) (ran : Bool) : Within [.bus] s (s.busAlign ran) := by
  unfold State.busAlign
  extract_lets s1 small large within beyond _ s2 ready
  have h1 : Within [.bus] s s1 := .when (.update _ (by rfl))
  have h2 : Within [.bus] s1 s2 := .update _ (by rfl)
  exact (h1.seq ((h2.seq (((Within.update [.bus] (by rfl)).then (State.raise_quiet ..)).ite ((Within.update [.bus] (by rfl)).ite
    (Within.refl s2)))).ite (Within.refl s1))).up (by rfl)

theorem State.calApply_within (s : State) : Within [.cal] s s.calApply :=
  ((Within.refl s).ite ((Within.update [.cal] (by rfl)).then (State.raise_quiet ..))).up (by rfl)

theorem State.calAuto_within (s : State) : Within [.rx, .pwr, .cal] s s.calAuto.1 := by
  unfold State.calAuto
  extract_lets p s1
  have h1 : Quiet s s1 := State.issueTicket_quiet s
  split
  · exact (h1.within.seq (State.calQueue_within ..)).up (by rfl)
  · exact (h1.within.seq (.update [.cal] (by rfl))).up (by rfl)

theorem State.calTrigger_within (s : State) : Within [.rx, .pwr, .cal] s s.calTrigger := by
  unfold State.calTrigger
  extract_lets _ s1 p
  have h1 : Within [.cal] s s1 := .update _ (by rfl)
  refine (h1.seq ((Within.refl s1).ite ((State.calAuto_within s1).ite ((Within.refl s1).ite (m := [.rx, .pwr, .cal]) ?_)))).up (by rfl)
  split
  · exact (State.calAuto_within s1).then (State.raise_quiet ..)
  · exact .unchanged ..

theorem State.calBoundary_within (s : State) : Within [.rx, .pwr, .cal] s s.calBoundary :=
  ((State.calApply_within s).seq (State.calTrigger_within _)).up (by rfl)

theorem State.xtalBoundary_within (s : State) : Within [.therm] s s.xtalBoundary := by
  unfold State.xtalBoundary
  split
  · exact .update _ (by rfl)
  · exact .unchanged ..

theorem State.wakeRestarted_within (s : State) : Within [.rx, .pwr] s s.wakeRestarted :=
  Within.foldl (fun y _ => (((State.setDom_within ..).seq (State.modBand_within ..)).ite (Within.refl y)).up (by rfl)) _ s

end Sys2Proof.Machine
end

