-- ==== Sys2Proof/Proofs/Ticks.lean ====
section
/-! PROOFS. COLUMN_TICK and FRAME_BOUNDARY: the columns they open, the frame they begin, and that nothing happens before their
instant. -/

namespace Sys2Proof.Machine

open Sys2Proof

/-! ### Columns -/

/-- A column that opens at e. -/
theorem State.openColumn_scan (s : State) (e : Time) (c : Nat) :
    (s.openColumn e c).scan.flyback = false ∧ (s.openColumn e c).scan.column = c ∧ (s.openColumn e c).scan.tick = e ∧
      (s.openColumn e c).scan.slot = 0 := by
  unfold State.openColumn
  extract_lets _ _ s1
  have hscan : (((s1.stepBias.openSection (s1.sectionAt e (some c) s1.scan.period none none)).rejoinTick e)).scan = s1.scan :=
    (State.rejoinTick_within ..).part .scan (by decide)
  exact ⟨congrArg Scan.flyback hscan, congrArg Scan.column hscan, congrArg Scan.tick hscan, congrArg Scan.slot hscan⟩

/-- The tick of a rejoin leaves the numbering of the columns alone. -/
theorem State.rejoinTick_columnSeq (s : State) (tick : Time) : (s.rejoinTick tick).arb.columnSeq = s.arb.columnSeq := by
  unfold State.rejoinTick
  split
  · split <;> rfl
  · rfl

/-- A column that opens takes over the accumulators and the numbering. -/
theorem State.openColumn_keeps (s : State) (e : Time) (c : Nat) :
    (s.openColumn e c).rx.acc = s.rx.acc ∧ (s.openColumn e c).arb.columnSeq = s.arb.columnSeq := by
  unfold State.openColumn
  extract_lets _ _ s1
  have hrx : (((s1.stepBias.openSection (s1.sectionAt e (some c) s1.scan.period none none)).rejoinTick e)).rx = s1.stepBias.rx :=
    (State.rejoinTick_within ..).part .rx (by decide)
  exact ⟨(congrArg Rx.acc hrx).trans rfl, State.rejoinTick_columnSeq ..⟩

/-- A column that ends is given the next number and leaves empty accumulators. -/
theorem State.endColumn_keeps (s : State) (x : TickIn) (e : Time) (boundary : Bool) :
    (s.endColumn x e boundary).rx.acc = .empty ∧ (s.endColumn x e boundary).arb.columnSeq = s.arb.columnSeq + 1 := by
  unfold State.endColumn
  extract_lets s1 r _ s2
  have harb := (State.bandsEnd_within s2 x e boundary).part .arb (by decide)
  exact ⟨rfl, congrArg Arbiter.columnSeq harb⟩

/-! ### The frame and its energy -/

/-- Where the frame stands, its number, and what the frame accumulators hold. -/
def State.frameMark (s : State) : Bool × U32 × Time × Nat × Nat :=
  (s.scan.flyback, s.scan.frame, s.scan.tick, s.emit.acc, s.emit.accLast)

/-- What moves neither the scan nor the emitter keeps the mark of the frame. -/
theorem Within.frameMark {l : List Part} {s u : State} (h : Within l s u) (hscan : .scan ∉ l := by decide)
    (hemit : .emit ∉ l := by decide) : u.frameMark = s.frameMark := by
  have h1 : u.scan = s.scan := h.part .scan hscan
  have h2 : u.emit = s.emit := h.part .emit hemit
  simp only [State.frameMark, h1, h2]

theorem State.frameMark_eq_iff {s : State} {flyback : Bool} {frame : U32} {tick : Time} {acc accLast : Nat} :
    s.frameMark = (flyback, frame, tick, acc, accLast) ↔ s.scan.flyback = flyback ∧ s.scan.frame = frame ∧ s.scan.tick = tick ∧
      s.emit.acc = acc ∧ s.emit.accLast = accLast := by
  simp [State.frameMark]

theorem Quiet.frameMark {s u : State} (h : Quiet s u) : u.frameMark = s.frameMark := h.within.frameMark

theorem State.raise_frameMark (s : State) (code sev : Nat) (p1 p2 p3 ticket : U32) :
    (s.raise code sev p1 p2 p3 ticket).frameMark = s.frameMark := (State.raise_quiet ..).frameMark

theorem State.frameMark_ite {s a b : State} {c : Prop} [Decidable c] (ha : a.frameMark = s.frameMark)
    (hb : b.frameMark = s.frameMark) : (if c then a else b).frameMark = s.frameMark := by
  split <;> assumption

/-! What moves the scan or the emitter otherwise than by a frame. -/

theorem State.tripSet_frameMark (s : State) (b : Nat) : (s.tripSet b).frameMark = s.frameMark := by
  unfold State.tripSet
  extract_lets _ _ e _
  split
  · rfl
  · exact (State.raise_frameMark ..).trans (State.count_quiet { s with emit := e } ..).frameMark

theorem State.trip_frameMark (s : State) (b : Nat) (level : Bool) : (s.trip b level).frameMark = s.frameMark :=
  State.frameMark_ite (s.tripSet_frameMark b) rfl

theorem State.follow_frameMark (s : State) : s.follow.frameMark = s.frameMark := by
  unfold State.follow
  extract_lets s1
  have hrest : Within [.coil] s1 (if s1.parkNet || s1.engine.mode == .park then s1.parkCoil
      else if s1.coil.state = 4 ∨ !s1.isOn 11 then s1
      else { s1 with coil := { state := 1, command := s1.engine.outLast, highZ := false } }) :=
    ((State.parkCoil_within _).ite ((Within.refl _).ite (.update [.coil] (by rfl)))).up (by rfl)
  exact hrest.frameMark.trans (State.trip_frameMark ..)

theorem State.emitAdvance_frameMark (s : State) : s.emitAdvance.frameMark = s.frameMark :=
  State.frameMark_ite (State.frameMark_ite rfl (State.frameMark_ite rfl rfl)) rfl

theorem State.restoreBars_frameMark (s : State) (counted : BitVec 16) : (s.restoreBars counted).frameMark = s.frameMark := by
  unfold State.restoreBars
  extract_lets g retired done _ s1
  exact State.frameMark_ite rfl (Within.foldl (l := []) (fun _ _ => (State.raise_quiet ..).within) done s1).frameMark

theorem State.planFlip_frameMark (s : State) (old : Cfg) (idle : Bool) (changed : List Nat) :
    (s.planFlip old idle changed).frameMark = s.frameMark := by
  unfold State.planFlip
  extract_lets c new f fades other _ s1
  refine State.frameMark_ite rfl ?_
  split
  · exact State.raise_frameMark s1 ..
  · rfl

theorem State.bankRetarget_frameMark (s : State) : s.bankRetarget.frameMark = s.frameMark := State.frameMark_ite rfl rfl

theorem State.enterLull_frameMark (s : State) : s.enterLull.frameMark = s.frameMark := by
  unfold State.enterLull
  extract_lets n s1
  have h1 : s1.frameMark = s.frameMark := State.frameMark_ite rfl rfl
  exact h1

theorem State.outOfRange_frameMark (s : State) : s.outOfRange.frameMark = s.frameMark :=
  State.raise_frameMark ..

theorem State.phaseFlip_frameMark (s : State) (changed : List Nat) : (s.phaseFlip changed).frameMark = s.frameMark := by
  unfold State.phaseFlip
  extract_lets fresh _ s1 _ s2 _ s3
  have h1 : s1.frameMark = s.frameMark := State.frameMark_ite rfl rfl
  have h2 : s2.frameMark = s1.frameMark := State.frameMark_ite rfl rfl
  have h3 : s3.frameMark = s2.frameMark := State.enterLull_frameMark s2
  rw [← h1, ← h2]
  exact State.frameMark_ite (State.frameMark_ite rfl (State.frameMark_ite rfl h3)) rfl

theorem State.phaseBoundary_frameMark (s : State) (t : Time) : (s.phaseBoundary t).frameMark = s.frameMark := by
  unfold State.phaseBoundary
  extract_lets prev out
  split
  · rfl
  · rfl
  all_goals
    split
    · rfl
    · extract_lets s1
      have hlull : s1.enterLull.outOfRange.frameMark = s1.frameMark :=
        (State.outOfRange_frameMark _).trans (State.enterLull_frameMark s1)
      refine State.frameMark_ite (s := s1) hlull
        (State.frameMark_ite (State.frameMark_ite ?_ rfl) (State.frameMark_ite rfl rfl))
      exact State.raise_frameMark ..

/-! A configuration that takes force at the boundary. -/

theorem State.applyCfg_frameMark (s : State) (new : Store) (counted : BitVec 16) (idle : Bool) :
    (s.applyCfg new counted idle).1.frameMark = s.frameMark := by
  unfold State.applyCfg
  extract_lets old changed s1 s2 _ s3 s4 s5 s6 s7 engine
  have h2 : s2.frameMark = s1.frameMark := (State.planFlip_frameMark ..).trans (State.restoreBars_frameMark ..)
  have h3 : (s3.bankRetarget.phaseFlip changed).frameMark = s2.frameMark :=
    (State.phaseFlip_frameMark ..).trans (State.bankRetarget_frameMark s3)
  have h4 : Within [.bus, .tin, .cap, .stream, .flash] (s3.bankRetarget.phaseFlip changed) s4 :=
    ((State.busFlip_within ..).seq ((State.tinFlip_within ..).seq (State.captureFlip_within ..))).up (by rfl)
  have h6 : Within [.rx] s4 s6 := ((State.coincFlip_within s4).seq ((State.biasFlip_within s5).ite (Within.refl s5))).up (by rfl)
  have h7 : Within [.rx, .cal, .arb, .front, .net, .stream] s6 s7 :=
    ((State.refreshBands_within s6).seq ((State.calFlip_within ..).seq ((State.rejoinRestart_within _).seq
      ((State.rangeFlip_within ..).seq (State.networkFlip_within ..))))).up (by rfl)
  have h8 : Within [.laneA, .laneB] s7 (if idle then (s7.modEngine .a engine).modEngine .b engine else s7) :=
    (((State.modEngine_within ..).seq (State.modEngine_within ..)).ite (Within.refl s7)).up (by rfl)
  calc _ = s7.frameMark := h8.frameMark
    _ = s6.frameMark := h7.frameMark
    _ = s4.frameMark := h6.frameMark
    _ = _ := h4.frameMark
    _ = s2.frameMark := h3
    _ = s.frameMark := h2

theorem State.lockFlip_frameMark (s : State) (k : Commit) (idle : Bool) : (s.lockFlip k idle).1.frameMark = s.frameMark := by
  unfold State.lockFlip
  extract_lets new frame p _ s2 _ s3 s4
  have h1 : p.1.frameMark = s.frameMark := State.applyCfg_frameMark ..
  have h4 : s4.frameMark = p.1.frameMark := State.raise_frameMark s3 ..
  exact ((State.writeVersion_within s4).when.frameMark.trans h4).trans h1

theorem State.revertFlip_frameMark (s : State) (left num ticket : U32) (idle : Bool) :
    (s.revertFlip left num ticket idle).1.frameMark = s.frameMark := by
  unfold State.revertFlip
  extract_lets p _ _ s2
  exact (State.raise_frameMark s2 ..).trans (State.applyCfg_frameMark ..)

theorem State.boundaryLock_frameMark (s : State) (e : Time) (unconfirmed : Option Nat) :
    (s.boundaryLock e unconfirmed).1.frameMark = s.frameMark := by
  unfold State.boundaryLock
  split
  · split
    · split
      · exact State.lockFlip_frameMark ..
      · exact (State.lockMove_quiet ..).frameMark
    · rfl
  · rfl

theorem State.boundaryFlips_frameMark (s : State) (e : Time) (unconfirmed : Option Nat) :
    (s.boundaryFlips e unconfirmed).1.frameMark = s.frameMark := by
  unfold State.boundaryFlips
  extract_lets p
  have hp : p.1.frameMark = s.frameMark := State.boundaryLock_frameMark ..
  split
  · exact (State.revertFlip_frameMark ..).trans hp
  · exact hp

/-! ### The frame that begins -/

theorem Scan.fadeStep_frame (x : Scan) : x.fadeStep.frame = x.frame := by
  unfold Scan.fadeStep
  split
  · rfl
  · split <;> rfl

theorem State.beginFrame_frameMark (s : State) (e : Time) :
    (s.beginFrame e).frameMark = (true, s.scan.frame, e, s.emit.acc, s.emit.accLast) := by
  unfold State.beginFrame
  extract_lets camera x _ info y _
  rw [(State.noteRedundancy_within _).frameMark]
  simp only [State.frameMark, y, x, Scan.fadeStep_frame]

theorem State.frameOpens_frameMark (s : State) (old : Cfg) (columns period : Nat) (flip : Option (List Nat)) (e : Time) :
    (s.frameOpens old columns period flip e).frameMark = (true, s.scan.frame, e, s.emit.acc, s.emit.accLast) := by
  unfold State.frameOpens
  extract_lets s1 p
  have h1 : s1.frameMark = (s.beginFrame e).frameMark := (State.follow_frameMark _).trans (State.bothEngines_within ..).frameMark
  rw [(State.openSection_within p.1 _).frameMark, (State.rangeBoundary_within s1 ..).frameMark, h1, State.beginFrame_frameMark]

theorem State.heldEvent_frameMark (s : State) : s.heldEvent.frameMark = s.frameMark := by
  unfold State.heldEvent
  extract_lets _ s1
  exact State.frameMark_ite (s := s) rfl (State.raise_frameMark s1 ..)

theorem State.derateBoundary_frameMark (s : State) : s.derateBoundary.frameMark = s.frameMark := by
  unfold State.derateBoundary
  extract_lets tj m r _ s1
  exact State.frameMark_ite (State.raise_frameMark s1 ..) rfl

theorem State.returnBoundary_frameMark (s : State) : s.returnBoundary.frameMark = s.frameMark := by
  unfold State.returnBoundary
  extract_lets f _ s1
  split
  · exact State.frameMark_ite rfl (State.frameMark_ite rfl rfl)
  · exact State.frameMark_ite (State.raise_frameMark s1 ..) rfl

/-- The frame accumulator is handed on and starts anew (R113). -/
theorem State.emitBoundary_frameMark (s : State) :
    s.emitBoundary.frameMark = (s.scan.flyback, s.scan.frame, s.scan.tick, 0, s.emit.acc) := by
  unfold State.emitBoundary
  extract_lets s1 _ s2
  obtain ⟨hfly, hframe, htick, hacc, -⟩ := State.frameMark_eq_iff.mp (State.heldEvent_frameMark s)
  rw [State.emitAdvance_frameMark, State.returnBoundary_frameMark, State.derateBoundary_frameMark]
  exact State.frameMark_eq_iff.mpr ⟨hfly, hframe, htick, rfl, hacc⟩

/-- What follows the opening of the frame. -/
theorem State.frameUpdates_frameMark (s : State) (old : Cfg) (columns period : Nat) (ran : Bool) (flip : Option (List Nat))
    (e : Time) : (s.frameUpdates old columns period ran flip e).frameMark = (true, s.scan.frame, e, 0, s.emit.acc) := by
  unfold State.frameUpdates
  extract_lets s1
  obtain ⟨hfly, hframe, htick, hacc, -⟩ := State.frameMark_eq_iff.mp (State.frameOpens_frameMark s old columns period flip e)
  have h1 : s1.frameMark = (true, s.scan.frame, e, 0, s.emit.acc) := by
    rw [(State.throttleBoundary_within _).frameMark, State.emitBoundary_frameMark, hfly, hframe, htick, hacc]
  have hrest : Within [.rx, .bus, .arb, .pwr, .therm, .cal] s1
      (((s1.busBoundary.busAlign ran).calBoundary.xtalBoundary.wakeRestarted.stepBias).rejoinTick e) :=
    ((State.busBoundary_within s1).seq ((State.busAlign_within ..).seq ((State.calBoundary_within _).seq
      ((State.xtalBoundary_within _).seq ((State.wakeRestarted_within _).seq ((State.stepBias_within _).seq
        (State.rejoinTick_within ..))))))).up (by rfl)
  rw [hrest.frameMark, h1]

/-- A frame begins at e: the flyback of the next number, with an empty accumulator. -/
theorem State.frameTurn_frameMark (s : State) (e : Time) (unconfirmed : Option Nat) :
    (s.frameTurn e unconfirmed).frameMark = (true, s.scan.frame + 1, e, 0, s.emit.acc) := by
  unfold State.frameTurn
  extract_lets old columns period s1 _ s2 p s3 ran s4 _ s5
  have h1 : s1.frameMark = s.frameMark :=
    ((State.frameEvents_within s).seq (State.calPreFlip_within _)).frameMark
  have h4 : s4.frameMark = s2.frameMark := (State.phaseBoundary_frameMark ..).trans (State.boundaryFlips_frameMark ..)
  obtain ⟨-, hframe, -, hacc, -⟩ := State.frameMark_eq_iff.mp h1
  obtain ⟨-, hnext, -, hsum, -⟩ := State.frameMark_eq_iff.mp h4
  have hnumber : s5.scan.frame = s.scan.frame + 1 := hnext.trans (congrArg (· + 1) hframe)
  have henergy : s5.emit.acc = s.emit.acc := hsum.trans hacc
  rw [State.frameUpdates_frameMark, hnumber, henergy]

/-! ### The commands -/

theorem exec_columnTick (t : Time) (x : TickIn) (s : State) : exec (.columnTick t x) s = .next (doColumnTick t x s) := rfl

theorem exec_frameBoundary (t : Time) (x : TickIn) (f : Option (Fin 32)) (s : State) :
    exec (.frameBoundary t x f) s = .next (doFrameBoundary t x f s) := rfl

/-- The tick that ends the flyback opens column 0. -/
theorem exec_columnTick_flyback {t : Time} {s : State} (x : TickIn) (htimer : s.scan.timer = true) (hfly : s.scan.flyback = true)
    (hdue : s.scan.tick + s.scan.flyLen ≤ max s.now t) :
    exec (.columnTick t x) s =
      .next ((s.at t).closeWindows.bandsStart.openColumn (s.scan.tick + s.scan.flyLen) 0).openFirst := by
  simp [exec_columnTick, doColumnTick, htimer, hfly, Nat.not_lt.mpr hdue]

/-- The tick that ends a column other than the last one opens the next. -/
theorem exec_columnTick_column {t : Time} {s : State} (x : TickIn) (htimer : s.scan.timer = true) (hfly : s.scan.flyback = false)
    (hmore : s.scan.column + 1 < s.scan.columns) (hdue : s.scan.tick + s.scan.period ≤ max s.now t) :
    exec (.columnTick t x) s =
      .next (((s.at t).endColumn x (s.scan.tick + s.scan.period) false).openColumn (s.scan.tick + s.scan.period)
        (s.scan.column + 1)) := by
  simp [exec_columnTick, doColumnTick, htimer, hfly, Nat.not_le.mpr hmore, Nat.not_lt.mpr hdue]

/-- In a column, nothing happens before the tick. -/
theorem exec_columnTick_early {t : Time} {s : State} (x : TickIn) (htimer : s.scan.timer = true) (hfly : s.scan.flyback = false)
    (hearly : max s.now t < s.scan.tick + s.scan.period) : exec (.columnTick t x) s = .next (s.at t) := by
  simp [exec_columnTick, doColumnTick, htimer, hfly, hearly]

/-- The tick that ends the last column, with no entry under way, turns to the next frame. -/
theorem exec_frameBoundary_turn {t : Time} {s : State} (x : TickIn) (f : Option (Fin 32)) (htimer : s.scan.timer = true)
    (hfly : s.scan.flyback = false) (hlast : s.scan.column + 1 = s.scan.columns) (hdue : s.scan.tick + s.scan.period ≤ max s.now t)
    (hentry : s.pwr.entry = none) :
    exec (.frameBoundary t x f) s =
      .next (((s.at t).endColumn x (s.scan.tick + s.scan.period) true).frameTurn (s.scan.tick + s.scan.period) (f.map (·.val))) := by
  have hpwr : ((s.at t).endColumn x (s.scan.tick + s.scan.period) true).pwr = s.pwr :=
    (State.endColumn_within ..).part .pwr (by decide)
  simp [exec_frameBoundary, doFrameBoundary, htimer, hfly, hlast, Nat.not_lt.mpr hdue, hpwr, hentry]

/-- Before the tick no frame begins. -/
theorem exec_frameBoundary_early {t : Time} {s : State} (x : TickIn) (f : Option (Fin 32))
    (hearly : max s.now t < s.scan.tick + s.scan.period) : exec (.frameBoundary t x f) s = .next (s.at t) := by
  simp [exec_frameBoundary, doFrameBoundary, hearly]

/-- Settles O23: the tick at its instant opens the column or begins the frame; before it, the command ends with the clock's move. -/
theorem ticksOpenColumnsAndFrames : Obligations.TicksOpenColumnsAndFrames := by
  unfold Obligations.TicksOpenColumnsAndFrames
  refine ⟨fun t x s htimer hfly hdue => ?_, fun t x s htimer hfly hmore hdue => ?_, fun t x f s htimer hfly hlast hdue hentry => ?_,
    fun t x f s htimer hfly hearly => ⟨exec_columnTick_early x htimer hfly hearly, exec_frameBoundary_early x f hearly⟩⟩
  · refine ⟨_, exec_columnTick_flyback x htimer hfly hdue, ?_⟩
    generalize hs1 : (s.at t).closeWindows.bandsStart = s1
    have hempty : s1.rx.acc = .empty := hs1 ▸ rfl
    obtain ⟨hfly', hcolumn, htick, hslot⟩ := s1.openColumn_scan (s.scan.tick + s.scan.flyLen) 0
    have hacc := (s1.openColumn_keeps (s.scan.tick + s.scan.flyLen) 0).1
    exact ⟨hfly', hcolumn, htick, hslot, rfl, hacc.trans hempty⟩
  · refine ⟨_, exec_columnTick_column x htimer hfly hmore hdue, ?_⟩
    obtain ⟨hempty, hnumber⟩ := (s.at t).endColumn_keeps x (s.scan.tick + s.scan.period) false
    generalize (s.at t).endColumn x (s.scan.tick + s.scan.period) false = s1 at hempty hnumber ⊢
    obtain ⟨hfly', hcolumn, htick, hslot⟩ := s1.openColumn_scan (s.scan.tick + s.scan.period) (s.scan.column + 1)
    obtain ⟨hacc, hseq⟩ := s1.openColumn_keeps (s.scan.tick + s.scan.period) (s.scan.column + 1)
    exact ⟨hfly', hcolumn, htick, hslot, hseq.trans hnumber, hacc.trans hempty⟩
  · refine ⟨_, exec_frameBoundary_turn x f htimer hfly hlast hdue hentry, ?_⟩
    obtain ⟨-, hframe, -, hacc, -⟩ :=
      State.frameMark_eq_iff.mp ((s.at t).endColumn_within x (s.scan.tick + s.scan.period) true).frameMark
    obtain ⟨hfly', hnumber, htick, hzero, hsum⟩ := State.frameMark_eq_iff.mp
      (((s.at t).endColumn x (s.scan.tick + s.scan.period) true).frameTurn_frameMark (s.scan.tick + s.scan.period) (f.map (·.val)))
    exact ⟨hfly', hnumber.trans (congrArg (· + 1) hframe), htick, hzero, hsum.trans hacc⟩

end Sys2Proof.Machine
end

