-- ==== Sys2Proof/Proofs/TimingInputs.lean ====
section
/-! PROOFS. The records of the timing inputs, REFIN, and the pads that PAD_RELEASE frees. -/

namespace Sys2Proof.Machine

open Sys2Proof

/-! ### Records -/

/-- An input that exists is changed in place. -/
theorem State.modInput_input {s : State} {i : Nat} (f : TinInput → TinInput) (hi : i < s.tin.inputs.length) :
    (s.modInput i f).input i = f (s.input i) := by
  simp [State.input, State.modInput, modAt, List.getD_eq_getElem?_getD, hi]

/-- An input is read from the timing inputs alone. -/
theorem State.input_congr {s u : State} (h : u.tin = s.tin) (i : Nat) : u.input i = s.input i := by
  simp only [State.input, h]

/-- A record that closes leaves its input and joins those that await delivery, last. -/
theorem State.tinClose_tin {s : State} {i : Nat} {r : TinRec} (reason : Nat) (hopen : (s.input i).openRec = some r) :
    (s.tinClose i reason).tin = ((s.modInput i fun x => { x with openRec := none }).tinQueue { r with reason }).tin := by
  simp only [State.tinClose, hopen]
  split
  · exact State.raise_tin ..
  · rfl

/-- Once TIN_IDLE_TIMEOUT is over, the open record closes as IDLE (R145). -/
theorem exec_tinRecordCloseIdle_due {t : Time} {i : Fin 4} {s : State}
    (hdue : (s.input i.val).last.getD 0 + (usec (s.cfgN Id.TIN_IDLE_TIMEOUT) : Nat) ≤
      (s.at t).deviceTicks (max s.now t) - s.cal.vals.tin.getD i.val 0) :
    exec (.tinRecordCloseIdle t i) s = .next ((s.at t).tinClose i.val 1) :=
  congrArg Host.Outcome.next (if_pos hdue)

/-- Draining the FIFO moves its own two fields alone. -/
theorem State.tinDrain_eq (s : State) : ∃ fifo fifoAt, s.tinDrain = { s with tin := { s.tin with fifo, fifoAt } } := by
  unfold State.tinDrain
  extract_lets n
  split
  · exact ⟨_, _, rfl⟩
  · exact ⟨_, _, rfl⟩

/-- Delivery takes the oldest closed record, and touches the stream only where records are streamed (R144). -/
theorem doTinRecordDelivery_takes {t : Time} {s : State} {r : TinRec} {rest : List TinRec} (hclosed : s.tin.closed = r :: rest) :
    (doTinRecordDelivery t s).tin.closed = rest ∧
      (s.cfgN Id.STREAM_RECORDS ≠ 1 → (doTinRecordDelivery t s).stream = s.stream) := by
  obtain ⟨fifo, fifoAt, hdrain⟩ := (s.at t).tinDrain_eq
  unfold doTinRecordDelivery
  rw [hdrain]
  extract_lets s0
  split
  next hnil => cases hclosed.symm.trans hnil
  next r' rest' hcons =>
    obtain ⟨rfl, rfl⟩ := List.cons.inj (hclosed.symm.trans hcons)
    extract_lets s1
    split
    next hone =>
      have htin := (State.pushItems_within s1 r.fragments).part .tin (by decide)
      exact ⟨congrArg Tin.closed htin, fun hne => absurd hone hne⟩
    next => exact ⟨rfl, fun _ => rfl⟩

/-! ### REFIN -/

/-- An edge of REFIN in a period of 95 ns to 105 ns lengthens the run, and the thousandth in a row makes REFIN present (R41). -/
theorem doRefinEdge_regular {t t0 : Time} {s : State} (hlive : s.timinLive = true) (hlast : s.tin.refinLast = some t0)
    (hlo : 3040 ≤ max s.now t - t0) (hhi : max s.now t - t0 ≤ 3360) :
    (doRefinEdge t s).tin.refinRun = min 1000 (s.tin.refinRun + 1) ∧
      (999 ≤ s.tin.refinRun → (doRefinEdge t s).tin.refin = true) := by
  have hlive' : (s.at t).timinLive = true := hlive
  simp only [doRefinEdge, hlive', State.at_tin, State.at_now, hlast, hlo, hhi, Bool.not_true, Bool.false_eq_true, decide_true,
    Bool.and_self, if_true, if_false, true_and]
  intro hrun
  rw [Nat.min_eq_left (by omega)]
  exact Bool.or_true _

/-- A longer period starts the run anew and leaves REFIN as it was. -/
theorem doRefinEdge_late {t t0 : Time} {s : State} (hlive : s.timinLive = true) (hlast : s.tin.refinLast = some t0)
    (hlate : 3360 < max s.now t - t0) :
    (doRefinEdge t s).tin.refinRun = 0 ∧ (doRefinEdge t s).tin.refin = s.tin.refin := by
  have hlive' : (s.at t).timinLive = true := hlive
  simp [doRefinEdge, hlive', hlast, Nat.not_le.mpr hlate]

/-- After 1 µs without an edge REFIN is absent; with no calibration under way nothing else follows. -/
theorem doRefinAbsent_silent {t t0 : Time} {s : State} (hlast : s.tin.refinLast = some t0) (hsilent : t0 + usec 1 ≤ max s.now t)
    (hcal : s.cal.running = none) : doRefinAbsent t s = (s.at t).refinGone := by
  have hs : (s.at t).refinSilent = true := by simp [State.refinSilent, hlast, hsilent]
  have hc : (s.at t).refinGone.cal.running = none := hcal
  simp only [doRefinAbsent, hs, hc, if_true]

/-! ### Pads -/

/-- Mask 1 frees the pads of TIMIN, and no record or stamp of an input moves (R49). -/
theorem padReleaseAction_timin (s : State) :
    (padReleaseAction 1 s).pwr.pads = withBit s.pwr.pads 0 false ∧ (padReleaseAction 1 s).tin.inputs = s.tin.inputs :=
  ⟨rfl, rfl⟩

/-- Mask 2 frees the pads of TBUS, and the timing inputs stay as they are (R49). -/
theorem padReleaseAction_tbus (s : State) :
    (padReleaseAction 2 s).pwr.pads = withBit s.pwr.pads 1 false ∧ (padReleaseAction 2 s).tin = s.tin :=
  ⟨rfl, rfl⟩

/-! ### Commands with a ticket (R64) -/

/-- The state in which a ticketed command acts is that before the message, but for what Quiet names. -/
theorem Takes.quiet {s : State} {t : Time} {id : Nat} {h : Hdr} {v : Bytes} {s2 : State} {r : Rcvd} {x : Session} {o : Obj} {fl : Nat}
    (H : Takes s t id h v s2 r x o fl) : Quiet s s2.issueTicket.1 :=
  (State.at_quiet s t).trans ((reaches_quiet H.heard).trans (State.issueTicket_quiet s2))

/-- A write to a CMD object that is ticketed runs its action, then is answered with the ticket. -/
theorem Takes.ticketed_runs {s : State} {t : Time} {id : Nat} {h : Hdr} {v : Bytes} {s2 : State} {r : Rcvd} {x : Session} {o : Obj}
    {fl : Nat} {f : U32 → State → State} (H : Takes s t id h v s2 r x o fl) (hacc : o.acc = .cmd)
    (hf : s2.command r.h 0x11 x id (leNat v) = s2.ticketed f) :
    (doWriteObject t id h v s).ticketedBy s2 r ∧ Quiet (f s2.nextTicket s2.issueTicket.1) (doWriteObject t id h v s) := by
  obtain ⟨rfl, hreg⟩ := lookup_regular H.object
  have happly : s2.apply r.h 0x11 x o v fl = s2.ticketed f := by
    simp only [State.apply, H.served, Bool.false_eq_true, if_false, hacc, hf]
  rw [H.runs hreg.id_lt, happly]
  exact ⟨State.ticketed_answered .., State.answer_quiet ..⟩

/-- PAD_RELEASE is a command. -/
theorem padRelease_acc {o : Obj} (ho : lookup Id.PAD_RELEASE = some o) : o.acc = .cmd := by
  have hacc : (lookup Id.PAD_RELEASE).map Obj.acc = some .cmd := by decide +kernel
  simpa [ho] using hacc

/-- PAD_RELEASE answers with its ticket; its action has written the pads and the timing inputs. -/
theorem Takes.padRelease_runs {s : State} {t : Time} {h : Hdr} {v : Bytes} {s2 : State} {r : Rcvd} {x : Session} {o : Obj} {fl : Nat}
    (H : Takes s t Id.PAD_RELEASE h v s2 r x o fl) :
    (doWriteObject t Id.PAD_RELEASE h v s).ticketedBy s2 r ∧
      (doWriteObject t Id.PAD_RELEASE h v s).pwr = (padReleaseAction (leNat v) s).pwr ∧
      (doWriteObject t Id.PAD_RELEASE h v s).tin = (padReleaseAction (leNat v) s).tin := by
  obtain ⟨hticket, hq⟩ := H.ticketed_runs (padRelease_acc H.object) (f := fun _ y => padReleaseAction (leNat v) y) (by rfl)
  refine ⟨hticket, hq.pwr.trans ?_, hq.tin.trans ?_⟩ <;> simp only [padReleaseAction, H.quiet.pwr, H.quiet.tin]

/-- Settles O35: the record that closes joins the queue and the oldest leaves it, REFIN by its last edge, and the pads by the mask. -/
theorem recordsCloseAndReferencesComeAndGo : Obligations.RecordsCloseAndReferencesComeAndGo := by
  unfold Obligations.RecordsCloseAndReferencesComeAndGo
  refine ⟨fun t i s r hi hopen hdue => ?_, fun t s r rest hclosed => ⟨_, rfl, doTinRecordDelivery_takes hclosed⟩,
    fun t t0 s hlive hlast => ⟨fun hlo hhi => ⟨_, rfl, doRefinEdge_regular hlive hlast hlo hhi⟩,
      fun hlate => ⟨_, rfl, doRefinEdge_late hlive hlast hlate⟩⟩,
    fun t t0 s hlast hsilent hcal => ?_, fun t h s s2 r x o fl => ⟨fun H => ?_, fun H => ?_⟩⟩
  · have htin := State.tinClose_tin (s := s.at t) 1 hopen
    refine ⟨_, exec_tinRecordCloseIdle_due hdue, ?_, ?_⟩
    · exact (congrArg TinInput.openRec (State.input_congr htin i.val)).trans
        (congrArg TinInput.openRec (State.modInput_input (s := s.at t) (fun x => { x with openRec := none }) hi))
    · exact congrArg Tin.closed htin
  · exact ⟨_, congrArg Host.Outcome.next (doRefinAbsent_silent hlast hsilent hcal), rfl, rfl⟩
  · obtain ⟨hticket, hpwr, htin⟩ := H.padRelease_runs
    obtain ⟨hpads, hinputs⟩ := padReleaseAction_timin s
    exact ⟨_, rfl, hticket, (congrArg Pwr.pads hpwr).trans hpads, (congrArg Tin.inputs htin).trans hinputs⟩
  · obtain ⟨hticket, hpwr, htin⟩ := H.padRelease_runs
    obtain ⟨hpads, hsame⟩ := padReleaseAction_tbus s
    exact ⟨_, rfl, hticket, (congrArg Pwr.pads hpwr).trans hpads, htin.trans hsame⟩

end Sys2Proof.Machine
end

