-- ==== Sys2Proof/Proofs/PowerMarks.lean ====
section
/-! PROOFS. The mark of the power state, which the start of domains, of calibrations and of the column timer leaves alone. -/

namespace Sys2Proof.Machine

open Sys2Proof

/-! ### The mark of the power state -/

/-- Where the device stands among the power states: the state, the entry and the wake under way, and the requests that wait. -/
def State.powerMark (s : State) : Power × Option Entry × Option Wake × List (Power × Requester) :=
  (s.pwr.state, s.pwr.entry, s.pwr.wake, s.pwr.afterWake)

theorem State.powerMark_eq_iff {s : State} {state : Power} {entry : Option Entry} {wake : Option Wake}
    {afterWake : List (Power × Requester)} :
    s.powerMark = (state, entry, wake, afterWake) ↔
      s.pwr.state = state ∧ s.pwr.entry = entry ∧ s.pwr.wake = wake ∧ s.pwr.afterWake = afterWake := by
  simp [State.powerMark]

/-- What does not move the power state keeps its mark. -/
theorem Within.powerMark {l : List Part} {s u : State} (h : Within l s u) (hpwr : .pwr ∉ l := by decide) :
    u.powerMark = s.powerMark := by
  have hsame : u.pwr = s.pwr := h.part .pwr hpwr
  simp only [State.powerMark, hsame]

theorem Quiet.powerMark {s u : State} (h : Quiet s u) : u.powerMark = s.powerMark := h.within.powerMark

/-- Steps that each keep the mark keep it together. -/
theorem State.powerMark_foldl {α : Type} {f : State → α → State} (h : ∀ y a, (f y a).powerMark = y.powerMark) (l : List α) (s : State) :
    (l.foldl f s).powerMark = s.powerMark := by
  induction l generalizing s with
  | nil => rfl
  | cons a l ih => exact (ih (f s a)).trans (h s a)

theorem State.powerMark_ite {s a b : State} {c : Prop} [Decidable c] (ha : a.powerMark = s.powerMark)
    (hb : b.powerMark = s.powerMark) : (if c then a else b).powerMark = s.powerMark := by
  split <;> assumption

/-! ### Domains -/

theorem State.setDom_powerMark (s : State) (d : Nat) (v : DomState) : (s.setDom d v).powerMark = s.powerMark := rfl

/-- A band changes with its domain. -/
theorem State.setDom_modBand_powerMark (s : State) (d : Nat) (v : DomState) (b : Nat) (f : Band → Band) :
    ((s.setDom d v).modBand b f).powerMark = s.powerMark := rfl

/-- A domain that is switched on writes its own parts, its state and its failed attempts. -/
theorem State.domOn_powerMark (s : State) (d : Nat) : (s.domOn d).powerMark = s.powerMark := by
  unfold State.domOn
  split
  · rfl
  · rfl
  · exact State.setDom_powerMark ..
  · extract_lets s1 _ s2
    have timx : Within [.tin, .scan, .bus] s2 s2.tinWake.fsyncWake.busWake :=
      ((State.tinWake_within _).seq ((State.fsyncWake_within _).seq (State.busWake_within _))).up (by rfl)
    exact ((Within.update [.net] (by rfl)).ite ((Within.update [.net] (by rfl)).ite ((State.shotUp_within s2).ite
      ((Within.update [.coil] (by rfl)).ite ((Within.update [.front] (by rfl)).ite ((State.hkaUp_within s2).ite
        (timx.ite ((State.modBand_within ..).ite (Within.refl s2)))))))) |>.powerMark).trans (State.setDom_powerMark s d .on)

theorem State.domsOn_powerMark (s : State) (l : List Nat) : (s.domsOn l).powerMark = s.powerMark :=
  State.powerMark_foldl State.domOn_powerMark l s

/-! ### A calibration that starts at a frame boundary, and the bands that restart -/

theorem State.calHold_powerMark (s : State) : s.calHold.powerMark = s.powerMark := by
  unfold State.calHold
  split
  · exact State.powerMark_ite (State.powerMark_foldl (fun _ _ => State.powerMark_ite (State.setDom_modBand_powerMark ..) rfl) _ s) rfl
  · rfl

theorem State.calStart_powerMark (s : State) : s.calStart.powerMark = s.powerMark := by
  unfold State.calStart
  split
  · exact State.powerMark_ite rfl (State.calHold_powerMark _)
  · rfl

theorem State.calAuto_powerMark (s : State) : s.calAuto.1.powerMark = s.powerMark := by
  unfold State.calAuto
  extract_lets p s1
  split
  · exact State.calStart_powerMark _
  · rfl

theorem State.calTrigger_powerMark (s : State) : s.calTrigger.powerMark = s.powerMark := by
  unfold State.calTrigger
  extract_lets _ s1 p
  have hauto : s1.calAuto.1.powerMark = s.powerMark := State.calAuto_powerMark s1
  refine State.powerMark_ite rfl (State.powerMark_ite hauto (State.powerMark_ite rfl ?_))
  split
  · exact (State.raise_quiet ..).powerMark.trans hauto
  · rfl

theorem State.calBoundary_powerMark (s : State) : s.calBoundary.powerMark = s.powerMark :=
  (State.calTrigger_powerMark _).trans (State.calApply_within s).powerMark

theorem State.wakeRestarted_powerMark (s : State) : s.wakeRestarted.powerMark = s.powerMark :=
  State.powerMark_foldl (fun _ _ => State.powerMark_ite (State.setDom_modBand_powerMark ..) rfl) _ s

/-! ### The column timer starts -/

theorem State.phaseStart_within (s : State) (t : Time) : Within [.scan] s (s.phaseStart t) := by
  unfold State.phaseStart
  extract_lets fly _ plain _ c second x s1
  have hplain : Within [.scan] s plain := .update _ (by rfl)
  have h1 : Within [.scan] s s1 := (Within.update [.scan] (by rfl)).seq (State.enterRelock_within _) |>.up (by rfl)
  exact ((Within.update [.scan] (by rfl)).ite ((hplain.seq (State.enterLull_within plain)).ite
    (h1.seq (Within.update [.scan] (by rfl))))).up (by rfl)

theorem State.beginFrame_within (s : State) (e : Time) : Within [.scan, .arb] s (s.beginFrame e) := by
  unfold State.beginFrame
  extract_lets camera x info y
  exact ((Within.update [.scan, .arb] (by rfl)).seq (State.noteRedundancy_within _)).up (by rfl)

theorem State.engineBoundary_within (s : State) (old : Cfg) (columns period : Nat) :
    Within [.emit, .coil, .laneA, .laneB] s (s.engineBoundary old columns period) :=
  ((State.bothEngines_within ..).seq (State.follow_within _)).up (by rfl)

theorem State.frameOpens_within (s : State) (old : Cfg) (columns period : Nat) (flip : Option (List Nat)) (e : Time) :
    Within [.scan, .arb, .emit, .coil, .laneA, .laneB, .front] s (s.frameOpens old columns period flip e) := by
  unfold State.frameOpens
  extract_lets s1 p
  have h1 : Within [.scan, .arb, .emit, .coil, .laneA, .laneB] s s1 :=
    ((State.beginFrame_within s e).seq (State.engineBoundary_within ..)).up (by rfl)
  exact (h1.seq ((State.rangeBoundary_within s1 ..).seq (State.openSection_within ..))).up (by rfl)

theorem State.heldEvent_within (s : State) : Within [.emit] s s.heldEvent := by
  unfold State.heldEvent
  extract_lets _ s1
  have h1 : Within [.emit] s s1 := .update _ (by rfl)
  exact (h1.ite (h1.then (State.raise_quiet ..))).up (by rfl)

theorem State.derateBoundary_within (s : State) : Within [.emit] s s.derateBoundary := by
  unfold State.derateBoundary
  extract_lets tj m r _ s1
  have h1 : Within [.emit] s s1 := .update _ (by rfl)
  exact ((h1.then (State.raise_quiet ..)).ite (Within.update [.emit] (by rfl))).up (by rfl)

theorem State.returnBoundary_within (s : State) : Within [.emit] s s.returnBoundary := by
  unfold State.returnBoundary
  extract_lets f _ s1
  have h1 : Within [.emit] s s1 := .update _ (by rfl)
  split
  · exact ((Within.update [.emit] (by rfl)).ite ((Within.update [.emit] (by rfl)).ite (Within.update [.emit] (by rfl)))).up (by rfl)
  · exact .when (h1.then (State.raise_quiet ..))

theorem State.emitBoundary_within (s : State) : Within [.emit] s s.emitBoundary := by
  unfold State.emitBoundary
  extract_lets s1 _ s2
  have h2 : Within [.emit] s1 s2 := .update _ (by rfl)
  exact ((State.heldEvent_within s).seq (h2.seq ((State.derateBoundary_within s2).seq ((State.returnBoundary_within _).seq
    (State.emitAdvance_within _))))).up (by rfl)

/-- A frame that begins starts calibrations and restarts bands, which move domains alone. -/
theorem State.frameUpdates_powerMark (s : State) (old : Cfg) (columns period : Nat) (ran : Bool) (flip : Option (List Nat)) (e : Time) :
    (s.frameUpdates old columns period ran flip e).powerMark = s.powerMark := by
  unfold State.frameUpdates
  extract_lets s1
  have h1 : s1.powerMark = s.powerMark := ((State.frameOpens_within s old columns period flip e).seq
    ((State.emitBoundary_within _).seq (State.throttleBoundary_within _))).powerMark
  have hbus : (s1.busBoundary.busAlign ran).powerMark = s1.powerMark :=
    ((State.busBoundary_within s1).seq (State.busAlign_within ..)).powerMark
  calc _ = (s1.busBoundary.busAlign ran).calBoundary.xtalBoundary.wakeRestarted.powerMark :=
        ((State.stepBias_within _).seq (State.rejoinTick_within ..)).powerMark
    _ = (s1.busBoundary.busAlign ran).calBoundary.xtalBoundary.powerMark := State.wakeRestarted_powerMark _
    _ = (s1.busBoundary.busAlign ran).calBoundary.powerMark := (State.xtalBoundary_within _).powerMark
    _ = (s1.busBoundary.busAlign ran).powerMark := State.calBoundary_powerMark _
    _ = s.powerMark := hbus.trans h1

theorem State.timerStart_powerMark (s : State) (e : Time) : (s.timerStart e).powerMark = s.powerMark := by
  unfold State.timerStart
  extract_lets _ _ s1 s2
  have h2 : Within [.scan, .front, .cap] s s2 :=
    (Within.update (u := s1.capTimerStart) [.scan, .front, .cap] (by rfl)).seq (State.phaseStart_within ..) |>.up (by rfl)
  exact State.powerMark_ite rfl ((State.frameUpdates_powerMark ..).trans h2.powerMark)

end Sys2Proof.Machine
end

