-- ==== Sys2Proof/Proofs/Wakes.lean ====
section
/-! PROOFS. The pin and a CAN frame wake the device, the pin's fall asks for a lower state, and a wake that is done enters RUN. -/

namespace Sys2Proof.Machine

open Sys2Proof

/-! ### A wake begins -/

/-- A wake that begins is under way, from the state in which the device stands (R296). -/
theorem State.wakeStart_wake (s : State) (goal : Power) (who : Requester) :
    (s.wakeStart goal who).pwr.wake = some { goal, origin := s.pwr.state, who, since := s.now } := by
  unfold State.wakeStart
  extract_lets w _ s1
  have hmark : s1.powerMark = (s.pwr.state, s.pwr.entry, some w, s.pwr.afterWake) := rfl
  have hwake : ∀ {u : State}, u.powerMark = s1.powerMark → u.pwr.wake = some w := fun h =>
    (State.powerMark_eq_iff.mp (h.trans hmark)).2.2.1
  split
  · exact hwake (State.domsOn_powerMark s1 scanDoms)
  · exact hwake ((State.lanesStart_within _).powerMark.trans (State.domsOn_powerMark s1 baseDoms))
  all_goals rfl

/-- A wake event wakes a device that sleeps, with no supply loss, recovery, cool-down, entry or wake under way. -/
theorem State.wakeEvent_wake {s : State} (who : Requester) (hasleep : s.pwr.state = .doze ∨ s.pwr.state = .sleep)
    (hlosing : s.pwr.losing = false) (hrecovery : s.pwr.recovery = false) (hcool : s.therm.cooldown = none)
    (hentry : s.pwr.entry = none) (hwake : s.pwr.wake = none) :
    (s.wakeEvent who).pwr.wake = some { goal := s.wakeTarget, origin := s.pwr.state, who, since := s.now } := by
  have hon : (s.pwr.state == .off) = false := by rcases hasleep with h | h <;> rw [h] <;> rfl
  have hstart : s.wakeEvent who = s.wakeStart s.wakeTarget who := by
    simp [State.wakeEvent, hlosing, hrecovery, hon, hcool, hentry, hwake, hasleep]
  rw [hstart, State.wakeStart_wake]

/-! ### The pin's fall -/

/-- WAKE has asked for its state in the present low period, or has not; no request of it waits to be repeated (R292). -/
def State.markPin (s : State) (asked : Bool) : State := { s with pwr := { s.pwr with pinAsked := asked, pinFailed := none } }

/-! What refuses an entry depends on neither the clock nor the power state. -/

theorem State.refusers_at_markPin (s : State) (t : Time) (asked : Bool) (target : Power) (who : Requester) :
    ((s.at t).markPin asked).refusers target who = s.refusers target who := rfl

theorem State.refusers_setEntry (s : State) (e : Option Entry) (target : Power) (who : Requester) :
    (s.setEntry e).refusers target who = s.refusers target who := rfl

/-- A pending entry without refuser or wake event passes P1; with the column timer running it waits for the frame boundary (R293). -/
theorem State.entryTry_passes {s : State} {e : Entry} (hentry : s.pwr.entry = some e) (hstep : e.step = 0) (hwake : e.wake = none)
    (hfree : s.refusers e.target e.who = []) (htimer : s.scan.timer = true) : s.entryTry = s.setEntry (some { e with step := 2 }) := by
  simp [State.entryTry, State.setEntry, hentry, hstep, hwake, hfree, htimer]

/-- So does a request, as it is entered. -/
theorem State.enterRequest_unrefused {s : State} {target : Power} {who : Requester} (forced : Bool) (htimer : s.scan.timer = true)
    (hfree : s.refusers target who = []) :
    s.enterRequest target who forced = s.setEntry (some
      { target, origin := s.pwr.state, who, since := s.now, step := 2, forced, refused := 0, wake := none }) :=
  State.entryTry_passes (s := s.setEntry (some
    { target, origin := s.pwr.state, who, since := s.now, step := 0, forced, refused := 0, wake := none })) rfl rfl rfl
    ((State.refusers_setEntry ..).trans hfree) htimer

/-- A request of the surroundings for a lower state is an entry, forced where the thermal guard asks. -/
theorem State.serveRequest_lower {s : State} {target : Power} {who : Requester} (hwho : who.isHost = false)
    (hbelow : target.below s.pwr.state = true) : s.serveRequest target who = s.enterRequest target who (who == .thermal) := by
  have hne : target ≠ s.pwr.state := fun h => by simp [h, Power.below] at hbelow
  simp [State.serveRequest, hwho, hne, hbelow]

/-- The state that WAKE_PIN_SLEEP names (R292). -/
def pinTarget (mode : Nat) : Power := if mode = 1 then .doze else .sleep

theorem pinTarget_below_run (mode : Nat) : (pinTarget mode).below .run = true := by
  unfold pinTarget
  split <;> rfl

/-- The pin's first fall in RUN, with neither an entry nor a wake under way, asks for its state. -/
theorem doWakePinLow_run {t : Time} {s : State} (hmode : s.cfgN Id.WAKE_PIN_SLEEP ≠ 0) (hasked : s.pwr.pinAsked = false)
    (hrun : s.pwr.state = .run) (hlosing : s.pwr.losing = false) (hrecovery : s.pwr.recovery = false) (hentry : s.pwr.entry = none)
    (hwake : s.pwr.wake = none) :
    doWakePinLow t s = ((s.at t).markPin true).enterRequest (pinTarget (s.cfgN Id.WAKE_PIN_SLEEP)) .pin false := by
  have hserve : doWakePinLow t s = ((s.at t).markPin true).serveRequest (pinTarget (s.cfgN Id.WAKE_PIN_SLEEP)) .pin := by
    unfold doWakePinLow
    extract_lets s0 mode due target _ s1
    have hdue : ¬ (mode = 0 || !due || !s0.awake || s0.pwr.losing || s0.pwr.recovery) = true := by
      simp [mode, due, s0, State.awake, hmode, hasked, hrun, hlosing, hrecovery]
    have hentry1 : s1.pwr.entry = none := hentry
    have hwake1 : s1.pwr.wake = none := hwake
    rw [if_neg hdue, if_neg (by simp [hentry1]), if_neg (by simp [hwake1])]
    rfl
  have hbelow : (pinTarget (s.cfgN Id.WAKE_PIN_SLEEP)).below ((s.at t).markPin true).pwr.state = true :=
    (congrArg _ hrun).trans (pinTarget_below_run _)
  rw [hserve, State.serveRequest_lower rfl hbelow]
  rfl

/-! ### A wake ends -/

/-- Where no request waits, none is served. -/
theorem State.serveAll_idle {s : State} (h : s.pwr.afterWake = []) : s.serveAll = s := by
  unfold State.serveAll State.serveRequests
  simp only [h]
  split <;> rfl

theorem State.stateChanged_quiet (s : State) (old new : Power) (who : Requester) : Quiet s (s.stateChanged old new who) :=
  Quiet.ite ((State.draw_quiet s).trans (State.raise_quiet ..)) (State.raise_quiet ..)

theorem State.confirmBoot_powerMark (s : State) : s.confirmBoot.powerMark = s.powerMark := by
  unfold State.confirmBoot
  split
  · rfl
  · refine State.powerMark_ite rfl (State.powerMark_ite rfl ?_)
    extract_lets _ s1 s2
    have h2 : s2.powerMark = s1.powerMark := by
      unfold s2
      split
      · exact State.powerMark_ite rfl (State.flashItem_quiet ..).powerMark
      · rfl
    split
    · exact State.powerMark_ite ((State.flashItem_quiet ..).powerMark.trans h2) h2
    · exact h2

theorem State.reach_powerMark (s : State) (v : Power) :
    (s.reach v).powerMark = (v, s.pwr.entry, s.pwr.wake, s.pwr.afterWake) := by
  unfold State.reach
  extract_lets s1
  split
  · rfl
  · split <;> rfl

theorem State.engineAutostart_within (s : State) : Within [.laneA, .laneB] s s.engineAutostart :=
  ((State.modEngine_within ..).seq (State.modEngine_within ..)).up (by rfl)

/-- The device is in RUN, its wake over. -/
theorem State.enterRun_powerMark (s : State) : s.enterRun.powerMark = (.run, s.pwr.entry, none, s.pwr.afterWake) := by
  unfold State.enterRun
  extract_lets _ _ s1
  obtain ⟨hstate, hentry, -, hafter⟩ := State.powerMark_eq_iff.mp (s.reach_powerMark .run)
  have h1 : s1.powerMark = (.run, s.pwr.entry, none, s.pwr.afterWake) :=
    State.powerMark_eq_iff.mpr ⟨hstate, hentry, rfl, hafter⟩
  have hfollow : ((s1.tripClear 10).engineAutostart.follow).powerMark = s1.powerMark :=
    ((State.tripClear_within s1 10).seq ((State.engineAutostart_within _).seq (State.follow_within _))).powerMark
  exact (State.timerStart_powerMark ..).trans (hfollow.trans h1)

/-- A wake that completes at RUN, with no request waiting. -/
theorem State.wakeComplete_run {s : State} {w : Wake} (hgoal : w.goal = .run) (hafter : s.pwr.afterWake = []) :
    (s.wakeComplete w).powerMark = (.run, s.pwr.entry, none, []) := by
  have hmark : ((s.enterRun.stateChanged w.origin w.goal w.who).confirmBoot).powerMark = (.run, s.pwr.entry, none, []) := by
    rw [State.confirmBoot_powerMark, (State.stateChanged_quiet ..).powerMark, State.enterRun_powerMark, hafter]
  obtain ⟨-, -, -, hnone⟩ := State.powerMark_eq_iff.mp hmark
  unfold State.wakeComplete
  extract_lets _ _ s1
  have h1 : s1 = s.enterRun := if_pos hgoal
  rw [h1, State.serveAll_idle hnone, hmark]

/-- In HOLD and not BECALMED, WAKE_DONE completes the wake. -/
theorem doWakeDone_hold {t : Time} {s : State} {w : Wake} (x : BootIn) (hwake : s.pwr.wake = some w) (hcalm : s.pwr.becalmed = 0)
    (hhold : s.pwr.state = .hold) : doWakeDone t x s = (s.at t).wakeComplete w := by
  simp [doWakeDone, State.isBecalmed, hwake, hcalm, hhold]

/-! ### The commands -/

/-- The pin's rise is a wake event where WAKE_SOURCES names the pin; its request to sleep is over. -/
theorem doWakePin_source {t : Time} {s : State} (hsource : bit (s.cfgN Id.WAKE_SOURCES) 0 = true) :
    doWakePin t s = ((s.at t).markPin false).wakeEvent .pin :=
  if_pos hsource

/-- A frame with CAN_WAKE_ID and the bits of CAN_WAKE_MASK is a wake event where WAKE_SOURCES names CAN. -/
theorem doCanWakeFrame_source {t : Time} {id : BitVec 11} {d : U64} {s : State} (hsource : bit (s.cfgN Id.WAKE_SOURCES) 1 = true)
    (hid : id.toNat = s.cfgN Id.CAN_WAKE_ID)
    (hmask : d &&& BitVec.ofNat 64 (s.cfgN Id.CAN_WAKE_MASK) = BitVec.ofNat 64 (s.cfgN Id.CAN_WAKE_MASK)) :
    doCanWakeFrame t id d s = (s.at t).wakeEvent .can :=
  if_pos ⟨hsource, hid, hmask⟩

/-- Settles O51: a wake event starts the wake, the pin's fall an entry that nobody refuses, and the end of the wake enters RUN. -/
theorem theDeviceWakes : Obligations.TheDeviceWakes := by
  unfold Obligations.TheDeviceWakes
  refine ⟨fun c who n t id d s hmem hsource hcan hasleep hlosing hrecovery hcool hentry hwake => ?_,
    fun t s hmode hasked hrun hlosing hrecovery hentry hwake htimer hfree => ?_,
    fun t x w s hwake hgoal hcalm hhold hafter => ?_⟩
  · rcases List.mem_cons.mp hmem with hpin | hframe
    · obtain ⟨rfl, rfl, rfl⟩ : who = .pin ∧ n = 0 ∧ c = .wakePin t := by
        simpa only [Prod.mk.injEq] using hpin
      exact ⟨_, congrArg Host.Outcome.next (doWakePin_source hsource),
        State.wakeEvent_wake (s := (s.at t).markPin false) .pin hasleep hlosing hrecovery hcool hentry hwake⟩
    · obtain ⟨rfl, rfl, rfl⟩ : who = .can ∧ n = 1 ∧ c = .canWakeFrame t id d := by
        simpa only [List.mem_singleton, Prod.mk.injEq] using hframe
      obtain ⟨hid, hmask⟩ := hcan rfl
      exact ⟨_, congrArg Host.Outcome.next (doCanWakeFrame_source hsource hid hmask),
        State.wakeEvent_wake (s := s.at t) .can hasleep hlosing hrecovery hcool hentry hwake⟩
  · have hentered := State.enterRequest_unrefused (s := (s.at t).markPin true) (who := .pin) false htimer
      ((s.refusers_at_markPin t true ..).trans (hfree (pinTarget (s.cfgN Id.WAKE_PIN_SLEEP))))
    have hlow := doWakePinLow_run (t := t) hmode hasked hrun hlosing hrecovery hentry hwake
    exact ⟨_, _, congrArg Host.Outcome.next (hlow.trans hentered), rfl, rfl, rfl, rfl, rfl⟩
  · obtain ⟨hstate, -, hdone, -⟩ := State.powerMark_eq_iff.mp (State.wakeComplete_run (s := s.at t) hgoal hafter)
    exact ⟨_, congrArg Host.Outcome.next (doWakeDone_hold x hwake hcalm hhold), hdone, hstate⟩

end Sys2Proof.Machine
end

