-- ==== Sys2Proof/Proofs/Slots.lean ====
section
/-! PROOFS. The decision on a column slot: the record it leaves, the energy it charges, and when the shot fires. -/

namespace Sys2Proof.Machine

open Sys2Proof

/-! ### What a decision leaves alone -/

theorem Within.scan {l : List Part} {s u : State} (h : Within l s u) (hscan : .scan ∉ l := by decide) : u.scan = s.scan :=
  h.part .scan hscan

theorem Within.rx {l : List Part} {s u : State} (h : Within l s u) (hrx : .rx ∉ l := by decide) : u.rx = s.rx :=
  h.part .rx hrx

/-- Counting what is withheld charges no energy. -/
theorem State.countHeld_frameMark (s : State) (d : Decision) : (s.countHeld d).frameMark = s.frameMark := by
  unfold State.countHeld
  extract_lets _ _ s1 s2
  have h2 : s2.frameMark = s.frameMark := ((State.count_quiet s1 ..).trans (State.count_quiet ..)).frameMark
  exact State.frameMark_ite ((State.raise_frameMark s2 ..).trans h2) h2

/-- The monitors may trip the emitter after a shot, and take none of its energy back. -/
theorem State.monitor_frameMark (s : State) (d : Decision) (x : SlotIn) : (s.monitor d x).frameMark = s.frameMark := by
  unfold State.monitor
  extract_lets _ _ _ _ _ _ _ _ s1 s2 s3
  have h2 : s2.frameMark = s.frameMark := State.frameMark_ite (s := s) (State.tripSet_frameMark s1 7) rfl
  exact State.frameMark_ite ((State.tripSet_frameMark s2 8).trans h2) h2

/-- A shot that is fired adds its energy to the frame accumulator (R113). -/
theorem State.fired_acc (s : State) (d : Decision) (t : Time) (buckets : Bool) (x : SlotIn) :
    ((s.charge d t buckets).monitor d x).emit.acc = s.emit.acc + d.energy := by
  obtain ⟨-, -, -, hacc, -⟩ := State.frameMark_eq_iff.mp (State.monitor_frameMark (s.charge d t buckets) d x)
  exact hacc

/-! ### The record of a slot -/

/-- The decision on the entry that the plan holds for the slot that is due, with its bank voltage. -/
def State.plannedDecision (s : State) (bankMv : Nat) : Decision :=
  let p := s.planFor s.scan.column
  s.judgeSlot (planEntry p.image (planPattern p.image s.scan.column) s.scan.slot) none none s.scan.column s.scan.slot bankMv
    (s.scan.tick + s.scan.slot * p.shotPeriod * 32 - 400 * 32)

/-- The governor lets a shot through that it has decided (R111): EMIT_ENABLE is high, the column is not dark, nothing holds the shot
and some bar is left. -/
def State.letsThrough (s : State) (d : Decision) : Bool :=
  !decide (s.emit.enable = 0) && !s.darkColumn s.scan.column && !d.held && decide (d.mask ≠ 0)

/-- The record that a decision on the slot that is due leaves. -/
def State.slotRecord (s : State) (lent : Bool) (d : Decision) (x : SlotIn) : SlotRec :=
  let start := s.scan.tick + s.scan.slot * (s.planFor s.scan.column).shotPeriod * 32
  { num := s.scan.slot, start, fire := start + s.conf.launchOffset s.scan.frame s.scan.column s.scan.slot, fired := s.letsThrough d, lent,
    mask := if s.letsThrough d then BitVec.ofNat 16 d.mask else 0, width := d.widthCode,
    launch := if s.letsThrough d then x.launch else rep 16 0xFFFFF }

/-- A column slot is decided: the next one is due, its record joins those of the column, and a shot let through is charged. Without a
calibration entry that may borrow the slot, the decision is on the planned entry. -/
theorem State.columnSlot_decided (s : State) (cal : Option Nat) (x : SlotIn) : ∃ (lent : Bool) (d : Decision),
    (s.columnSlot cal x).scan.slot = s.scan.slot + 1 ∧
    (s.columnSlot cal x).rx.acc.slots = s.rx.acc.slots ++ [s.slotRecord lent d x] ∧
    (s.columnSlot cal x).emit.acc = s.emit.acc + (if s.letsThrough d then d.energy else 0) ∧
    (cal = none → d = s.plannedDecision x.bankMv) := by
  unfold State.columnSlot
  extract_lets c k p used start fire planned borrowMax lend entry dark d tripped fired _ s1 rec_ _ _ _ s2
  have h1 : Within [.emit] s s1 := ((((Within.refl s).ite (.update [.emit] (by rfl))).ite
    ((Within.refl s).ite (State.countHeld_within ..)))).up (by rfl)
  have hmark1 : s1.frameMark = s.frameMark := State.frameMark_ite (State.frameMark_ite rfl rfl)
    (State.frameMark_ite rfl (State.countHeld_frameMark ..))
  obtain ⟨-, -, -, hacc1, -⟩ := State.frameMark_eq_iff.mp hmark1
  have hslots2 : s2.rx.acc.slots = s.rx.acc.slots ++ [s.slotRecord lend d x] := congrArg (fun y : Rx => y.acc.slots ++ [rec_]) h1.rx
  have hshot : Within [.emit, .therm] s2 (if fired then (s2.charge d (fire + 200 * 32) true).monitor d x else s2) :=
    .when (State.fired_within ..)
  refine ⟨lend, d, congrArg Scan.slot hshot.scan, (congrArg (fun y : Rx => y.acc.slots) hshot.rx).trans hslots2, ?_, ?_⟩
  · have hfired : s.letsThrough d = fired := rfl
    rw [hfired, ← hacc1]
    split
    · exact State.fired_acc ..
    · rfl
  · rintro rfl
    rfl

/-! ### The command -/

/-- With EMIT_ENABLE low no shot is let through (R83). -/
theorem State.letsThrough_disabled {s : State} (d : Decision) (henable : s.emit.enable = 0) : s.letsThrough d = false := by
  simp only [State.letsThrough, henable, decide_true, Bool.not_true, Bool.false_and]

/-- A shot that nothing withholds is let through. -/
theorem State.letsThrough_enabled {s : State} {d : Decision} (henable : s.emit.enable ≠ 0) (hdark : s.darkColumn s.scan.column = false)
    (hheld : d.held = false) (hmask : d.mask ≠ 0) : s.letsThrough d = true := by
  simp only [State.letsThrough, decide_eq_false henable, hdark, hheld, decide_eq_true hmask, Bool.not_false, Bool.and_self]

/-- In a column, SLOT_DECISION decides the slot that is due. -/
theorem exec_slotDecision_column {t : Time} {s : State} (cal : Option U32) (x : SlotIn) (htimer : s.scan.timer = true)
    (hfly : s.scan.flyback = false) (hused : s.scan.slot < planUsed (s.planFor s.scan.column).image) :
    exec (.slotDecision t cal x) s = .next ((s.at t).columnSlot (cal.map (·.toNat)) x) := by
  have hused' : (s.at t).scan.slot < planUsed ((s.at t).planFor (s.at t).scan.column).image := hused
  have hrun : doSlotDecision t cal x s = (s.at t).columnSlot (cal.map (·.toNat)) x := by
    unfold doSlotDecision
    extract_lets s0
    have htimer' : ¬ (!s0.scan.timer) = true := by
      simp only [s0, State.at_scan, htimer, Bool.not_true, Bool.false_eq_true, not_false_eq_true]
    have hfly' : ¬ s0.scan.flyback = true := by
      simp only [s0, State.at_scan, hfly, Bool.false_eq_true, not_false_eq_true]
    rw [if_neg htimer', if_neg hfly', if_pos hused']
  exact congrArg Host.Outcome.next hrun

/-- Settles O25: the record of the slot decided says whether its shot fired, and only such a shot is charged. -/
theorem slotsFireAtTheirDecision : Obligations.SlotsFireAtTheirDecision := by
  unfold Obligations.SlotsFireAtTheirDecision
  intro t cal x s htimer hfly hused
  refine ⟨fun henable => ?_, fun d hd henable hdark hheld hmask => ?_⟩
  · obtain ⟨lent, d, hslot, hslots, hacc, -⟩ := (s.at t).columnSlot_decided (cal.map (·.toNat)) x
    have hlow : (s.at t).letsThrough d = false := State.letsThrough_disabled d henable
    rw [if_neg (Bool.eq_false_iff.mp hlow)] at hacc
    exact ⟨_, _, exec_slotDecision_column cal x htimer hfly hused, hslot, hslots, rfl, rfl, hlow, hacc⟩
  · obtain ⟨lent, d', hslot, hslots, hacc, hplanned⟩ := (s.at t).columnSlot_decided none x
    obtain rfl : d' = d := (hplanned rfl).trans hd.symm
    have hhigh : (s.at t).letsThrough d' = true := State.letsThrough_enabled henable hdark hheld hmask
    rw [if_pos hhigh] at hacc
    exact ⟨_, _, exec_slotDecision_column none x htimer hfly hused, hslot, hslots, rfl, rfl, hhigh, rfl, if_pos hhigh, hacc⟩

end Sys2Proof.Machine
end

