-- ==== Sys2Proof/Proofs/CameraEdges.lean ====
section
/-! PROOFS. The edges that count camera frames: accepted ones, early ones, those of a Lull, and the tickets that set the index. -/

namespace Sys2Proof.Machine

open Sys2Proof

/-! ### Accepted edges (R97, R101) -/

/-- The stamp of an edge, as an instant of the model and as an integer. -/
theorem stamp_eq (now t : Time) : ((max now t : Nat) : Int) = max (now : Int) (t : Int) := by
  omega

/-- The first CAMERA_INDEX_SET ticket that waits gives the index. -/
theorem State.takeIndex_waiting {s : State} {k : Ticket} {rest : List Ticket} (stamp : Int)
    (hwait : s.queued Id.CAMERA_INDEX_SET = k :: rest) : (s.takeIndex stamp).2 = u32 k.value := by
  simp only [State.takeIndex, hwait]

/-- Without one, FREE counts on. -/
theorem State.takeIndex_free {s : State} (stamp : Int) (hnone : s.queued Id.CAMERA_INDEX_SET = []) (hfree : s.scan.phasing = .free) :
    (s.takeIndex stamp).2 = s.scan.camera + 1 := by
  simp only [State.takeIndex, hnone, State.nextIndex, hfree]

/-- Storing an interval moves neither the phasing nor the camera index. -/
theorem Scan.storeInterval_keeps (x : Scan) (stamp : Int) : (x.storeInterval stamp).phasing = x.phasing ∧
    (x.storeInterval stamp).camera = x.camera ∧ (x.storeInterval stamp).cameraSince = x.cameraSince := by
  unfold Scan.storeInterval
  split
  · split
    · exact ⟨rfl, rfl, rfl⟩
    · exact ⟨rfl, rfl, rfl⟩
  · exact ⟨rfl, rfl, rfl⟩

/-- In FREE every edge is accepted: it is the last one, and the index it takes is the camera's from its stamp on. -/
theorem State.acceptEdge_free {s : State} (stamp : Int) (hfree : s.scan.phasing = .free) :
    (s.acceptEdge stamp).scan.lastEdge = some stamp ∧ (s.acceptEdge stamp).scan.cameraSince = stamp.toNat ∧
      (s.acceptEdge stamp).scan.camera = (s.takeIndex stamp).2 := by
  unfold State.acceptEdge
  extract_lets early p idx s2 x s3
  have hearly : early = false := by
    unfold early
    rw [hfree]
    rfl
  obtain ⟨hphasing, hcamera, hsince⟩ := s2.scan.storeInterval_keeps stamp
  have hscan : p.1.scan = s.scan := (State.takeIndex_quiet s stamp).scan
  have hfree3 : s3.scan.phasing = .free := hphasing.trans ((congrArg Scan.phasing hscan).trans hfree)
  rw [if_neg (Bool.eq_false_iff.mp hearly), if_neg (hfree3 ▸ Phasing.noConfusion)]
  exact ⟨rfl, hsince, hcamera⟩

/-- How the model tests for LOCKED or RELOCK. -/
theorem Phasing.followsEdges_eq_true {p : Phasing} (h : p = .locked ∨ p = .relock) : (p == .locked || p == .relock) = true := by
  rcases h with rfl | rfl <;> rfl

/-- In LOCKED or RELOCK an edge less than half an interval after the last one is counted, and no more. -/
theorem State.acceptEdge_early {s : State} {stamp l : Int} (hphase : s.scan.phasing = .locked ∨ s.scan.phasing = .relock)
    (hlast : s.scan.lastEdge = some l) (hearly : 2 * (stamp - l) < (s.scan.fsyncPeriod : Int)) :
    s.acceptEdge stamp = s.count Id.FSYNC_EARLY_COUNT := by
  unfold State.acceptEdge
  extract_lets early
  have hcount : early = true := by
    simp only [early, hlast, Phasing.followsEdges_eq_true hphase, Bool.true_and, decide_eq_true_eq, hearly]
  exact if_pos hcount

/-- An edge of the selected polarity reaches the phasing. -/
theorem exec_fsyncEdge_selected {t : Time} {rising : Bool} {s : State} (hlive : s.timinLive = true) (hsource : s.cfgN Id.FSYNC_SOURCE ≠ 2)
    (hrising : rising = (s.cfgN Id.FSYNC_EDGE == 0)) :
    exec (.fsyncEdge t rising) s = .next ((s.at t).acceptEdge (max s.now t : Nat)) := by
  have hlive' : (s.at t).timinLive = true := hlive
  have hsel : ((s.at t).timinLive && (s.at t).cfgN Id.FSYNC_SOURCE != 2 && rising == ((s.at t).cfgN Id.FSYNC_EDGE == 0)) = true := by
    rw [hlive', State.at_cfgN, State.at_cfgN, bne_iff_ne.mpr hsource, hrising, beq_self_eq_true]
    rfl
  exact congrArg Host.Outcome.next (if_pos hsel)

/-! ### The Lull (R99, R101) -/

/-- A counter that saturates enters an event before the older entries of the ring. -/
theorem State.saturate_ring (s : State) (id : Nat) :
    ∃ l : List Event, (s.saturate id).evt.ring.take 256 = (l ++ s.evt.ring).take 256 := by
  unfold State.saturate
  split
  · extract_lets code _ s1
    obtain ⟨e, hring, -⟩ := s1.raiseRaw_ring code 1 0 (u32 (id / 256)) (u32 (id % 256)) 0
    exact ⟨[e], by rw [hring, List.take_take]; rfl⟩
  · exact ⟨[], rfl⟩

theorem State.count_ring (s : State) (id n : Nat) :
    ∃ l : List Event, (s.count id n).evt.ring.take 256 = (l ++ s.evt.ring).take 256 := by
  unfold State.count
  split
  · exact ⟨[], rfl⟩
  · exact State.saturate_ring (s.countRaw id n _) id

/-- An event raised after a count is told since before the count. -/
theorem State.count_raise_told (s : State) (id n code sev : Nat) (p1 p2 p3 tk : U32) :
    Told s ((s.count id n).raise code sev p1 p2 p3 tk) code sev p1 p2 p3 tk := by
  obtain ⟨l, hl⟩ := s.count_ring id n
  obtain ⟨later, e, earlier, hring, hlen, hfields⟩ := State.raise_told (s.count id n) code sev p1 p2 p3 tk
  refine ⟨later, e, earlier ++ l, ?_, by omega, hfields⟩
  calc _ = ((later ++ e :: earlier) ++ (s.count id n).evt.ring.take 256).take 256 := by rw [hring, take_append_take]
    _ = ((later ++ e :: earlier) ++ (l ++ s.evt.ring)).take 256 := by rw [hl, take_append_take]
    _ = _ := by simp only [List.append_assoc, List.cons_append]

/-- A Lull begins. -/
theorem State.enterLull_lull (s : State) : s.enterLull.scan.phasing = .lull ∧ s.enterLull.scan.chainBroken = true := ⟨rfl, rfl⟩

/-- It enters no event of its own. -/
theorem State.enterLull_evt (s : State) : s.enterLull.evt = s.evt := by
  unfold State.enterLull
  extract_lets n s1
  have h1 : s1.evt = s.evt := by
    unfold s1
    split <;> rfl
  exact h1

/-- After 1.5 intervals without an accepted edge the Lull begins, counted and raised (Table 04.7 step 3). -/
theorem exec_fsyncLull_silent {t : Time} {s : State} {l : Int} (hphase : s.scan.phasing = .locked ∨ s.scan.phasing = .relock)
    (hlast : s.scan.lastEdge = some l) (hsilent : 3 * (s.scan.fsyncPeriod : Int) ≤ 2 * ((max s.now t : Int) - l)) :
    exec (.fsyncLull t) s = .next
      (((s.at t).enterLull.count Id.FSYNC_LULL_COUNT).raise 0x4C02 1 (u32 s.scan.period) s.scan.realIndex) := by
  rw [← stamp_eq] at hsilent
  have hrun : doFsyncLull t s = _ := if_pos (by
    simp only [State.at_scan, State.at_now, hlast, Phasing.followsEdges_eq_true hphase, Bool.true_and, decide_eq_true_eq, hsilent])
  exact congrArg Host.Outcome.next hrun

/-- Before, nothing happens. -/
theorem exec_fsyncLull_early {t : Time} {s : State} {l : Int} (hlast : s.scan.lastEdge = some l)
    (hheard : 2 * ((max s.now t : Int) - l) < 3 * (s.scan.fsyncPeriod : Int)) : exec (.fsyncLull t) s = .next (s.at t) := by
  rw [← stamp_eq] at hheard
  have hrun : doFsyncLull t s = _ := if_neg (by
    simp only [State.at_scan, State.at_now, hlast, Bool.and_eq_true, decide_eq_true_eq, Int.not_le.mpr hheard, and_false,
      not_false_eq_true])
  exact congrArg Host.Outcome.next hrun

/-- A virtual edge that is due counts one camera frame. -/
theorem doCameraVirtualEdge_due {t : Time} {s : State} (hlull : s.scan.phasing = .lull)
    (hdue : s.scan.virtuals < s.scan.virtualsAt (max s.now t)) :
    (doCameraVirtualEdge t s).scan.camera = s.scan.camera + 1 ∧ (doCameraVirtualEdge t s).scan.virtuals = s.scan.virtuals + 1 ∧
      (doCameraVirtualEdge t s).scan.realIndex = s.scan.realIndex := by
  have hrun : doCameraVirtualEdge t s = _ := if_pos ⟨hlull, hdue⟩
  rw [hrun]
  exact ⟨rfl, rfl, rfl⟩

/-! ### Waiting tickets (R64, R101)

Events and answers move no ticket. -/

@[simp] theorem State.raiseRaw_tickets (s : State) (code sev : Nat) (tk p1 p2 p3 : U32) :
    (s.raiseRaw code sev tk p1 p2 p3).baspo.tickets = s.baspo.tickets := by
  unfold State.raiseRaw
  split <;> rfl

@[simp] theorem State.count_tickets (s : State) (id n : Nat) : (s.count id n).baspo.tickets = s.baspo.tickets := by
  unfold State.count
  split
  · rfl
  · unfold State.saturate
    split
    · exact State.raiseRaw_tickets ..
    · rfl

@[simp] theorem State.raise_tickets (s : State) (code sev : Nat) (p1 p2 p3 tk : U32) :
    (s.raise code sev p1 p2 p3 tk).baspo.tickets = s.baspo.tickets :=
  (State.count_tickets ..).trans (State.raiseRaw_tickets ..)

theorem State.abandonLock_tickets (s : State) (tr : Transport) (n : Byte) (reason : Nat) :
    (s.abandonLock tr n reason).baspo.tickets = s.baspo.tickets := by
  unfold State.abandonLock
  split
  · split
    · exact State.raise_tickets ..
    · rfl
  · rfl

theorem State.closeSession_tickets (s : State) (tr : Transport) (n : Byte) (reason : Nat) :
    (s.closeSession tr n reason).baspo.tickets = s.baspo.tickets := by
  unfold State.closeSession
  split
  · rfl
  · exact (State.raise_tickets ..).trans (State.abandonLock_tickets s tr n 3)

theorem State.freshLimit_tickets (s : State) (tr : Transport) (n : Byte) : (s.freshLimit tr n).baspo.tickets = s.baspo.tickets := by
  unfold State.freshLimit
  split
  · split
    · exact State.closeSession_tickets ..
    · rfl
  · rfl

theorem State.nextFresh_tickets (s : State) (tr : Transport) (n : Byte) : (s.nextFresh tr n).1.baspo.tickets = s.baspo.tickets := by
  unfold State.nextFresh
  split <;> rfl

theorem State.sendBaspo_tickets (s : State) (tr : Transport) (addr : BitVec 128) (port : U16) (ident : Nat) (bytes : Bytes) :
    (s.sendBaspo tr addr port ident bytes).baspo.tickets = s.baspo.tickets := by
  unfold State.sendBaspo
  split <;> rfl

@[simp] theorem State.answer_tickets (s : State) (h : Hdr) (svc flags : Nat) (p : Bytes) :
    (s.answer h svc flags p).baspo.tickets = s.baspo.tickets := by
  unfold State.answer
  extract_lets q s1 ident bytes s2 s3
  have h2 : s2.baspo.tickets = s.baspo.tickets := (State.sendBaspo_tickets ..).trans (State.nextFresh_tickets ..)
  have h3 : s3.baspo.tickets = s2.baspo.tickets := by
    unfold s3
    split <;> rfl
  split
  · exact h3.trans h2
  · exact (State.freshLimit_tickets ..).trans (h3.trans h2)

/-- Acceptance moves none either. -/
theorem reaches_tickets {s s2 : State} {svc : Nat} {h : Hdr} {p : Bytes} {r : Rcvd} (hr : s.reaches svc h p = some (s2, r)) :
    s2.baspo.tickets = s.baspo.tickets := by
  unfold State.reaches at hr
  split at hr
  · cases hr
  · split at hr
    · cases hr; rfl
    · split at hr
      · cases hr
      · dsimp only at hr
        split at hr
        · cases hr; rfl
        · cases hr

/-- Where a ticketed command acts, the tickets are those before the message. -/
theorem Takes.tickets {s : State} {t : Time} {id : Nat} {h : Hdr} {v : Bytes} {s2 : State} {r : Rcvd} {x : Session} {o : Obj} {fl : Nat}
    (H : Takes s t id h v s2 r x o fl) : s2.issueTicket.1.baspo.tickets = s.baspo.tickets :=
  (reaches_tickets H.heard :)

/-- The tickets after a ticketed command are those that its action leaves. -/
theorem Takes.ticketed_tickets {s : State} {t : Time} {id : Nat} {h : Hdr} {v : Bytes} {s2 : State} {r : Rcvd} {x : Session} {o : Obj}
    {fl : Nat} {f : U32 → State → State} (H : Takes s t id h v s2 r x o fl) (hacc : o.acc = .cmd)
    (hf : s2.command r.h 0x11 x id (leNat v) = s2.ticketed f) :
    (doWriteObject t id h v s).baspo.tickets = (f s2.nextTicket s2.issueTicket.1).baspo.tickets := by
  obtain ⟨rfl, hreg⟩ := lookup_regular H.object
  have happly : s2.apply r.h 0x11 x o v fl = s2.ticketed f := by
    simp only [State.apply, H.served, Bool.false_eq_true, if_false, hacc, hf]
  rw [H.runs hreg.id_lt, happly]
  exact State.answer_tickets ..

/-- A command whose queue has room is accepted. -/
theorem State.queueing_room {s : State} {waiting : Nat} (f : U32 → State → State) (hroom : waiting < 8) :
    s.queueing waiting f = s.ticketed f :=
  if_neg (Nat.not_le.mpr hroom)

/-- A ticket that enters its command's queue is the last in it. -/
theorem State.enqueued_queued (s : State) (obj value : Nat) (k : U32) :
    (s.enqueued obj value k).queued obj = s.queued obj ++ [⟨obj, k, value⟩] := by
  simp only [State.queued, State.enqueued, State.enqueue_tickets, List.filter_append, List.filter_cons, List.filter_nil,
    beq_self_eq_true, if_true]

/-- A queue is read from the tickets alone. -/
theorem State.queued_congr {s u : State} (h : u.baspo.tickets = s.baspo.tickets) (obj : Nat) : u.queued obj = s.queued obj :=
  congrArg (List.filter fun k : Ticket => k.obj == obj) h

/-- CAMERA_INDEX_SET is a command. -/
theorem cameraIndexSet_acc {o : Obj} (ho : lookup Id.CAMERA_INDEX_SET = some o) : o.acc = .cmd := by
  have hacc : (lookup Id.CAMERA_INDEX_SET).map Obj.acc = some .cmd := by decide +kernel
  simpa only [ho, Option.map_some, Option.some.injEq] using hacc

/-- CAMERA_INDEX_SET answers with its ticket, which waits behind the others. -/
theorem Takes.cameraIndexSet_runs {s : State} {t : Time} {h : Hdr} {v : Bytes} {s2 : State} {r : Rcvd} {x : Session} {o : Obj} {fl : Nat}
    (H : Takes s t Id.CAMERA_INDEX_SET h v s2 r x o fl) (hroom : (s.queued Id.CAMERA_INDEX_SET).length < 8) :
    Quiet s (doWriteObject t Id.CAMERA_INDEX_SET h v s) ∧ (doWriteObject t Id.CAMERA_INDEX_SET h v s).ticketedBy s2 r ∧
      (doWriteObject t Id.CAMERA_INDEX_SET h v s).queued Id.CAMERA_INDEX_SET =
        s.queued Id.CAMERA_INDEX_SET ++ [⟨Id.CAMERA_INDEX_SET, s2.nextTicket, leNat v⟩] := by
  have hqueued : s2.issueTicket.1.queued Id.CAMERA_INDEX_SET = s.queued Id.CAMERA_INDEX_SET := State.queued_congr H.tickets _
  have hacc := cameraIndexSet_acc H.object
  have hcommand : s2.command r.h 0x11 x Id.CAMERA_INDEX_SET (leNat v) =
      s2.ticketed fun k y => y.enqueued Id.CAMERA_INDEX_SET (leNat v) k :=
    State.queueing_room _ (Nat.lt_of_le_of_lt (Nat.le_of_eq (congrArg List.length hqueued)) hroom)
  obtain ⟨hticket, hquiet⟩ := H.ticketed_runs hacc hcommand
  refine ⟨H.quiet.trans ((State.enqueue_quiet ..).trans hquiet), hticket, ?_⟩
  rw [State.queued_congr (H.ticketed_tickets hacc hcommand), State.enqueued_queued, hqueued]

/-- Settles O27: an edge in FREE is accepted and an early one counted; the Lull begins after 1.5 intervals and not before; its virtual
edges count; a ticket joins its queue. -/
theorem edgesCountCameraFrames : Obligations.EdgesCountCameraFrames := by
  unfold Obligations.EdgesCountCameraFrames
  refine ⟨fun t rising s hlive hsource hrising => ⟨fun hfree => ?_, fun l hphase hlast hearly => ?_⟩,
    fun t l s hphase hlast => ⟨fun hsilent => ?_, fun hheard => exec_fsyncLull_early hlast hheard⟩,
    fun t s hlull hdue => ⟨_, rfl, doCameraVirtualEdge_due hlull hdue⟩, fun t h v s s2 r x o fl H hroom => ⟨_, rfl, H.cameraIndexSet_runs hroom⟩⟩
  · obtain ⟨hlast, hsince, hcamera⟩ := State.acceptEdge_free (s := s.at t) (max s.now t : Nat) hfree
    exact ⟨_, exec_fsyncEdge_selected hlive hsource hrising, hlast.trans (congrArg some (stamp_eq ..)), hsince.trans (Int.toNat_natCast _),
      fun hnone => hcamera.trans (State.takeIndex_free _ hnone hfree), fun k rest hwait => hcamera.trans (State.takeIndex_waiting _ hwait)⟩
  · have hcount := State.acceptEdge_early (s := s.at t) (stamp := (max s.now t : Nat)) hphase hlast
      ((stamp_eq s.now t).symm ▸ hearly)
    exact ⟨_, (exec_fsyncEdge_selected hlive hsource hrising).trans (congrArg _ hcount),
      (State.at_quiet s t).trans (State.count_quiet ..), State.count_counter ..⟩
  · refine ⟨_, exec_fsyncLull_silent hphase hlast hsilent, ?_⟩
    obtain ⟨hlull, hbroken⟩ := (s.at t).enterLull_lull
    have hscan := ((State.count_quiet (s.at t).enterLull Id.FSYNC_LULL_COUNT 1).trans
      (State.raise_quiet _ 0x4C02 1 (u32 s.scan.period) s.scan.realIndex 0 0)).scan
    refine ⟨(congrArg Scan.phasing hscan).trans hlull, (congrArg Scan.chainBroken hscan).trans hbroken, ?_⟩
    obtain ⟨later, e, earlier, hring, hrest⟩ := (s.at t).enterLull.count_raise_told Id.FSYNC_LULL_COUNT 1 0x4C02 1 (u32 s.scan.period)
      s.scan.realIndex 0 0
    rw [State.enterLull_evt] at hring
    exact ⟨later, e, earlier, hring, hrest⟩

end Sys2Proof.Machine
end

