-- ==== Sys2Proof/Proofs/ShotLimits.lean ====
section
/-! PROOFS. The limits of a shot: what the governor lets through fits the frame accumulator and the buckets of its bars. -/

namespace Sys2Proof.Machine

open Sys2Proof

/-! ### Masks of bars -/

theorem maskOf_succ (n : Nat) (p : Nat → Bool) : maskOf (n + 1) p = if p n then maskOf n p + 2 ^ n else maskOf n p := by
  simp only [maskOf, List.range_succ, List.foldl_append, List.foldl_cons, List.foldl_nil]

theorem maskOf_lt (n : Nat) (p : Nat → Bool) : maskOf n p < 2 ^ n := by
  induction n with
  | zero => exact Nat.one_pos
  | succ n ih =>
    rw [maskOf_succ, Nat.pow_succ]
    split <;> omega

/-- A mask holds the bits of its predicate. -/
theorem bit_maskOf {n i : Nat} (p : Nat → Bool) (hi : i < n) : bit (maskOf n p) i = p i := by
  induction n with
  | zero => exact absurd hi (Nat.not_lt_zero i)
  | succ n ih =>
    rw [maskOf_succ]
    rcases Nat.lt_succ_iff_lt_or_eq.mp hi with hlt | rfl
    · rw [← ih hlt]
      split
      · exact (congrArg (Nat.testBit · i) (Nat.add_comm ..)).trans (Nat.testBit_two_pow_add_gt hlt _)
      · rfl
    · have htop : (maskOf i p).testBit i = false := Nat.testBit_lt_two_pow (maskOf_lt i p)
      split
      case isTrue hp => rw [bit, Nat.add_comm, Nat.testBit_two_pow_add_eq, htop, hp, Bool.not_false]
      case isFalse hp => exact htop.trans (Bool.eq_false_iff.mpr hp).symm

theorem mem_barsOf {m b : Nat} : b ∈ barsOf m ↔ b < 16 ∧ bit m b = true := by
  simp only [barsOf, List.mem_filter, List.mem_range]

theorem barsOf_nodup (m : Nat) : (barsOf m).Nodup := List.nodup_range.filter _

/-- Bars taken out of a mask are not in what is left of it. -/
theorem bit_without {m above b : Nat} (habove : above < 2 ^ 16) (hb : b < 16) :
    bit (m &&& (65535 - above)) b = (bit m b && !bit above b) := by
  have hcompl : 65535 - above = 2 ^ 16 - (above + 1) := by omega
  rw [bit, Nat.testBit_and, hcompl, Nat.testBit_two_pow_sub_succ habove, decide_eq_true hb, Bool.true_and]
  rfl

/-! ### What the governor's decision promises (R111) -/

/-- A bar whose charge would overflow its bucket is taken out (R111 step 3). -/
theorem bucketMask_overflow {f : Factory} {levels : List Nat} {paired m half width b : Nat} (hb : b < 16) (hm : bit m b = true)
    (hover : bucketDepth < levels.getD b 0 + 160 * f.barEnergy b half width) :
    bit (bucketMask f levels paired m half width) b = true := by
  unfold bucketMask
  extract_lets above
  have habove : bit above b = true := by
    rw [bit_maskOf _ hb, hm, decide_eq_true hover, Bool.and_self]
  rw [bit_maskOf _ hb, hm, habove, Bool.true_or, Bool.true_or, Bool.and_self]

theorem bucketMask_lt (f : Factory) (levels : List Nat) (paired m half width : Nat) : bucketMask f levels paired m half width < 2 ^ 16 :=
  maskOf_lt 16 _

/-- A bar that is left when the overflowing ones are taken out has room for its charge. -/
theorem bucketMask_room {f : Factory} {levels : List Nat} {paired m half width b : Nat}
    (hb : b ∈ barsOf (m &&& (65535 - bucketMask f levels paired m half width))) :
    levels.getD b 0 + 160 * f.barEnergy b half width ≤ bucketDepth := by
  obtain ⟨hlt, hbit⟩ := mem_barsOf.mp hb
  rw [bit_without (bucketMask_lt ..) hlt, Bool.and_eq_true, Bool.not_eq_true'] at hbit
  obtain ⟨hm, hclear⟩ := hbit
  refine Nat.not_lt.mp fun hover => ?_
  rw [bucketMask_overflow hlt hm hover] at hclear
  cases hclear

section
variable {s : State} {entry : Nat} {lent : Option Nat} {column slot bankMv : Nat} {at_ : Time}

/-- A shot that is not withheld fits under E_limit (R111 step 5, R113). -/
theorem State.judgeSlot_fits {window : Option Nat} : (s.judgeSlot entry lent window column slot bankMv at_).held = false →
    (s.judgeSlot entry lent window column slot bankMv at_).mask ≠ 0 →
    s.emit.acc + (s.judgeSlot entry lent window column slot bankMv at_).energy ≤ s.conf.eLimit := by
  unfold State.judgeSlot
  extract_lets _ _ _ _ _ _ _ m3 e shot _ rCap
  intro hheld hmask
  simp only [Bool.or_eq_false_iff] at hheld
  obtain ⟨⟨⟨⟨-, hcap⟩, -⟩, -⟩, -⟩ := hheld
  have hshot : decide shot = true := decide_eq_true hmask
  simpa only [rCap, hshot, Bool.true_and, decide_eq_false_iff_not, Nat.not_lt] using hcap

/-- The buckets of a column shot's bars have room for it at the decision point (R111 step 3, R112). -/
theorem State.judgeSlot_room {b : Nat} (hb : b ∈ barsOf (s.judgeSlot entry lent none column slot bankMv at_).mask) :
    (s.emit.levelsAt at_).getD b 0 + 160 * s.fac.barEnergy b (s.judgeSlot entry lent none column slot bankMv at_).half
      (s.judgeSlot entry lent none column slot bankMv at_).width ≤ bucketDepth :=
  bucketMask_room hb

end

/-! ### Charging (R112) -/

/-- What each bucket holds after each of some bars has been charged once. -/
theorem foldl_modAt_getElem? {bars : List Nat} (charge : Nat → Nat) (levels : List Nat) (hbars : bars.Nodup) (i : Nat) :
    (bars.foldl (fun l b => modAt l b (· + charge b)) levels)[i]? =
      levels[i]?.map fun v => v + if i ∈ bars then charge i else 0 := by
  induction bars generalizing levels with
  | nil => simp
  | cons b bars ih =>
    obtain ⟨hb, hbars⟩ := List.nodup_cons.mp hbars
    rw [List.foldl_cons, ih _ hbars, modAt, List.getElem?_modify]
    by_cases hbi : b = i
    · subst hbi
      simp [hb, Function.comp_def]
    · simp [hbi, Ne.symm hbi]

/-- Buckets leak: none stands higher later. -/
theorem Emit.levelsAt_later {e : Emit} {t t' : Time} (ht : t ≤ t') {i v : Nat} (hv : (e.levelsAt t')[i]? = some v) :
    v ≤ (e.levelsAt t).getD i 0 := by
  simp only [Emit.levelsAt, List.getElem?_map, Option.map_eq_some_iff] at hv
  obtain ⟨l, hl, rfl⟩ := hv
  simp only [Emit.levelsAt, List.getD_eq_getElem?_getD, List.getElem?_map, hl, Option.map_some, Option.getD_some]
  exact Nat.sub_le_sub_left (Nat.mul_le_mul_left 3 (Nat.sub_le_sub_right ht _)) l

/-- Nor higher than it was left. -/
theorem Emit.levelsAt_le {e : Emit} {bound : Nat} (hbuckets : ∀ l ∈ e.buckets, l ≤ bound) (t : Time) : ∀ l ∈ e.levelsAt t, l ≤ bound := by
  intro l hl
  obtain ⟨v, hv, rfl⟩ := List.mem_map.mp hl
  exact Nat.le_trans (Nat.sub_le ..) (hbuckets v hv)

/-- Buckets that had room at the decision point do not overflow when the shot is charged. -/
theorem State.charge_buckets_le {s : State} {d : Decision} {at_ t : Time} (hbuckets : ∀ l ∈ s.emit.buckets, l ≤ bucketDepth) (ht : at_ ≤ t)
    (hroom : ∀ b ∈ barsOf d.mask, (s.emit.levelsAt at_).getD b 0 + 160 * s.fac.barEnergy b d.half d.width ≤ bucketDepth) :
    ∀ l ∈ (s.charge d t true).emit.buckets, l ≤ bucketDepth := by
  intro l hl
  obtain ⟨i, hi⟩ := List.mem_iff_getElem?.mp hl
  have hcharged := (foldl_modAt_getElem? (fun b => 160 * s.fac.barEnergy b d.half d.width) (s.emit.levelsAt t) (barsOf_nodup d.mask) i).symm.trans hi
  obtain ⟨v, hv, rfl⟩ := Option.map_eq_some_iff.mp hcharged
  split
  case isTrue hbar => exact Nat.le_trans (Nat.add_le_add_right (Emit.levelsAt_later ht hv) _) (hroom i hbar)
  case isFalse => exact Emit.levelsAt_le hbuckets t v (List.mem_of_getElem? hv)

/-! ### The mark of the energy spent -/

/-- The energy that the governor keeps account of: the frame accumulator, and the buckets with their instant. -/
def State.energyMark (s : State) : Nat × List Nat × Time := (s.emit.acc, s.emit.buckets, s.emit.bucketAt)

theorem State.energyMark_eq_iff {s u : State} : u.energyMark = s.energyMark ↔
    u.emit.acc = s.emit.acc ∧ u.emit.buckets = s.emit.buckets ∧ u.emit.bucketAt = s.emit.bucketAt := by
  simp only [State.energyMark, Prod.mk.injEq]

theorem Quiet.energyMark {s u : State} (h : Quiet s u) : u.energyMark = s.energyMark :=
  congrArg (fun e : Emit => (e.acc, e.buckets, e.bucketAt)) h.emit

theorem State.energyMark_ite {s a b : State} {c : Prop} [Decidable c] (ha : a.energyMark = s.energyMark)
    (hb : b.energyMark = s.energyMark) : (if c then a else b).energyMark = s.energyMark := by
  split <;> assumption

theorem State.tripSet_energyMark (s : State) (b : Nat) : (s.tripSet b).energyMark = s.energyMark := by
  unfold State.tripSet
  extract_lets _ _ e _
  split
  · rfl
  · exact ((State.count_quiet { s with emit := e } ..).trans (State.raise_quiet ..)).energyMark

/-- Counting what is withheld charges nothing. -/
theorem State.countHeld_energyMark (s : State) (d : Decision) : (s.countHeld d).energyMark = s.energyMark := by
  unfold State.countHeld
  extract_lets _ _ s1 s2
  have h2 : s2.energyMark = s.energyMark := ((State.count_quiet s1 ..).trans (State.count_quiet ..)).energyMark
  exact State.energyMark_ite ((State.raise_quiet s2 ..).energyMark.trans h2) h2

/-- Nor do the monitors, whatever they trip. -/
theorem State.monitor_energyMark (s : State) (d : Decision) (x : SlotIn) : (s.monitor d x).energyMark = s.energyMark := by
  unfold State.monitor
  extract_lets _ _ _ _ _ _ _ _ s1 s2 s3
  have h2 : s2.energyMark = s.energyMark := State.energyMark_ite (s := s) (State.tripSet_energyMark s1 7) rfl
  exact State.energyMark_ite ((State.tripSet_energyMark s2 8).trans h2) h2

/-! ### Decisions keep the limits -/

/-- From s to u the governor has kept its limits: with EMIT_ENABLE low no account has moved, the frame accumulator has not moved above
E_limit, and no bucket has come to overflow. -/
structure KeepsLimits (s u : State) : Prop where
  low : s.emit.enable = 0 → u.emit.acc = s.emit.acc ∧ u.emit.buckets = s.emit.buckets
  cap : u.emit.acc ≠ s.emit.acc → u.emit.acc ≤ s.conf.eLimit
  depth : (∀ l ∈ s.emit.buckets, l ≤ bucketDepth) → ∀ l ∈ u.emit.buckets, l ≤ bucketDepth

/-- Where no energy is charged the limits are kept. -/
theorem KeepsLimits.uncharged {s u : State} (h : u.energyMark = s.energyMark) : KeepsLimits s u := by
  obtain ⟨hacc, hbuckets, -⟩ := State.energyMark_eq_iff.mp h
  exact ⟨fun _ => ⟨hacc, hbuckets⟩, fun hmoved => absurd hacc hmoved, fun hs => hbuckets ▸ hs⟩

/-- A shot that fits under E_limit, and its bars' buckets if they are charged, keeps the limits when it fires. -/
theorem KeepsLimits.fired {s s2 : State} {d : Decision} {at_ t : Time} {buckets : Bool} (x : SlotIn) (henable : s.emit.enable ≠ 0)
    (hmark : s2.energyMark = s.energyMark) (hfits : s.emit.acc + d.energy ≤ s.conf.eLimit)
    (hroom : buckets = true → s2.fac = s.fac ∧ at_ ≤ t ∧
      ∀ b ∈ barsOf d.mask, (s.emit.levelsAt at_).getD b 0 + 160 * s.fac.barEnergy b d.half d.width ≤ bucketDepth) :
    KeepsLimits s ((s2.charge d t buckets).monitor d x) := by
  obtain ⟨hacc, hbuckets, hbucketAt⟩ := State.energyMark_eq_iff.mp hmark
  obtain ⟨hacc', hbuckets', -⟩ := State.energyMark_eq_iff.mp ((s2.charge d t buckets).monitor_energyMark d x)
  refine ⟨fun hlow => absurd hlow henable, fun _ => ?_, fun hs => ?_⟩
  · rw [hacc']
    exact Nat.le_trans (Nat.le_of_eq (congrArg (· + d.energy) hacc)) hfits
  · rw [hbuckets']
    cases buckets with
    | false => exact hbuckets ▸ hs
    | true =>
      obtain ⟨hfac, ht, hroom⟩ := hroom rfl
      have hlevels : s2.emit.levelsAt at_ = s.emit.levelsAt at_ := by simp only [Emit.levelsAt, hbuckets, hbucketAt]
      exact State.charge_buckets_le (hbuckets ▸ hs) ht fun b hb => hlevels ▸ hfac ▸ hroom b hb

/-- A column slot is charged after its decision point, with what the decision found room for. -/
theorem State.columnSlot_keepsLimits (s : State) (cal : Option Nat) (x : SlotIn) : KeepsLimits s (s.columnSlot cal x) := by
  unfold State.columnSlot
  extract_lets c k p used start fire planned borrowMax lend entry dark d tripped fired _ s1 rec_ _ _ _ s2
  have hmark : s1.energyMark = s.energyMark := State.energyMark_ite (State.energyMark_ite rfl rfl)
    (State.energyMark_ite rfl (State.countHeld_energyMark ..))
  have hfac : s1.fac = s.fac := (((Within.refl s).ite (.update [.emit] (by rfl))).ite
    ((Within.refl s).ite (State.countHeld_within ..)) : Within _ s s1).fac
  by_cases hfired : fired = true
  · rw [if_pos hfired]
    simp only [fired, Bool.and_eq_true, Bool.not_eq_true', decide_eq_false_iff_not, decide_eq_true_eq] at hfired
    obtain ⟨⟨⟨henable, -⟩, hheld⟩, hmask⟩ := hfired
    have hlater : start - 400 * 32 ≤ fire + 200 * 32 := Nat.le_trans (Nat.sub_le ..) (Nat.le_trans (Nat.le_add_right ..) (Nat.le_add_right ..))
    exact .fired x henable hmark (State.judgeSlot_fits hheld hmask) fun _ => ⟨hfac, hlater, fun _ => State.judgeSlot_room⟩
  · rw [if_neg hfired]
    exact .uncharged hmark

/-- A shot in a calibration window charges no bucket. -/
theorem State.windowShot_keepsLimits (s : State) (entry w : Nat) (x : SlotIn) : KeepsLimits s (s.windowShot entry w x) := by
  unfold State.windowShot
  extract_lets spent d s1 energies _ s2
  have hmark : s1.energyMark = s.energyMark := State.countHeld_energyMark ..
  split
  case isTrue => exact .uncharged rfl
  case isFalse henable =>
    by_cases hheld : (d.held || decide (d.mask = 0)) = true
    · rw [if_pos hheld]
      exact .uncharged hmark
    · rw [if_neg hheld]
      simp only [Bool.or_eq_true, decide_eq_true_eq, not_or, Bool.not_eq_true] at hheld
      exact .fired (at_ := 0) x henable hmark (State.judgeSlot_fits hheld.1 hheld.2) (fun h => nomatch h)

/-- SLOT_DECISION decides a column slot, a shot in a calibration window, or nothing. -/
theorem doSlotDecision_keepsLimits (t : Time) (cal : Option U32) (x : SlotIn) (s : State) :
    KeepsLimits (s.at t) (doSlotDecision t cal x s) := by
  unfold doSlotDecision
  extract_lets s0
  split
  · exact .uncharged rfl
  · split
    · split
      · exact State.windowShot_keepsLimits ..
      · exact .uncharged rfl
    · split
      · exact State.columnSlot_keepsLimits ..
      · exact .uncharged rfl

/-- Settles O26: a decision charges only a shot that it let through, which fits under E_limit and into the buckets of its bars. -/
theorem noShotExceedsItsLimits : Obligations.NoShotExceedsItsLimits := by
  unfold Obligations.NoShotExceedsItsLimits
  rintro t cal x s _ ⟨⟩
  obtain ⟨hlow, hcap, hdepth⟩ := doSlotDecision_keepsLimits t cal x s
  exact ⟨hlow, hcap, hdepth⟩

end Sys2Proof.Machine
end

