-- ==== Sys2Proof/Proofs/EmitterTrips.lean ====
section
/-! PROOFS. The trips of the emitter: what a source that asserts takes away and latches, what EMIT_CLEAR ends, and the faults of the bank. -/

namespace Sys2Proof.Machine

open Sys2Proof

/-! ### The mark of the trips -/

/-- Where the emitter stands: EMIT_ENABLE, its return fade, and the sources that are active and latched. -/
def State.tripMark (s : State) : Nat × Option (Nat × Nat) × BitVec 16 × BitVec 16 :=
  (s.emit.enable, s.emit.resume, s.emit.active, s.emit.latch)

theorem State.tripMark_eq_iff {s : State} {enable : Nat} {resume : Option (Nat × Nat)} {active latch : BitVec 16} :
    s.tripMark = (enable, resume, active, latch) ↔
      s.emit.enable = enable ∧ s.emit.resume = resume ∧ s.emit.active = active ∧ s.emit.latch = latch := by
  simp only [State.tripMark, Prod.mk.injEq]

theorem Quiet.tripMark {s u : State} (h : Quiet s u) : u.tripMark = s.tripMark :=
  congrArg (fun e : Emit => (e.enable, e.resume, e.active, e.latch)) h.emit

theorem State.tripMark_ite {s a b : State} {c : Prop} [Decidable c] (ha : a.tripMark = s.tripMark) (hb : b.tripMark = s.tripMark) :
    (if c then a else b).tripMark = s.tripMark := by
  split <;> assumption

/-- The boost that may start to charge moves the bank alone (Table 05.5). -/
theorem State.emitAdvance_tripMark (s : State) : s.emitAdvance.tripMark = s.tripMark :=
  State.tripMark_ite (State.tripMark_ite rfl (State.tripMark_ite rfl rfl)) rfl

/-- It enters no event and counts nothing. -/
theorem State.emitAdvance_evt (s : State) : s.emitAdvance.evt = s.evt := by
  unfold State.emitAdvance
  split
  · split
    · rfl
    · split <;> rfl
  · rfl

/-- A counter is read from the events alone. -/
theorem State.counter_congr {s u : State} (h : u.evt = s.evt) (id : Nat) : u.counter id = s.counter id := by
  simp only [State.counter, h]

/-! ### Sources (R114, R116) -/

/-- What the latches hold once a source has asserted (Table 05.4). -/
def Emit.latchWith (e : Emit) (b : Nat) : BitVec 16 := if tripLatches b then withBit e.latch b true else e.latch

/-- A latching source sets its bit. -/
theorem Emit.latchWith_latching {b : Nat} (e : Emit) (hb : tripLatches b = true) : e.latchWith b = withBit e.latch b true := if_pos hb

section
variable {s : State} {b : Nat} (hon : s.isOn 8 = true) (hidle : s.emit.active.getLsbD b = false)
include hon hidle

/-- While SHOT is on, a source that is not asserted yet takes EMIT_ENABLE away, is active and latches where it does; the trip is counted. -/
theorem State.tripSet_asserts : (s.tripSet b).tripMark = (0, none, withBit s.emit.active b true, s.emit.latchWith b) ∧
    (s.tripSet b).counter Id.TRIP_COUNT = min 0xFFFFFFFF (s.counter Id.TRIP_COUNT + 1) := by
  have hasserts : ¬ (s.emit.active.getLsbD b = true ∨ (!s.isOn 8) = true) := by
    rw [hon, hidle]
    decide
  unfold State.tripSet
  extract_lets _ _ e sev
  rw [if_neg hasserts]
  exact ⟨((State.count_quiet { s with emit := e } ..).trans (State.raise_quiet ..)).tripMark,
    (State.raise_counter _ _ _ _ _ _ _ _ (by decide)).trans (State.count_counter ..)⟩

/-- HOST, DRIVER_FAULT and BANK_FAULT are conditions of a moment: what they take away and latch stays. -/
theorem State.tripSet_tripClear_latches (hb : tripLatches b = true) :
    ((s.tripSet b).tripClear b).emit.enable = 0 ∧ ((s.tripSet b).tripClear b).emit.latch = withBit s.emit.latch b true := by
  obtain ⟨henable, -, -, hlatch⟩ := State.tripMark_eq_iff.mp (State.tripSet_asserts hon hidle).1
  exact ⟨henable, hlatch.trans (s.emit.latchWith_latching hb)⟩

end

/-- EMIT_TRIP with its condition asserted. -/
theorem doEmitTrip_asserts {t : Time} {b : Fin 11} {s : State} (hon : s.isOn 8 = true) (hidle : s.emit.active.getLsbD b.val = false) :
    (doEmitTrip t b true s).tripMark = (0, none, withBit s.emit.active b.val true, s.emit.latchWith b.val) ∧
      (doEmitTrip t b true s).counter Id.TRIP_COUNT = min 0xFFFFFFFF (s.counter Id.TRIP_COUNT + 1) := by
  unfold doEmitTrip
  extract_lets s0 s1 _ s2
  obtain ⟨hmark, hcount⟩ := State.tripSet_asserts (s := s0) hon hidle
  have h2 : s2.tripMark = s1.tripMark := State.tripMark_ite rfl rfl
  have hevt : s2.emitAdvance.evt = s1.evt := s2.emitAdvance_evt.trans (by unfold s2; split <;> rfl)
  exact ⟨(s2.emitAdvance_tripMark.trans h2).trans hmark, (State.counter_congr hevt _).trans hcount⟩

/-- EMIT_TRIP with its condition over: the latch stays, and so does EMIT_ENABLE. -/
theorem doEmitTrip_ends (t : Time) (b : Fin 11) (s : State) :
    (doEmitTrip t b false s).tripMark = (s.emit.enable, s.emit.resume, withBit s.emit.active b.val false, s.emit.latch) := by
  unfold doEmitTrip
  extract_lets s0 s1 _ s2
  exact s2.emitAdvance_tripMark.trans (State.tripMark_ite (s := s1) rfl rfl)

/-! ### EMIT_STOP and EMIT_CLEAR (R116) -/

/-- EMIT_STOP and EMIT_CLEAR are commands. -/
theorem emitStop_acc {o : Obj} (ho : lookup Id.EMIT_STOP = some o) : o.acc = .cmd := by
  have hacc : (lookup Id.EMIT_STOP).map Obj.acc = some .cmd := by decide +kernel
  simpa only [ho, Option.map_some, Option.some.injEq] using hacc

theorem emitClear_acc {o : Obj} (ho : lookup Id.EMIT_CLEAR = some o) : o.acc = .cmd := by
  have hacc : (lookup Id.EMIT_CLEAR).map Obj.acc = some .cmd := by decide +kernel
  simpa only [ho, Option.map_some, Option.some.injEq] using hacc

/-- A command that its own conditions refuse is answered with their abort, and does nothing else. -/
theorem Takes.command_refused {s : State} {t : Time} {id : Nat} {h : Hdr} {v : Bytes} {s2 : State} {r : Rcvd} {x : Session} {o : Obj}
    {fl : Nat} {a : Abort} (H : Takes s t id h v s2 r x o fl) (hacc : o.acc = .cmd)
    (hno : s2.command r.h 0x11 x id (leNat v) = s2.no a) : Quiet s (doWriteObject t id h v s) ∧
      (doWriteObject t id h v s).answered r.h 0x11 0xC0 (abortBytes a (id / 256) (id % 256) 0) := by
  obtain ⟨rfl, hreg⟩ := lookup_regular H.object
  have happly : s2.apply r.h 0x11 x o v fl = s2.no a := by
    simp only [State.apply, H.served, Bool.false_eq_true, if_false, hacc, hno]
  rw [H.runs hreg.id_lt, happly]
  exact ⟨answered_quiet H.heard .., State.answer_answered ..⟩

/-- EMIT_CLEAR on a mask clears the latches that it names, and no more. -/
theorem emitClearAction_tripMark (m : Nat) (s : State) : (emitClearAction m s).tripMark =
    (s.emit.enable, s.emit.resume, s.emit.active, s.emit.latch &&& ~~~ BitVec.ofNat 16 m) :=
  State.emitAdvance_tripMark _

section
variable {s : State} {t : Time} {h : Hdr} {v : Bytes} {s2 : State} {r : Rcvd} {x : Session} {o : Obj} {fl : Nat}

/-- EMIT_STOP answers with its ticket, and latches HOST (Table 05.4 bit 9). -/
theorem Takes.emitStop_runs (H : Takes s t Id.EMIT_STOP h v s2 r x o fl) (hon : s.isOn 8 = true)
    (hidle : s.emit.active.getLsbD 9 = false) : (doWriteObject t Id.EMIT_STOP h v s).ticketedBy s2 r ∧
      (doWriteObject t Id.EMIT_STOP h v s).emit.enable = 0 ∧
      (doWriteObject t Id.EMIT_STOP h v s).emit.latch = withBit s.emit.latch 9 true := by
  obtain ⟨hticket, hquiet⟩ := H.ticketed_runs (emitStop_acc H.object) (f := fun _ y => emitStopAction y) (by rfl)
  have hon' : s2.issueTicket.1.isOn 8 = true := by
    rw [State.isOn, State.dom, H.quiet.pwr]
    exact hon
  obtain ⟨henable, hlatch⟩ := State.tripSet_tripClear_latches hon' (H.quiet.emit.symm ▸ hidle) (by decide)
  rw [hquiet.emit, ← H.quiet.emit]
  exact ⟨hticket, henable, hlatch⟩

/-- EMIT_CLEAR answers with its ticket where no condition of a named latch is asserted. -/
theorem Takes.emitClear_runs (H : Takes s t Id.EMIT_CLEAR h v s2 r x o fl)
    (hover : s.emit.latch.toNat &&& leNat v &&& s.emit.active.toNat = 0) : (doWriteObject t Id.EMIT_CLEAR h v s).ticketedBy s2 r ∧
      (doWriteObject t Id.EMIT_CLEAR h v s).tripMark =
        (s.emit.enable, s.emit.resume, s.emit.active, s.emit.latch &&& ~~~ BitVec.ofNat 16 (leNat v)) := by
  have hemit : s2.emit = s.emit := H.quiet.emit
  have hclearable : s2.emitClearable (leNat v) = true := by
    rw [State.emitClearable, hemit, beq_iff_eq]
    exact hover
  obtain ⟨hticket, hquiet⟩ := H.ticketed_runs (emitClear_acc H.object) (f := fun _ y => emitClearAction (leNat v) y) (if_pos hclearable)
  rw [hquiet.tripMark, emitClearAction_tripMark, H.quiet.emit]
  exact ⟨hticket, rfl⟩

/-- It is refused where one of them is. -/
theorem Takes.emitClear_refused (H : Takes s t Id.EMIT_CLEAR h v s2 r x o fl)
    (hasserted : s.emit.latch.toNat &&& leNat v &&& s.emit.active.toNat ≠ 0) : Quiet s (doWriteObject t Id.EMIT_CLEAR h v s) ∧
      (doWriteObject t Id.EMIT_CLEAR h v s).answered r.h 0x11 0xC0
        (abortBytes .stateConflict (Id.EMIT_CLEAR / 256) (Id.EMIT_CLEAR % 256) 0) := by
  have hemit : s2.emit = s.emit := H.quiet.emit
  have hbarred : ¬ s2.emitClearable (leNat v) = true := by
    rw [State.emitClearable, hemit, beq_iff_eq]
    exact hasserted
  exact H.command_refused (emitClear_acc H.object) (if_neg hbarred)

end

/-! ### The bank (R106, R107) -/

/-- A charging bank that reaches its target is READY. -/
theorem doBankReady_charging {t : Time} {s : State} (hcharging : s.emit.bankState = 1) : (doBankReady t s).emit =
    { s.emit with bankState := 2, chargeSince := none, bankMv := s.emit.bankTarget * 1000 } := by
  have hrun : doBankReady t s = _ := if_pos hcharging
  rw [hrun]
  rfl

/-- A fault of the bank latches BANK_FAULT (Table 05.4 bit 6), and the bank is discharged (R107). -/
theorem State.bankFault_latches {s : State} (hon : s.isOn 8 = true) (hidle : s.emit.active.getLsbD 6 = false) :
    s.bankFault.emit.bankState = 5 ∧ s.bankFault.emit.enable = 0 ∧ s.bankFault.emit.chargeSince = none ∧
      s.bankFault.emit.latch = withBit s.emit.latch 6 true := by
  obtain ⟨henable, hlatch⟩ := State.tripSet_tripClear_latches hon hidle (by decide)
  exact ⟨rfl, henable, rfl, hlatch⟩

/-- 20 ms of charging are a fault. -/
theorem doBankFaultTimeout_due {t c : Time} {s : State} (hcharging : s.emit.bankState = 1) (hsince : s.emit.chargeSince = some c)
    (hdue : c + msec 20 ≤ max s.now t) : doBankFaultTimeout t s = (s.at t).bankFault := by
  have hsince' : (s.at t).emit.chargeSince = some c := hsince
  unfold doBankFaultTimeout
  simp only [hsince']
  exact if_pos ⟨hcharging, hdue⟩

/-- Less are none. -/
theorem doBankFaultTimeout_early {t c : Time} {s : State} (hsince : s.emit.chargeSince = some c)
    (hearly : max s.now t < c + msec 20) : doBankFaultTimeout t s = s.at t := by
  have hsince' : (s.at t).emit.chargeSince = some c := hsince
  unfold doBankFaultTimeout
  simp only [hsince']
  exact if_neg fun ⟨_, hdue⟩ => Nat.not_le.mpr hearly hdue

/-- Settles O28: a source that asserts by `State.tripSet_asserts`, whether the surroundings, the host or the bank bring it; its latch ends by
EMIT_CLEAR alone, once its condition is over. -/
theorem tripsAndBankFaultsTakeTheEmitterAway : Obligations.TripsAndBankFaultsTakeTheEmitterAway := by
  unfold Obligations.TripsAndBankFaultsTakeTheEmitterAway
  refine ⟨fun t b s hon hidle => ?_, fun t b s => ?_,
    fun t h s s2 r x o fl H hon hidle => ⟨_, rfl, H.emitStop_runs hon hidle⟩,
    fun t h v s s2 r x o fl H => ⟨fun hover => ?_, fun hasserted => ⟨_, rfl, H.emitClear_refused hasserted⟩⟩,
    fun t s hcharging => ?_, fun t c s hcharging hsince => ⟨fun hdue hon hidle => ?_, fun hearly => ?_⟩, fun t s hon hidle => ?_⟩
  · obtain ⟨hmark, hcount⟩ := doEmitTrip_asserts (t := t) hon hidle
    obtain ⟨henable, hresume, hactive, hlatch⟩ := State.tripMark_eq_iff.mp hmark
    refine ⟨_, rfl, henable, hresume, hactive, hlatch.trans ?_, hcount⟩
    simp only [Emit.latchWith, tripLatches, decide_eq_true_eq]
  · obtain ⟨henable, -, hactive, hlatch⟩ := State.tripMark_eq_iff.mp (doEmitTrip_ends t b s)
    exact ⟨_, rfl, hactive, hlatch, henable⟩
  · obtain ⟨hticket, hmark⟩ := H.emitClear_runs hover
    obtain ⟨henable, -, hactive, hlatch⟩ := State.tripMark_eq_iff.mp hmark
    exact ⟨_, rfl, hticket, hlatch, hactive, henable⟩
  · have hemit := doBankReady_charging (t := t) hcharging
    exact ⟨_, rfl, congrArg Emit.bankState hemit, congrArg Emit.chargeSince hemit, congrArg Emit.bankMv hemit⟩
  · exact ⟨_, congrArg Host.Outcome.next (doBankFaultTimeout_due hcharging hsince hdue), State.bankFault_latches (s := s.at t) hon hidle⟩
  · exact congrArg Host.Outcome.next (doBankFaultTimeout_early hsince hearly)
  · obtain ⟨hbank, henable, -, hlatch⟩ := State.bankFault_latches (s := s.at t) hon hidle
    exact ⟨_, rfl, hbank, henable, hlatch⟩

end Sys2Proof.Machine
end

