-- ==== Sys2Proof/Proofs/Stops.lean ====
section
/-! PROOFS. Stops that are lost: beyond the eight that a channel holds for a shot, and within its dead time. -/

namespace Sys2Proof.Machine

open Sys2Proof

@[simp] theorem State.at_band (s : State) (t : Time) (b : Nat) : (s.at t).band b = s.band b := rfl
@[simp] theorem State.at_masked (s : State) (t : Time) (row : Nat) : (s.at t).masked row = s.masked row := rfl

/-- A ninth stop of a lit window is counted in STOPS_LOST and sets STOP_LIMIT, and leaves neither a stamp nor a histogram entry (R136). -/
theorem State.litStop_ninth {s : State} {row : Nat} {x : SlotRec} {t : Time} (spads : Nat) (hflight : s.flightOf row x t < 524288)
    (hheld : 8 ≤ (s.rx.acc.stamps.filter fun p => p.1 == row && p.2.toNat / 67108864 == x.num).length) :
    (s.litStop row x t spads).rx.acc.stamps = s.rx.acc.stamps ∧ (s.litStop row x t spads).rx.acc.hist = s.rx.acc.hist ∧
      row ∈ (s.litStop row x t spads).rx.acc.limited ∧
      (s.litStop row x t spads).counter Id.STOPS_LOST = min 0xFFFFFFFF (s.counter Id.STOPS_LOST + 1) := by
  unfold State.litStop
  extract_lets c stamp launch f held acc limited
  have hf : ¬ 524288 ≤ f := Nat.not_le.mpr hflight
  rw [if_neg hf, if_pos hheld, State.count_rx]
  refine ⟨rfl, rfl, ?_, State.count_counter ..⟩
  change row ∈ limited
  unfold limited
  split
  · assumption
  · exact List.mem_append_right _ (List.mem_singleton_self row)

section
variable {t : Time} {row : Fin 512} {spads : Nat} {s : State}

/-- A stop within the dead time of its channel is not detected (R136). -/
theorem doStop_dead {q : Nat × Time} (hlast : s.rx.acc.lastStop.find? (fun q => q.1 == row.val) = some q) (hdead : max s.now t < q.2 + 64) :
    doStop t row spads s = s.at t := by
  unfold doStop
  extract_lets s0 b p used hit dead
  have hdead' : dead = true := by
    simp only [dead, s0, State.at_rx, State.at_now, hlast, hdead, decide_true]
  rw [if_pos (by rw [hdead', Bool.or_true])]

variable (htimer : s.scan.timer = true) (hflyback : s.scan.flyback = false) (hon : s.isOn (bandDom (bandOf row.val)) = true)
  (hstate : (s.band (bandOf row.val)).state ≠ .failed) (hmasked : s.masked row.val = false)
  (hdepth : (s.band (bandOf row.val)).depth ≤ spads)
include htimer hflyback hon hstate hmasked hdepth

/-- A stop outside the dead time that a lit window hears starts the dead time of its channel, and enters that window's slot. -/
theorem doStop_lit {x : SlotRec} (hheard : s.listening (max s.now t) = some x) (hlit : x.lit (bandOf row.val) = true)
    (halive : ∀ q, s.rx.acc.lastStop.find? (fun q => q.1 == row.val) = some q → q.2 + 64 ≤ max s.now t) :
    ∃ lastStop, doStop t row spads s =
      { s.at t with rx := { s.rx with acc := { s.rx.acc with lastStop } } }.litStop row.val x (max s.now t) spads := by
  unfold doStop
  extract_lets s0 b p used hit dead last acc s1
  have halive' : dead = false := by
    unfold dead
    split
    next q hq => exact decide_eq_false (Nat.not_lt.mpr (halive q hq))
    next => rfl
  have hhit : hit = some x := hheard
  have hlent : x.lent = false := by
    simp only [SlotRec.lit, Bool.and_eq_true, Bool.not_eq_true'] at hlit
    exact hlit.1.2
  rw [if_neg (by simp [s0, b, htimer, hflyback, hon, hstate, hmasked, Nat.not_lt.mpr hdepth, halive'])]
  clear_value hit
  subst hhit
  exact ⟨last, (if_neg (by rw [hlent]; decide)).trans (if_pos hlit)⟩

end

/-- Settles O30: a stop outside the dead time enters its slot, where eight stops are held already; one within it is not detected. -/
theorem stopsBeyondEightAreLost : Obligations.StopsBeyondEightAreLost := by
  unfold Obligations.StopsBeyondEightAreLost
  intro t row spads s x htimer hflyback hon hstate hmasked hdepth hheard hlit
  refine ⟨fun halive hheld hflight => ⟨_, rfl, ?_⟩, fun q hlast hdead => ⟨_, rfl, ?_⟩⟩
  · obtain ⟨lastStop, hrun⟩ := doStop_lit htimer hflyback hon hstate hmasked hdepth hheard hlit halive
    rw [hrun]
    exact State.litStop_ninth (s := { s.at t with rx := { s.rx with acc := { s.rx.acc with lastStop } } }) spads hflight hheld
  · rw [doStop_dead hlast hdead]
    exact ⟨State.at_quiet s t, rfl⟩

end Sys2Proof.Machine
end

