-- ==== Sys2Proof/Proofs/InputEdges.lean ====
section
/-! PROOFS. Edges of the timing inputs: what comes too soon after a stamped edge. -/

namespace Sys2Proof.Machine

open Sys2Proof

@[simp] theorem State.at_input (s : State) (t : Time) (i : Nat) : (s.at t).input i = s.input i := rfl
@[simp] theorem State.at_timinLive (s : State) (t : Time) : (s.at t).timinLive = s.timinLive := rfl

/-! ### Draining the FIFO (R146) -/

/-- What reads neither of the FIFO's two fields is the same before and after. -/
theorem State.tinDrain_reads {α : Type} (f : State → α)
    (hf : ∀ (s : State) fifo fifoAt, f { s with tin := { s.tin with fifo, fifoAt } } = f s) (s : State) : f s.tinDrain = f s := by
  obtain ⟨fifo, fifoAt, hdrain⟩ := s.tinDrain_eq
  rw [hdrain]
  exact hf s fifo fifoAt

@[simp] theorem State.tinDrain_now (s : State) : s.tinDrain.now = s.now := State.tinDrain_reads State.now (fun _ _ _ => rfl) s
@[simp] theorem State.tinDrain_evt (s : State) : s.tinDrain.evt = s.evt := State.tinDrain_reads State.evt (fun _ _ _ => rfl) s
@[simp] theorem State.tinDrain_timinLive (s : State) : s.tinDrain.timinLive = s.timinLive :=
  State.tinDrain_reads State.timinLive (fun _ _ _ => rfl) s
@[simp] theorem State.tinDrain_cfgN (s : State) (id : Nat) : s.tinDrain.cfgN id = s.cfgN id :=
  State.tinDrain_reads (State.cfgN · id) (fun _ _ _ => rfl) s
@[simp] theorem State.tinDrain_inputs (s : State) : s.tinDrain.tin.inputs = s.tin.inputs :=
  State.tinDrain_reads (Tin.inputs ∘ State.tin) (fun _ _ _ => rfl) s
@[simp] theorem State.tinDrain_closed (s : State) : s.tinDrain.tin.closed = s.tin.closed :=
  State.tinDrain_reads (Tin.closed ∘ State.tin) (fun _ _ _ => rfl) s
@[simp] theorem State.tinDrain_input (s : State) (i : Nat) : s.tinDrain.input i = s.input i :=
  State.tinDrain_reads (State.input · i) (fun _ _ _ => rfl) s

/-! ### Blind edges (R143) -/

/-- An edge within 4.0 ns of the last stamped one marks the open record and is counted; it is not stamped. -/
theorem doTinEdge_blind {t t0 : Time} {i : Fin 4} {s : State} (rising : Bool) (hlive : s.timinLive = true)
    (henabled : bit (s.cfgN Id.TIN_ENABLE) i.val = true) (hstamped : (s.input i.val).stamped = some t0) (hblind : max s.now t < t0 + 128) :
    doTinEdge t i rising s = ((s.at t).tinDrain.modInput i.val fun y =>
      { y with openRec := y.openRec.map fun r => { r with close := true } }).count Id.TIN_CLOSE_COUNT := by
  unfold doTinEdge
  extract_lets s0 j x blind s1
  have hblind' : blind = true := by
    simp only [blind, x, s0, j, State.tinDrain_input, State.at_input, hstamped, State.tinDrain_now, State.at_now, hblind, decide_true]
  rw [if_neg (by simp [s0, j, hlive, henabled]), if_pos hblind']

/-- Settles O33: the edge in the blind interval changes its input's open record alone, and counts. -/
theorem inputsAreBlindAfterAnEdge : Obligations.InputsAreBlindAfterAnEdge := by
  unfold Obligations.InputsAreBlindAfterAnEdge
  intro t t0 i rising s hlive henabled hi hstamped hblind
  refine ⟨_, congrArg Host.Outcome.next (doTinEdge_blind rising hlive henabled hstamped hblind), ?_, ?_, ?_⟩
  · rw [State.input_congr (State.count_tin ..), State.modInput_input _ (by simpa using hi), State.tinDrain_input, State.at_input]
  · exact (State.count_counter ..).trans (congrArg (fun n => min 0xFFFFFFFF (n + 1)) (State.counter_congr (s.at t).tinDrain_evt _))
  · exact (congrArg Tin.closed (State.count_tin ..)).trans (s.at t).tinDrain_closed

end Sys2Proof.Machine
end

