-- ==== Sys2Proof/Proofs/Bands.lean ====
section
/-! PROOFS. The bands of the receiver: one band changed, a band that fails by its own faults, its bias goal and its PLL. -/

namespace Sys2Proof.Machine

open Sys2Proof

/-! ### One band changed -/

/-- Changing a band keeps the number of bands. -/
@[simp] theorem State.modBand_length (s : State) (i : Nat) (f : Band → Band) : (s.modBand i f).rx.bands.length = s.rx.bands.length :=
  List.length_modify ..

/-- A band that exists is changed in place. -/
theorem State.modBand_band {s : State} {b : Nat} (f : Band → Band) (hb : b < s.rx.bands.length) :
    (s.modBand b f).band b = f (s.band b) := by
  simp [State.band, State.modBand, modAt, List.getD_eq_getElem?_getD, hb]

/-- The other bands stand still. -/
theorem State.modBand_band_other (s : State) {b i : Nat} (f : Band → Band) (hi : i ≠ b) : (s.modBand i f).band b = s.band b := by
  simp [State.band, State.modBand, modAt, List.getD_eq_getElem?_getD, hi]

/-- What a change keeps of a band, it keeps of every band. -/
theorem State.modBand_keeps {α : Type} (p : Band → α) {f : Band → Band} (hf : ∀ x, p (f x) = p x) (s : State) (i b : Nat) :
    p ((s.modBand i f).band b) = p (s.band b) := by
  by_cases hi : i = b
  · subst hi
    by_cases hb : i < s.rx.bands.length
    · rw [State.modBand_band f hb, hf]
    · have hmissing : s.rx.bands.length ≤ i := Nat.not_lt.mp hb
      simp [State.band, State.modBand, modAt, List.getD_eq_getElem?_getD, hmissing]
  · rw [State.modBand_band_other s f hi]

/-- A band is read from the receiver alone. -/
theorem State.band_congr {s u : State} (h : u.rx = s.rx) (b : Nat) : u.band b = s.band b := by
  simp only [State.band, h]

/-! ### Bands that fail (Table 06.8 step 5) -/

/-- A band that its own faults have made FAILED. -/
def Band.faulted (x : Band) : Band := { x with state := .failed, unlocked := false, restart := none, untested := true }

/-- Of the receiver, a fault changes its band alone. -/
theorem State.bandFail_rx {s : State} {b : Nat} (cause : Nat) (ticket : U32) (hstate : (s.band b).state ≠ .failed) :
    (s.bandFail b cause ticket).rx = (s.modBand b Band.faulted).rx := by
  unfold State.bandFail
  rw [if_neg hstate]
  exact (State.raise_rx ..).trans (State.markFailed_within ..).rx

/-- It keeps the masks. -/
theorem State.bandFail_maskTest (s : State) (b cause : Nat) (ticket : U32) : (s.bandFail b cause ticket).rx.maskTest = s.rx.maskTest := by
  by_cases hstate : (s.band b).state = .failed
  · exact congrArg (fun u : State => u.rx.maskTest) (if_pos hstate)
  · exact (congrArg Rx.maskTest (State.bandFail_rx cause ticket hstate) :)

/-- It keeps what the last test found. -/
theorem State.bandFail_lastFail (s : State) (b cause : Nat) (ticket : U32) (i : Nat) :
    ((s.bandFail b cause ticket).band i).lastFail = (s.band i).lastFail := by
  by_cases hstate : (s.band b).state = .failed
  · exact congrArg (fun u : State => (u.band i).lastFail) (if_pos hstate)
  · rw [State.band_congr (State.bandFail_rx cause ticket hstate)]
    exact State.modBand_keeps Band.lastFail (f := Band.faulted) (fun _ => rfl) s b i

theorem State.bandFail_failed {s : State} {b : Nat} (cause : Nat) (ticket : U32) (hb : b < s.rx.bands.length) :
    ((s.bandFail b cause ticket).band b).state = .failed := by
  by_cases hstate : (s.band b).state = .failed
  · exact (congrArg (fun u : State => (u.band b).state) (if_pos hstate)).trans hstate
  · rw [State.band_congr (State.bandFail_rx cause ticket hstate), State.modBand_band _ hb]
    rfl

theorem State.bandFail_counter (s : State) (b cause : Nat) (ticket : U32) {id : Nat} (hid : id ≠ Id.NOTIFY_DROPPED) :
    (s.bandFail b cause ticket).counter id = s.counter id := by
  unfold State.bandFail State.markFailed
  split
  · rfl
  · rw [State.raise_counter _ _ _ _ _ _ _ _ hid, State.raise_counter _ _ _ _ _ _ _ _ hid]
    rfl

/-! ### Bias (R128) -/

/-- Goals that are set band by band, where a band is powered, stand for every band of the list. -/
theorem foldl_biasGoal_band (goal : Nat → Int) (l : List Nat) {s : State} {b : Nat} (hb : b < s.rx.bands.length) :
    (l.foldl (fun y i => if y.isOn (bandDom i) then y.modBand i fun z => { z with biasGoal := goal i } else y) s).band b =
      { s.band b with biasGoal := if b ∈ l ∧ s.isOn (bandDom b) then goal b else (s.band b).biasGoal } := by
  induction l generalizing s with
  | nil => simp
  | cons i l ih =>
    rw [List.foldl_cons]
    by_cases hon : s.isOn (bandDom i) = true
    · rw [if_pos hon, ih (by simpa using hb)]
      have hsame : (s.modBand i fun z => { z with biasGoal := goal i }).isOn (bandDom b) = s.isOn (bandDom b) := rfl
      by_cases hi : i = b
      · subst hi
        simp [State.modBand_band _ hb, hon, hsame]
      · simp [State.modBand_band_other _ _ hi, hsame, Ne.symm hi]
    · rw [if_neg hon, ih hb]
      by_cases hi : i = b
      · subst hi
        simp [hon]
      · simp [Ne.symm hi]

/-- BIAS_UPDATE recomputes the goal of a powered band, and moves no bias. -/
theorem doBiasUpdate_band (t : Time) {s : State} {b : Nat} (hrange : b < 16) (hb : b < s.rx.bands.length) :
    (doBiasUpdate t s).band b =
      { s.band b with biasGoal := if s.isOn (bandDom b) then s.biasGoalOf b else (s.band b).biasGoal } := by
  have h := foldl_biasGoal_band (s.at t).biasGoalOf (List.range 16) (s := s.at t) (b := b) hb
  simp only [List.mem_range, hrange, true_and] at h
  exact h

/-! ### The PLL (Table 06.8 steps 4 and 5) -/

section
variable {t : Time} {b : Fin 16} {s : State} (hb : b.val < s.rx.bands.length)
include hb

/-- An unlock is counted; it leaves the band unlocked in its state, unless it is the third within 16 frames, which fails the band. -/
theorem doPllUnlock_counts (hon : s.isOn (bandDom b.val) = true) (hstate : (s.band b.val).state ≠ .failed) :
    let recent := (s.band b.val).unlockFrames.filter fun k => s.scan.frame.toNat < k + 16
    (doPllUnlock t b s).counter Id.PLL_UNLOCKS = min 0xFFFFFFFF (s.counter Id.PLL_UNLOCKS + 1) ∧
      (recent.length < 2 → ((doPllUnlock t b s).band b.val).unlocked = true ∧
        ((doPllUnlock t b s).band b.val).state = (s.band b.val).state) ∧
      (2 ≤ recent.length → ((doPllUnlock t b s).band b.val).state = .failed) := by
  intro recent
  unfold doPllUnlock
  extract_lets s0 x f frames s1 s2
  have hruns : ¬ ((!s0.isOn (bandDom b.val)) = true ∨ x.state = .failed) := by simp [s0, x, hon, hstate]
  have hrx : s2.rx = s1.rx := (State.raise_rx ..).trans (State.count_rx ..)
  have hcount : s2.counter Id.PLL_UNLOCKS = min 0xFFFFFFFF (s.counter Id.PLL_UNLOCKS + 1) :=
    (State.raise_counter _ _ _ _ _ _ _ _ (by decide)).trans (State.count_counter ..)
  have hband : s2.band b.val = _ := (State.band_congr hrx b.val).trans (State.modBand_band (s := s0) _ hb)
  have hb2 : b.val < s2.rx.bands.length := by simpa [hrx, s1, s0] using hb
  have hframes : frames.length = recent.length + 1 := rfl
  rw [if_neg hruns]
  refine ⟨?_, fun hfew => ?_, fun hmany => ?_⟩
  · split
    · exact (State.bandFail_counter _ _ _ _ (by decide)).trans hcount
    · exact hcount
  · rw [if_neg (by omega), hband]
    exact ⟨rfl, rfl⟩
  · rw [if_pos (by omega)]
    exact State.bandFail_failed _ _ hb2

variable (hunlocked : (s.band b.val).unlocked = true) (hflyback : s.scan.flyback = true)
include hunlocked hflyback

/-- A PLL that relocks in the flyback is locked again. -/
theorem doPllRelock_locks : ((doPllRelock t b true s).band b.val).unlocked = false := by
  unfold doPllRelock
  extract_lets s0
  rw [if_neg (by simp [s0, hunlocked, hflyback]), if_pos rfl, State.modBand_band (s := s0) _ hb]

/-- One that does not fails its band. -/
theorem doPllRelock_fails : ((doPllRelock t b false s).band b.val).state = .failed := by
  unfold doPllRelock
  extract_lets s0
  rw [if_neg (by simp [s0, hunlocked, hflyback]), if_neg Bool.false_ne_true]
  exact State.bandFail_failed (s := s0) _ _ hb

end

end Sys2Proof.Machine
end

