-- ==== Sys2Proof/Proofs/BandTests.lean ====
section
/-! PROOFS. The built-in test of a band: what it keeps of its failures, which channels it masks, and when it admits a woken band. -/

namespace Sys2Proof.Machine

open Sys2Proof

/-! ### Bits that are set -/

theorem withBit_sets {w i : Nat} (m : BitVec w) (hi : i < w) : (withBit m i true).getLsbD i = true := by
  simp only [withBit, if_true, BitVec.getLsbD_or, BitVec.getLsbD_ofNat, Nat.testBit_two_pow_self, hi, decide_true, Bool.and_self,
    Bool.or_true]

/-- Setting a bit clears none. -/
theorem withBit_keeps {w j : Nat} {m : BitVec w} (i : Nat) (hj : m.getLsbD j = true) : (withBit m i true).getLsbD j = true := by
  simp [withBit, hj]

/-! ### What judging the channels leaves alone -/

/-- No band comes or goes, what the last tests found and who awaits a first test stands, and no row is unmasked. -/
structure KeepsTests (s u : State) : Prop where
  length : u.rx.bands.length = s.rx.bands.length
  lastFail : ∀ b, (u.band b).lastFail = (s.band b).lastFail
  untested : ∀ b, (u.band b).untested = (s.band b).untested
  masks : ∀ row, s.rx.maskTest.getLsbD row = true → u.rx.maskTest.getLsbD row = true

theorem KeepsTests.of_rx {s u : State} (h : u.rx = s.rx) : KeepsTests s u where
  length := by rw [h]
  lastFail b := by rw [State.band_congr h]
  untested b := by rw [State.band_congr h]
  masks row hrow := h ▸ hrow

theorem KeepsTests.trans {s u v : State} (h : KeepsTests s u) (k : KeepsTests u v) : KeepsTests s v where
  length := k.length.trans h.length
  lastFail b := (k.lastFail b).trans (h.lastFail b)
  untested b := (k.untested b).trans (h.untested b)
  masks row hrow := k.masks row (h.masks row hrow)

theorem KeepsTests.ite {s a b : State} {c : Prop} [Decidable c] (h : KeepsTests s a) (k : KeepsTests s b) :
    KeepsTests s (if c then a else b) := by
  split <;> assumption

theorem KeepsTests.foldl {α : Type} {f : State → α → State} (h : ∀ y a, KeepsTests y (f y a)) (l : List α) (s : State) :
    KeepsTests s (l.foldl f s) := by
  induction l generalizing s with
  | nil => exact .of_rx rfl
  | cons a l ih => exact (h s a).trans (ih (f s a))

/-- A band moves to another state (Table 06.8 steps 2 and 3). -/
theorem State.modBand_state_keepsTests (s : State) (b : Nat) (state : BandState) :
    KeepsTests s (s.modBand b fun x => { x with state }) where
  length := State.modBand_length ..
  lastFail := State.modBand_keeps Band.lastFail (by intro; rfl) s b
  untested := State.modBand_keeps Band.untested (by intro; rfl) s b
  masks _ hrow := hrow

theorem State.refreshBand_keepsTests (s : State) (b : Nat) : KeepsTests s (s.refreshBand b) := by
  unfold State.refreshBand
  extract_lets n
  split
  · exact .ite (.of_rx rfl) ((State.modBand_state_keepsTests ..).trans (.of_rx (State.raise_rx ..)))
  · exact .ite (State.modBand_state_keepsTests ..) (.of_rx rfl)
  · exact .of_rx rfl
  · exact .of_rx rfl

/-- The state with a row set in CHANNEL_MASK_TEST. -/
def State.setMask (s : State) (row : Nat) : State := { s with rx := { s.rx with maskTest := withBit s.rx.maskTest row true } }

theorem State.setMask_keepsTests (s : State) (row : Nat) : KeepsTests s (s.setMask row) :=
  ⟨rfl, fun _ => rfl, fun _ => rfl, fun _ hj => withBit_keeps row hj⟩

/-- A row that is masked is set in CHANNEL_MASK_TEST, counted, told, and its band refreshed. -/
theorem State.maskRow_unmasked {s : State} {row : Nat} (cause : Nat) (hrow : ¬ s.rx.maskTest.getLsbD row = true) :
    KeepsTests (s.setMask row) (s.maskRow row cause) := by
  unfold State.maskRow
  rw [if_neg hrow]
  extract_lets s1
  exact (KeepsTests.of_rx ((State.raise_rx ..).trans (State.count_rx ..))).trans (State.refreshBand_keepsTests ..)

theorem State.maskRow_keepsTests (s : State) (row cause : Nat) : KeepsTests s (s.maskRow row cause) := by
  by_cases hrow : s.rx.maskTest.getLsbD row = true
  · exact .of_rx (congrArg State.rx (if_pos hrow))
  · exact (s.setMask_keepsTests row).trans (State.maskRow_unmasked cause hrow)

/-- A row is masked once it is set (R140). -/
theorem State.maskRow_masks (s : State) {row : Nat} (cause : Nat) (hrange : row < 512) :
    (s.maskRow row cause).rx.maskTest.getLsbD row = true := by
  by_cases hrow : s.rx.maskTest.getLsbD row = true
  · exact (s.maskRow_keepsTests row cause).masks row hrow
  · exact (State.maskRow_unmasked cause hrow).masks row (withBit_sets _ hrange)

/-! ### Channels that fail twice (R140) -/

theorem State.judgeChannel_keepsTests (s : State) (b : Nat) (fails last : List (BitVec 32)) (cleared : BitVec 32) (c : Nat) :
    KeepsTests s (s.judgeChannel b fails last cleared c) :=
  .ite (.ite (.of_rx rfl) (State.maskRow_keepsTests ..)) (.ite (.of_rx rfl) (State.maskRow_keepsTests ..))

/-- The first test comes first among those that a channel fails. -/
theorem firstFail_first {fails : List (BitVec 32)} {c : Nat} (hfails : (fails.getD 0 0).getLsbD c = true) : firstFail fails c = 1 := by
  have htests : List.range 4 = [0, 1, 2, 3] := rfl
  rw [firstFail, htests, List.find?_cons_of_pos (p := fun k => (fails.getD k 0).getLsbD c) hfails]
  rfl

/-- A channel that failed T_INJ in the last run and fails it again is masked. -/
theorem State.judgeChannel_masks (s : State) (b : Nat) {inj : BitVec 32} {fails last : List (BitVec 32)} {cleared : BitVec 32} {c : Nat}
    (hrange : 32 * b + c < 512) (hcleared : cleared.getLsbD c = false) (hinj : inj.getLsbD c = true)
    (hlast : (last.getD 0 0).getLsbD c = true) :
    (s.judgeChannel b (inj :: fails) last cleared c).rx.maskTest.getLsbD (32 * b + c) = true := by
  cases last with
  | nil => simp at hlast
  | cons before last =>
    have htwice : firstFail ((inj :: fails).zipWith (· &&& ·) (before :: last)) c = 1 :=
      firstFail_first (by simpa [hinj] using hlast)
    unfold State.judgeChannel
    extract_lets twice k k'
    have hk : k' = 1 := htwice
    rw [if_neg (by rw [hcleared]; decide), hk, if_neg (by decide)]
    exact State.maskRow_masks s 1 hrange

/-- Judging every channel reaches each of them, and none that comes later unmasks it. -/
theorem foldl_judgeChannel_masks (s : State) (b : Nat) {inj : BitVec 32} {fails last : List (BitVec 32)} {cleared : BitVec 32} {c : Nat}
    (hrange : 32 * b + c < 512) (hcleared : cleared.getLsbD c = false) (hinj : inj.getLsbD c = true)
    (hlast : (last.getD 0 0).getLsbD c = true) {l : List Nat} (hc : c ∈ l) :
    (l.foldl (fun y c => y.judgeChannel b (inj :: fails) last cleared c) s).rx.maskTest.getLsbD (32 * b + c) = true := by
  obtain ⟨before, after, rfl⟩ := List.append_of_mem hc
  rw [List.foldl_append, List.foldl_cons]
  exact (KeepsTests.foldl (fun _ _ => State.judgeChannel_keepsTests ..) after _).masks _
    (State.judgeChannel_masks _ b hrange hcleared hinj hlast)

/-! ### A run of a band's test (R139) -/

/-- Tickets of CHANNEL_UNMASK move no band and no mask. -/
theorem State.unmaskRun_keepsTests (s : State) (b : Nat) (failed : BitVec 32) : KeepsTests s (s.unmaskRun b failed) := by
  unfold State.unmaskRun
  extract_lets upd done _ s1
  have h1 : KeepsTests s s1 := ⟨rfl, fun _ => rfl, fun _ => rfl, fun _ h => h⟩
  exact h1.trans (.foldl (fun _ _ => .of_rx ((State.dequeue_quiet ..).trans (State.raise_quiet ..)).rx) done s1)

/-- The rows of band b whose channels failed T_INJ in the last run and fail it again are masked, but for those that CHANNEL_UNMASK names
(R140). -/
def Band.repeatsMasked (x : Band) (b : Nat) (r : BandResult) (masks : BitVec 512) : Prop :=
  ∀ c : Fin 32, x.clearNext.getLsbD c.val = false → r.inj.getLsbD c.val = true → (x.lastFail.getD 0 0).getLsbD c.val = true →
    masks.getLsbD (32 * b + c.val) = true

/-- What a run of the test of band b leaves before the band itself is judged (R139, R140). -/
structure TestRun (s : State) (b : Nat) (r : BandResult) (u : State) : Prop where
  length : u.rx.bands.length = s.rx.bands.length
  lastFail : (u.band b).lastFail = BandTests r
  untested : (u.band b).untested = (s.band b).untested
  masked : (s.band b).repeatsMasked b r u.rx.maskTest

/-- T_INJ or T_COINC failed in every channel. -/
def bandFailsAll (r : BandResult) : Bool := r.inj == BitVec.allOnes 32 || r.coinc == BitVec.allOnes 32

/-- A band that its test admits: OK, or DEGRADED where rows of it are masked (Table 06.8 step 1). -/
def Band.admitted (masked : Nat) (x : Band) : Band :=
  { x with untested := false, state := if masked = 0 then .ok else .degraded }

/-- After a run a band that is not under restart fails, is admitted, or stays as it is. -/
theorem State.testBand_unrestarted {s : State} {b : Nat} (r : BandResult) (hb : b < s.rx.bands.length) (hrange : b < 16)
    (hrestart : (s.band b).restart = none) : ∃ u, TestRun s b r u ∧ s.testBand b r =
      if bandFailsAll r && (s.band b).allFailed then u.bandFail b 4
      else if (s.band b).untested && !bandFailsAll r then u.modBand b (Band.admitted (u.maskCount b))
      else u := by
  unfold State.testBand
  extract_lets x fails all cleared any test mask _ s1 s2 s3 s4 s5
  obtain ⟨f, hs2, hfail, hfirst⟩ : ∃ f, s2 = (s1.modBand b f).refreshBand b ∧ (∀ z, (f z).lastFail = fails) ∧
      ∀ z, (f z).untested = z.untested := ⟨_, rfl, fun _ => rfl, fun _ => rfl⟩
  have h2 : KeepsTests (s1.modBand b f) s2 := hs2 ▸ State.refreshBand_keepsTests ..
  have h4 : KeepsTests s3 s4 := State.unmaskRun_keepsTests ..
  have h24 : KeepsTests (s1.modBand b f) s4 := h2.trans (.trans (.foldl (fun _ _ => State.judgeChannel_keepsTests ..) _ s2) h4)
  have hband : (s1.modBand b f).band b = f (s.band b) := State.modBand_band (s := s1) f hb
  refine ⟨s4, ⟨h24.length.trans (State.modBand_length ..), ?_, ?_, fun c hcleared hinj hlast => ?_⟩, ?_⟩
  · rw [h24.lastFail, hband, hfail]
  · rw [h24.untested, hband, hfirst]
  · have hc := c.isLt
    exact h4.masks _ (foldl_judgeChannel_masks s2 b (by omega) hcleared hinj hlast (List.mem_range.mpr hc))
  · have hrestart' : x.restart = none := hrestart
    rw [hrestart']
    rfl

/-- BAND_TEST in the last part of a flyback runs the test of a band that is due. -/
theorem doBandTest_due {t : Time} {b : Fin 16} {s : State} (r : BandResult) (hrun : s.pwr.state = .run) (htimer : s.scan.timer = true)
    (hflyback : s.scan.flyback = true) (hon : s.isOn (bandDom b.val) = true) (hstate : (s.band b.val).state ≠ .failed)
    (hdue : b.val = s.scan.frame.toNat % 16 ∨ (s.band b.val).untested = true) :
    doBandTest t b r s = (s.at t).testBand b.val r := by
  unfold doBandTest
  extract_lets s0 x due
  have hdue' : due = true := by
    simp only [due, x, s0, State.at_scan, State.at_band, Bool.or_eq_true, beq_iff_eq]
    exact .inl hdue
  exact if_pos (by simp [s0, x, hrun, htimer, hflyback, hon, hstate, hdue'])

/-- A run keeps its failures, masks the channels that failed T_INJ twice, and admits a woken band that T_INJ and T_COINC pass. -/
theorem State.testBand_verdict {s : State} {b : Nat} (r : BandResult) (hb : b < s.rx.bands.length) (hrange : b < 16)
    (hrestart : (s.band b).restart = none) :
    ((s.testBand b r).band b).lastFail = BandTests r ∧ (s.band b).repeatsMasked b r (s.testBand b r).rx.maskTest ∧
      (bandFailsAll r = false → ((s.testBand b r).band b).untested = false) := by
  obtain ⟨u, hu, hverdict⟩ := State.testBand_unrestarted r hb hrange hrestart
  rw [hverdict]
  split
  case isTrue hfails =>
    refine ⟨(State.bandFail_lastFail ..).trans hu.lastFail, ?_, fun hpass => ?_⟩
    · rw [State.bandFail_maskTest]
      exact hu.masked
    · rw [hpass] at hfails
      cases hfails
  case isFalse hkept =>
    split
    case isTrue hadmits =>
      refine ⟨(State.modBand_keeps Band.lastFail (f := Band.admitted _) (fun _ => rfl) u b b).trans hu.lastFail, hu.masked, fun _ => ?_⟩
      rw [State.modBand_band _ (hu.length.symm ▸ hb)]
      rfl
    case isFalse hstays =>
      refine ⟨hu.lastFail, hu.masked, fun hpass => hu.untested.trans ?_⟩
      simpa [hpass] using hstays

end Sys2Proof.Machine
end

