-- ==== Sys2Proof/Proofs/BandCommands.lean ====
section
/-! PROOFS. BAND_RESTART and CHANNEL_UNMASK, and the events that a ticketed command has told before its answer. -/

namespace Sys2Proof.Machine

open Sys2Proof

/-! ### The ring after an answer (R77) -/

theorem Grown.mono {m n : Nat} {s u : State} (h : Grown m s u) (hmn : m ≤ n) : Grown n s u := by
  obtain ⟨l, hl, hring⟩ := h
  exact ⟨l, Nat.le_trans hl hmn, hring⟩

theorem Grown.congr {n : Nat} {s s' u : State} (h : Grown n s u) (hevt : s.evt = s'.evt) : Grown n s' u := by
  obtain ⟨l, hl, hring⟩ := h
  exact ⟨l, hl, hevt ▸ hring⟩

section
variable {s : State} (hring : s.evt.ring.length ≤ 256) (tr : Transport) (n : Byte)
include hring

theorem State.abandonLock_grown (reason : Nat) : Grown 2 s (s.abandonLock tr n reason) := by
  unfold State.abandonLock
  split
  · split
    · exact (State.raise_grown ..).congr (s := s.modSession tr n _) rfl
    · exact (Grown.same rfl hring).mono (by decide)
  · exact (Grown.same rfl hring).mono (by decide)

theorem State.closeSession_grown (reason : Nat) : Grown 4 s (s.closeSession tr n reason) := by
  unfold State.closeSession
  split
  · exact (Grown.same rfl hring).mono (by decide)
  · extract_lets s1 _ s2
    have h2 : Grown 2 s s2 := State.abandonLock_grown hring tr n 3
    exact h2.trans (State.raise_grown s2 ..)

theorem State.freshLimit_grown : Grown 4 s (s.freshLimit tr n) := by
  unfold State.freshLimit
  split
  · split
    · exact State.closeSession_grown hring ..
    · exact (Grown.same rfl hring).mono (by decide)
  · exact (Grown.same rfl hring).mono (by decide)

end

/-- An answer that ends its session tells of that, and of the Lock abandoned with it. -/
theorem State.answer_grown {s : State} (hring : s.evt.ring.length ≤ 256) (h : Hdr) (svc flags : Nat) (p : Bytes) :
    Grown 4 s (s.answer h svc flags p) := by
  unfold State.answer
  extract_lets q s1 ident bytes s2 s3
  have h2 : s2.evt = s.evt := (State.sendBaspo_evt ..).trans (State.nextFresh_evt ..)
  have h3 : s3.evt = s.evt := by
    unfold s3
    split
    · exact h2
    · exact h2
  split
  · exact (Grown.same (by rw [h3]) hring).mono (by decide)
  · exact (State.freshLimit_grown (h3 ▸ hring) ..).congr h3

/-! ### Ticketed commands (R64) -/

section
variable {s : State} {t : Time} {id : Nat} {h : Hdr} {v : Bytes} {s2 : State} {r : Rcvd} {x : Session} {o : Obj} {fl : Nat}

/-- A ticketed command answers after its action. -/
theorem Takes.ticketed_answer {f : U32 → State → State} (H : Takes s t id h v s2 r x o fl) (hacc : o.acc = .cmd)
    (hf : s2.command r.h 0x11 x id (leNat v) = s2.ticketed f) :
    doWriteObject t id h v s = (f s2.nextTicket s2.issueTicket.1).answer r.h 0x11 0x80 (le 4 s2.nextTicket.toNat) := by
  obtain ⟨rfl, hreg⟩ := lookup_regular H.object
  have happly : s2.apply r.h 0x11 x o v fl = s2.ticketed f := by
    simp only [State.apply, H.served, Bool.false_eq_true, if_false, hacc, hf]
  rw [H.runs hreg.id_lt, happly]
  rfl

/-- An event that the action raises is told once the command is answered. -/
theorem Takes.ticketed_told {f : U32 → State → State} (H : Takes s t id h v s2 r x o fl) (hacc : o.acc = .cmd)
    (hf : s2.command r.h 0x11 x id (leNat v) = s2.ticketed f) {y : State} {code sev : Nat} {p1 p2 p3 tk : U32}
    (hraise : f s2.nextTicket s2.issueTicket.1 = y.raise code sev p1 p2 p3 tk) (hevt : y.evt = s2.evt) :
    Told s (doWriteObject t id h v s) code sev p1 p2 p3 tk := by
  rw [H.ticketed_answer hacc hf, hraise]
  obtain ⟨later, e, earlier, hring, hlater, hevent⟩ := y.raise_told code sev p1 p2 p3 tk
  have hlen : (y.raise code sev p1 p2 p3 tk).evt.ring.length ≤ 256 := by
    rw [hring]
    exact List.length_take_le ..
  have hy : y.evt = s.evt := hevt.trans (reaches_now_evt H.heard).2
  have htold : ToldIn 1 s (y.raise code sev p1 p2 p3 tk) code sev p1 p2 p3 tk := ⟨later, e, earlier, hy ▸ hring, hlater, hevent⟩
  exact (htold.grown (State.answer_grown hlen ..)).told (by decide)

/-- The rows that a CHANNEL_UNMASK finds masked are those before the message. -/
theorem Takes.unmaskRows (H : Takes s t id h v s2 r x o fl) (value : Nat) : s2.issueTicket.1.unmaskRows value = s.unmaskRows value := by
  simp only [State.unmaskRows, H.quiet.rx]

end

/-! ### BAND_RESTART (Table 06.8 step 7) -/

theorem bandRestart_acc {o : Obj} (ho : lookup Id.BAND_RESTART = some o) : o.acc = .cmd := by
  have hacc : (lookup Id.BAND_RESTART).map Obj.acc = some .cmd := by decide +kernel
  simpa only [ho, Option.map_some, Option.some.injEq] using hacc

/-- The restart switches the band's domain off. -/
theorem bandRestartAction_isOn {b : Nat} (k : U32) {s : State} (hdom : bandDom b < s.pwr.doms.length) :
    (bandRestartAction b k s).isOn (bandDom b) = false := by
  have hoff : (bandRestartAction b k s).dom (bandDom b) = .off := by
    simp [bandRestartAction, State.dom, setAt, List.getD_eq_getElem?_getD, hdom]
  simp only [State.isOn, hoff]

/-- The band is off, and awaits its test under the ticket. -/
theorem bandRestartAction_band {b : Nat} (k : U32) {s : State} (hb : b < s.rx.bands.length) :
    (bandRestartAction b k s).band b = { s.band b with state := .off, unlocked := false, restart := some k, untested := true } :=
  State.modBand_band (s := { s with pwr := _ }) _ hb

section
variable {s : State} {t : Time} {h : Hdr} {v : Bytes} {s2 : State} {r : Rcvd} {x : Session} {o : Obj} {fl : Nat}

/-- BAND_RESTART answers with its ticket; its action has switched the band and its domain off. -/
theorem Takes.bandRestart_runs (H : Takes s t Id.BAND_RESTART h v s2 r x o fl) (hrun : s.pwr.state = .run)
    (hb : leNat v < s.rx.bands.length) (hrestart : (s.band (leNat v)).restart = none) (hdom : bandDom (leNat v) < s.pwr.doms.length) :
    (doWriteObject t Id.BAND_RESTART h v s).ticketedBy s2 r ∧
      ((doWriteObject t Id.BAND_RESTART h v s).band (leNat v)).state = .off ∧
      ((doWriteObject t Id.BAND_RESTART h v s).band (leNat v)).restart = some s2.nextTicket ∧
      (doWriteObject t Id.BAND_RESTART h v s).isOn (bandDom (leNat v)) = false := by
  have hrx : s2.rx = s.rx := H.quiet.rx
  have hpwr : s2.pwr = s.pwr := H.quiet.pwr
  have hallowed : (s2.pwr.state == .run && (s2.band (leNat v)).restart.isNone) = true := by
    rw [hpwr, hrun, State.band_congr hrx, hrestart]
    rfl
  obtain ⟨hticket, hquiet⟩ :=
    H.ticketed_runs (bandRestart_acc H.object) (f := fun k y => bandRestartAction (leNat v) k y) (if_pos hallowed)
  have hband := bandRestartAction_band s2.nextTicket (s := s2.issueTicket.1) (hrx.symm ▸ hb)
  have hoff := bandRestartAction_isOn s2.nextTicket (s := s2.issueTicket.1) (hpwr.symm ▸ hdom)
  rw [State.band_congr hquiet.rx, hband]
  refine ⟨hticket, rfl, rfl, ?_⟩
  simpa only [State.isOn, State.dom, hquiet.pwr] using hoff

/-! ### CHANNEL_UNMASK (R140) -/

theorem channelUnmask_acc {o : Obj} (ho : lookup Id.CHANNEL_UNMASK = some o) : o.acc = .cmd := by
  have hacc : (lookup Id.CHANNEL_UNMASK).map Obj.acc = some .cmd := by decide +kernel
  simpa only [ho, Option.map_some, Option.some.injEq] using hacc

/-- Where no named row is test-masked the ticket ends at once. -/
theorem channelUnmaskAction_none {value : Nat} (k : U32) {s : State} (hrows : s.unmaskRows value = []) :
    channelUnmaskAction value k s = (s.dequeue k).raise 0x3006 0 0 0 0 k := if_pos hrows

/-- Changing bands one after another moves neither the masks nor the tickets that wait for tests. -/
theorem foldl_modBand_rx {α : Type} (i : α → Nat) (f : α → Band → Band) (l : List α) (s : State) :
    (l.foldl (fun y a => y.modBand (i a) (f a)) s).rx.unmasks = s.rx.unmasks ∧
      (l.foldl (fun y a => y.modBand (i a) (f a)) s).rx.maskTest = s.rx.maskTest := by
  induction l generalizing s with
  | nil => exact ⟨rfl, rfl⟩
  | cons a l ih => exact ih (s.modBand (i a) (f a))

/-- Else the ticket waits for the bands' next runs, and no mask moves. -/
theorem channelUnmaskAction_some {value : Nat} (k : U32) {s : State} (hrows : s.unmaskRows value ≠ []) :
    ∃ w, (channelUnmaskAction value k s).rx.unmasks = s.rx.unmasks ++ [w] ∧ w.num = k ∧
      (channelUnmaskAction value k s).rx.maskTest = s.rx.maskTest := by
  unfold channelUnmaskAction
  extract_lets rows u s1
  obtain ⟨hunmasks, hmasks⟩ := foldl_modBand_rx bandOf (fun r z => { z with clearNext := withBit z.clearNext (r % 32) true }) rows s
  rw [if_neg hrows]
  exact ⟨u, congrArg (· ++ [u]) hunmasks, rfl, hmasks⟩

theorem Takes.channelUnmask_command (H : Takes s t Id.CHANNEL_UNMASK h v s2 r x o fl) (hroom : s.rx.unmasks.length < 8) :
    s2.command r.h 0x11 x Id.CHANNEL_UNMASK (leNat v) = s2.ticketed fun k y => channelUnmaskAction (leNat v) k y := by
  have hrx : s2.rx = s.rx := H.quiet.rx
  exact State.queueing_room _ (hrx.symm ▸ hroom)

/-- With no named row masked, CHANNEL_UNMASK answers with its ticket and has told that none was tested. -/
theorem Takes.channelUnmask_ends (H : Takes s t Id.CHANNEL_UNMASK h v s2 r x o fl) (hroom : s.rx.unmasks.length < 8)
    (hrows : s.unmaskRows (leNat v) = []) : Quiet s (doWriteObject t Id.CHANNEL_UNMASK h v s) ∧
      (doWriteObject t Id.CHANNEL_UNMASK h v s).ticketedBy s2 r ∧
      Told s (doWriteObject t Id.CHANNEL_UNMASK h v s) 0x3006 0 0 0 0 s2.nextTicket := by
  have hacc := channelUnmask_acc H.object
  have hcommand := H.channelUnmask_command hroom
  have haction := channelUnmaskAction_none s2.nextTicket ((H.unmaskRows _).trans hrows)
  obtain ⟨hticket, hquiet⟩ := H.ticketed_runs hacc hcommand
  rw [haction] at hquiet
  exact ⟨H.quiet.trans ((State.dequeue_quiet ..).trans ((State.raise_quiet ..).trans hquiet)), hticket,
    H.ticketed_told hacc hcommand haction rfl⟩

/-- Else it answers with its ticket, which waits. -/
theorem Takes.channelUnmask_waits (H : Takes s t Id.CHANNEL_UNMASK h v s2 r x o fl) (hroom : s.rx.unmasks.length < 8)
    (hrows : s.unmaskRows (leNat v) ≠ []) : (doWriteObject t Id.CHANNEL_UNMASK h v s).ticketedBy s2 r ∧
      ∃ w, (doWriteObject t Id.CHANNEL_UNMASK h v s).rx.unmasks = s.rx.unmasks ++ [w] ∧ w.num = s2.nextTicket ∧
        (doWriteObject t Id.CHANNEL_UNMASK h v s).rx.maskTest = s.rx.maskTest := by
  obtain ⟨hticket, hquiet⟩ := H.ticketed_runs (channelUnmask_acc H.object) (H.channelUnmask_command hroom)
  obtain ⟨w, hunmasks, hnum, hmasks⟩ := channelUnmaskAction_some s2.nextTicket fun hnone => hrows ((H.unmaskRows _).symm.trans hnone)
  rw [H.quiet.rx] at hunmasks hmasks
  rw [hquiet.rx]
  exact ⟨hticket, w, hunmasks, hnum, hmasks⟩

end

/-- Settles O32: the bands by `doBiasUpdate_band`, `doPllUnlock_counts` and the relock, by `State.testBand_verdict`, and by the actions of
the two commands. -/
theorem bandsFollowBiasLockAndTests : Obligations.BandsFollowBiasLockAndTests := by
  unfold Obligations.BandsFollowBiasLockAndTests
  refine ⟨fun t s hbands => ⟨_, rfl, fun b hb => ?_⟩, fun t b s hbands hon hstate => ?_, fun t b ok s hbands hunlocked hflyback => ?_,
    fun t b r s hbands hrun htimer hflyback hon hstate hdue hrestart => ?_,
    fun t h v s s2 r x o fl H hrun hb hrestart hdom => ?_,
    fun t h v s s2 r x o fl H hroom => ⟨fun hrows => ⟨_, rfl, H.channelUnmask_ends hroom hrows⟩, fun hrows => ?_⟩⟩
  · rw [doBiasUpdate_band t hb (hbands.symm ▸ hb)]
    exact ⟨rfl, rfl⟩
  · exact ⟨_, rfl, doPllUnlock_counts (hbands.symm ▸ b.isLt) hon hstate⟩
  · have hb : b.val < s.rx.bands.length := hbands.symm ▸ b.isLt
    cases ok with
    | true => exact ⟨_, rfl, doPllRelock_locks hb hunlocked hflyback, fun hok => nomatch hok⟩
    | false => exact ⟨_, rfl, rfl, fun _ => doPllRelock_fails hb hunlocked hflyback⟩
  · refine ⟨_, congrArg Host.Outcome.next (doBandTest_due r hrun htimer hflyback hon hstate hdue), ?_⟩
    obtain ⟨hlast, hmasked, huntested⟩ := (s.at t).testBand_verdict r (b := b.val) (hbands.symm ▸ b.isLt) b.isLt hrestart
    refine ⟨hlast, hmasked, fun hinj hcoinc => huntested ?_⟩
    exact Bool.or_eq_false_iff.mpr ⟨beq_eq_false_iff_ne.mpr hinj, beq_eq_false_iff_ne.mpr hcoinc⟩
  · exact ⟨_, rfl, H.bandRestart_runs hrun hb hrestart hdom⟩
  · obtain ⟨hticket, w, hwaits⟩ := H.channelUnmask_waits hroom hrows
    exact ⟨_, w, rfl, hticket, hwaits⟩

end Sys2Proof.Machine
end

