-- ==== Sys2Proof/Proofs/EchoStore.lean ====
section
/-! PROOFS. The echo store keeps its canonical form (R166): most commands leave it alone, and those that release a column or
power the module on write it in a way that keeps the form. -/

namespace Sys2Proof.Machine

open Sys2Proof

/-! ### Commands that leave the store alone -/

/-- The form is a fact about the store alone. -/
theorem echoCanonical_of_echo {s u : State} (h : u.echo = s.echo) (hs : s.echoCanonical) : u.echoCanonical := by
  rwa [State.echoCanonical, h]

/-- What leaves the echo store out of its parts keeps its form. -/
theorem Within.echoCanonical {l : List Part} {s u : State} (h : Within l s u) (hl : .echo ∉ l) (hs : s.echoCanonical) :
    u.echoCanonical := echoCanonical_of_echo (h.part .echo hl) hs

/-- So does what keeps `State.held` from the state in which the clock has moved. -/
theorem echoCanonical_of_held {t : Time} {s u : State} (h : u.held = (s.at t).held) (hs : s.echoCanonical) : u.echoCanonical :=
  echoCanonical_of_echo (held_echo h) hs

/-- No command of at most five parts names the echo store. -/
theorem echo_notMem_partsOf (c : Instr) (hc : (partsOf c).length ≤ 5) : .echo ∉ partsOf c := by
  revert hc
  unfold partsOf
  split <;> decide

/-- A command of few parts keeps the form: its frame leaves the store out. -/
theorem exec_local_echoCanonical (c : Instr) (s : State) (hc : (partsOf c).length ≤ 5) (hs : s.echoCanonical) :
    ∃ u, exec c s = .next u ∧ u.echoCanonical := by
  obtain ⟨u, hu, hframe⟩ := exec_local_within c s hc
  exact ⟨u, hu, hframe.echoCanonical (echo_notMem_partsOf c hc) hs⟩

/-! ### Commands of many parts -/

/-- An event of the surroundings of more than five parts keeps the form: a comparison releases a column, whatever may cost a lane its
lease releases those that wait, a power-on clears the store, and no other event writes it. -/
theorem exec_wide_echoCanonical (c : Instr) (s : State) (hc : hostMessage c = none) (hwide : ¬ (partsOf c).length ≤ 5)
    (hs : s.echoCanonical) : ∃ u, exec c s = .next u ∧ u.echoCanonical := by
  cases c with
  | compareVerdict => exact ⟨_, rfl, wf_doCompareVerdict _ _ hs⟩
  | laneReport => exact ⟨_, rfl, wf_doLaneReport _ _ _ hs⟩
  | leaseExpiry => exact ⟨_, rfl, wf_doLeaseExpiry _ _ hs⟩
  | yield => exact ⟨_, rfl, wf_doYield _ _ _ hs⟩
  | fatalLaneFault => exact ⟨_, rfl, wf_doFatalLaneFault _ _ _ hs⟩
  | laneWatchdogExpiry => exact ⟨_, rfl, wf_doLaneWatchdogExpiry _ _ _ hs⟩
  | selftestResult => exact ⟨_, rfl, wf_doSelftestResult _ _ _ _ hs⟩
  | domainPowerGoodFail => exact ⟨_, rfl, wf_doDomainPowerGoodFail _ _ _ _ hs⟩
  | crossingNoResponse => exact ⟨_, rfl, wf_doCrossingNoResponse _ _ _ hs⟩
  | lockEqualizationDone => exact ⟨_, rfl, wf_doLockEqualizationDone _ _ hs⟩
  | fwImageCheckDone => exact ⟨_, rfl, wf_doFwImageCheckDone _ _ hs⟩
  | wakeDone => exact ⟨_, rfl, wf_doWakeDone _ _ _ hs⟩
  | aoWatchdogExpiry => exact ⟨_, rfl, wf_doAoWatchdogExpiry _ _ _ hs⟩
  | vinStartRise => exact ⟨_, rfl, wf_doVinStartRise _ _ _ hs⟩
  | versionConfirmTimeout => exact ⟨_, rfl, wf_doVersionConfirmTimeout _ _ _ hs⟩
  | flashGroupDone => exact ⟨_, rfl, echoCanonical_of_echo (echo_doFlashGroupDone ..) hs⟩
  | lockIdleFlip => exact ⟨_, rfl, echoCanonical_of_held (held_doLockIdleFlip ..) hs⟩
  | frameBoundary => exact ⟨_, rfl, echoCanonical_of_held (held_doFrameBoundary ..) hs⟩
  | columnTick => exact ⟨_, rfl, echoCanonical_of_held (held_doColumnTick ..) hs⟩
  | leaseRenew => exact ⟨_, rfl, echoCanonical_of_held (held_doLeaseRenew ..) hs⟩
  | leaseConfirmTimeout => exact ⟨_, rfl, echoCanonical_of_held (held_doLeaseConfirmTimeout ..) hs⟩
  | controlSample => exact ⟨_, rfl, echoCanonical_of_held (held_doControlSample ..) hs⟩
  | entryRecheck => exact ⟨_, rfl, echoCanonical_of_held (held_doEntryRecheck ..) hs⟩
  | entryTimeout => exact ⟨_, rfl, echoCanonical_of_held (held_doEntryTimeout ..) hs⟩
  | entryStepDone => exact ⟨_, rfl, echoCanonical_of_held (held_doEntryStepDone ..) hs⟩
  | wakePin => exact ⟨_, rfl, echoCanonical_of_held (held_doWakePin ..) hs⟩
  | wakePinLow => exact ⟨_, rfl, echoCanonical_of_held (held_doWakePinLow ..) hs⟩
  | canWakeFrame => exact ⟨_, rfl, echoCanonical_of_held (held_doCanWakeFrame ..) hs⟩
  | dozeSleepAfter => exact ⟨_, rfl, echoCanonical_of_held (held_doDozeSleepAfter ..) hs⟩
  | xtalFallback => exact ⟨_, rfl, echoCanonical_of_held (held_doXtalFallback ..) hs⟩
  | holdupExhausted => exact ⟨_, rfl, echoCanonical_of_held (held_doHoldupExhausted ..) hs⟩
  | vinShutdownFall => exact ⟨_, rfl, echoCanonical_of_held (held_doVinShutdownFall ..) hs⟩
  | thermalUpdate => exact ⟨_, rfl, echoCanonical_of_held (held_doThermalUpdate ..) hs⟩
  | thermalForcedDoze => exact ⟨_, rfl, echoCanonical_of_held (held_doThermalForcedDoze ..) hs⟩
  | thermalRestart => exact ⟨_, rfl, echoCanonical_of_held (held_doThermalRestart ..) hs⟩
  | calRunDone => exact ⟨_, rfl, echoCanonical_of_held (held_doCalRunDone ..) hs⟩
  | calStoreRetry => exact ⟨_, rfl, echoCanonical_of_held (held_doCalStoreRetry ..) hs⟩
  | _ => simp [partsOf, hostMessage] at hc hwide

/-! ### Every command and every step -/

/-- Every command keeps the form: a host's message through `doRequest`, an event by the number of its parts. -/
theorem exec_echoCanonical (c : Instr) (s : State) (hs : s.echoCanonical) : ∃ u, exec c s = .next u ∧ u.echoCanonical := by
  cases hc : hostMessage c with
  | some m => exact ⟨_, hostMessage_exec c s hc, wf_doRequest _ _ _ _ _ hs⟩
  | none =>
    by_cases hlocal : (partsOf c).length ≤ 5
    · exact exec_local_echoCanonical c s hlocal hs
    · exact exec_wide_echoCanonical c s hc hlocal hs

/-- Settles O4: an idle step changes nothing, and a step with a command in front runs it, which keeps the form. -/
theorem echoStoreStaysCanonical : Obligations.EchoStoreStaysCanonical := by
  unfold Obligations.EchoStoreStaysCanonical
  intro s u hs hstep
  cases hpending : s.pending with
  | nil =>
    obtain rfl : s = u := by simpa [step_of_empty hpending] using hstep
    exact hs
  | cons c rest =>
    rw [step_of_front hpending] at hstep
    obtain ⟨v, hv, hcanonical⟩ := exec_echoCanonical c { s with pending := rest } hs
    obtain rfl : v = u := by simpa [hstep] using hv.symm
    exact hcanonical

/-- Settles O5: the store lists nothing at reset. -/
theorem resetEchoStoreIsCanonical : Obligations.ResetEchoStoreIsCanonical := by
  unfold Obligations.ResetEchoStoreIsCanonical
  exact echoWf_nil

end Sys2Proof.Machine
end

