-- ==== Sys2Proof/Proofs/Femon.lean ====
section
/-! PROOFS. The Femon generator on the test vector of Table 08.1. -/

namespace Sys2Proof.Machine

open Sys2Proof

/-- Where the dither is on, it is the leading b bits of w2. -/
theorem femon_of_w2 {f n w : U32} {b : Nat} (hw : femonW2 f n = w) (hb : b ≠ 4) : femon f n b = (w >>> (32 - b)).toNat := by
  rw [femon, if_neg hb, hw]

theorem femonW1_vector : femonW1 1 0 = 0x23BB0168 := by decide

theorem femonW2_vector : femonW2 1 0 = 0x05D49DF6 := by
  rw [femonW2, femonW1_vector]
  decide

/-- Settles O24: both words by computation, and every dither by its leading bits of the second. -/
theorem femonMeetsItsTestVector : Obligations.FemonMeetsItsTestVector := by
  unfold Obligations.FemonMeetsItsTestVector
  have hdither {b d : Nat} (hb : b ≠ 4) (hd : ((0x05D49DF6 : U32) >>> (32 - b)).toNat = d) : femon 1 0 b = d :=
    (femon_of_w2 femonW2_vector hb).trans hd
  exact ⟨femonW1_vector, femonW2_vector, hdither (by decide) rfl, hdither (by decide) rfl, hdither (by decide) rfl,
    hdither (by decide) rfl, hdither (by decide) rfl⟩

end Sys2Proof.Machine
end

