-- ==== Sys2Proof/Proofs/Offers.lean ====
section
/-! PROOFS. Triggers on offer to marking and capture (R254): an offered trigger stays on offer through events, counting and answers. -/

namespace Sys2Proof.Machine

open Sys2Proof

theorem mem_insertBy {α : Type} (lt : α → α → Bool) (a b : α) (l : List α) : b ∈ insertBy lt a l ↔ b = a ∨ b ∈ l := by
  induction l with
  | nil => simp [insertBy]
  | cons c l ih =>
    unfold insertBy
    split
    · simp only [List.mem_cons, ih]
      exact or_left_comm
    · simp only [List.mem_cons]

/-- Every trigger on offer in s is so in u. -/
structure OffersKept (s u : State) : Prop where
  mem {g : Trigger} : g ∈ s.cap.offers → g ∈ u.cap.offers

theorem OffersKept.of_cap {s u : State} (h : u.cap = s.cap) : OffersKept s u := ⟨fun hg => h.symm ▸ hg⟩

theorem OffersKept.refl (s : State) : OffersKept s s := .of_cap rfl

theorem OffersKept.trans {s u v : State} (h : OffersKept s u) (k : OffersKept u v) : OffersKept s v := ⟨fun hg => k.mem (h.mem hg)⟩

theorem State.mem_offer (s : State) (g : Trigger) : g ∈ (s.offer g).cap.offers := (mem_insertBy ..).mpr (.inl rfl)

theorem State.offer_offersKept (s : State) (g : Trigger) : OffersKept s (s.offer g) := ⟨fun hx => (mem_insertBy ..).mpr (.inr hx)⟩

theorem State.raiseRaw_offersKept (s : State) (code sev : Nat) (tk p1 p2 p3 : U32) : OffersKept s (s.raiseRaw code sev tk p1 p2 p3) := by
  unfold State.raiseRaw
  split
  · refine .trans ?_ (State.offer_offersKept ..)
    exact .of_cap rfl
  · exact .of_cap rfl

theorem State.saturate_offersKept (s : State) (id : Nat) : OffersKept s (s.saturate id) := by
  unfold State.saturate
  split
  · refine .trans ?_ (State.raiseRaw_offersKept ..)
    exact .of_cap rfl
  · exact .refl s

theorem State.count_offersKept (s : State) (id n : Nat) : OffersKept s (s.count id n) := by
  unfold State.count
  split
  · exact .refl s
  · refine .trans ?_ (State.saturate_offersKept ..)
    exact .of_cap rfl

theorem State.raise_offersKept (s : State) (code sev : Nat) (p1 p2 p3 tk : U32) : OffersKept s (s.raise code sev p1 p2 p3 tk) :=
  (State.raiseRaw_offersKept s code sev tk p1 p2 p3).trans (State.count_offersKept ..)

theorem State.abandonLock_offersKept (s : State) (tr : Transport) (n : Byte) (reason : Nat) : OffersKept s (s.abandonLock tr n reason) := by
  unfold State.abandonLock
  split
  · split
    · refine .trans ?_ (State.raise_offersKept ..)
      exact .of_cap rfl
    · exact .refl s
  · exact .refl s

theorem State.closeSession_offersKept (s : State) (tr : Transport) (n : Byte) (reason : Nat) :
    OffersKept s (s.closeSession tr n reason) := by
  unfold State.closeSession
  split
  · exact .refl s
  · refine (State.abandonLock_offersKept s tr n 3).trans (.trans ?_ (State.raise_offersKept ..))
    exact .of_cap rfl

theorem State.freshLimit_offersKept (s : State) (tr : Transport) (n : Byte) : OffersKept s (s.freshLimit tr n) := by
  unfold State.freshLimit
  split
  · split
    · exact State.closeSession_offersKept ..
    · exact .refl s
  · exact .refl s

theorem State.answer_offersKept (s : State) (h : Hdr) (svc flags : Nat) (p : Bytes) : OffersKept s (s.answer h svc flags p) := by
  unfold State.answer
  extract_lets q s1 ident bytes s2 s3
  have h2 : s2.cap = s.cap := (State.sendBaspo_cap ..).trans (State.nextFresh_cap ..)
  have h3 : s3.cap = s2.cap := by
    unfold s3
    split <;> rfl
  refine (OffersKept.of_cap (h3.trans h2)).trans ?_
  split
  · exact .refl s3
  · exact State.freshLimit_offersKept ..

end Sys2Proof.Machine
end

