-- ==== Sys2Proof/Proofs/BusMessages.lean ====
section
/-! PROOFS. Messages on the trigger bus: what reception makes of them, and what each kind of message does to the unit that it reaches. -/

namespace Sys2Proof.Machine

open Sys2Proof

/-! ### Peers -/

/-- A peer that exists is changed in place. -/
theorem State.modPeer_peer {s : State} {p : Nat} (f : BusPeer → BusPeer) (hp : p < s.bus.peers.length) :
    (s.modPeer p f).peer p = f (s.peer p) := by
  simp [State.peer, State.modPeer, modAt, List.getD_eq_getElem?_getD, hp]

/-- A peer is read from the bus alone. -/
theorem State.peer_congr {s u : State} (h : u.bus.peers = s.bus.peers) (p : Nat) : u.peer p = s.peer p := by
  simp only [State.peer, h]

/-! ### Reception (R182) -/

@[simp] theorem State.at_busListens (s : State) (t : Time) : (s.at t).busListens = s.busListens := rfl
@[simp] theorem State.at_busDrives (s : State) (t : Time) : (s.at t).busDrives = s.busDrives := rfl

/-- A message has come from another unit: its sender is heard. -/
def State.busHeard (s : State) (t : Time) (p : Nat) : State := (s.at t).modPeer p fun x => { x with heard := some (max s.now t) }

theorem State.busHeard_peer {s : State} (t : Time) {p : Nat} (hp : p < s.bus.peers.length) :
    (s.busHeard t p).peer p = { s.peer p with heard := some (max s.now t) } :=
  State.modPeer_peer (s := s.at t) _ hp

/-- Its sender can be changed further. -/
theorem State.busHeard_exists {s : State} (t : Time) {p : Nat} (hp : p < s.bus.peers.length) :
    p < (s.busHeard t p).bus.peers.length :=
  Nat.lt_of_lt_of_eq hp (List.length_modify ..).symm

/-- What is configured is read from the configuration and the factory values alone. -/
theorem Within.cfgN {l : List Part} {s u : State} (h : Within l s u) (hcfg : .cfg ∉ l) (id : Nat) : u.cfgN id = s.cfgN id := by
  have hsame : u.cfg = s.cfg := h.part .cfg hcfg
  simp only [State.cfgN, State.conf, h.fac, hsame]

theorem State.busHeard_within (s : State) (t : Time) (p : Nat) : Within [.bus] s (s.busHeard t p) := .timed (State.modPeer_within ..)

/-- BUS_MISMATCH is kept in a field of its own. -/
theorem State.busMismatch_bus (s : State) (mode shot : Nat) : ∃ m, (s.busMismatch mode shot).bus = { s.bus with mismatch := m } := by
  unfold State.busMismatch
  split
  · exact ⟨_, rfl⟩
  · split
    · exact ⟨_, rfl⟩
    · exact ⟨_, State.raise_bus ..⟩

/-- The delay that a REPLY at t to the PROBE at t0 shows: half of the time between, less what the peer took of it (Table 08.4). -/
def replyDelay (t t0 : Time) (payload : U32) : Rat := (((t : Int) - (t0 : Int) - (payload.toNat % 2 ^ 28 : Nat) : Int) : Rat) / 2

section
variable {t : Time} {source : BitVec 4} {payload : U32} {crc : Byte} {s : State} (hlistens : s.busListens = true)
include hlistens

theorem State.busReceive_bad {kind : Nat} (own : Bool) (hbad : crc8 (busData kind source.toNat payload.toNat) ≠ crc) :
    (s.at t).busReceive own kind source payload crc = ((s.at t).count Id.BUS_CRC_ERRORS, false) := by
  simp only [State.busReceive, State.at_busListens, hlistens, Bool.not_true, Bool.false_eq_true, if_false, if_pos hbad]

/-- A bad CRC ends every message. -/
theorem exec_bus_bad {kind : Nat} {own : Bool} {c : Instr} (hbad : crc8 (busData kind source.toNat payload.toNat) ≠ crc)
    (hc : (kind, c) ∈ [(1, Instr.busFrame t own source payload crc), (2, .busTriggerMessage t own source payload crc),
      (3, .busProbe t own source payload crc), (4, .busReply t own source payload crc), (5, .busAnnounce t own source payload crc)]) :
    exec c s = .next ((s.at t).count Id.BUS_CRC_ERRORS) := by
  have hreceive := State.busReceive_bad (t := t) hlistens own hbad
  simp only [List.mem_cons, Prod.mk.injEq, List.not_mem_nil, or_false] at hc
  obtain ⟨rfl, rfl⟩ | ⟨rfl, rfl⟩ | ⟨rfl, rfl⟩ | ⟨rfl, rfl⟩ | ⟨rfl, rfl⟩ := hc
  · exact congrArg Host.Outcome.next (by rw [doBusFrame, hreceive]; rfl)
  · exact congrArg Host.Outcome.next (by rw [doBusTriggerMessage, hreceive]; rfl)
  · exact congrArg Host.Outcome.next (by rw [doBusProbe, hreceive]; rfl)
  · exact congrArg Host.Outcome.next (by rw [doBusReply, hreceive]; rfl)
  · exact congrArg Host.Outcome.next (by rw [doBusAnnounce, hreceive]; rfl)

variable (hforeign : source.toNat ≠ s.cfgN Id.BUS_POSITION)
include hforeign

theorem State.busReceive_good {kind : Nat} (hgood : crc8 (busData kind source.toNat payload.toNat) = crc) :
    (s.at t).busReceive false kind source payload crc = (s.busHeard t source.toNat, true) := by
  simp only [State.busReceive, State.at_busListens, hlistens, hgood, State.at_cfgN, hforeign, Bool.not_true, Bool.false_eq_true, if_false,
    ne_eq, not_true_eq_false]
  rfl

/-! ### The messages of another unit -/

/-- PROBE of this unit asks it for a REPLY (R185). -/
theorem doBusProbe_target (hgood : crc8 (busData 3 source.toNat payload.toNat) = crc)
    (htarget : payload.toNat / 2 ^ 28 = s.cfgN Id.BUS_POSITION) : doBusProbe t false source payload crc s =
      { s.busHeard t source.toNat with
        bus := { (s.busHeard t source.toNat).bus with reply := some (source.toNat, max s.now t) } } := by
  rw [doBusProbe, State.busReceive_good hlistens hforeign hgood]
  exact (if_neg Bool.false_ne_true).trans ((if_neg Bool.false_ne_true).trans (if_pos htarget))

variable (hpeer : source.toNat < s.bus.peers.length)
include hpeer

/-- FRAME keeps the bus alive (R183). -/
theorem doBusFrame_follower (hgood : crc8 (busData 1 source.toNat payload.toNat) = crc) (hrole : s.cfgN Id.BUS_ROLE = 2)
    (hpin : s.cfgN Id.FSYNC_SOURCE ≠ 2) :
    (doBusFrame t false source payload crc s).bus.frames = max s.now t :: s.bus.frames.take 1 ∧
      (doBusFrame t false source payload crc s).bus.alive = true ∧
      (doBusFrame t false source payload crc s).bus.master = source.toNat ∧
      ((doBusFrame t false source payload crc s).peer source.toNat).heard = some (max s.now t) := by
  unfold doBusFrame
  rw [State.busReceive_good hlistens hforeign hgood]
  extract_lets r s1 _ s2 p s3
  have hrole' : s1.cfgN Id.BUS_ROLE = 2 := hrole
  have hgoes : (!r.2) = false := rfl
  have hmaster : (!false && s1.cfgN Id.BUS_ROLE == 1) = false := by rw [hrole']; rfl
  have hfollows : (false || s1.cfgN Id.BUS_ROLE != 2) = false := by rw [hrole']; rfl
  have hpin' : ¬ s3.cfgN Id.FSYNC_SOURCE = 2 := by
    have h3 : Within [.bus] s s3 :=
      ((s.busHeard_within t source.toNat).seq (.seq (.update [.bus] (by rfl)) (State.busMismatch_within s2 ..))).up (by rfl)
    rwa [h3.cfgN (by decide)]
  obtain ⟨m, hbus⟩ := s2.busMismatch_bus (p / 2 ^ 30) (p / 2 ^ 18 % 4096 * 5)
  have hheard : (s3.peer source.toNat).heard = some (max s.now t) := by
    rw [State.peer_congr (s := s.busHeard t source.toNat) (by rw [hbus]), State.busHeard_peer t hpeer]
  simp only [hgoes, hmaster, hfollows, Bool.false_eq_true, if_false, if_neg hpin']
  split
  all_goals exact ⟨congrArg Bus.frames hbus, congrArg Bus.alive hbus, congrArg Bus.master hbus, hheard⟩

/-- TRIGGER offers a trigger, which is unplaced while the sender's delay is not known (R186). -/
theorem doBusTriggerMessage_offers (hgood : crc8 (busData 2 source.toNat payload.toNat) = crc) :
    ∃ g, doBusTriggerMessage t false source payload crc s = (s.busHeard t source.toNat).offer g ∧ g.source = 5 ∧
      g.unplaced = (s.peer source.toNat).delay.isNone := by
  have hdelay : ((s.busHeard t source.toNat).peer source.toNat).delay = (s.peer source.toNat).delay := by
    rw [State.busHeard_peer t hpeer]
    rfl
  rw [doBusTriggerMessage, State.busReceive_good hlistens hforeign hgood]
  exact ⟨_, rfl, rfl, congrArg Option.isNone hdelay⟩

/-- REPLY to this unit's PROBE, at most 100 µs after it, ends the wait, and its delay joins those of the peer (R185). -/
theorem doBusReply_inTime {t0 : Time} (hgood : crc8 (busData 4 source.toNat payload.toNat) = crc)
    (htarget : payload.toNat / 2 ^ 28 = s.cfgN Id.BUS_POSITION) (hprobe : s.bus.probe = some (source.toNat, t0))
    (htime : max s.now t ≤ t0 + usec 100) : (doBusReply t false source payload crc s).bus.probe = none ∧
      ((doBusReply t false source payload crc s).peer source.toNat).delays =
        (replyDelay (max s.now t) t0 payload :: (s.peer source.toNat).delays).take 16 := by
  have hmine : (!true || false || payload.toNat / 2 ^ 28 != (s.busHeard t source.toNat).cfgN Id.BUS_POSITION) = false :=
    bne_eq_false_iff_eq.mpr htarget
  have hprobe' : (s.busHeard t source.toNat).bus.probe = some (source.toNat, t0) := hprobe
  have hdelays : ((s.busHeard t source.toNat).peer source.toNat).delays = (s.peer source.toNat).delays := by
    rw [State.busHeard_peer t hpeer]
  have hrun : doBusReply t false source payload crc s =
      { s.busHeard t source.toNat with bus := { (s.busHeard t source.toNat).bus with probe := none } }.modPeer source.toNat fun p =>
        { p with delays := (replyDelay (max s.now t) t0 payload :: p.delays).take 16 } := by
    rw [doBusReply, State.busReceive_good hlistens hforeign hgood]
    refine (if_neg (ne_true_of_eq_false hmine)).trans ?_
    split
    next target t1 hsome =>
      obtain ⟨rfl, rfl⟩ := Prod.mk.inj (Option.some.inj (hprobe'.symm.trans hsome))
      exact (if_neg (not_not_intro rfl)).trans (if_neg (Nat.not_lt.mpr htime))
    next hnone => cases hprobe'.symm.trans hnone
  rw [hrun, ← hdelays]
  exact ⟨rfl, congrArg BusPeer.delays (State.modPeer_peer _ (by exact State.busHeard_exists t hpeer))⟩

/-- ANNOUNCE of the own FLEET_CODE marks the peer and tells of it (R177). -/
theorem doBusAnnounce_first (hgood : crc8 (busData 5 source.toNat payload.toNat) = crc)
    (hcode : payload.toNat % 262144 = s.cfgN Id.FLEET_CODE) (hfirst : (s.peer source.toNat).duplicate = false) :
    ((doBusAnnounce t false source payload crc s).peer source.toNat).duplicate = true ∧
      Told s (doBusAnnounce t false source payload crc s) 0x3601 1 (u32 (s.cfgN Id.FLEET_CODE)) (u32 source.toNat) 0 0 := by
  have hnew : (!true || false || payload.toNat % 262144 != (s.busHeard t source.toNat).cfgN Id.FLEET_CODE ||
      ((s.busHeard t source.toNat).peer source.toNat).duplicate) = false := by
    rw [State.busHeard_peer t hpeer, hfirst, Bool.or_false]
    exact bne_eq_false_iff_eq.mpr hcode
  have hrun : doBusAnnounce t false source payload crc s =
      ((s.busHeard t source.toNat).modPeer source.toNat fun p => { p with duplicate := true }).raise 0x3601 1
        (u32 (s.cfgN Id.FLEET_CODE)) (u32 source.toNat) := by
    rw [doBusAnnounce, State.busReceive_good hlistens hforeign hgood, ← hcode]
    exact if_neg (ne_true_of_eq_false hnew)
  rw [hrun, State.peer_congr (congrArg Bus.peers (State.raise_bus ..)), State.modPeer_peer _ (State.busHeard_exists t hpeer)]
  exact ⟨rfl, (State.raise_told ..).told (by decide)⟩

/-- Told once, it is not told again. -/
theorem doBusAnnounce_again (hgood : crc8 (busData 5 source.toNat payload.toNat) = crc)
    (hagain : (s.peer source.toNat).duplicate = true) : doBusAnnounce t false source payload crc s = s.busHeard t source.toNat := by
  have hagain' : ((s.busHeard t source.toNat).peer source.toNat).duplicate = true := by rw [State.busHeard_peer t hpeer, ← hagain]
  rw [doBusAnnounce, State.busReceive_good hlistens hforeign hgood]
  exact if_pos (Bool.or_eq_true_iff.mpr (.inr hagain'))

end

/-- Settles O47: a message with a bad CRC by `exec_bus_bad`; a good one has its sender heard, then by its kind. -/
theorem busMessagesTakeEffect : Obligations.BusMessagesTakeEffect := by
  unfold Obligations.BusMessagesTakeEffect
  refine ⟨fun t source p crc s hlistens => ⟨fun k own c hc hbad => ?_, fun hforeign hpeers => ?_⟩,
    fun t source p s hlistens hforeign hpeers hcode => ?_⟩
  · exact ⟨_, exec_bus_bad hlistens hbad hc, (State.at_quiet s t).trans (State.count_quiet ..), State.count_counter ..⟩
  · have hpeer : source.toNat < s.bus.peers.length := hpeers ▸ source.isLt
    refine ⟨fun hgood hrole hpin => ⟨_, rfl, doBusFrame_follower hlistens hforeign hpeer hgood hrole hpin⟩, fun hgood => ?_,
      fun hgood htarget => ?_, fun t0 hgood htarget hprobe htime => ?_⟩
    · obtain ⟨g, hrun, hsource, hplaced⟩ := doBusTriggerMessage_offers (t := t) hlistens hforeign hpeer hgood
      exact ⟨_, congrArg Host.Outcome.next hrun, g, State.mem_offer .., hsource, hplaced⟩
    · exact ⟨_, congrArg Host.Outcome.next (doBusProbe_target hlistens hforeign hgood htarget), rfl, rfl⟩
    · exact ⟨_, rfl, doBusReply_inTime hlistens hforeign hpeer hgood htarget hprobe htime⟩
  · have hpeer : source.toNat < s.bus.peers.length := hpeers ▸ source.isLt
    refine ⟨fun hfirst => ?_, fun hagain => ?_⟩
    · obtain ⟨hmarked, htold⟩ := doBusAnnounce_first (t := t) hlistens hforeign hpeer rfl hcode hfirst
      exact ⟨_, rfl, hmarked, htold, (doBusAnnounce_within ..).quiet⟩
    · have hrun := doBusAnnounce_again (t := t) (payload := p) hlistens hforeign hpeer rfl hagain
      exact ⟨_, congrArg Host.Outcome.next hrun, rfl, (s.busHeard_within t source.toNat).quiet⟩

end Sys2Proof.Machine
end

