-- ==== Sys2Proof/Proofs/BusTurns.lean ====
section
/-! PROOFS. The trigger bus in turn: the message of the own window, the host's trigger, the bus clock and the bus that falls silent. -/

namespace Sys2Proof.Machine

open Sys2Proof

/-! ### The own window (R183, R184) -/

/-- While every trigger can still be sent, none is counted late. -/
theorem State.busPurge_none {s : State} (hfresh : ∀ g ∈ s.bus.trigs, s.now - g.at_ ≤ 2097151) : s.busPurge = s := by
  have hkeep : (s.bus.trigs.filter fun g => decide (s.now - g.at_ ≤ 2097151)) = s.bus.trigs :=
    List.filter_eq_self.mpr fun g hg => decide_eq_true (hfresh g hg)
  unfold State.busPurge
  simp only [hkeep, Nat.sub_self]
  rfl

/-- A waiting trigger goes first. -/
theorem State.busMessage_trigger {s : State} {g : BusTrig} {rest : List BusTrig} (hwaits : s.bus.trigs = g :: rest) :
    s.busMessage = { s with bus := { s.bus with trigs := rest } }.busPut 2 (g.kind * 2 ^ 28 + g.seq * 2 ^ 21 + (s.now - g.at_)) := by
  unfold State.busMessage
  rw [hwaits]

/-- One message in each own window. -/
theorem doBusWindow_opens {t : Time} {s : State} {w : Time × Nat} (hfresh : ∀ g ∈ s.bus.trigs, max s.now t - g.at_ ≤ 2097151)
    (hown : (s.at t).ownWindow = some w) (hdrives : s.busDrives = true) (halive : s.bus.alive = true) (hnew : s.bus.window ≠ some w) :
    doBusWindow t s = { s.at t with bus := { s.bus with window := some w } }.busMessage := by
  unfold doBusWindow
  rw [State.busPurge_none (s := s.at t) hfresh]
  simp only [hown, State.at_busDrives, hdrives, State.at_bus, halive, bne_iff_ne.mpr hnew, Bool.and_self, if_true]

/-! ### BUS_TRIGGER (R189) -/

theorem State.busPurge_offersKept (s : State) : OffersKept s s.busPurge := by
  refine .trans ?_ (State.count_offersKept ..)
  exact .of_cap rfl

theorem State.busSend_offersKept (s : State) (kind : Nat) (at_ : Time) : OffersKept s (s.busSend kind at_) := by
  unfold State.busSend
  extract_lets s1 n
  have h1 : OffersKept s s1 := s.busPurge_offersKept
  split
  · split
    · exact h1.trans (State.count_offersKept ..)
    · exact h1.trans (.of_cap rfl)
  · exact .refl s

/-- The host's trigger is on offer at the instant of the command. -/
theorem busTriggerAction_offers (s : State) : ∃ g ∈ (busTriggerAction s).cap.offers, g.source = 6 ∧ g.inst = (s.now : Int) :=
  ⟨_, (State.busSend_offersKept s.hostTrigger 5 s.now).mem (State.mem_offer s _), rfl, rfl⟩

theorem busTrigger_acc {o : Obj} (ho : lookup Id.BUS_TRIGGER = some o) : o.acc = .cmd := by
  have hacc : (lookup Id.BUS_TRIGGER).map Obj.acc = some .cmd := by decide +kernel
  simpa only [ho, Option.map_some, Option.some.injEq] using hacc

/-- BUS_TRIGGER answers with its ticket, and its trigger is on offer. -/
theorem Takes.busTrigger_runs {s : State} {t : Time} {h : Hdr} {v : Bytes} {s2 : State} {r : Rcvd} {x : Session} {o : Obj} {fl : Nat}
    (H : Takes s t Id.BUS_TRIGGER h v s2 r x o fl) : (doWriteObject t Id.BUS_TRIGGER h v s).ticketedBy s2 r ∧
      ∃ g ∈ (doWriteObject t Id.BUS_TRIGGER h v s).cap.offers, g.source = 6 ∧ g.inst = (max s.now t : Nat) := by
  have hacc := busTrigger_acc H.object
  have hcommand : s2.command r.h 0x11 x Id.BUS_TRIGGER (leNat v) = s2.ticketed fun _ y => busTriggerAction y := by rfl
  have hnow : s2.issueTicket.1.now = max s.now t := (reaches_now_evt H.heard).1
  obtain ⟨g, hg, hsource, hinst⟩ := busTriggerAction_offers s2.issueTicket.1
  refine ⟨(H.ticketed_runs hacc hcommand).1, g, ?_, hsource, hinst.trans (congrArg Int.ofNat hnow)⟩
  rw [H.ticketed_answer hacc hcommand]
  exact (State.answer_offersKept ..).mem hg

/-! ### The bus clock (R181) -/

/-- A follower adopts the clock in a flyback, or at once while no column timer runs. -/
theorem doBusClockAdopt_follower {t : Time} {s : State} (hlistens : s.busListens = true) (hrole : s.cfgN Id.BUS_ROLE = 2)
    (hcrystal : s.bus.onClk = false) : (doBusClockAdopt t s).bus =
      if s.scan.timer = true ∧ s.scan.flyback = false then { s.bus with adoptPending := true }
      else { s.bus with onClk := true, adoptPending := false } := by
  unfold doBusClockAdopt
  simp only [State.at_busListens, hlistens, State.at_cfgN, hrole, State.at_bus, hcrystal, State.at_scan, beq_self_eq_true,
    Bool.not_false, Bool.and_self, Bool.and_eq_true, Bool.not_eq_true', if_true]
  split
  · rfl
  · rfl

/-- Back on its crystal, a unit is not ALIGNED. -/
theorem State.busCrystal_unaligned (s : State) : s.busCrystal.bus.onClk = false ∧ s.busCrystal.bus.state ≠ 2 := by
  refine ⟨rfl, ?_⟩
  simp only [State.busCrystal]
  split
  · decide
  · assumption

theorem doBusClockLost_follower {t : Time} {s : State} (hclock : s.bus.onClk = true) (hrole : s.cfgN Id.BUS_ROLE = 2) :
    doBusClockLost t s = (s.at t).busCrystal.raise 0x3411 1 s.scan.frame :=
  if_pos ⟨hclock, hrole⟩

/-! ### Silence (R183) -/

/-- The bus is silent once 1.5 periods have gone by since the last FRAME. -/
theorem doBusFrameSilence_eq {t f : Time} {rest : List Time} {s : State} (hframes : s.bus.frames = f :: rest) :
    doBusFrameSilence t s = if s.bus.alive = true ∧ 3 * s.busPeriod ≤ 2 * (max s.now t - f) then
      { s.at t with bus := { s.bus with alive := false } } else s.at t := by
  unfold doBusFrameSilence
  extract_lets s0
  split
  next f' rest' hcons =>
    obtain ⟨rfl, rfl⟩ := List.cons.inj (hframes.symm.trans hcons)
    rfl
  next hnil => cases hframes.symm.trans hnil

/-- Settles O48: the own window by `doBusWindow_opens`, BUS_TRIGGER by `Takes.busTrigger_runs`, then the clock and the silence. -/
theorem theBusIsUsedInTurn : Obligations.TheBusIsUsedInTurn := by
  unfold Obligations.TheBusIsUsedInTurn
  refine ⟨fun t s g rest w hwaits hfresh hown hdrives halive hnew => ?_, fun t h s s2 r x o fl H => ⟨_, rfl, H.busTrigger_runs⟩,
    fun t s hlistens hrole hcrystal => ⟨_, rfl, (doBusClockAdopt_within t s).quiet, doBusClockAdopt_follower hlistens hrole hcrystal⟩,
    fun t s hclock hrole => ?_, fun t f rest s hframes halive => ⟨fun hdue => ?_, fun hearly => ?_⟩⟩
  · have hrun := (doBusWindow_opens hfresh hown hdrives halive hnew).trans (State.busMessage_trigger hwaits)
    exact ⟨_, congrArg Host.Outcome.next hrun, rfl, rfl, _, rfl, rfl⟩
  · obtain ⟨honClk, hstate⟩ := (s.at t).busCrystal_unaligned
    have hbus := (s.at t).busCrystal.raise_bus 0x3411 1 s.scan.frame 0 0 0
    exact ⟨_, congrArg Host.Outcome.next (doBusClockLost_follower hclock hrole), (congrArg Bus.onClk hbus).trans honClk,
      hbus ▸ hstate, ((s.at t).busCrystal.raise_told ..).told (by decide)⟩
  · exact ⟨_, congrArg Host.Outcome.next ((doBusFrameSilence_eq hframes).trans (if_pos ⟨halive, hdue⟩)), rfl⟩
  · exact congrArg Host.Outcome.next ((doBusFrameSilence_eq hframes).trans (if_neg fun ⟨_, hdue⟩ => Nat.not_le.mpr hearly hdue))

end Sys2Proof.Machine
end

