-- ==== Sys2Proof/Proofs/ControlSamples.lean ====
section
/-! PROOFS. Control samples: one that is due takes the next INDEX and is settled or not, and no step that follows it in the module changes
that; one before its instant is not delivered. -/

namespace Sys2Proof.Machine

open Sys2Proof

/-! ### The mark of the samples -/

/-- What a delivered sample leaves to be read: the next INDEX, the samples still to settle, UNSETTLED, and OVERLOADS. -/
def State.sampleMark (s : State) : U32 × Nat × Bool × Nat :=
  (s.front.index, s.front.settle, s.front.unsettled, s.counter Id.OVERLOADS)

theorem State.sampleMark_eq_iff {s : State} {index : U32} {settle overloads : Nat} {unsettled : Bool} :
    s.sampleMark = (index, settle, unsettled, overloads) ↔ s.front.index = index ∧ s.front.settle = settle ∧
      s.front.unsettled = unsettled ∧ s.counter Id.OVERLOADS = overloads := by
  simp only [State.sampleMark, Prod.mk.injEq]

/-- What is quiet keeps the mark where it does not count an overload. -/
theorem Quiet.sampleMark {s u : State} (h : Quiet s u) (hcount : u.counter Id.OVERLOADS = s.counter Id.OVERLOADS) :
    u.sampleMark = s.sampleMark := by
  simp only [State.sampleMark, h.front, hcount]

theorem State.sampleMark_congr {s u : State} (hfront : u.front = s.front) (hevt : u.evt = s.evt) : u.sampleMark = s.sampleMark := by
  simp only [State.sampleMark, hfront, State.counter_congr hevt]

theorem State.sampleMark_ite {s a b : State} {c : Prop} [Decidable c] (ha : a.sampleMark = s.sampleMark)
    (hb : b.sampleMark = s.sampleMark) : (if c then a else b).sampleMark = s.sampleMark := by
  split <;> assumption

/-- The same step for each entry of a list. -/
theorem State.sampleMark_foldl {α : Type} {f : State → α → State} (h : ∀ y a, (f y a).sampleMark = y.sampleMark) (l : List α)
    (s : State) : (l.foldl f s).sampleMark = s.sampleMark := by
  induction l generalizing s with
  | nil => rfl
  | cons a l ih => exact (ih (f s a)).trans (h s a)

theorem State.count_sampleMark (s : State) {id : Nat} (n : Nat) (hid : Id.OVERLOADS ≠ id := by decide) :
    (s.count id n).sampleMark = s.sampleMark :=
  (State.count_quiet ..).sampleMark (State.count_counter_other _ _ _ _ hid)

theorem State.raise_sampleMark (s : State) (code sev : Nat) (p1 p2 p3 tk : U32) :
    (s.raise code sev p1 p2 p3 tk).sampleMark = s.sampleMark :=
  (State.raise_quiet ..).sampleMark (State.raise_counter _ _ _ _ _ _ _ _ (by decide))

/-- An overload is counted, and the rest of the mark kept. -/
theorem State.count_overload_sampleMark {s : State} {index : U32} {settle overloads : Nat} {unsettled : Bool} (overload : Bool)
    (hs : s.sampleMark = (index, settle, unsettled, overloads)) : (s.count Id.OVERLOADS (b2n overload)).sampleMark =
      (index, settle, unsettled, if overload then min 0xFFFFFFFF (overloads + 1) else overloads) := by
  obtain ⟨hindex, hsettle, hunsettled, hcount⟩ := State.sampleMark_eq_iff.mp hs
  rw [State.sampleMark_eq_iff, State.count_front, State.count_counter, hcount]
  refine ⟨hindex, hsettle, hunsettled, ?_⟩
  cases overload with
  | true => rfl
  | false => rfl

/-! ### Trips and sensor breaks -/

theorem State.tripSet_sampleMark (s : State) (b : Nat) : (s.tripSet b).sampleMark = s.sampleMark := by
  unfold State.tripSet
  extract_lets _ _ e _
  exact State.sampleMark_ite rfl ((State.raise_sampleMark ..).trans (State.count_sampleMark { s with emit := e } _))

theorem State.trip_sampleMark (s : State) (b : Nat) (level : Bool) : (s.trip b level).sampleMark = s.sampleMark :=
  State.sampleMark_ite (s.tripSet_sampleMark b) rfl

theorem State.senseBreak_sampleMark (s : State) (bits : Nat) : (s.senseBreak bits).sampleMark = s.sampleMark := by
  unfold State.senseBreak
  extract_lets f latch s1
  exact State.sampleMark_ite rfl (State.sampleMark_ite rfl ((State.raise_sampleMark ..).trans (s1.tripSet_sampleMark 4)))

theorem State.emitAdvance_sampleMark (s : State) : s.emitAdvance.sampleMark = s.sampleMark :=
  State.sampleMark_ite (State.sampleMark_ite rfl (State.sampleMark_ite rfl rfl)) rfl

/-! ### The lanes (R209, R220) -/

theorem State.setLane_sampleMark (s : State) (l : LaneId) (x : Lane) : (s.setLane l x).sampleMark = s.sampleMark := by
  cases l <;> rfl

theorem State.engineEvent_sampleMark (s : State) (e : EngineEvent) : (s.engineEvent e).sampleMark = s.sampleMark := by
  cases e with
  | modeChanged | refused | overrunRule | residual | homingFailed => exact State.raise_sampleMark ..
  | overrun | handover | saturated => exact State.count_sampleMark ..
  | oscillation => exact (State.raise_sampleMark ..).trans (State.count_sampleMark ..)

theorem State.bothEngines_sampleMark (s : State) (f : LaneId → Engine → Engine × List EngineEvent) :
    (s.bothEngines f).sampleMark = s.sampleMark := by
  unfold State.bothEngines
  extract_lets one reports
  have hone : ∀ y l, (one y l).sampleMark = y.sampleMark := fun y l => State.sampleMark_ite (State.setLane_sampleMark ..) rfl
  exact (State.sampleMark_foldl State.engineEvent_sampleMark reports _).trans ((hone _ .b).trans (hone s .a))

theorem State.laneSample_sampleMark (s : State) (x : Section) (r : Sample) (lateA lateB : Bool) :
    (s.laneSample x r lateA lateB).sampleMark = s.sampleMark := by
  unfold State.laneSample
  extract_lets _ _ late reqs step served s1 s2 recv
  have h1 : s1.sampleMark = s.sampleMark := s.bothEngines_sampleMark step
  have hdequeued : (s1.dequeueAll (reqs.map (·.2))).sampleMark = s1.sampleMark :=
    State.sampleMark_foldl (f := State.dequeue) (fun _ _ => rfl) _ s1
  have h2 : s2.sampleMark = s.sampleMark := State.sampleMark_ite (hdequeued.trans h1) h1
  have hrecv : ∀ y l, (recv y l).sampleMark = y.sampleMark := fun y l => State.sampleMark_ite (State.setLane_sampleMark ..) rfl
  exact (hrecv _ .b).trans ((hrecv s2 .a).trans h2)

theorem State.follow_sampleMark (s : State) : s.follow.sampleMark = s.sampleMark := by
  unfold State.follow
  extract_lets s1
  have h1 : s1.sampleMark = s.sampleMark := s.trip_sampleMark 1 _
  exact State.sampleMark_ite ((State.sampleMark_ite rfl rfl : s1.parkCoil.sampleMark = _).trans h1) (State.sampleMark_ite h1 h1)

/-! ### Capture (R256) -/

theorem State.startOffload_sampleMark (s : State) : s.startOffload.sampleMark = s.sampleMark := by
  unfold State.startOffload
  extract_lets _
  split
  · rfl
  · split
    · rfl
    · exact State.sampleMark_congr rfl rfl

theorem State.offerRecorder_sampleMark (s : State) (g : Segment) : (s.offerRecorder g).sampleMark = s.sampleMark :=
  State.sampleMark_ite (State.sampleMark_ite rfl (State.count_sampleMark ..)) rfl

theorem State.closeSegment_sampleMark (s : State) (short : Bool) : (s.closeSegment short).sampleMark = s.sampleMark := by
  unfold State.closeSegment
  split
  · rfl
  · extract_lets g _ s1 s2 s3
    have h1 : s1.sampleMark = s.sampleMark := State.sampleMark_congr rfl rfl
    have h2 : s2.sampleMark = s.sampleMark := (State.raise_sampleMark ..).trans ((s1.count_sampleMark (id := Id.CAP_SEGMENTS) 1).trans h1)
    have h3 : s3.sampleMark = s.sampleMark := (State.startOffload_sampleMark _).trans ((s2.offerRecorder_sampleMark g).trans h2)
    refine State.sampleMark_ite ((State.raise_sampleMark ..).trans (Eq.trans ?_ h3)) h3
    exact State.sampleMark_congr rfl rfl

theorem State.overwriteOldest_sampleMark (s : State) : s.overwriteOldest.sampleMark = s.sampleMark := by
  unfold State.overwriteOldest
  split
  · rfl
  · extract_lets s1 _ s2 s3
    have h2 : s2.sampleMark = s.sampleMark := State.sampleMark_ite (b := { s with cap := _ }) rfl rfl
    have h3 : s3.sampleMark = s.sampleMark := State.sampleMark_ite ((State.count_sampleMark ..).trans h2) h2
    exact (State.raise_sampleMark ..).trans ((State.count_sampleMark ..).trans h3)

theorem State.capArm_sampleMark (s : State) : s.capArm.sampleMark = s.sampleMark := by
  unfold State.capArm
  extract_lets _ s1
  exact State.sampleMark_ite rfl (State.sampleMark_ite rfl (State.sampleMark_ite s.overwriteOldest_sampleMark
    (State.sampleMark_ite rfl (s1.raise_sampleMark ..))))

theorem State.capService_sampleMark (s : State) : s.capService.sampleMark = s.sampleMark := by
  unfold State.capService
  split
  · exact State.sampleMark_ite s.capArm_sampleMark rfl
  · rfl

theorem State.storeRecord_sampleMark (s : State) (r : RingRec) : (s.storeRecord r).sampleMark = s.sampleMark := by
  unfold State.storeRecord
  split
  · rfl
  · split
    · rfl
    · extract_lets g1 _ s1
      exact State.sampleMark_ite (s1.closeSegment_sampleMark false) rfl

theorem State.captureSample_sampleMark (s : State) (r : Sample) (u : Int) : (s.captureSample r u).sampleMark = s.sampleMark := by
  unfold State.captureSample
  extract_lets s1
  have h1 : s1.sampleMark = s.sampleMark := s.capService_sampleMark
  split
  · exact h1
  · exact State.sampleMark_ite ((s1.storeRecord_sampleMark _).trans h1) h1

/-! ### The front end (R194, R201, R209) -/

/-- A sample takes the next INDEX; an overload makes it and the 23 after it UNSETTLED. -/
theorem State.formSample_sampleMark (s : State) (sec : Section) (i : Nat) (vals : List Int) (above : Bool) :
    (s.formSample sec i vals above).1.sampleMark =
      (s.front.index + 1, if above then 23 else s.front.settle - 1, above || s.front.settle != 0, s.counter Id.OVERLOADS) := by
  have hunsettled : decide ((if above then 24 else s.front.settle) ≠ 0) = (above || s.front.settle != 0) := by
    cases above with
    | true => rfl
    | false =>
      cases s.front.settle with
      | zero => rfl
      | succ n => rfl
  refine State.sampleMark_eq_iff.mpr ⟨rfl, ?_, hunsettled, rfl⟩
  cases above with
  | true => rfl
  | false => rfl

theorem State.keepAngle_sampleMark (s : State) (r : Sample) :
    ({ s with front := s.front.keepAngle r } : State).sampleMark = s.sampleMark := by
  unfold Front.keepAngle
  split
  · rfl
  · split <;> rfl

theorem State.advance_sampleMark (s : State) : ({ s with front := s.front.advance } : State).sampleMark = s.sampleMark := by
  unfold Front.advance
  split
  · rfl
  · split <;> rfl

/-- What follows from a sample in the front end counts its overload, and leaves its mark otherwise. -/
theorem State.afterSample_sampleMark {s : State} {index : U32} {settle overloads : Nat} {unsettled : Bool} (old : Front) (r : Sample)
    (hs : s.sampleMark = (index, settle, unsettled, overloads)) : (s.afterSample old r).sampleMark =
      (index, settle, unsettled, if r.overload then min 0xFFFFFFFF (overloads + 1) else overloads) := by
  unfold State.afterSample
  extract_lets s1 s2 s3 rises _ s' s4 since _ s5 s6 s7 good
  have h1 : s1.sampleMark = _ := (State.count_sampleMark ..).trans (State.count_overload_sampleMark r.overload hs)
  have h2 : s2.sampleMark = s1.sampleMark := State.sampleMark_ite (s1.trip_sampleMark ..) rfl
  have h3 : s3.sampleMark = s2.sampleMark := State.sampleMark_ite (s2.trip_sampleMark ..) rfl
  have h4 : s4.sampleMark = s3.sampleMark := State.sampleMark_ite (s'.raise_sampleMark ..) rfl
  have h6 : s6.sampleMark = s4.sampleMark := State.sampleMark_ite (s5.senseBreak_sampleMark 8) rfl
  have h7 : s7.sampleMark = s6.sampleMark := State.sampleMark_ite (s6.senseBreak_sampleMark 16) rfl
  refine Eq.trans ?_ (h7.trans (h6.trans (h4.trans (h3.trans (h2.trans h1)))))
  exact State.sampleMark_ite rfl rfl

/-! ### Delivery (R201, R202) -/

section
variable {t : Time} {above : Bool} {s : State} {sec : Section} {i : Nat} (hsample : s.dueSample = some (sec, i))
include hsample

/-- A sample that is due, where no range changes at it, is delivered. -/
theorem doControlSample_due (a b c d : W20) (lateA lateB : Bool) (hafe : s.isOn 12 = true) (hsdf : s.isOn 13 = true)
    (hdue : sec.offset i + (sec.tick + s.fac.filterLatency * 32 : Nat) ≤ (max s.now t : Nat)) (hrange : sec.change = none ∨ i ≠ 1) :
    (doControlSample t (.delivered a b c d) above lateA lateB s).sampleMark =
      (s.front.index + 1, if above then 23 else s.front.settle - 1, above || s.front.settle != 0,
        if above then min 0xFFFFFFFF (s.counter Id.OVERLOADS + 1) else s.counter Id.OVERLOADS) := by
  unfold doControlSample
  extract_lets s0
  have hsample0 : s0.dueSample = some (sec, i) := hsample
  split
  next hnone => cases hsample0.symm.trans hnone
  next sec' i' hsome =>
    obtain ⟨rfl, rfl⟩ := Prod.mk.inj (Option.some.inj (hsample0.symm.trans hsome))
    extract_lets due s1 p q r _ s4 s5 s6 s7
    have hdelivers : ¬ (!s0.isOn 12 || !s0.isOn 13 || decide ((s0.now : Rat) < due)) = true := by
      have hnow : decide ((s0.now : Rat) < due) = false := decide_eq_false (Rat.not_lt.mpr hdue)
      rw [State.at_isOn, State.at_isOn, hafe, hsdf, hnow]
      decide
    have h1 : s1 = s0 := by
      unfold s1
      split
      next code hcode =>
        have hnone : ¬ sec.change = none := fun hnone => Option.some_ne_none code (hcode.symm.trans hnone)
        have hlater : (i == 1) = false := beq_eq_false_iff_ne.mpr (hrange.resolve_left hnone)
        exact if_neg (by simp [hlater])
      next => rfl
    have hp : p = (s0, [a.toInt, b.toInt, c.toInt, d.toInt]) := congrArg (fun y : State => y.convert sec i (.delivered a b c d)) h1
    have hq : q.1.sampleMark = _ := State.formSample_sampleMark p.1 sec i p.2 above
    rw [hp] at hq
    have h4 : s4.sampleMark = _ := (State.keepAngle_sampleMark q.1 r).trans hq
    have h5 : s5.sampleMark = _ := State.afterSample_sampleMark p.1.front r h4
    have h6 : s6.sampleMark = s5.sampleMark := (State.follow_sampleMark _).trans (State.laneSample_sampleMark ..)
    have h7 : s7.sampleMark = s6.sampleMark := State.captureSample_sampleMark ..
    rw [if_neg hdelivers]
    exact (State.emitAdvance_sampleMark _).trans ((State.advance_sampleMark s7).trans (h7.trans (h6.trans h5)))

/-- Before its instant nothing is delivered. -/
theorem doControlSample_early (x : SampleIn) (lateA lateB : Bool)
    (hearly : (max s.now t : Nat) < sec.offset i + (sec.tick + s.fac.filterLatency * 32 : Nat)) :
    doControlSample t x above lateA lateB s = s.at t := by
  unfold doControlSample
  extract_lets s0
  have hsample0 : s0.dueSample = some (sec, i) := hsample
  rw [hsample0]
  exact if_pos (Bool.or_eq_true_iff.mpr (.inr (decide_eq_true hearly)))

end

/-- Settles O40: the mark that `doControlSample_due` leaves holds what the statement asks for. -/
theorem samplesAreDeliveredWhenDue : Obligations.SamplesAreDeliveredWhenDue := by
  unfold Obligations.SamplesAreDeliveredWhenDue
  intro t a b c d above lateA lateB s sec i hsample hafe hsdf
  refine ⟨fun hdue hrange => ?_, fun hearly => congrArg Host.Outcome.next (doControlSample_early hsample _ lateA lateB hearly)⟩
  obtain ⟨hindex, hsettle, hunsettled, hcount⟩ :=
    State.sampleMark_eq_iff.mp (doControlSample_due (above := above) hsample a b c d lateA lateB hafe hsdf hdue hrange)
  exact ⟨_, rfl, hindex, hsettle, hunsettled, fun habove => hcount.trans (if_pos habove)⟩

end Sys2Proof.Machine
end

