-- ==== Sys2Proof/Proofs/SensorBreaks.lean ====
section
/-! PROOFS. Sensor breaks: what latches a cause and asserts SENSOR_BREAK, and what FE_CLEAR ends. -/

namespace Sys2Proof.Machine

open Sys2Proof

/-! ### Detection (R197, R198) -/

/-- The causes sensed join those latched, and the sub-slots passed stand. -/
theorem State.senseBreak_front (s : State) (bits : Nat) : (s.senseBreak bits).front.passed = s.front.passed ∧
    (s.senseBreak bits).front.breakLatch = s.front.breakLatch ||| BitVec.ofNat 8 bits := by
  unfold State.senseBreak
  extract_lets f latch s1
  split
  next hsame => exact ⟨rfl, hsame.symm⟩
  next =>
    split
    · exact ⟨rfl, rfl⟩
    · have hfront : ((s1.tripSet 4).raise 0x4002 3 (u32 latch.toNat) s.scan.frame f.index).front =
          { f with breakLatch := latch, sinceBreak := some 0 } :=
        (State.raise_front ..).trans ((s1.tripSet_within 4).part .front (by decide))
      exact ⟨(congrArg Front.passed hfront :), (congrArg Front.breakLatch hfront :)⟩

/-- Once a source is set, it is active. -/
theorem State.tripSet_active {s : State} {b : Nat} (hb : b < 16) (hon : s.isOn 8 = true) : (s.tripSet b).emit.active.getLsbD b = true := by
  cases hidle : s.emit.active.getLsbD b with
  | true =>
    have hset : s.tripSet b = s := if_pos (.inl hidle)
    rw [hset, hidle]
  | false =>
    obtain ⟨-, -, hactive, -⟩ := State.tripMark_eq_iff.mp (State.tripSet_asserts hon hidle).1
    rw [hactive]
    exact withBit_sets _ hb

/-- The first cause asserts SENSOR_BREAK (Table 05.4 bit 4). -/
theorem State.senseBreak_asserts {s : State} {bits : Nat} (hnone : s.front.breakLatch = 0) (hbits : BitVec.ofNat 8 bits ≠ 0)
    (hon : s.isOn 8 = true) : (s.senseBreak bits).emit.active.getLsbD 4 = true := by
  unfold State.senseBreak
  extract_lets f latch s1
  have hfresh : latch ≠ f.breakLatch := by
    simpa [latch, f, hnone] using hbits
  rw [if_neg hfresh, if_neg (not_not_intro hnone), State.raise_emit]
  exact State.tripSet_active (by decide) hon

/-- The cause bits of the two pairs, from their voltages in mV (R197). -/
def pairBits (a b : Nat) : Nat := b2n (decide (500 < a)) + 2 * b2n (decide (500 < b))

theorem pairBits_closed {a b : Nat} (ha : a ≤ 500) (hb : b ≤ 500) : pairBits a b = 0 := by
  rw [pairBits, decide_eq_false (Nat.not_lt.mpr ha), decide_eq_false (Nat.not_lt.mpr hb)]
  rfl

theorem pairBits_openA {a b : Nat} (ha : 500 < a) (hb : b ≤ 500) : pairBits a b = 1 := by
  rw [pairBits, decide_eq_true ha, decide_eq_false (Nat.not_lt.mpr hb)]
  rfl

theorem pairBits_openB {a b : Nat} (ha : a ≤ 500) (hb : 500 < b) : pairBits a b = 2 := by
  rw [pairBits, decide_eq_false (Nat.not_lt.mpr ha), decide_eq_true hb]
  rfl

/-- The state after a sub-slot that passed or not, before its causes are sensed. -/
def State.subSlot (s : State) (pass : Bool) : State :=
  { s with front := { s.front with passed := if pass then min 16 (s.front.passed + 1) else 0 } }

section
variable {t : Time} {a b : Nat} {s : State} (hafe : s.isOn 12 = true)
include hafe

/-- With both pairs closed the sub-slot passes. -/
theorem doWireBreakCheck_passes (hbits : pairBits a b = 0) : doWireBreakCheck t a b s = (s.at t).subSlot true := by
  rw [pairBits] at hbits
  simp only [doWireBreakCheck, State.at_isOn, hafe, hbits]
  rfl

/-- With one open its cause is sensed. -/
theorem doWireBreakCheck_breaks {bits : Nat} (hbits : pairBits a b = bits) (hopen : bits ≠ 0) :
    doWireBreakCheck t a b s = ((s.at t).subSlot false).senseBreak bits := by
  rw [pairBits] at hbits
  simp only [doWireBreakCheck, State.at_isOn, hafe, hbits, hopen, if_false]
  rfl

/-- An LED driver out of compliance, under 1 mA or more: cause bit 2. -/
theorem doLedOpen_driven (hled : 1000 ≤ s.front.led) : doLedOpen t s = (s.at t).senseBreak 4 := if_pos ⟨hafe, hled⟩

end

/-! ### FE_CLEAR (R199) -/

theorem feClear_acc {o : Obj} (ho : lookup Id.FE_CLEAR = some o) : o.acc = .cmd := by
  have hacc : (lookup Id.FE_CLEAR).map Obj.acc = some .cmd := by decide +kernel
  simpa only [ho, Option.map_some, Option.some.injEq] using hacc

/-- Setting or clearing a bit changes no other. -/
theorem withBit_other {w i j : Nat} (m : BitVec w) (b : Bool) (hij : i ≠ j) : (withBit m i b).getLsbD j = m.getLsbD j := by
  have hpower : (BitVec.ofNat w (2 ^ i)).getLsbD j = false := by
    rw [BitVec.getLsbD_ofNat, Nat.testBit_two_pow_of_ne hij, Bool.and_false]
  cases b with
  | true => simp only [withBit, if_true, BitVec.getLsbD_or, hpower, Bool.or_false]
  | false =>
    by_cases hj : j < w
    · simp only [withBit, Bool.false_eq_true, if_false, BitVec.getLsbD_and, BitVec.getLsbD_not, hpower, hj, decide_true, Bool.not_false,
        Bool.and_self, Bool.and_true]
    · simp only [BitVec.getLsbD_of_ge _ _ (Nat.not_lt.mp hj)]

/-- A bit that is cleared is clear. -/
theorem withBit_clears {w : Nat} (m : BitVec w) (i : Nat) : (withBit m i false).getLsbD i = false := by
  by_cases hi : i < w
  · simp only [withBit, Bool.false_eq_true, if_false, BitVec.getLsbD_and, BitVec.getLsbD_not, BitVec.getLsbD_ofNat,
      Nat.testBit_two_pow_self, hi, decide_true, Bool.and_self, Bool.not_true, Bool.and_false]
  · exact BitVec.getLsbD_of_ge _ _ (Nat.not_lt.mp hi)

/-- Setting or clearing a source moves no other. -/
theorem State.trip_active_other (s : State) {b j : Nat} (level : Bool) (hbj : b ≠ j) :
    (s.trip b level).emit.active.getLsbD j = s.emit.active.getLsbD j := by
  cases level with
  | false => exact withBit_other _ _ hbj
  | true =>
    change (s.tripSet b).emit.active.getLsbD j = _
    unfold State.tripSet
    extract_lets _ _ e sev
    split
    · rfl
    · rw [State.raise_emit, State.count_emit]
      exact withBit_other _ _ hbj

/-- FE_CLEAR ends both latches of the front end and resets the stall switch; SENSOR_BREAK and OVERTRAVEL are over, and while the coil
is not tripped nothing latches at the governor. -/
theorem feClearAction_clears (s : State) : (feClearAction s).front.breakLatch = 0 ∧ (feClearAction s).front.parkLatch = false ∧
    (feClearAction s).front.stall = false ∧ (feClearAction s).emit.active.getLsbD 4 = false ∧
    (feClearAction s).emit.active.getLsbD 3 = false ∧ (s.coil.state ≠ 4 → (feClearAction s).emit.latch = s.emit.latch) := by
  unfold feClearAction
  extract_lets _ s1
  have hfront : (((s1.tripClear 4).trip 2 (s1.coil.state == 4)).tripClear 3).front = s1.front :=
    ((State.trip_within (s1.tripClear 4) 2 _).part .front (by decide) :)
  have hbreak : ((s1.tripClear 4).trip 2 (s1.coil.state == 4)).emit.active.getLsbD 4 = false :=
    (State.trip_active_other _ _ (by decide)).trans (withBit_clears ..)
  refine ⟨congrArg Front.breakLatch hfront, congrArg Front.parkLatch hfront, congrArg Front.stall hfront,
    (withBit_other _ _ (by decide)).trans hbreak, withBit_clears .., fun huntripped => ?_⟩
  have hlevel : (s1.coil.state == 4) = false := beq_eq_false_iff_ne.mpr huntripped
  rw [hlevel]
  rfl

section
variable {s : State} {t : Time} {h : Hdr} {v : Bytes} {s2 : State} {r : Rcvd} {x : Session} {o : Obj} {fl : Nat}

/-- Whether FE_CLEAR may succeed is not changed by the message that asks for it. -/
theorem Takes.feClearable (H : Takes s t Id.FE_CLEAR h v s2 r x o fl) : s2.feClearable = s.feClearable := by
  have hfront : s2.front = s.front := H.quiet.front
  simp only [State.feClearable, hfront]

/-- Once all is well FE_CLEAR answers with its ticket, and its action has run. -/
theorem Takes.feClear_runs (H : Takes s t Id.FE_CLEAR h v s2 r x o fl) (hwell : s.feClearable = true) :
    (doWriteObject t Id.FE_CLEAR h v s).ticketedBy s2 r ∧ Quiet (feClearAction s2.issueTicket.1) (doWriteObject t Id.FE_CLEAR h v s) :=
  H.ticketed_runs (feClear_acc H.object) (f := fun _ y => feClearAction y) (if_pos (H.feClearable.trans hwell))

/-- It is refused before. -/
theorem Takes.feClear_refused (H : Takes s t Id.FE_CLEAR h v s2 r x o fl) (hunwell : s.feClearable = false) :
    Quiet s (doWriteObject t Id.FE_CLEAR h v s) ∧ (doWriteObject t Id.FE_CLEAR h v s).answered r.h 0x11 0xC0
      (abortBytes .stateConflict (Id.FE_CLEAR / 256) (Id.FE_CLEAR % 256) 0) :=
  H.command_refused (feClear_acc H.object) (if_neg (Bool.eq_false_iff.mp (H.feClearable.trans hunwell)))

end

/-- Settles O42: a cause that is sensed by `State.senseBreak_front` and `State.senseBreak_asserts`, FE_CLEAR by its action. -/
theorem breaksAreLatchedAndCleared : Obligations.BreaksAreLatchedAndCleared := by
  unfold Obligations.BreaksAreLatchedAndCleared
  refine ⟨fun t a b s hafe => ⟨fun ha hb => ?_, fun ha hb => ?_, fun ha hb => ?_, fun hled => ?_⟩,
    fun t h s s2 r x o fl H => ⟨fun hwell => ?_, fun hunwell => ⟨_, rfl, H.feClear_refused hunwell⟩⟩⟩
  · exact ⟨_, congrArg Host.Outcome.next (doWireBreakCheck_passes hafe (pairBits_closed ha hb)), rfl, rfl⟩
  · obtain ⟨hpassed, hlatch⟩ := ((s.at t).subSlot false).senseBreak_front 1
    exact ⟨_, congrArg Host.Outcome.next (doWireBreakCheck_breaks hafe (pairBits_openA ha hb) (by decide)), hpassed, hlatch,
      fun hnone hshot => State.senseBreak_asserts (s := (s.at t).subSlot false) hnone (by decide) hshot⟩
  · obtain ⟨hpassed, hlatch⟩ := ((s.at t).subSlot false).senseBreak_front 2
    exact ⟨_, congrArg Host.Outcome.next (doWireBreakCheck_breaks hafe (pairBits_openB ha hb) (by decide)), hpassed, hlatch⟩
  · exact ⟨_, congrArg Host.Outcome.next (doLedOpen_driven hafe hled), ((s.at t).senseBreak_front 4).2⟩
  · obtain ⟨hticket, hquiet⟩ := H.feClear_runs hwell
    obtain ⟨hbreak, hpark, hstall, hsensor, hovertravel, hlatch⟩ := feClearAction_clears s2.issueTicket.1
    rw [H.quiet.coil, H.quiet.emit] at hlatch
    rw [← hquiet.front] at hbreak hpark hstall
    rw [← hquiet.emit] at hsensor hovertravel hlatch
    exact ⟨_, rfl, hticket, hbreak, hpark, hstall, hsensor, hovertravel, hlatch⟩

end Sys2Proof.Machine
end

