-- ==== Sys2Proof/Proofs/Housekeeping.lean ====
section
/-! PROOFS. The housekeeping ADC: results kept under their input, and the start and the end of a self-calibration. -/

namespace Sys2Proof.Machine

open Sys2Proof

/-! ### Results (R210, R211) -/

/-- What a reading of the thermistor brings about leaves the results alone. -/
theorem State.ntcJudge_results (s : State) (reading : Ntc) : (s.ntcJudge reading).hka.results = s.hka.results := by
  unfold State.ntcJudge
  split
  · extract_lets _ s1
    split
    · exact (congrArg Hka.results (s1.raise_hka ..) :)
    · rfl
  · extract_lets _ s1
    split
    · exact (congrArg Hka.results (s1.raise_hka ..) :)
    · rfl

/-- So does what any result feeds. -/
theorem State.hkFeed_results (s : State) (input result : Nat) : (s.hkFeed input result).hka.results = s.hka.results := by
  unfold State.hkFeed
  split
  · exact State.ntcJudge_results ..
  · refine congrArg Hka.results (Within.part (l := [.emit, .therm, .flash]) ?_ .hka (by decide))
    exact ((State.holdupResult_within ..).ite ((State.bankResult_within ..).ite
      ((State.anchorResult_within ..).ite (Within.refl s)))).up (by rfl)

/-- A result that is delivered stands, corrected, under its input. -/
theorem doHkResult_results {t : Time} (raw : W20) {s : State} (hon : s.isOn 14 = true) (hidle : s.hka.calTicket = none) :
    (doHkResult t raw s).hka.results = setAt s.hka.results s.hka.input (some (s.hka.correct raw)) := by
  unfold doHkResult
  extract_lets s0 input v _ s1
  have hdelivers : (s0.isOn 14 && s0.hka.calTicket.isNone) = true := by
    simp [s0, hon, hidle]
  rw [if_pos hdelivers, (State.flashKick_quiet _).hka]
  exact s1.hkFeed_results input v

/-! ### HK_CALIBRATE (R212) -/

theorem hkCalibrate_acc {o : Obj} (ho : lookup Id.HK_CALIBRATE = some o) : o.acc = .cmd := by
  have hacc : (lookup Id.HK_CALIBRATE).map Obj.acc = some .cmd := by decide +kernel
  simpa only [ho, Option.map_some, Option.some.injEq] using hacc

/-- While none runs, a self-calibration starts under its ticket. -/
theorem hkCalibrateAction_starts (k : U32) {s : State} (hidle : s.hka.calTicket = none) :
    hkCalibrateAction k s = { s with hka := { s.hka with calState := 1, calTicket := some k } } :=
  if_pos (Option.isNone_iff_eq_none.mpr hidle)

theorem Takes.hkCalibrate_runs {s : State} {t : Time} {h : Hdr} {v : Bytes} {s2 : State} {r : Rcvd} {x : Session} {o : Obj} {fl : Nat}
    (H : Takes s t Id.HK_CALIBRATE h v s2 r x o fl) (hroom : (s.queued Id.HK_CALIBRATE).length < 8) (hidle : s.hka.calTicket = none) :
    (doWriteObject t Id.HK_CALIBRATE h v s).ticketedBy s2 r ∧
      (doWriteObject t Id.HK_CALIBRATE h v s).hka = { s.hka with calState := 1, calTicket := some s2.nextTicket } := by
  have hqueued : s2.queued Id.HK_CALIBRATE = s.queued Id.HK_CALIBRATE := State.queued_congr H.tickets _
  have hcommand : s2.command r.h 0x11 x Id.HK_CALIBRATE (leNat v) = s2.ticketed fun k y => hkCalibrateAction k y :=
    State.queueing_room _ (hqueued.symm ▸ hroom)
  obtain ⟨hticket, hquiet⟩ := H.ticketed_runs (hkCalibrate_acc H.object) hcommand
  refine ⟨hticket, ?_⟩
  rw [hquiet.hka, hkCalibrateAction_starts _ ((congrArg Hka.calTicket H.quiet.hka).trans hidle), H.quiet.hka]

/-! ### The end of a self-calibration (R212) -/

/-- No ticket waits: nothing starts. -/
theorem State.hkCalNext_idle {s : State} (hnone : s.queued Id.HK_CALIBRATE = []) : s.hkCalNext = s := by
  unfold State.hkCalNext
  rw [hnone]

/-- The offset that a self-calibration finds: the mean of the 8 results of input 14. -/
def hkOffset (sum14 : Nat) : Int := roundHalfUp ((sum14 : Rat) / 8)

/-- What the mean of the 8 results of input 15 lies above it. -/
def hkSpan (sum14 sum15 : Nat) : Rat := (sum15 : Rat) / 8 - hkOffset sum14

/-- The gain that brings it to the nominal result. -/
def hkGain (sum14 sum15 : Nat) : Int := roundHalfUp ((1048576 * 838861 : Nat) / hkSpan sum14 sum15)

/-- Offset and gain lie within their bounds. -/
def hkBounded (offset gain : Int) : Bool := decide (offset.natAbs ≤ 4096) && decide ((gain - 1048576).natAbs * 100 ≤ 2 * 1048576)

/-- The self-calibration of a ticket has found an offset and a gain: they are kept where both lie within their bounds, and told anyway. -/
def State.hkCalFound (s : State) (k : U32) (offset gain : Int) : State :=
  if hkBounded offset gain then
    ({ s with hka := { s.hka with offset, gain := gain.toNat, calState := 2, calTicket := none } } : State).raise
      0x4008 0 (u32i offset) (u32i gain) 0 k
  else
    ({ s with hka := { s.hka with calState := 3, calTicket := none } } : State).raise 0x4009 3 (u32i offset) (u32i gain) 0 k

/-- HK_CAL_DONE where the two means differ. -/
theorem doHkCalDone_found {t : Time} {a b : Nat} {k : U32} {s : State} (hticket : s.hka.calTicket = some k) (hon : s.isOn 14 = true)
    (hspan : hkSpan a b ≠ 0) : doHkCalDone t a b s = ((s.at t).hkCalFound k (hkOffset a) (hkGain a b)).hkCalNext := by
  unfold doHkCalDone
  extract_lets s0 offset span drawn gain base ok _ hka s1
  split
  next k' hticket' =>
    obtain rfl : k = k' := Option.some.inj (hticket.symm.trans hticket')
    extract_lets s2
    have hgain : gain = hkGain a b := if_neg hspan
    have hbase : base = s0 := if_neg hspan
    have hok : ok = hkBounded (hkOffset a) (hkGain a b) := by
      have hnonzero : (span != 0) = true := bne_iff_ne.mpr hspan
      unfold ok
      rw [hnonzero, hgain, Bool.true_and]
      rfl
    have hfound : s2 = s0.hkCalFound k (hkOffset a) (hkGain a b) := by
      unfold s2 s1 hka State.hkCalFound
      rw [hok, hgain, hbase]
      split
      · rfl
      · rfl
    rw [State.at_isOn, if_pos hon, hfound]
  next hnone => cases hticket.symm.trans hnone

/-- An event in a state that differs from s in the housekeeping ADC alone. -/
theorem State.hka_raise_told (s : State) (hka : Hka) (code sev : Nat) (p1 p2 p3 tk : U32) :
    (({ s with hka } : State).raise code sev p1 p2 p3 tk).hka = hka ∧
      Told s (({ s with hka } : State).raise code sev p1 p2 p3 tk) code sev p1 p2 p3 tk := by
  obtain ⟨later, e, earlier, hring, hlater, hevent⟩ := ({ s with hka } : State).raise_told code sev p1 p2 p3 tk
  exact ⟨State.raise_hka .., later, e, earlier, hring, by omega, hevent⟩

/-- What an end within the bounds keeps and tells, where no further ticket waits. -/
theorem State.hkCalFound_bounded {s : State} (k : U32) {offset gain : Int} (hbounded : hkBounded offset gain = true) :
    (s.hkCalFound k offset gain).hka = { s.hka with offset, gain := gain.toNat, calState := 2, calTicket := none } ∧
      Told s (s.hkCalFound k offset gain) 0x4008 0 (u32i offset) (u32i gain) 0 k := by
  unfold State.hkCalFound
  rw [if_pos hbounded]
  exact s.hka_raise_told ..

/-- An end outside them keeps the old factors. -/
theorem State.hkCalFound_unbounded {s : State} (k : U32) {offset gain : Int} (hunbounded : ¬ hkBounded offset gain = true) :
    (s.hkCalFound k offset gain).hka = { s.hka with calState := 3, calTicket := none } ∧
      Told s (s.hkCalFound k offset gain) 0x4009 3 (u32i offset) (u32i gain) 0 k := by
  unfold State.hkCalFound
  rw [if_neg hunbounded]
  exact s.hka_raise_told ..

/-- The end of a self-calibration moves no ticket in a queue. -/
theorem State.hkCalFound_queued (s : State) (k : U32) (offset gain : Int) (obj : Nat) :
    (s.hkCalFound k offset gain).queued obj = s.queued obj := by
  unfold State.hkCalFound
  split
  · exact State.queued_congr (State.raise_tickets ..) obj
  · exact State.queued_congr (State.raise_tickets ..) obj

/-- Where no further ticket waits, HK_CAL_DONE ends with what was found. -/
theorem exec_hkCalDone_last {t : Time} {a b : Nat} {k : U32} {s : State} (hticket : s.hka.calTicket = some k) (hon : s.isOn 14 = true)
    (hlast : s.queued Id.HK_CALIBRATE = []) (hspan : hkSpan a b ≠ 0) :
    exec (.hkCalDone t a b) s = .next ((s.at t).hkCalFound k (hkOffset a) (hkGain a b)) :=
  congrArg Host.Outcome.next ((doHkCalDone_found hticket hon hspan).trans (State.hkCalNext_idle ((State.hkCalFound_queued ..).trans hlast)))

/-- Settles O43: a result by `doHkResult_results`, HK_CALIBRATE by its action, and its end by what `State.hkCalFound` keeps and tells. -/
theorem housekeepingConvertsAndCalibrates : Obligations.HousekeepingConvertsAndCalibrates := by
  unfold Obligations.HousekeepingConvertsAndCalibrates
  refine ⟨fun t raw s hon hidle => ⟨_, rfl, doHkResult_results raw hon hidle⟩,
    fun t h s s2 r x o fl H hroom hidle => ⟨_, rfl, H.hkCalibrate_runs hroom hidle⟩, fun t a b k s hticket hon hlast => ?_⟩
  intro offset span gain hspan
  have hrun := exec_hkCalDone_last (t := t) hticket hon hlast hspan
  refine ⟨fun hoffset hgain => ⟨_, hrun, (s.at t).hkCalFound_bounded k ?_⟩,
    fun houtside => ⟨_, hrun, (s.at t).hkCalFound_unbounded k ?_⟩⟩
  · exact Bool.and_eq_true_iff.mpr ⟨decide_eq_true hoffset, decide_eq_true hgain⟩
  · intro hbounded
    obtain ⟨hoffset, hgain⟩ := Bool.and_eq_true_iff.mp hbounded
    cases houtside with
    | inl h => exact Nat.not_le.mpr h (of_decide_eq_true hoffset)
    | inr h => exact Nat.not_le.mpr h (of_decide_eq_true hgain)

end Sys2Proof.Machine
end

