-- ==== Sys2Proof/Proofs/ModeRequests.lean ====
section
/-! PROOFS. Mode requests and their tickets, HOMING that takes too long, and the coil's trip, its end and the park ramp. -/

namespace Sys2Proof.Machine

open Sys2Proof

/-! ### The lanes' engines (R218, R235) -/

/-- A lane is read from the two lanes alone. -/
theorem State.lane_congr {s u : State} (ha : u.laneA = s.laneA) (hb : u.laneB = s.laneB) (l : LaneId) : u.lane l = s.lane l := by
  cases l with
  | a => exact ha
  | b => exact hb

theorem Quiet.lane {s u : State} (h : Quiet s u) (l : LaneId) : u.lane l = s.lane l := State.lane_congr h.laneA h.laneB l

/-- The engine that answers for the device is that of the same lane after what is quiet. -/
theorem Quiet.engine {s u : State} (h : Quiet s u) : u.engine = s.engine := by
  have hserving : u.servingLane = s.servingLane := by simp only [State.servingLane, h.arb, h.laneA]
  rw [State.engine, hserving, h.lane]
  rfl

theorem State.modEngine_lane_same (s : State) (l : LaneId) (f : Engine → Engine) :
    (s.modEngine l f).lane l = { s.lane l with engine := f (s.lane l).engine } := by
  cases l with
  | a => rfl
  | b => rfl

theorem State.modEngine_lane_other (s : State) (l : LaneId) (f : Engine → Engine) :
    (s.modEngine l f).lane (other l) = s.lane (other l) := by
  cases l with
  | a => rfl
  | b => rfl

/-- The reports of an engine change no lane. -/
theorem State.engineEvents_lane (s : State) (reports : List EngineEvent) (l : LaneId) : (s.engineEvents reports).lane l = s.lane l :=
  have hframe := Within.foldl (fun y e => (State.engineEvent_quiet y e).within) reports s
  State.lane_congr (hframe.part .laneA (by decide)) (hframe.part .laneB (by decide)) l

/-- A step of both engines moves that of a running lane by the step for its lane. -/
theorem State.bothEngines_engine {s : State} (f : LaneId → Engine → Engine × List EngineEvent) {l : LaneId}
    (hruns : (s.lane l).runs = true) : ((s.bothEngines f).lane l).engine = (f l (s.lane l).engine).1 := by
  unfold State.bothEngines
  extract_lets one reports
  have hother : ∀ (y : State) (k : LaneId), (one y k).lane (other k) = y.lane (other k) := fun y k => by
    unfold one
    split
    · exact State.modEngine_lane_other ..
    · rfl
  have hsame : ∀ y : State, y.lane l = s.lane l → ((one y l).lane l).engine = (f l (s.lane l).engine).1 := fun y hy => by
    unfold one
    rw [hy, if_pos hruns, State.modEngine_lane_same, hy]
  rw [State.engineEvents_lane]
  cases l with
  | a => exact (congrArg Lane.engine (hother (one s .a) .b)).trans (hsame s rfl)
  | b => exact hsame (one s .a) (hother s .a)

/-- What follows the modes at governor and coil driver changes no lane. -/
theorem State.follow_lane (s : State) (l : LaneId) : s.follow.lane l = s.lane l :=
  State.lane_congr (s.follow_within.part .laneA (by decide)) (s.follow_within.part .laneB (by decide)) l

/-! ### HOMING that takes too long (Table 10.2 step 9) -/

/-- An engine that leaves its mode for PARK has its integrator cleared. -/
theorem Engine.park_parks {e : Engine} (cause : Nat) (ticket : U32) (hmode : e.mode ≠ .park) :
    (e.park cause ticket).1.mode = .park ∧ (e.park cause ticket).1.i = 0 := by
  rw [Engine.park, if_neg hmode]
  exact ⟨rfl, rfl⟩

/-- HOMING_FAILED parks the engine of a running lane that has been in HOMING for HOMING_TIMEOUT, and no other. -/
theorem doHomingFailed_engine {t : Time} {l : LaneId} {s : State} (hruns : (s.lane l).runs = true) :
    ((doHomingFailed t s).lane l).engine =
      if (s.lane l).engine.mode = .homing ∧ (!(s.lane l).engine.arrived) = true ∧
          (s.lane l).engine.homingSince + msec (s.cfgN Id.HOMING_TIMEOUT) ≤ max s.now t
        then ((s.lane l).engine.park 9).1 else (s.lane l).engine := by
  unfold doHomingFailed
  extract_lets s0 limit
  have hlane : s0.lane l = s.lane l := (s.at_quiet t).lane l
  rw [State.follow_lane, State.bothEngines_engine _ (hlane ▸ hruns), hlane]
  exact apply_ite Prod.fst ..

/-! ### CONTROL_MODE_REQUEST (R229) -/

/-- The three requests write their mode to the object. -/
theorem exec_modeRequest {m : Nat} {c : Instr} {t : Time} {h : Hdr} (s : State)
    (hc : (m = 1 ∧ c = .modeRequestTrack t h) ∨ (m = 2 ∧ c = .modeRequestHold t h) ∨ (m = 3 ∧ c = .modeRequestPark t h)) :
    exec c s = .next (doWriteObject t Id.CONTROL_MODE_REQUEST h [BitVec.ofNat 8 m] s) ∧ leNat [BitVec.ofNat 8 m] = m := by
  obtain ⟨rfl, rfl⟩ | ⟨rfl, rfl⟩ | ⟨rfl, rfl⟩ := hc
  · exact ⟨rfl, rfl⟩
  · exact ⟨rfl, rfl⟩
  · exact ⟨rfl, rfl⟩

theorem modeRequest_acc {o : Obj} (ho : lookup Id.CONTROL_MODE_REQUEST = some o) : o.acc = .cmd := by
  have hacc : (lookup Id.CONTROL_MODE_REQUEST).map Obj.acc = some .cmd := by decide +kernel
  simpa only [ho, Option.map_some, Option.some.injEq] using hacc

/-- Where samples are served the request stays in its queue. -/
theorem modeRequestAction_waits (mode : Nat) (k : U32) {s : State} (hcalm : s.pwr.becalmed = 0) : modeRequestAction mode k s = s := by
  have hserved : ¬ s.isBecalmed = true := by simp only [State.isBecalmed, hcalm, bne_self_eq_false, Bool.false_eq_true, not_false_eq_true]
  exact if_neg hserved

/-- In BECALMED it leaves it, and is told as refused. -/
theorem modeRequestAction_refused (mode : Nat) (k : U32) {s : State} (hbecalmed : s.pwr.becalmed ≠ 0) :
    modeRequestAction mode k s = (s.dequeue k).raise 0x4308 1 (u32 mode) (u32 s.engine.mode.code) 0 k :=
  if_pos (bne_iff_ne.mpr hbecalmed)

section
variable {s : State} {t : Time} {h : Hdr} {v : Bytes} {s2 : State} {r : Rcvd} {x : Session} {o : Obj} {fl : Nat}

theorem Takes.modeRequest_command (H : Takes s t Id.CONTROL_MODE_REQUEST h v s2 r x o fl)
    (hroom : (s.queued Id.CONTROL_MODE_REQUEST).length < 8) : s2.command r.h 0x11 x Id.CONTROL_MODE_REQUEST (leNat v) =
      s2.ticketed fun k y => modeRequestAction (leNat v) k (y.enqueued Id.CONTROL_MODE_REQUEST (leNat v) k) := by
  have hqueued : s2.queued Id.CONTROL_MODE_REQUEST = s.queued Id.CONTROL_MODE_REQUEST := State.queued_congr H.tickets _
  exact State.queueing_room _ (hqueued.symm ▸ hroom)

/-- A request with room in its queue is answered with its ticket. -/
theorem Takes.modeRequest_runs (H : Takes s t Id.CONTROL_MODE_REQUEST h v s2 r x o fl)
    (hroom : (s.queued Id.CONTROL_MODE_REQUEST).length < 8) : Quiet s (doWriteObject t Id.CONTROL_MODE_REQUEST h v s) ∧
      (doWriteObject t Id.CONTROL_MODE_REQUEST h v s).ticketedBy s2 r := by
  obtain ⟨hticket, hquiet⟩ := H.ticketed_runs (modeRequest_acc H.object) (H.modeRequest_command hroom)
  exact ⟨H.quiet.trans ((State.enqueued_quiet ..).trans ((modeRequestAction_quiet ..).trans hquiet)), hticket⟩

/-- It waits behind the others for the next sample. -/
theorem Takes.modeRequest_waits (H : Takes s t Id.CONTROL_MODE_REQUEST h v s2 r x o fl)
    (hroom : (s.queued Id.CONTROL_MODE_REQUEST).length < 8) (hcalm : s.pwr.becalmed = 0) :
    (doWriteObject t Id.CONTROL_MODE_REQUEST h v s).queued Id.CONTROL_MODE_REQUEST =
      s.queued Id.CONTROL_MODE_REQUEST ++ [⟨Id.CONTROL_MODE_REQUEST, s2.nextTicket, leNat v⟩] := by
  have hcalm' : (s2.issueTicket.1.enqueued Id.CONTROL_MODE_REQUEST (leNat v) s2.nextTicket).pwr.becalmed = 0 :=
    (congrArg Pwr.becalmed H.quiet.pwr).trans hcalm
  rw [State.queued_congr (H.ticketed_tickets (modeRequest_acc H.object) (H.modeRequest_command hroom)),
    modeRequestAction_waits _ _ hcalm', State.enqueued_queued, State.queued_congr H.tickets]

/-- In BECALMED the refusal names the mode that the engine holds. -/
theorem Takes.modeRequest_told (H : Takes s t Id.CONTROL_MODE_REQUEST h v s2 r x o fl)
    (hroom : (s.queued Id.CONTROL_MODE_REQUEST).length < 8) (hbecalmed : s.pwr.becalmed ≠ 0) :
    Told s (doWriteObject t Id.CONTROL_MODE_REQUEST h v s) 0x4308 1 (u32 (leNat v)) (u32 s.engine.mode.code) 0 s2.nextTicket := by
  have hquiet : Quiet s (s2.issueTicket.1.enqueued Id.CONTROL_MODE_REQUEST (leNat v) s2.nextTicket) :=
    H.quiet.trans (State.enqueued_quiet ..)
  have haction := modeRequestAction_refused (leNat v) s2.nextTicket (hquiet.pwr.symm ▸ hbecalmed)
  rw [hquiet.engine] at haction
  exact H.ticketed_told (modeRequest_acc H.object) (H.modeRequest_command hroom) haction rfl

end

/-! ### The ring behind a trip (R77) -/

/-- Up to the ring's 256 entries, those of u are those of s behind new ones. -/
def RingGrows (s u : State) : Prop := ∃ new : List Event, u.evt.ring.take 256 = (new ++ s.evt.ring).take 256

theorem RingGrows.trans {s u v : State} (h : RingGrows s u) (k : RingGrows u v) : RingGrows s v := by
  obtain ⟨new, hnew⟩ := h
  obtain ⟨newer, hnewer⟩ := k
  exact ⟨newer ++ new, by rw [hnewer, ← take_append_take, hnew, take_append_take, List.append_assoc]⟩

theorem State.count_ringGrows (s : State) (id n : Nat) : RingGrows s (s.count id n) := s.count_ring id n

theorem State.raise_ringGrows (s : State) (code sev : Nat) (p1 p2 p3 tk : U32) : RingGrows s (s.raise code sev p1 p2 p3 tk) := by
  obtain ⟨later, e, earlier, hring, -⟩ := s.raise_told code sev p1 p2 p3 tk
  exact ⟨later ++ e :: earlier, by rw [hring, List.take_take, Nat.min_self]⟩

theorem State.tripSet_ringGrows (s : State) (b : Nat) : RingGrows s (s.tripSet b) := by
  unfold State.tripSet
  extract_lets _ _ e sev
  split
  · exact ⟨[], rfl⟩
  · exact (State.count_ringGrows { s with emit := e } Id.TRIP_COUNT 1).trans (State.raise_ringGrows ..)

/-- An event is told since every state that its ring has grown from. -/
theorem RingGrows.raise_told {s u : State} (h : RingGrows s u) (code sev : Nat) (p1 p2 p3 tk : U32) :
    Told s (u.raise code sev p1 p2 p3 tk) code sev p1 p2 p3 tk := by
  obtain ⟨new, hnew⟩ := h
  obtain ⟨later, e, earlier, hring, hlen, hfields⟩ := u.raise_told code sev p1 p2 p3 tk
  refine ⟨later, e, earlier ++ new, ?_, by omega, hfields⟩
  rw [hring, ← take_append_take, hnew, take_append_take]
  simp only [List.append_assoc, List.cons_append]

/-! ### The coil (R45, R230, R231) -/

/-- The state of an overcurrent: the bridge at high impedance, its driver tripped. -/
def State.coilTripped (s : State) : State := { s with coil := { state := 4, command := 0, highZ := true } }

/-- An overcurrent trips a driver that is on and not tripped yet, counts, asserts STALL and is told. -/
theorem doCoilTrip_trips {t : Time} (i : W20) {s : State} (hon : s.isOn 11 = true) (huntripped : s.coil.state ≠ 4) :
    doCoilTrip t i s =
      (((s.at t).coilTripped.count Id.COIL_TRIPS).tripSet 2).raise 0x4306 3 (u32i i.toInt) := by
  have htrips : ¬ ((!(s.at t).isOn 11) = true ∨ (s.at t).coil.state = 4) := by
    rw [State.at_isOn, hon]
    exact fun h => h.elim (nomatch ·) huntripped
  exact if_neg htrips

theorem coilTripClear_acc {o : Obj} (ho : lookup Id.COIL_TRIP_CLEAR = some o) : o.acc = .cmd := by
  have hacc : (lookup Id.COIL_TRIP_CLEAR).map Obj.acc = some .cmd := by decide +kernel
  simpa only [ho, Option.map_some, Option.some.injEq] using hacc

/-- The end of a trip leaves the bridge as it is; STALL is over where the stall switch does not hold it. -/
theorem coilTripClearAction_clears (k : U32) {s : State} (htripped : s.coil.state = 4) :
    (coilTripClearAction k s).coil = { s.coil with state := 0 } ∧
      (s.front.stall = false → (coilTripClearAction k s).emit.active.getLsbD 2 = false) := by
  unfold coilTripClearAction
  rw [if_pos htripped]
  refine ⟨?_, fun hstall => ?_⟩
  · rw [State.raise_coil, State.dequeue_coil, State.trip_coil]
  · rw [State.raise_emit, State.dequeue_emit, hstall]
    exact withBit_clears ..

section
variable {s : State} {t : Time} {h : Hdr} {v : Bytes} {s2 : State} {r : Rcvd} {x : Session} {o : Obj} {fl : Nat}

/-- Whether COIL_TRIP_CLEAR may succeed is not changed by the message that asks for it. -/
theorem Takes.coilClearable (H : Takes s t Id.COIL_TRIP_CLEAR h v s2 r x o fl) : s2.coilClearable = s.coilClearable := by
  have hquiet : Quiet s s2 := (s.at_quiet t).trans (reaches_quiet H.heard)
  simp only [State.coilClearable, hquiet.engine, hquiet.front]

/-- In PARK with a small current it answers with its ticket, and the trip is over. -/
theorem Takes.coilTripClear_runs (H : Takes s t Id.COIL_TRIP_CLEAR h v s2 r x o fl) (htripped : s.coil.state = 4)
    (hclearable : s.coilClearable = true) : (doWriteObject t Id.COIL_TRIP_CLEAR h v s).ticketedBy s2 r ∧
      (doWriteObject t Id.COIL_TRIP_CLEAR h v s).coil = { s.coil with state := 0 } ∧
      (s.front.stall = false → (doWriteObject t Id.COIL_TRIP_CLEAR h v s).emit.active.getLsbD 2 = false) := by
  obtain ⟨hticket, hquiet⟩ :=
    H.ticketed_runs (coilTripClear_acc H.object) (f := coilTripClearAction) (if_pos (H.coilClearable.trans hclearable))
  obtain ⟨hcoil, hstall⟩ := coilTripClearAction_clears s2.nextTicket (H.quiet.coil.symm ▸ htripped)
  rw [← hquiet.coil, H.quiet.coil] at hcoil
  rw [← hquiet.emit, H.quiet.front] at hstall
  exact ⟨hticket, hcoil, hstall⟩

/-- It is refused otherwise. -/
theorem Takes.coilTripClear_refused (H : Takes s t Id.COIL_TRIP_CLEAR h v s2 r x o fl) (hbarred : s.coilClearable = false) :
    Quiet s (doWriteObject t Id.COIL_TRIP_CLEAR h v s) ∧ (doWriteObject t Id.COIL_TRIP_CLEAR h v s).answered r.h 0x11 0xC0
      (abortBytes .stateConflict (Id.COIL_TRIP_CLEAR / 256) (Id.COIL_TRIP_CLEAR % 256) 0) :=
  H.command_refused (coilTripClear_acc H.object) (if_neg (Bool.eq_false_iff.mp (H.coilClearable.trans hbarred)))

end

/-- The park ramp ends with both low-side switches on: the coil driver brakes. -/
theorem doParkRampDone_brakes {t : Time} {s : State} (hramp : s.coil.state = 2) :
    doParkRampDone t s = { s.at t with coil := { s.coil with state := 3 } } := if_pos hramp

/-- Settles O41: requests by their action, HOMING by the step of its lane's engine, and the coil by its trip, its end and its ramp. -/
theorem modesAreRequestedAndTheCoilTrips : Obligations.ModesAreRequestedAndTheCoilTrips := by
  unfold Obligations.ModesAreRequestedAndTheCoilTrips
  refine ⟨fun m c t h s s2 r x o fl hc H hroom => ?_,
    fun t l s hruns hmode harrived => ⟨fun hlate => ?_, fun hearly => ⟨_, rfl, ?_⟩⟩,
    fun t i s hon huntripped => ?_, fun t h s s2 r x o fl H htripped => ⟨fun hpark hcurrent => ?_, fun hmode => ?_⟩,
    fun t s hramp => ?_⟩
  · obtain ⟨hexec, hvalue⟩ := exec_modeRequest s hc
    obtain ⟨hquiet, hticket⟩ := H.modeRequest_runs hroom
    refine ⟨fun hcalm => ⟨_, hexec, hquiet, hticket, ?_⟩, fun hbecalmed => ⟨_, hexec, hquiet, hticket, ?_⟩⟩
    · rw [H.modeRequest_waits hroom hcalm, hvalue]
    · simpa only [hvalue] using H.modeRequest_told hroom hbecalmed
  · obtain ⟨hparked, hcleared⟩ := Engine.park_parks 9 0 (e := (s.lane l).engine) (by rw [hmode]; decide)
    have hparks := (doHomingFailed_engine (t := t) hruns).trans (if_pos ⟨hmode, by rw [harrived]; rfl, hlate⟩)
    rw [← hparks] at hparked hcleared
    exact ⟨_, rfl, hparked, hcleared⟩
  · exact (doHomingFailed_engine hruns).trans (if_neg fun ⟨_, _, hlate⟩ => Nat.not_le.mpr hearly hlate)
  · refine ⟨_, congrArg Host.Outcome.next (doCoilTrip_trips i hon huntripped), ?_, ?_, fun hshot => ?_⟩
    · rw [State.raise_coil, State.tripSet_coil, State.count_coil]
      rfl
    · exact ((State.count_ringGrows (s.at t).coilTripped ..).trans (State.tripSet_ringGrows ..)).raise_told ..
    · have hshot' : ((s.at t).coilTripped.count Id.COIL_TRIPS).isOn 8 = true := by
        rw [State.isOn, State.dom, State.count_pwr]
        exact hshot
      rw [State.raise_emit]
      exact State.tripSet_active (by decide) hshot'
  · have hclearable : s.coilClearable = true := Bool.and_eq_true_iff.mpr ⟨beq_iff_eq.mpr hpark, decide_eq_true hcurrent⟩
    exact ⟨_, rfl, H.coilTripClear_runs htripped hclearable⟩
  · have hbarred : s.coilClearable = false := Bool.and_eq_false_iff.mpr (.inl (beq_eq_false_iff_ne.mpr hmode))
    exact ⟨_, rfl, H.coilTripClear_refused hbarred⟩
  · have hrun := doParkRampDone_brakes (t := t) hramp
    have hcoil : (doParkRampDone t s).coil = { s.coil with state := 3 } := by rw [hrun]
    exact ⟨_, rfl, hcoil, ((doParkRampDone_within t s).quiet :)⟩

end Sys2Proof.Machine
end

