-- ==== Sys2Proof/Proofs/Security.lean ====
section
/-! PROOFS. One step: the queue, the factory values and the clock. Then the security state, the seal intent and the role keys (R348, R353,
R354): flash work and start-ups move them, no other command does. -/

namespace Sys2Proof.Machine

open Sys2Proof

/-- Settles O3: an idle step changes nothing, and a command keeps the queue's rest, the factory values and the clock's order. -/
theorem stepTakesOnlyTheFrontCommand : Obligations.StepTakesOnlyTheFrontCommand := by
  unfold Obligations.StepTakesOnlyTheFrontCommand
  intro s u hstep
  cases hpending : s.pending with
  | nil =>
    obtain rfl : s = u := by simpa [step_of_empty hpending] using hstep
    exact ⟨by rw [hpending]; rfl, rfl, Nat.le_refl _⟩
  | cons c rest =>
    rw [step_of_front hpending] at hstep
    obtain ⟨v, hv, hkept⟩ := everyCommandAnswersANextState c { s with pending := rest }
    obtain rfl : v = u := by simpa [hstep] using hv.symm
    exact hkept

/-! ### Commands that leave the security state alone -/

/-- What leaves SEC out of its parts keeps it. -/
theorem Within.secret {l : List Part} {s u : State} (h : Within l s u) (hl : .sec ∉ l) : u.secret = s.secret := by
  have hsec : u.sec = s.sec := h.part .sec hl
  simp only [State.secret, hsec]

/-- So does what keeps `State.held` from the state in which the clock has moved. -/
theorem secret_of_held {t : Time} {s u : State} (h : u.held = (s.at t).held) : u.secret = s.secret := held_secret (u := s.at t) h

/-- A command of few parts names SEC only where it is the end of BACKOFF. -/
theorem sec_notMem_partsOf (c : Instr) (hc : (partsOf c).length ≤ 5) (hbackoff : ∀ t, c ≠ .backoffEnd t) : .sec ∉ partsOf c := by
  revert hc
  unfold partsOf
  split
  case h_6 => exact absurd rfl (hbackoff _)
  all_goals decide

/-- A command of few parts: its frame leaves SEC out, and the end of BACKOFF keeps `State.held`. -/
theorem exec_local_secret (c : Instr) (s : State) (hc : (partsOf c).length ≤ 5) : ∃ u, exec c s = .next u ∧ u.secret = s.secret := by
  by_cases hbackoff : ∃ t, c = .backoffEnd t
  · obtain ⟨t, rfl⟩ := hbackoff
    exact ⟨_, rfl, secret_of_held (held_doBackoffEnd ..)⟩
  · obtain ⟨u, hu, hframe⟩ := exec_local_within c s hc
    exact ⟨u, hu, hframe.secret (sec_notMem_partsOf c hc fun t h => hbackoff ⟨t, h⟩)⟩

/-- The commands that may move the security state: the end of a group of flash work, and those that start the module up. -/
def movesSecret : Instr → Bool
  | .flashGroupDone _ _ | .wakeDone _ _ | .aoWatchdogExpiry _ _ | .vinStartRise _ _ | .versionConfirmTimeout _ _ => true
  | _ => false

/-- An event of the surroundings of more than five parts, other than these. -/
theorem exec_wide_secret (c : Instr) (s : State) (hc : hostMessage c = none) (hwide : ¬ (partsOf c).length ≤ 5)
    (hstays : movesSecret c = false) : ∃ u, exec c s = .next u ∧ u.secret = s.secret := by
  cases c with
  | compareVerdict => exact ⟨_, rfl, secret_doCompareVerdict ..⟩
  | laneReport => exact ⟨_, rfl, secret_doLaneReport ..⟩
  | leaseExpiry => exact ⟨_, rfl, secret_doLeaseExpiry ..⟩
  | yield => exact ⟨_, rfl, secret_doYield ..⟩
  | fatalLaneFault => exact ⟨_, rfl, secret_doFatalLaneFault ..⟩
  | laneWatchdogExpiry => exact ⟨_, rfl, secret_doLaneWatchdogExpiry ..⟩
  | selftestResult => exact ⟨_, rfl, secret_doSelftestResult ..⟩
  | domainPowerGoodFail => exact ⟨_, rfl, secret_doDomainPowerGoodFail ..⟩
  | crossingNoResponse => exact ⟨_, rfl, secret_doCrossingNoResponse ..⟩
  | lockEqualizationDone => exact ⟨_, rfl, secret_doLockEqualizationDone ..⟩
  | fwImageCheckDone => exact ⟨_, rfl, secret_doFwImageCheckDone ..⟩
  | lockIdleFlip => exact ⟨_, rfl, secret_of_held (held_doLockIdleFlip ..)⟩
  | frameBoundary => exact ⟨_, rfl, secret_of_held (held_doFrameBoundary ..)⟩
  | columnTick => exact ⟨_, rfl, secret_of_held (held_doColumnTick ..)⟩
  | leaseRenew => exact ⟨_, rfl, secret_of_held (held_doLeaseRenew ..)⟩
  | leaseConfirmTimeout => exact ⟨_, rfl, secret_of_held (held_doLeaseConfirmTimeout ..)⟩
  | controlSample => exact ⟨_, rfl, secret_of_held (held_doControlSample ..)⟩
  | entryRecheck => exact ⟨_, rfl, secret_of_held (held_doEntryRecheck ..)⟩
  | entryTimeout => exact ⟨_, rfl, secret_of_held (held_doEntryTimeout ..)⟩
  | entryStepDone => exact ⟨_, rfl, secret_of_held (held_doEntryStepDone ..)⟩
  | wakePin => exact ⟨_, rfl, secret_of_held (held_doWakePin ..)⟩
  | wakePinLow => exact ⟨_, rfl, secret_of_held (held_doWakePinLow ..)⟩
  | canWakeFrame => exact ⟨_, rfl, secret_of_held (held_doCanWakeFrame ..)⟩
  | dozeSleepAfter => exact ⟨_, rfl, secret_of_held (held_doDozeSleepAfter ..)⟩
  | xtalFallback => exact ⟨_, rfl, secret_of_held (held_doXtalFallback ..)⟩
  | holdupExhausted => exact ⟨_, rfl, secret_of_held (held_doHoldupExhausted ..)⟩
  | vinShutdownFall => exact ⟨_, rfl, secret_of_held (held_doVinShutdownFall ..)⟩
  | thermalUpdate => exact ⟨_, rfl, secret_of_held (held_doThermalUpdate ..)⟩
  | thermalForcedDoze => exact ⟨_, rfl, secret_of_held (held_doThermalForcedDoze ..)⟩
  | thermalRestart => exact ⟨_, rfl, secret_of_held (held_doThermalRestart ..)⟩
  | calRunDone => exact ⟨_, rfl, secret_of_held (held_doCalRunDone ..)⟩
  | calStoreRetry => exact ⟨_, rfl, secret_of_held (held_doCalStoreRetry ..)⟩
  | _ => simp [partsOf, hostMessage, movesSecret] at hc hwide hstays

/-- Every command but those keeps the security state: a host's message through `doRequest`, an event by the number of its parts. -/
theorem exec_secret (c : Instr) (s : State) (hstays : movesSecret c = false) : ∃ u, exec c s = .next u ∧ u.secret = s.secret := by
  cases hc : hostMessage c with
  | some m => exact ⟨_, hostMessage_exec c s hc, secret_doRequest ..⟩
  | none =>
    by_cases hlocal : (partsOf c).length ≤ 5
    · exact exec_local_secret c s hlocal
    · exact exec_wide_secret c s hc hlocal hstays

/-- Settles O6: the five commands that the statement leaves out are those that `movesSecret` names. -/
theorem securityMovesOnlyByFlashOrStartUp : Obligations.SecurityMovesOnlyByFlashOrStartUp := by
  unfold Obligations.SecurityMovesOnlyByFlashOrStartUp
  intro c s u hu hgroup hwake hwatchdog hstart hconfirm
  have hstays : movesSecret c = false := by
    unfold movesSecret
    split
    · exact absurd rfl (hgroup _ _)
    · exact absurd rfl (hwake _ _)
    · exact absurd rfl (hwatchdog _ _)
    · exact absurd rfl (hstart _ _)
    · exact absurd rfl (hconfirm _ _)
    · rfl
  obtain ⟨v, hv, hsecret⟩ := exec_secret c s hstays
  obtain rfl : v = u := by simpa [hu] using hv.symm
  exact hsecret

end Sys2Proof.Machine
end

