-- ==== Sys2Proof/Proofs/FlashGroups.lean ====
section
/-! PROOFS. Groups of flash work: queueing and starting them keeps what they work on, and how a group starts, fails and ends (R327,
R331 to R333). -/

namespace Sys2Proof.Machine

open Sys2Proof

/-- What Quiet keeps of the array: every field but the image check, the group at work and the queue. -/
theorem Quiet.flash_field {α : Type} {s u : State} (h : Quiet s u) (f : Flash → α)
    (hf : ∀ z : Flash, f { z with checking := none, running := none, queue := [] } = f z) : f u.flash = f s.flash := by
  rw [← hf u.flash, ← hf s.flash]
  exact congrArg f h.flash

/-! ### The work that groups hold -/

/-- Both places of a group hold the same work. -/
theorem State.groups_congr {s u : State} (h : u.flash = s.flash) : u.groups = s.groups := by simp only [State.groups, h]

/-- A group that starts, or waits on, keeps its work. -/
theorem State.flashKick_works (s : State) : s.flashKick.groups.map FlashGroup.work = s.groups.map FlashGroup.work := by
  unfold State.flashKick
  split
  case h_1 g rest hrunning hqueue =>
    simp only [State.groups, hrunning, hqueue]
    split <;> simp [hrunning]
  case h_2 => rfl

/-- Groups that are queued come behind the others. -/
theorem State.flashQueue_works (s : State) (l : List FlashGroup) :
    (s.flashQueue l).groups.map FlashGroup.work = s.groups.map FlashGroup.work ++ l.map FlashGroup.work := by
  unfold State.flashQueue
  rw [State.flashKick_works]
  simp only [State.groups, List.map_append, List.append_assoc]

theorem State.flashQueue_length (s : State) (l : List FlashGroup) : (s.flashQueue l).groups.length = s.groups.length + l.length := by
  simpa using congrArg List.length (s.flashQueue_works l)

/-- A queued group's work stands among the groups. -/
theorem State.mem_flashQueue (s : State) {l : List FlashGroup} {g : FlashGroup} (hg : g ∈ l) :
    g.work ∈ (s.flashQueue l).groups.map FlashGroup.work := by
  rw [State.flashQueue_works]
  exact List.mem_append_right _ (List.mem_map_of_mem hg)

/-- The commit group of an item. -/
theorem mem_itemGroups (work : FlashWork) (host : Bool) (pages : Nat) :
    { kind := .commit, work, host, waits := none } ∈ itemGroups work host pages :=
  List.mem_append_right _ (List.mem_singleton.mpr rfl)

/-- An item's work stands among the groups. -/
theorem State.mem_flashItem (s : State) (work : FlashWork) (host : Bool) (pages : Nat) :
    work ∈ (s.flashItem work host pages).groups.map FlashGroup.work :=
  s.mem_flashQueue (mem_itemGroups work host pages)

/-! ### Starting and waiting (R332, R333) -/

/-- A waiting group whose checks pass starts. -/
theorem State.flashKick_starts {s : State} {g : FlashGroup} {rest : List FlashGroup} (hrunning : s.flash.running = none)
    (hqueue : s.flash.queue = g :: rest) (hready : s.flashReady = true) (hcheck : s.flashCheck g.kind = none) :
    s.flashKick = { s with flash := { s.flash with running := some { g with waits := none }, queue := rest } } := by
  unfold State.flashKick
  rw [hrunning, hqueue]
  exact if_pos (by rw [hready, hcheck]; rfl)

/-- A version write that fails reports it. -/
theorem State.workFailed_version (s : State) (n l : U32) (i : U64) (v : Store) (copy : Nat) :
    (s.workFailed (.version n l i v copy)).flash.persist = 3 := rfl

/-- A host's group that has waited for 1 s fails its operation. -/
theorem doFlashWaitTimeout_fails {t w : Time} {s : State} {g : FlashGroup} {rest : List FlashGroup} (hrunning : s.flash.running = none)
    (hqueue : s.flash.queue = g :: rest) (hwaits : g.waits = some w) (hhost : g.host = true)
    (hdue : w + Sys2Proof.sec 1 ≤ max s.now t) : doFlashWaitTimeout t s = ((s.at t).workFailed g.work).flashKick := by
  unfold doFlashWaitTimeout
  extract_lets s1
  have hrunning1 : s1.flash.running = none := hrunning
  have hqueue1 : s1.flash.queue = g :: rest := hqueue
  rw [hrunning1, hqueue1]
  simp only [hwaits]
  exact if_pos ⟨hhost, hdue⟩

/-! ### The end of a group (R327, R331) -/

/-- While more than 33 spare blocks are left, a retired block takes one of them, and nothing but an event follows. -/
theorem State.retireBlock_spare {s : State} (block cause : Nat) (hspare : 33 < s.flash.spare) :
    (s.retireBlock block cause).1.flash = { s.flash with retired := s.flash.retired + 1, spare := s.flash.spare - 1 } ∧
      (s.retireBlock block cause).2 = true := by
  unfold State.retireBlock
  extract_lets _ s1 n _ s2
  have hflash : s1.flash = { s.flash with retired := s.flash.retired + 1 } := State.raise_flash ..
  have hs1 : s1.flash.spare = s.flash.spare := by rw [hflash]
  have hpositive : 0 < s1.flash.spare := by omega
  have hnot : ¬ (n = 32 ∧ (!s2.flash.lowRaised) = true) := by
    rintro ⟨hn, -⟩
    simp only [n, hs1] at hn
    omega
  rw [if_pos hpositive, if_neg hnot]
  refine ⟨?_, rfl⟩
  show ({ s1.flash with spare := s1.flash.spare - 1 } : Flash) = _
  rw [hflash]

/-- A group whose block failed is written again. -/
theorem State.groupDone_bad {s : State} {g : FlashGroup} (block : Nat) (hrunning : s.flash.running = some g) (hspare : 33 < s.flash.spare) :
    ∃ y : State, s.groupDone (.bad block) = y.flashKick ∧ y.flash.retired = s.flash.retired + 1 ∧ y.flash.spare = s.flash.spare - 1 ∧
      g.work ∈ y.groups.map FlashGroup.work := by
  unfold State.groupDone
  rw [hrunning]
  dsimp -zeta only
  extract_lets _ s1 p s2
  obtain ⟨hflash, hroom⟩ : s2.flash = { s1.flash with retired := s1.flash.retired + 1, spare := s1.flash.spare - 1 } ∧ p.2 = true :=
    State.retireBlock_spare (s := s1) block _ hspare
  rw [if_pos hroom]
  have hretired : s2.flash.retired = s.flash.retired + 1 := congrArg Flash.retired hflash
  have hleft : s2.flash.spare = s.flash.spare - 1 := congrArg Flash.spare hflash
  refine ⟨_, rfl, hretired, hleft, List.mem_map_of_mem ?_⟩
  exact List.mem_append_right _ List.mem_cons_self

/-- The last group of an item gives it its effect. -/
theorem State.groupDone_last {s : State} {g : FlashGroup} (hrunning : s.flash.running = some g)
    (hlast : (s.flash.queue.any fun y => y.work == g.work) = false) :
    s.groupDone .good = (({ s with flash := { s.flash with running := none } } : State).itemDone g.work).flashKick := by
  unfold State.groupDone
  rw [hrunning]
  dsimp -zeta only
  extract_lets _ s1 more
  exact congrArg State.flashKick (if_pos (.inr (congrArg not hlast)))

/-- The end of a group touches the array through `State.groupDone` alone. -/
theorem doFlashGroupDone_flash (t : Time) (e : GroupEnd) (s : State) : (doFlashGroupDone t e s).flash = ((s.at t).groupDone e).flash := by
  unfold doFlashGroupDone
  extract_lets s1 s2
  split
  · rw [State.setDom_flash, State.setDom_flash]
  · rfl

/-- Settles O57: a start, a wait that ends, a bad block and the last group of an erase. -/
theorem flashGroupsRunAndFail : Obligations.FlashGroupsRunAndFail := by
  unfold Obligations.FlashGroupsRunAndFail
  refine ⟨fun t g rest s hrunning hqueue => ⟨fun hready hcheck => ⟨_, rfl, ?_⟩, fun w n l i v hwaits hhost hwork hdue => ?_⟩,
    fun t g b s hrunning hspare => ⟨_, rfl, ?_⟩, fun t g slot s hrunning hwork hupdate hlast => ⟨_, rfl, ?_⟩⟩
  · exact congrArg State.flash (State.flashKick_starts (s := s.at t) hrunning hqueue hready hcheck)
  · refine ⟨_, congrArg Host.Outcome.next (doFlashWaitTimeout_fails hrunning hqueue hwaits hhost hdue), ?_, ?_⟩
    · rw [hwork, (State.flashKick_quiet _).flash_field Flash.persist fun _ => rfl, State.workFailed_version]
    · exact (State.flashKick_quiet _).cfg.trans ((State.workFailed_within ..).part .cfg (by decide))
  · obtain ⟨y, hy, hretired, hleft, hmem⟩ := State.groupDone_bad (s := s.at t) b hrunning hspare
    rw [State.groups_congr (doFlashGroupDone_flash ..), doFlashGroupDone_flash, hy, State.flashKick_works]
    have hkick := y.flashKick_quiet
    exact ⟨(hkick.flash_field Flash.retired fun _ => rfl).trans hretired, (hkick.flash_field Flash.spare fun _ => rfl).trans hleft, hmem⟩
  · rw [doFlashGroupDone_flash, State.groupDone_last (s := s.at t) hrunning hlast, hwork,
      (State.flashKick_quiet _).flash_field Flash.update fun _ => rfl]
    exact congrArg (fun y : State => y.flash.update) (if_pos hupdate)

end Sys2Proof.Machine
end

