-- ==== Sys2Proof/Proofs/AnsweredWrites.lean ====
section
/-! PROOFS. What an answer keeps of the flash work and of the session that asked. -/

namespace Sys2Proof.Machine

open Sys2Proof

/-! ### Objects -/

/-- The access code of a CMD object that the dictionary holds. -/
theorem cmd_of_lookup {id : Nat} {o : Obj} (ho : lookup id = some o) (hcmd : (lookup id).map Obj.acc = some .cmd) : o.acc = .cmd := by
  simpa only [ho, Option.map_some, Option.some.injEq] using hcmd

/-- An object without configuration, staging, command or counter behind it. -/
def Obj.isPlain (o : Obj) : Bool := match o.acc, o.kind with
  | .rw, .live => true
  | .wo, .live => true
  | _, _ => false

theorem plain_of_lookup {id : Nat} {o : Obj} (ho : lookup id = some o) (hplain : (lookup id).map Obj.isPlain = some true) :
    o.isPlain = true := by
  simpa only [ho, Option.map_some, Option.some.injEq] using hplain

/-- A write to such an object selects, takes a key or ends an image. -/
theorem State.apply_plain {s : State} {h : Hdr} {svc : Nat} {x : Session} {o : Obj} {v : Bytes} {fl : Nat}
    (hserved : s.recoveryBars o = false) (hplain : o.isPlain = true) : s.apply h svc x o v fl =
      if o.id = Id.CAP_READ_SELECT then s.selectSegment x v
      else if o.id = Id.REC_SELECT then s.selectEntry x v
      else if o.id = Id.KEY_WRITE then s.keyWrite x v
      else s.imageFinal h v := by
  unfold State.apply
  rw [if_neg (Bool.eq_false_iff.mp hserved)]
  unfold Obj.isPlain at hplain
  split at hplain
  · next hacc hkind => rw [hacc, hkind]
  · next hacc hkind => rw [hacc, hkind]
  · cases hplain

/-! ### Requests -/

/-- The state in which a service runs is that of the message, the session's counters apart. -/
theorem reaches_state {s : State} {svc : Nat} {h : Hdr} {p : Bytes} {s2 : State} {r : Rcvd} (hr : s.reaches svc h p = some (s2, r)) :
    s2 = s ∨ s2 = s.acceptRequest r := by
  unfold State.reaches at hr
  split at hr
  · cases hr
  split at hr
  · cases hr
    exact .inl rfl
  split at hr
  · cases hr
  dsimp only at hr
  split at hr
  · cases hr
    exact .inr rfl
  · cases hr

/-- A request leaves the array as it is. -/
theorem Reaches.flash {s : State} {t : Time} {svc : Nat} {h : Hdr} {p : Bytes} {s2 : State} {r : Rcvd} (H : Reaches s t svc h p s2 r) :
    s2.flash = s.flash := by
  obtain rfl | rfl := reaches_state H.heard
  · rfl
  · exact State.acceptRequest_flash ..

/-! ### Flash work that an answer keeps -/

/-- Work that names a session. -/
def FlashWork.asks : FlashWork → Bool
  | .key _ _ _ _ => true
  | _ => false

/-- As many groups as before, and all of the work that names no session. -/
structure WorksKept (s u : State) : Prop where
  length : u.groups.length = s.groups.length
  mem {w : FlashWork} : w.asks = false → w ∈ s.groups.map FlashGroup.work → w ∈ u.groups.map FlashGroup.work
  checking : s.flash.checking = none → u.flash.checking = none

theorem WorksKept.of_flash {s u : State} (h : u.flash = s.flash) : WorksKept s u where
  length := by rw [State.groups_congr h]
  mem _ hw := by rwa [State.groups_congr h]
  checking hnone := by rwa [h]

theorem WorksKept.refl (s : State) : WorksKept s s := .of_flash rfl

theorem WorksKept.trans {s u v : State} (h : WorksKept s u) (k : WorksKept u v) : WorksKept s v where
  length := k.length.trans h.length
  mem hasks hw := k.mem hasks (h.mem hasks hw)
  checking hnone := k.checking (h.checking hnone)

/-- Only a key write notices that its session closes. -/
theorem FlashGroup.orphan_work {g : FlashGroup} (tr : Transport) (num : Byte) (hasks : g.work.asks = false) : g.orphan tr num = g := by
  unfold FlashGroup.orphan
  split
  · next hkey => rw [hkey] at hasks; cases hasks
  · rfl

/-- The groups of a state whose flash forgets a session. -/
theorem groups_unask {s u : State} {tr : Transport} {num : Byte} (h : u.flash = s.flash.unask tr num) :
    u.groups = s.groups.map fun g => g.orphan tr num := by
  simp only [State.groups, h, Flash.unask, List.map_append]
  cases s.flash.running <;> rfl

theorem WorksKept.of_unask {s u : State} {tr : Transport} {num : Byte} (h : u.flash = s.flash.unask tr num) : WorksKept s u where
  length := by rw [groups_unask h, List.length_map]
  mem {w} hasks hw := by
    obtain ⟨g, hg, rfl⟩ := List.mem_map.mp hw
    rw [groups_unask h]
    exact List.mem_map.mpr ⟨g.orphan tr num, List.mem_map_of_mem hg, by rw [FlashGroup.orphan_work tr num hasks]⟩
  checking hnone := by rw [h, Flash.unask, hnone]; rfl

/-- A session that closes. -/
theorem State.closeSession_flash {s : State} {tr : Transport} {num : Byte} {x : Session} (hx : s.session? tr num = some x) (reason : Nat) :
    (s.closeSession tr num reason).flash = s.flash.unask tr num := by
  unfold State.closeSession
  rw [hx]
  simp only [State.raise_flash, State.endSubs_flash, State.abandonLock_flash]

theorem State.closeSession_worksKept (s : State) (tr : Transport) (num : Byte) (reason : Nat) :
    WorksKept s (s.closeSession tr num reason) := by
  cases hx : s.session? tr num with
  | none =>
    have hsame : s.closeSession tr num reason = s := by rw [State.closeSession, hx]
    exact .of_flash (by rw [hsame])
  | some x => exact .of_unask (State.closeSession_flash hx reason)

theorem State.freshLimit_worksKept (s : State) (tr : Transport) (num : Byte) : WorksKept s (s.freshLimit tr num) := by
  unfold State.freshLimit
  split
  · split
    · exact State.closeSession_worksKept ..
    · exact .refl s
  · exact .refl s

theorem State.answer_worksKept (s : State) (h : Hdr) (svc flags : Nat) (p : Bytes) : WorksKept s (s.answer h svc flags p) := by
  unfold State.answer
  extract_lets q s1 ident bytes s2 s3
  have h2 : s2.flash = s.flash := (State.sendBaspo_flash ..).trans (State.nextFresh_flash ..)
  have h3 : s3.flash = s2.flash := by
    unfold s3
    split <;> rfl
  refine (WorksKept.of_flash (h3.trans h2)).trans ?_
  split
  · exact .refl s3
  · exact State.freshLimit_worksKept ..

section
variable {s : State} {t : Time} {id : Nat} {h : Hdr} {v : Bytes} {s2 : State} {r : Rcvd} {x : Session} {o : Obj} {fl : Nat}

/-- What a ticketed command's action leaves of flash work stands once it is answered. -/
theorem Takes.ticketed_works {f : U32 → State → State} (H : Takes s t id h v s2 r x o fl) (hacc : o.acc = .cmd)
    (hf : s2.command r.h 0x11 x id (leNat v) = s2.ticketed f) :
    WorksKept (f s2.nextTicket s2.issueTicket.1) (doWriteObject t id h v s) := by
  rw [H.ticketed_answer hacc hf]
  exact State.answer_worksKept ..

end

/-! ### The session that asked -/

/-- A change of the session that asked stands once it is answered. -/
theorem State.modSession_answered {y : State} {h : Hdr} {x : Session} {f : Session → Session} (h0 : h.session ≠ 0)
    (hx : y.session? h.transport h.session = some x) (hkeeps : ∀ z, (f z).transport = z.transport ∧ (f z).num = z.num)
    (hlasts : (f x).lasts) (svc flags : Nat) (p : Bytes) :
    ∃ b, ((y.modSession x.transport x.num f).answer h svc flags p).session? h.transport h.session =
      some { f x with txFresh := (f x).txFresh + 1, lastResponse := b } := by
  obtain ⟨htr, hnum⟩ := State.session_spec hx
  rw [htr, hnum]
  exact State.answer_session h0 (State.modSession_same hx f hkeeps) hlasts svc flags p

end Sys2Proof.Machine
end

