-- ==== Sys2Proof/Proofs/StorageCare.lean ====
section
/-! PROOFS. The scrub, wear levelling and the recorder (R328 to R330, R339, R340), reverts and the confirmation of versions (R336, R337). -/

namespace Sys2Proof.Machine

open Sys2Proof

/-! ### Blocks (R327 to R330) -/

/-- RECORDER gives up a block, and counts no retired one. -/
theorem State.recShrink_retired (s : State) : s.recShrink.flash.retired = s.flash.retired := by
  unfold State.recShrink
  split <;> rfl

/-- A retired block is counted, wherever its space comes from. -/
theorem State.retireBlock_retired (s : State) (block cause : Nat) :
    (s.retireBlock block cause).1.flash.retired = s.flash.retired + 1 := by
  unfold State.retireBlock
  extract_lets _ s1 n _ s2 _
  have hs1 : s1.flash.retired = s.flash.retired + 1 := by rw [State.raise_flash]
  have hs2 : s2.flash.retired = s.flash.retired + 1 := hs1
  split
  · split
    · rw [State.raise_flash]
      exact hs2
    · exact hs2
  · split
    · exact (State.recShrink_retired s1).trans hs1
    · exact hs1

/-- A sector beyond correction retires its block. -/
theorem State.uncorrectable_retired (s : State) (r : ScrubRead) : (s.uncorrectable r).flash.retired = s.flash.retired + 1 := by
  unfold State.uncorrectable
  extract_lets s1 s2 _ _
  have hs2 : s2.flash.retired = s.flash.retired + 1 := by rw [State.retireBlock_retired, State.raise_flash]
  split
  · exact hs2
  · split
    · exact hs2
    · exact hs2

/-- The state in which a scrub has read its page. -/
def State.scrubbed (s : State) (r : ScrubRead) : State :=
  ({ s with flash := { s.flash with eraseMax := max s.flash.eraseMax r.erases } } : State).count Id.CORRECTED_BITS r.corrected

theorem State.scrubbed_flash (s : State) (r : ScrubRead) :
    (s.scrubbed r).flash = { s.flash with eraseMax := max s.flash.eraseMax r.erases } := State.count_flash ..

theorem State.scrubbed_counter (s : State) (r : ScrubRead) (hcorrected : 0 < r.corrected) :
    (s.scrubbed r).counter Id.CORRECTED_BITS = min 0xFFFFFFFF (s.counter Id.CORRECTED_BITS + r.corrected) := by
  unfold State.scrubbed
  rw [State.count_counter, if_neg (by omega)]
  rfl

/-- The scrub of a module that is awake with FLSH on. -/
theorem doScrub_eq {t : Time} {r : ScrubRead} {s : State} (hawake : s.awake = true) (hon : s.isOn 5 = true) :
    doScrub t r s = if 8 < r.errors then ((s.at t).scrubbed r).uncorrectable r
      else
        let y := if 5 ≤ r.errors then ((s.at t).scrubbed r).relocate r.phys else (s.at t).scrubbed r
        if 57000 ≤ r.erases then (y.retireBlock r.phys 3).1 else y := by
  have hruns : ¬ ((!(s.at t).awake || !(s.at t).isOn 5) = true) := by
    have hawake' : (s.at t).awake = true := hawake
    rw [hawake', State.at_isOn, hon]
    decide
  exact if_neg hruns

/-- A move of data waits as two groups. -/
theorem State.relocate_length (s : State) (block : Nat) : (s.relocate block).groups.length = s.groups.length + 2 :=
  State.flashQueue_length ..

/-- Wear levelling moves data where the wear differs by more than 2000 erases. -/
theorem doWearMove_moves {t : Time} {least most : Nat} {s : State} (hon : s.isOn 5 = true) (hworn : least + 2000 < s.flash.eraseMax)
    (hmost : most ≤ s.flash.eraseMax) : doWearMove t least most s = (s.at t).relocate 4096 :=
  if_pos ⟨hon, hworn, hmost⟩

/-! ### The recorder (R339, R340) -/

/-- A segment that is no longer held is not copied. -/
theorem doRecorderCopy_skips {t : Time} {s : State} {n : U32} {rest : List U32} (hcopies : s.flash.copies = n :: rest)
    (hon : s.isOn 5 = true) (hidle : (s.groups.any fun g => g.work == .recorder n) = false)
    (hheld : (s.cap.held.find? fun g => g.num == n) = none) : doRecorderCopy t s = (s.at t).skipCopy n := by
  unfold doRecorderCopy
  extract_lets s1
  have hcopies1 : s1.flash.copies = n :: rest := hcopies
  have hruns : ¬ (((s1.flash.running.toList ++ s1.flash.queue).any fun g => g.work == .recorder n) || !s1.isOn 5) = true := by
    have hidle1 : ((s1.flash.running.toList ++ s1.flash.queue).any fun g => g.work == .recorder n) = false := hidle
    have hon1 : s1.isOn 5 = true := hon
    rw [hidle1, hon1]
    decide
  have hheld1 : (s1.cap.held.find? fun g => g.num == n) = none := hheld
  rw [hcopies1]
  dsimp only
  rw [if_neg hruns, hheld1]

/-- A held segment's copy is queued: erase groups, program groups and a commit, all of them for that segment. -/
theorem doRecorderCopy_queues {t : Time} {s : State} {n : U32} {rest : List U32} {g : Segment} (hcopies : s.flash.copies = n :: rest)
    (hon : s.isOn 5 = true) (hidle : (s.groups.any fun g => g.work == .recorder n) = false)
    (hheld : (s.cap.held.find? fun g => g.num == n) = some g) :
    ∃ (erase : List FlashGroup) (pages : Nat),
      doRecorderCopy t s = (s.at t).flashQueue (erase ++ itemGroups (.recorder n) false pages) := by
  unfold doRecorderCopy
  extract_lets s1
  have hcopies1 : s1.flash.copies = n :: rest := hcopies
  have hruns : ¬ (((s1.flash.running.toList ++ s1.flash.queue).any fun g => g.work == .recorder n) || !s1.isOn 5) = true := by
    have hidle1 : ((s1.flash.running.toList ++ s1.flash.queue).any fun g => g.work == .recorder n) = false := hidle
    have hon1 : s1.isOn 5 = true := hon
    rw [hidle1, hon1]
    decide
  have hheld1 : (s1.cap.held.find? fun g => g.num == n) = some g := hheld
  rw [hcopies1]
  dsimp only
  rw [if_neg hruns, hheld1]
  exact ⟨_, _, rfl⟩

section
variable {s : State} {t : Time} {h : Hdr} {v : Bytes} {s2 : State} {r : Rcvd} {x : Session} {o : Obj} {fl : Nat}

/-- REC_SELECT keeps the entry and its SOURCE with the session. -/
theorem Takes.recSelect_runs (H : Takes s t Id.REC_SELECT h v s2 r x o fl) (hlasts : x.lasts) {e : RecEntry}
    (he : (s.flash.entries.find? fun e => e.seq == u32 (leNat v)) = some e) :
    Quiet s (doWriteObject t Id.REC_SELECT h v s) ∧ (doWriteObject t Id.REC_SELECT h v s).answered r.h 0x11 0x80 [] ∧
      ∃ y, (doWriteObject t Id.REC_SELECT h v s).session? r.h.transport r.h.session = some y ∧ y.recSelect = e.seq ∧
        y.recSource = some (u8At e.header 3) := by
  have hplain := State.apply_plain (h := r.h) (svc := 0x11) (x := x) (v := v) (fl := fl) H.served (plain_of_lookup H.object (by decide +kernel))
  have hid : o.id = Id.REC_SELECT := (lookup_regular H.object).1
  have hentries : s2.flash.entries = s.flash.entries := congrArg Flash.entries H.flash
  rw [hid, if_neg (by decide), if_pos rfl, State.selectEntry, hentries, he] at hplain
  rw [H.runs (by decide), hplain]
  have hquiet : Quiet s s2 := (s.at_quiet t).trans (reaches_quiet H.heard)
  obtain ⟨b, hb⟩ := State.modSession_answered (f := fun y => { y with recSelect := e.seq, recSource := some (u8At e.header 3) })
    (H.session_ne_zero (by decide)) H.session (fun z => ⟨rfl, rfl⟩) hlasts 0x11 0x80 []
  exact ⟨hquiet.trans ((State.modSession_quiet ..).trans (State.answer_quiet ..)), State.answer_answered .., _, hb, rfl, rfl⟩

/-- REC_CLEAR empties the list of entries. -/
theorem recClearAction_entries (s : State) : (recClearAction s).flash.entries = [] :=
  (State.flashQueue_quiet ..).flash_field Flash.entries fun _ => rfl

theorem Takes.recClear_runs (H : Takes s t Id.REC_CLEAR h v s2 r x o fl) : (doWriteObject t Id.REC_CLEAR h v s).ticketedBy s2 r ∧
    (doWriteObject t Id.REC_CLEAR h v s).flash.entries = [] := by
  obtain ⟨hticket, hquiet⟩ :=
    H.ticketed_runs (cmd_of_lookup H.object (by decide +kernel)) (f := fun _ y => recClearAction y) (by rfl)
  exact ⟨hticket, (hquiet.flash_field Flash.entries fun _ => rfl).trans (recClearAction_entries _)⟩

/-! ### Versions (R336, R337) -/

/-- The version that a revert names is found by the versions held and the current one. -/
theorem State.revertTarget_congr {s u : State} (hflash : u.flash = s.flash) (value : Nat) : u.revertTarget value = s.revertTarget value := by
  simp only [State.revertTarget, State.version?, hflash]

/-- An accepted revert queues the write of the pointer. -/
theorem versionRevertAction_queues {s : State} {value : Nat} {w : Version} (k : U32) (hw : s.revertTarget value = some w) :
    .pointer w.num k ∈ (versionRevertAction value k s).groups.map FlashGroup.work := by
  unfold versionRevertAction
  rw [hw]
  exact State.mem_flashItem ..

theorem Takes.versionRevert_runs (H : Takes s t Id.VERSION_REVERT h v s2 r x o fl) {w : Version} (hw : s.revertTarget (leNat v) = some w)
    (hcheck : s2.revertCheck (leNat v) = none) : (doWriteObject t Id.VERSION_REVERT h v s).ticketedBy s2 r ∧
      .pointer w.num s2.nextTicket ∈ (doWriteObject t Id.VERSION_REVERT h v s).groups.map FlashGroup.work ∧
      Within [.emit] s (doWriteObject t Id.VERSION_REVERT h v s) := by
  have hacc := cmd_of_lookup H.object (by decide +kernel)
  have hcommand : s2.command r.h 0x11 x Id.VERSION_REVERT (leNat v) = s2.ticketed fun k y => versionRevertAction (leNat v) k y := by
    show s2.revertCommand (leNat v) = _
    rw [State.revertCommand, hcheck]
  obtain ⟨hticket, hquiet⟩ := H.ticketed_runs hacc hcommand
  have hqueued := versionRevertAction_queues (s := s2.issueTicket.1) s2.nextTicket ((State.revertTarget_congr H.flash _).trans hw)
  refine ⟨hticket, (H.ticketed_works hacc hcommand).mem rfl hqueued, ?_⟩
  exact ((H.quiet.within.seq (versionRevertAction_within ..)).then hquiet)

end

/-- A start whose version is confirmed and whose firmware is no trial has nothing to confirm after its 5 s. -/
theorem doVersionConfirmTimeout_done {t c : Time} {x : BootIn} {s : State} (hstart : s.pwr.coldStart = some c)
    (hsupply : s.pwr.losing = false) (hawake : s.awake = true) (hdue : c + Sys2Proof.sec 5 ≤ max s.now t)
    (htrial : ((s.flash.slots[s.flash.activeSlot]?).map (·.state)) ≠ some 3)
    (hconfirmed : ∀ w, s.version? s.flash.current = some w → w.confirmed = true) :
    doVersionConfirmTimeout t x s = { s.at t with pwr := { s.pwr with coldStart := none } } := by
  unfold doVersionConfirmTimeout
  extract_lets s1 trial open_ _
  have hstart1 : s1.pwr.coldStart = some c := hstart
  rw [hstart1]
  dsimp -zeta only
  have hlate : ¬ s1.now < c + Sys2Proof.sec 5 := Nat.not_lt.mpr hdue
  have hgoes : ¬ (decide (s1.now < c + Sys2Proof.sec 5) || s1.pwr.losing || !s1.awake) = true := by
    have hsupply1 : s1.pwr.losing = false := hsupply
    have hawake1 : s1.awake = true := hawake
    rw [decide_eq_false hlate, hsupply1, hawake1]
    decide
  have htrial1 : ¬ trial = true := fun h => htrial (beq_iff_eq.mp h)
  have hopen : ¬ open_ = true := by
    have hversion : s1.version? s1.flash.current = s.version? s.flash.current := rfl
    simp only [open_, hversion]
    cases hw : s.version? s.flash.current with
    | none => decide
    | some w => simp [hconfirmed w hw]
  rw [if_neg hgoes, if_neg htrial1, if_neg hopen]
  rfl

/-- Before its 5 s nothing is decided. -/
theorem doVersionConfirmTimeout_early {t c : Time} {x : BootIn} {s : State} (hstart : s.pwr.coldStart = some c)
    (hearly : max s.now t < c + Sys2Proof.sec 5) : doVersionConfirmTimeout t x s = s.at t := by
  unfold doVersionConfirmTimeout
  extract_lets s1 _ _ _
  have hstart1 : s1.pwr.coldStart = some c := hstart
  rw [hstart1]
  dsimp -zeta only
  have hwaits : (decide (s1.now < c + Sys2Proof.sec 5) || s1.pwr.losing || !s1.awake) = true := by
    rw [decide_eq_true (show s1.now < c + Sys2Proof.sec 5 from hearly)]
    rfl
  exact if_pos hwaits

/-- Settles O58: each event by the groups and counts that it leaves, each command by its answer and its action. -/
theorem storageIsScrubbedAndVersionsRevert : Obligations.StorageIsScrubbedAndVersionsRevert := by
  unfold Obligations.StorageIsScrubbedAndVersionsRevert
  refine ⟨fun t r s hawake hon => ⟨fun herrors herases => ?_, fun herrors => ?_⟩,
    fun t least most s hon hworn hmost => ?_,
    fun t n rest s hcopies hon hidle => ⟨fun hheld => ?_, fun g hheld => ?_⟩,
    fun t h v s s2 r x o fl => ⟨fun H hlasts e he => ?_, fun H => ⟨_, rfl, H.recClear_runs⟩⟩,
    fun t h v s s2 r x o fl w H hw hcheck => ?_,
    fun t c x s hstart hsupply hawake => ⟨fun hdue htrial hconfirmed => ?_, fun hearly => ?_⟩⟩
  · have hrun : doScrub t r s = (s.at t).scrubbed r := by
      rw [doScrub_eq hawake hon, if_neg (by omega)]
      dsimp only
      rw [if_neg (by omega), if_neg (by omega)]
    exact ⟨_, congrArg Host.Outcome.next hrun, State.scrubbed_flash .., State.scrubbed_counter (s.at t) r⟩
  · have hrun : doScrub t r s = ((s.at t).scrubbed r).uncorrectable r := by rw [doScrub_eq hawake hon, if_pos herrors]
    refine ⟨_, congrArg Host.Outcome.next hrun, ?_⟩
    rw [State.uncorrectable_retired, State.scrubbed_flash]
    rfl
  · exact ⟨_, congrArg Host.Outcome.next (doWearMove_moves hon hworn hmost), State.relocate_length ..⟩
  · exact ⟨_, congrArg Host.Outcome.next (doRecorderCopy_skips hcopies hon hidle hheld), rfl⟩
  · obtain ⟨erase, pages, hrun⟩ := doRecorderCopy_queues (t := t) hcopies hon hidle hheld
    exact ⟨_, congrArg Host.Outcome.next hrun, State.mem_flashQueue _ (List.mem_append_right _ (mem_itemGroups ..))⟩
  · obtain ⟨hquiet, hanswer, y, hy, hselected⟩ := H.recSelect_runs hlasts he
    exact ⟨_, y, rfl, hquiet, hanswer, hy, hselected⟩
  · obtain ⟨hticket, hqueued, hframe⟩ := H.versionRevert_runs hw hcheck
    exact ⟨_, rfl, hticket, hqueued, hframe.part .cfg (by decide), hframe.quiet.flash_field Flash.current fun _ => rfl⟩
  · exact ⟨_, congrArg Host.Outcome.next (doVersionConfirmTimeout_done hstart hsupply hawake hdue htrial hconfirmed), rfl, rfl⟩
  · exact congrArg Host.Outcome.next (doVersionConfirmTimeout_early hstart hearly)

end Sys2Proof.Machine
end

