-- ==== Sys2Proof/Proofs/FirmwareUpdates.lean ====
section
/-! PROOFS. FW_UPDATE and FW_IMAGE (R342): each command by its action, a segment by the transfer it leaves, the check by its verdict. -/

namespace Sys2Proof.Machine

open Sys2Proof

/-! ### FW_UPDATE -/

/-- A command whose flash check passes is ticketed. -/
theorem State.checked_passes {s : State} {k : GroupKind} (hcheck : s.flashCheck k = none) (f : U32 → State → State) :
    s.checked k f = s.ticketed f := by
  unfold State.checked
  rw [hcheck]

/-- An update may begin in RUN or HOLD, where none is under way. -/
theorem State.fwBeginOk_of {s : State} (hawake : s.awake = true) (hupdate : s.flash.update = 0 ∨ s.flash.update = 4)
    (hchecking : s.flash.checking = none) : s.fwBeginOk = true := by
  unfold State.fwBeginOk
  obtain h | h := hupdate
  · rw [hawake, h, hchecking]; rfl
  · rw [hawake, h, hchecking]; rfl

/-- The 128 blocks of the target slot wait for their erase. -/
theorem fwBeginAction_length (s : State) : (fwBeginAction s).groups.length = s.groups.length + 128 := by
  unfold fwBeginAction
  extract_lets slot s1 _ s2
  rw [State.flashQueue_length]
  rfl

theorem fwBeginAction_update (s : State) : (fwBeginAction s).flash.update = 1 ∧ (fwBeginAction s).flash.image = [] :=
  ⟨(State.flashQueue_quiet ..).flash_field Flash.update fun _ => rfl, (State.flashQueue_quiet ..).flash_field Flash.image fun _ => rfl⟩

section
variable {s : State} {t : Time} {h : Hdr} {v : Bytes} {s2 : State} {r : Rcvd} {x : Session} {o : Obj} {fl : Nat}

/-- A FW_UPDATE whose command is ticketed leaves the update and the image of its action, and as many groups. -/
theorem Takes.fwUpdate_runs {f : U32 → State → State} (H : Takes s t Id.FW_UPDATE h v s2 r x o fl)
    (hf : s2.command r.h 0x11 x Id.FW_UPDATE (leNat v) = s2.ticketed f) :
    (doWriteObject t Id.FW_UPDATE h v s).ticketedBy s2 r ∧
      (doWriteObject t Id.FW_UPDATE h v s).flash.update = (f s2.nextTicket s2.issueTicket.1).flash.update ∧
      (doWriteObject t Id.FW_UPDATE h v s).flash.image = (f s2.nextTicket s2.issueTicket.1).flash.image ∧
      WorksKept (f s2.nextTicket s2.issueTicket.1) (doWriteObject t Id.FW_UPDATE h v s) := by
  have hacc := cmd_of_lookup H.object (by decide +kernel)
  obtain ⟨hticket, hquiet⟩ := H.ticketed_runs hacc hf
  exact ⟨hticket, hquiet.flash_field Flash.update fun _ => rfl, hquiet.flash_field Flash.image fun _ => rfl,
    H.ticketed_works hacc hf⟩

theorem Takes.fwUpdateBegin_command (H : Takes s t Id.FW_UPDATE h [1] s2 r x o fl) (hawake : s.awake = true)
    (hupdate : s.flash.update = 0 ∨ s.flash.update = 4) (hchecking : s.flash.checking = none) (hcheck : s2.flashCheck .erase = none) :
    s2.command r.h 0x11 x Id.FW_UPDATE (leNat [1]) = s2.ticketed fun _ y => fwBeginAction y := by
  have hawake2 : s2.awake = true := by
    have hpwr : s2.pwr = s.pwr := H.quiet.pwr
    rw [State.awake, hpwr]
    exact hawake
  have hok : s2.fwBeginOk = true := State.fwBeginOk_of hawake2 (by rwa [H.flash]) (by rwa [H.flash])
  show (if s2.fwBeginOk then s2.checked .erase fun _ y => fwBeginAction y else s2.no .stateConflict) = _
  rw [if_pos hok, State.checked_passes hcheck]

theorem fwUpdateActivate_command {s2 : State} {k : Hdr} {x : Session} (hok : s2.fwActivateOk = true) (hcheck : s2.flashCheck .commit = none) :
    s2.command k 0x11 x Id.FW_UPDATE (leNat [2]) = s2.ticketed fwActivateAction := by
  show (if s2.fwActivateOk then s2.checked .commit fwActivateAction else s2.no .stateConflict) = _
  rw [if_pos hok, State.checked_passes hcheck]

theorem fwUpdateCancel_command {s2 : State} {k : Hdr} {x : Session} (hlow : 1 ≤ s2.flash.update) (hhigh : s2.flash.update ≤ 3) :
    s2.command k 0x11 x Id.FW_UPDATE (leNat [3]) = s2.ticketed fun _ y => y.fwAbandon := by
  have hok : s2.fwCancelOk = true := by
    rw [State.fwCancelOk, decide_eq_true hlow, decide_eq_true hhigh]
    rfl
  exact if_pos hok

end

/-! ### FW_IMAGE: segments of a block write (R63) -/

/-- Groups that are queued leave the sessions alone. -/
theorem State.flashQueue_baspo (s : State) (l : List FlashGroup) : (s.flashQueue l).baspo = s.baspo := by
  unfold State.flashQueue State.flashKick
  split
  · split
    · rfl
    · rfl
  · rfl

theorem State.imagePages_baspo (s : State) (old : Option BlockXfer) (b : BlockXfer) (final : Bool) :
    (s.imagePages old b final).baspo = s.baspo := State.flashQueue_baspo ..

theorem State.imagePages_quiet (s : State) (old : Option BlockXfer) (b : BlockXfer) (final : Bool) :
    Quiet s (s.imagePages old b final) := State.flashQueue_quiet ..

/-- FW_IMAGE is the object that the payload's first three bytes name. -/
theorem fwImage_name (p : Bytes) :
    indexIn 0x21 ([0x00, 0x71, 0x05] ++ p) * 256 + subIn 0x21 ([0x00, 0x71, 0x05] ++ p) = Id.FW_IMAGE := by
  simp [indexIn, subIn, addressed, u16At, u8At, slice, leNat, Id.FW_IMAGE]

/-- A segment of FW_IMAGE is served by blockWrite. -/
theorem ReachesIn.service_fwImage {s : State} {t : Time} {h : Hdr} {p : Bytes} {s2 : State} {r : Rcvd} {x : Session} {o : Obj}
    (H : ReachesIn s t 0x21 h ([0x00, 0x71, 0x05] ++ p) s2 r x) (ho : lookup Id.FW_IMAGE = some o) :
    s2.service 0x21 r = s2.blockWrite r.h 0x21 x o ([0x00, 0x71, 0x05] ++ p) := by
  have hobject : s2.service 0x21 r = s2.objectService 0x21 r x := by
    simp [State.service, H.session, State.inSession]
  rw [hobject, State.objectService, H.whole, fwImage_name, ho]
  rfl

/-- A segment that is not the last one and passes its checks is kept. -/
theorem State.blockWrite_keeps {s : State} {h : Hdr} {svc : Nat} {x : Session} {o : Obj} {p : Bytes} {b : BlockXfer}
    (hid : o.id = Id.FW_IMAGE) (hnext : BlockXfer.next x.block o.id (segmentOf p) = some b)
    (hcheck : (segmentOf p).check h.transport o (some b) = none) (hbars : s.imageBars h o = none)
    (hmore : (segmentOf p).final = false) (hwrite : s.writeCheck x o [] = none) :
    s.blockWrite h svc x o p = ((s.imagePages x.block b false).setBlock x (some b), .ok 0 []) := by
  unfold State.blockWrite
  extract_lets g y whole
  have hy : y = some b := hnext
  have hwhole : whole = [] := by
    simp only [whole, hy, g, hmore, Bool.false_eq_true, if_false]
  rw [hwhole, hwrite, hy]
  dsimp only
  rw [show g.check h.transport o (some b) = none from hcheck]
  dsimp only
  rw [if_pos hid, hbars]
  dsimp only
  rw [State.blockAccept, show g.final = false from hmore, if_pos hid]
  rfl

/-! ### The check of an image -/

/-- A verdict without an abort: the slot holds the image. -/
theorem State.imageVerdict_accepts {s : State} (haccept : s.imageVerdict.2 = none) :
    s.imageVerdict.1.flash.update = 4 ∧ s.imageVerdict.1.flash.checking = none := by
  unfold State.imageVerdict at haccept ⊢
  extract_lets _ y b slot z _ w at haccept ⊢
  split at haccept
  · cases haccept
  · next hupdate =>
    rw [if_neg hupdate]
    split at haccept
    · cases haccept
    · dsimp only
      rw [State.raise_flash]
      exact ⟨rfl, rfl⟩

/-- An image that passes answers the request of its last segment. -/
theorem doFwImageCheckDone_accepts {t : Time} {s : State} {q : Hdr} (hchecking : s.flash.checking = some q) (hsession : q.session ≠ 0)
    (haccept : (s.at t).imageVerdict.2 = none) : doFwImageCheckDone t s = (s.at t).imageVerdict.1.answer q 0x21 0x80 [] := by
  unfold doFwImageCheckDone
  extract_lets y p
  rw [show y.flash.checking = some q from hchecking]
  dsimp only
  rw [if_neg hsession, show p.2 = none from haccept]
  rfl

/-- Settles O59: the commands by their actions, a segment by its transfer and the check by its verdict. -/
theorem firmwareIsUpdatedInSteps : Obligations.FirmwareIsUpdatedInSteps := by
  unfold Obligations.FirmwareIsUpdatedInSteps
  refine fun t h s s2 r x o fl => ⟨fun H hawake hupdate hchecking hcheck => ?_, fun H hok hcheck => ?_, fun H hlow hhigh => ?_,
    fun p b H hlasts ho hnext hcheck hbars hmore hwrite => ?_, fun q hchecking hsession haccept => ?_⟩
  · obtain ⟨hticket, hupdated, himage, hworks⟩ := H.fwUpdate_runs (H.fwUpdateBegin_command hawake hupdate hchecking hcheck)
    obtain ⟨hbegun, hempty⟩ := fwBeginAction_update s2.issueTicket.1
    have hgroups : s2.issueTicket.1.groups = s.groups := State.groups_congr H.flash
    refine ⟨_, rfl, hticket, hupdated.trans hbegun, himage.trans hempty, ?_⟩
    rw [← hgroups, ← fwBeginAction_length]
    exact hworks.length
  · obtain ⟨hticket, -, -, hworks⟩ := H.fwUpdate_runs (fwUpdateActivate_command hok hcheck)
    exact ⟨_, rfl, hticket, hworks.mem rfl (State.mem_flashItem s2.issueTicket.1 ..)⟩
  · obtain ⟨hticket, hupdated, himage, -⟩ := H.fwUpdate_runs (fwUpdateCancel_command (H.flash.symm ▸ hlow) (H.flash.symm ▸ hhigh))
    exact ⟨_, rfl, hticket, hupdated, himage⟩
  · obtain ⟨hid, -⟩ := lookup_regular ho
    have hrun := H.toReaches.runs
    rw [H.service_fwImage ho, State.blockWrite_keeps hid (hid.symm ▸ hnext) hcheck hbars hmore hwrite] at hrun
    have hpages : (s2.imagePages x.block b false).session? r.h.transport r.h.session = some x := by
      rw [State.session?, State.imagePages_baspo]
      exact H.session
    obtain ⟨k, hk⟩ := State.modSession_answered (f := fun y => { y with block := some b }) (H.session_ne_zero (by decide)) hpages
      (fun z => ⟨rfl, rfl⟩) hlasts 0x21 0x80 []
    have hquiet : Quiet s ((s2.imagePages x.block b false).setBlock x (some b)) :=
      (s.at_quiet t).trans ((reaches_quiet H.heard).trans ((State.imagePages_quiet ..).trans (State.modSession_quiet ..)))
    refine ⟨_, _, congrArg Host.Outcome.next hrun, State.answer_answered .., hk, rfl, ?_⟩
    exact (hquiet.trans (State.answer_quiet ..)).flash_field Flash.update fun _ => rfl
  · obtain ⟨hupdate, hdone⟩ := State.imageVerdict_accepts haccept
    refine ⟨_, congrArg Host.Outcome.next (doFwImageCheckDone_accepts hchecking hsession haccept), State.answer_answered .., ?_, ?_⟩
    · exact ((State.answer_quiet ..).flash_field Flash.update fun _ => rfl).trans hupdate
    · exact (State.answer_worksKept ..).checking hdone

end Sys2Proof.Machine
end

