-- ==== Sys2Proof/Proofs/KeyWrites.lean ====
section
/-! PROOFS. KEY_WRITE (R354): the key is queued for its session before the answer, and the answer may close that session (R57). -/

namespace Sys2Proof.Machine

open Sys2Proof

/-- KEY_WRITE answers once its key is queued. -/
theorem Takes.keyWrite_runs {s : State} {t : Time} {h : Hdr} {v : Bytes} {s2 : State} {r : Rcvd} {x : Session} {o : Obj} {fl : Nat}
    (H : Takes s t Id.KEY_WRITE h v s2 r x o fl) {k : Bytes} (hkey : unwrapKey x.key (v.drop 2) = some k) :
    doWriteObject t Id.KEY_WRITE h v s = (s2.flashItem (.key (u8At v 0) k x.transport x.num) false 0).answer r.h 0x11 0x80 [] := by
  have hplain := State.apply_plain (h := r.h) (svc := 0x11) (x := x) (v := v) (fl := fl) H.served (plain_of_lookup H.object (by decide +kernel))
  have hid : o.id = Id.KEY_WRITE := (lookup_regular H.object).1
  rw [hid, if_neg (by decide), if_neg (by decide), if_pos rfl, State.keyWrite, hkey] at hplain
  rw [H.runs (by decide), hplain]
  rfl

/-- A session whose next answer is its last one (R57). -/
def lastAnswer : Session := { Tests.session with txFresh := 0xFFFFFFFE }

/-- The module with that session and flash checks that pass. -/
def lastAnswering : State := { Tests.storing with baspo := { Tests.storing.baspo with sessions := [lastAnswer] } }

/-- The wrapped key reaches its object in that session, and the answer leaves no key that spares the session. -/
theorem keyWrite_lastAnswer : ∃ h s2 r x o fl, Takes lastAnswering 0 Id.KEY_WRITE h Tests.wrapped s2 r x o fl ∧
    unwrapKey x.key (Tests.wrapped.drop 2) = some (rep 16 5) ∧
    .key (u8At Tests.wrapped 0) (rep 16 5) x.transport x.num ∉ ((s2.flashItem (.key (u8At Tests.wrapped 0) (rep 16 5) x.transport x.num)
      false 0).answer r.h 0x11 0x80 []).groups.map FlashGroup.work :=
  Tests.take _ _ _ _ _ (by decide +kernel)

/-- Refutes O60: a KEY_WRITE in a session that has one FRESHNESS left (txFresh 0xFFFFFFFE) is answered, and the answer closes the session
(R57); the queued key then names session 0, not the session that wrote it. The statement asks for no session that lasts. -/
theorem not_securityCommandsQueueTheirCommit : ¬ Obligations.SecurityCommandsQueueTheirCommit := by
  unfold Obligations.SecurityCommandsQueueTheirCommit
  rintro ⟨-, hkeys, -⟩
  obtain ⟨h, s2, r, x, o, fl, H, hkey, hgone⟩ := keyWrite_lastAnswer
  obtain ⟨u, hu, -, -, hqueued⟩ := hkeys 0 h _ _ _ s2 r x o fl H hkey
  have hrun : exec (.keyWrite 0 h Tests.wrapped) lastAnswering = .next _ := congrArg Host.Outcome.next (H.keyWrite_runs hkey)
  obtain rfl := Host.Outcome.next.inj (hrun.symm.trans hu)
  exact hgone hqueued

end Sys2Proof.Machine
end

