-- ==== Sys2Proof/Proofs/CalibrationRequests.lean ====
section
/-! PROOFS. Calibration requests (R319, R321): each of the ten codes by the check and the action of CAL_REQUEST. -/

namespace Sys2Proof.Machine

open Sys2Proof

/-- The ten requests write their code to the object. -/
theorem exec_calRequest {c : Instr} {n : Nat} {t : Time} {h : Hdr} (s : State)
    (hc : (n, c) ∈ [(1, Instr.calField t h), (2, .calScale t h), (3, .calZero t h), (4, .calSkew t h), (5, .calTin t h),
      (6, .calPsdTrim t h), (16, .traceRefin t h), (17, .traceTarget t h), (18, .traceCommit t h), (19, .traceDiscard t h)]) :
    exec c s = .next (doWriteObject t Id.CAL_REQUEST h [BitVec.ofNat 8 n] s) ∧ leNat [BitVec.ofNat 8 n] = n := by
  simp only [List.mem_cons, Prod.mk.injEq, List.not_mem_nil, or_false] at hc
  obtain ⟨rfl, rfl⟩ | ⟨rfl, rfl⟩ | ⟨rfl, rfl⟩ | ⟨rfl, rfl⟩ | ⟨rfl, rfl⟩ | ⟨rfl, rfl⟩ | ⟨rfl, rfl⟩ | ⟨rfl, rfl⟩ | ⟨rfl, rfl⟩ | ⟨rfl, rfl⟩ :=
    hc <;> exact ⟨rfl, rfl⟩

/-! ### What the actions leave of CAL -/

/-- Behind a running ticket a new one waits. -/
theorem State.calQueue_waits {s : State} (k : CalTicket) (hrunning : s.cal.running ≠ none) :
    (s.calQueue k).cal = { s.cal with queue := s.cal.queue ++ [k] } := by
  obtain ⟨j, hj⟩ := Option.ne_none_iff_exists'.mp hrunning
  simp only [State.calQueue, State.calStart, hj]

/-- A free calibration unit starts the only ticket that waits. -/
theorem State.calStart_starts {s : State} {k : CalTicket} (hrunning : s.cal.running = none) (hqueue : s.cal.queue = [k])
    (hauto : s.cal.autoDue = none) (hentry : s.pwr.entry = none) : ∃ frame anchors,
      s.calStart.cal.running = some { k with startFrame := frame, anchors } ∧ s.calStart.cal.queue = [] := by
  unfold State.calStart
  have hfree : ¬ s.holdOff = true := by simp only [State.holdOff, hentry, Bool.false_eq_true, not_false_eq_true]
  rw [hrunning, hqueue]
  dsimp -zeta only
  rw [if_neg hfree]
  extract_lets k1 queue _
  rw [(State.calHold_within _).part .cal (by decide)]
  exact ⟨_, _, rfl, by simp only [queue, hauto]⟩

/-- So does one to which a ticket comes. -/
theorem State.calQueue_starts {s : State} (k : CalTicket) (hrunning : s.cal.running = none) (hqueue : s.cal.queue = [])
    (hauto : s.cal.autoDue = none) (hentry : s.pwr.entry = none) : ∃ frame anchors,
      (s.calQueue k).cal.running = some { k with startFrame := frame, anchors } ∧ (s.calQueue k).cal.queue = [] :=
  State.calStart_starts (s := { s with cal := { s.cal with queue := s.cal.queue ++ [k] } }) hrunning (congrArg (· ++ [k]) hqueue) hauto hentry

/-- A write of the record moves its own two fields of CAL alone. -/
theorem State.storeCal_cal (s : State) (ticket : U32) (mask : Nat) (host : Bool) :
    ∃ store retryAt, (s.storeCal ticket mask host).cal = { s.cal with store, retryAt } := by
  unfold State.storeCal
  extract_lets _ fail s1
  have hfail : ∀ a, ∃ store retryAt, (fail a).cal = { s.cal with store, retryAt } := fun a => ⟨2, some s.now, State.raise_cal ..⟩
  split
  · exact hfail _
  · split
    · exact hfail _
    · exact ⟨1, none, (State.flashItem_quiet s1 ..).cal⟩

/-- TRACE_COMMIT puts the pending traces in use. -/
theorem State.traceCommit_cal (s : State) (k : U32) :
    (s.traceCommit k).cal.pendRefin = none ∧ (s.traceCommit k).cal.pendTarget = none ∧
      (∀ g q, s.cal.pendRefin = some (g, q) → (s.traceCommit k).cal.vals.scaleTrace = g ∧ (s.traceCommit k).cal.vals.residual = q) ∧
      (∀ g q, s.cal.pendTarget = some (g, q) → (s.traceCommit k).cal.vals.offset = g ∧ (s.traceCommit k).cal.vals.path = q) := by
  unfold State.traceCommit
  extract_lets v record due1 due2 v1 v2 mask _ s1
  obtain ⟨store, retryAt, hcal⟩ := State.storeCal_cal s1 k mask true
  rw [hcal]
  refine ⟨rfl, rfl, fun g q hrefin => ?_, fun g q htarget => ?_⟩
  · have hv1 : v1.scaleTrace = g ∧ v1.residual = q := by simp only [v1, hrefin, and_self]
    have hv2 : v2.scaleTrace = v1.scaleTrace ∧ v2.residual = v1.residual := by
      unfold v2
      split
      · exact ⟨rfl, rfl⟩
      · exact ⟨rfl, rfl⟩
    exact ⟨hv2.1.trans hv1.1, hv2.2.trans hv1.2⟩
  · have hv2 : v2.offset = g ∧ v2.path = q := by simp only [v2, htarget, and_self]
    exact hv2

section
variable {s : State} {t : Time} {h : Hdr} {v : Bytes} {s2 : State} {r : Rcvd} {x : Session} {o : Obj} {fl : Nat}

/-- An accepted request is answered with its ticket and leaves CAL as its action does. -/
theorem Takes.calRequest_runs (H : Takes s t Id.CAL_REQUEST h v s2 r x o fl) (hcheck : s2.calCheck (leNat v) = none) :
    (doWriteObject t Id.CAL_REQUEST h v s).ticketedBy s2 r ∧
      (doWriteObject t Id.CAL_REQUEST h v s).cal = (calRequestAction (leNat v) s2.nextTicket s2.issueTicket.1).cal := by
  have hcommand : s2.command r.h 0x11 x Id.CAL_REQUEST (leNat v) = s2.ticketed fun k y => calRequestAction (leNat v) k y := by
    show s2.calCommand (leNat v) = _
    rw [State.calCommand, hcheck]
  obtain ⟨hticket, hquiet⟩ := H.ticketed_runs (cmd_of_lookup H.object (by decide +kernel)) hcommand
  exact ⟨hticket, hquiet.cal⟩

/-- A request whose check fails changes nothing. -/
theorem Takes.calRequest_refused (H : Takes s t Id.CAL_REQUEST h v s2 r x o fl) {a : Abort} (hcheck : s2.calCheck (leNat v) = some a) :
    Quiet s (doWriteObject t Id.CAL_REQUEST h v s) ∧ (doWriteObject t Id.CAL_REQUEST h v s).answered r.h 0x11 0xC0
      (abortBytes a (Id.CAL_REQUEST / 256) (Id.CAL_REQUEST % 256) 0) := by
  refine H.command_refused (cmd_of_lookup H.object (by decide +kernel)) ?_
  show s2.calCommand (leNat v) = _
  rw [State.calCommand, hcheck]

end

/-- Every other code queues a ticket. -/
theorem calRequestAction_queues {n : Nat} (hn : n < 18) (k : U32) (s : State) : calRequestAction n k s = s.calQueue (calTicket n k) := by
  unfold calRequestAction
  rw [if_neg (by omega), if_neg (by omega)]

/-- Settles O55: each code by its action. -/
theorem calibrationRequestsQueueTickets : Obligations.CalibrationRequestsQueueTickets := by
  unfold Obligations.CalibrationRequestsQueueTickets
  intro c n t h s s2 r x o fl hc H
  obtain ⟨hexec, hvalue⟩ := exec_calRequest s hc
  have hcal : s2.issueTicket.1.cal = s.cal := H.quiet.cal
  refine ⟨fun hcheck => ?_, fun a hcheck => ?_⟩
  · obtain ⟨hticket, haction⟩ := H.calRequest_runs (hvalue.symm ▸ hcheck)
    rw [hvalue] at haction
    refine ⟨fun hn hrunning => ⟨_, hexec, hticket, ?_⟩, fun hn hrunning hqueue hauto hentry => ?_, fun hn => ⟨_, hexec, hticket, ?_⟩,
      fun hn => ⟨_, hexec, hticket, ?_⟩⟩
    · rw [haction, calRequestAction_queues hn, State.calQueue_waits _ (hcal.symm ▸ hrunning), hcal]
    · obtain ⟨frame, anchors, hstarted, hempty⟩ := State.calQueue_starts (s := s2.issueTicket.1) (calTicket n s2.nextTicket)
        (hcal.symm ▸ hrunning) (hcal.symm ▸ hqueue) (hcal.symm ▸ hauto) (H.quiet.pwr.symm ▸ hentry)
      rw [← calRequestAction_queues hn, ← haction] at hstarted hempty
      exact ⟨_, _, hexec, hticket, hstarted, rfl, rfl, rfl, hempty⟩
    · obtain ⟨hrefin, htarget, hscale, hzero⟩ := State.traceCommit_cal s2.issueTicket.1 s2.nextTicket
      rw [haction, hn]
      rw [hcal] at hscale hzero
      exact ⟨hrefin, htarget, hscale, hzero⟩
    · rw [haction, hn, ← hcal]
      exact (State.calDone_quiet _ (calTicket 19 s2.nextTicket) 0).cal
  · exact ⟨_, hexec, H.calRequest_refused (hvalue.symm ▸ hcheck)⟩

end Sys2Proof.Machine
end

