-- ==== Sys2Proof/Proofs/CalibrationRuns.lean ====
section
/-! PROOFS. Runs in pairs (R316, R317), the frames of a ticket (R319) and the record that is written again (R322). -/

namespace Sys2Proof.Machine

open Sys2Proof

/-! ### Runs -/

/-- Every result stands for a run at least. -/
theorem runCount_ne_zero (res : RunResult) : runCount res ≠ 0 := by
  unfold runCount
  split <;> decide

section
variable {t : Time} {res : RunResult} {v : CalValue} {k : CalTicket} {s : State} (hrunning : s.cal.running = some k)
  (hvalue : s.runValue res = some v) (hready : s.runReady (RunKind res) = true) (hcurrent : k.runs.head? = some (RunKind res))
include hrunning hvalue hready hcurrent

/-- The first run of a pair is kept. -/
theorem doCalRunDone_first (hfirst : k.first = none) : doCalRunDone t res s =
    let y := (s.at t).count Id.CAL_RUNS (runCount res)
    { y with cal := { y.cal with running := some { k with first := some v } } } := by
  unfold doCalRunDone
  extract_lets s1 run y
  have hready1 : ¬ (!s1.runReady run) = true := by
    rw [show s1.runReady run = true from hready]
    decide
  rw [show s1.cal.running = some k from hrunning, show s1.runValue res = some v from hvalue]
  dsimp -zeta only
  rw [if_neg hready1, if_pos hcurrent, hfirst]

/-- The second run is judged with the first. -/
theorem doCalRunDone_second {a : CalValue} (hfirst : k.first = some a) : doCalRunDone t res s =
    (((s.at t).count Id.CAL_RUNS (runCount res)).calJudge { k with first := none, runs := k.runs.tail } a v).calSettle := by
  unfold doCalRunDone
  extract_lets s1 run y
  have hready1 : ¬ (!s1.runReady run) = true := by
    rw [show s1.runReady run = true from hready]
    decide
  rw [show s1.cal.running = some k from hrunning, show s1.runValue res = some v from hvalue]
  dsimp -zeta only
  rw [if_neg hready1, if_pos hcurrent, hfirst]

end

/-- A pair that does not agree is rejected. -/
theorem State.calJudge_rejects {s : State} {k : CalTicket} {a b : CalValue}
    (hdiffer : (judgePair (s.cfgN Id.CAL_SCALE_TOL) (s.cfgN Id.CAL_ZERO_TOL) a b).value = none) :
    (s.calJudge k a b).cal = { s.cal with running := some { k with rejected := true } } ∧
      (s.calJudge k a b).counter Id.CAL_REJECTS = min 0xFFFFFFFF (s.counter Id.CAL_REJECTS + 1) := by
  unfold State.calJudge
  extract_lets verdict _ s1
  rw [show verdict.value = none from hdiffer]
  dsimp only
  rw [State.raise_cal, State.count_cal, State.raise_counter _ _ _ _ _ _ _ _ (by decide), State.count_counter, if_neg (by decide)]
  exact ⟨rfl, rfl⟩

/-- A ticket with runs left goes on. -/
theorem State.calSettle_waits {s : State} {k : CalTicket} (hrunning : s.cal.running = some k) (hmore : k.runs ≠ []) : s.calSettle = s := by
  unfold State.calSettle
  rw [hrunning]
  exact if_neg fun h => hmore h.1

/-! ### The end of a ticket (R319) -/

/-- The bands that go off tell nothing. -/
theorem State.calRelease_evt (s : State) : s.calRelease.evt = s.evt := by
  unfold State.calRelease
  refine List.foldlRecOn (motive := fun y : State => y.evt = s.evt) _ _ rfl fun y hy b _ => ?_
  split
  · exact hy
  · exact hy

/-- A ticket that ends while none waits leaves the unit free, and is told. -/
theorem State.calEnd_ends {s : State} {k : CalTicket} (result : Nat) (hrunning : s.cal.running = some k) (hqueue : s.cal.queue = []) :
    (s.calEnd result).cal.running = none ∧
      ∃ y : State, y.evt = s.evt ∧ s.calEnd result = y.calDone k result := by
  unfold State.calEnd
  rw [hrunning]
  dsimp -zeta only
  extract_lets _ s1
  have hcal : (s1.calRelease.calDone k result).cal = s1.cal := (State.calDone_quiet ..).cal.trans ((State.calRelease_within s1).part .cal (by decide))
  have hkeep : s1.cal.running = none ∧ s1.cal.queue = [] := by
    simp only [s1, Cal.takeAnchors]
    split
    · exact ⟨rfl, hqueue⟩
    · exact ⟨rfl, hqueue⟩
  have hidle : (s1.calRelease.calDone k result).calStart = s1.calRelease.calDone k result := by
    unfold State.calStart
    rw [hcal, hkeep.1, hkeep.2]
  rw [hidle, hcal]
  exact ⟨hkeep.1, s1.calRelease, State.calRelease_evt s1, rfl⟩

/-- A ticket past its 16 frames and their extensions ends. -/
theorem doCalTicketLimit_ends {t : Time} {k : CalTicket} {f : U32} {s : State} (hrunning : s.cal.running = some k)
    (hstart : k.startFrame = some f) (hpast : 16 + k.extended ≤ (s.scan.frame - f).toNat) (hnear : (s.scan.frame - f).toNat < 2 ^ 31) :
    doCalTicketLimit t s = (s.at t).calEnd 2 := by
  unfold doCalTicketLimit
  extract_lets s1
  rw [show s1.cal.running = some k from hrunning]
  dsimp only
  rw [hstart]
  exact if_pos ⟨hpast, hnear⟩

/-! ### The record that is written again (R322) -/

theorem doCalStoreRetry_due {t q : Time} {s : State} (hstore : s.cal.store = 2) (hretry : s.cal.retryAt = some q)
    (hdue : q + Sys2Proof.sec 10 ≤ max s.now t) : doCalStoreRetry t s = (s.at t).storeCal 0 0 false := by
  unfold doCalStoreRetry
  extract_lets s1
  rw [show s1.cal.retryAt = some q from hretry]
  exact if_pos ⟨hstore, hdue⟩

theorem doCalStoreRetry_early {t q : Time} {s : State} (hretry : s.cal.retryAt = some q) (hearly : max s.now t < q + Sys2Proof.sec 10) :
    doCalStoreRetry t s = s.at t := by
  unfold doCalStoreRetry
  extract_lets s1
  rw [show s1.cal.retryAt = some q from hretry]
  exact if_neg fun h => Nat.not_le.mpr hearly h.2

/-- Where FLSH and the checks permit, the record is written. -/
theorem State.storeCal_writes {s : State} (ticket : U32) (mask : Nat) (host : Bool) (hserves : s.isFailed 5 = false)
    (hcheck : s.flashCheck .commit = none) : (s.storeCal ticket mask host).cal = { s.cal with store := 1, retryAt := none } := by
  unfold State.storeCal
  extract_lets _ fail s1
  rw [if_neg (Bool.eq_false_iff.mp hserves), hcheck]
  exact (State.flashItem_quiet s1 ..).cal

/-- A failed check is told, and the write is tried again 10 s later. -/
theorem State.storeCal_fails {s : State} (ticket : U32) (mask : Nat) (host : Bool) {a : Abort} (hserves : s.isFailed 5 = false)
    (hcheck : s.flashCheck .commit = some a) : s.storeCal ticket mask host =
      ({ s with cal := { s.cal with store := 2, retryAt := some s.now } } : State).raise 0x9005 1 (u32 a.code) := by
  unfold State.storeCal
  rw [if_neg (Bool.eq_false_iff.mp hserves), hcheck]

/-- Settles O56: a run by its place in the pair, a ticket by its frames, the record by its 10 s. -/
theorem runsAreJudgedInPairs : Obligations.RunsAreJudgedInPairs := by
  unfold Obligations.RunsAreJudgedInPairs
  refine ⟨fun t res v k s hrunning hvalue hready hcurrent => ⟨fun hfirst => ?_, fun a hfirst hmore hdiffer => ?_⟩,
    fun t k f s hrunning hstart hqueue hpast hnear => ?_,
    fun t q s hstore hretry => ⟨fun hdue hserves => ⟨fun hcheck => ?_, fun a hcheck => ?_⟩, fun hearly => ?_⟩⟩
  · have hrun := doCalRunDone_first (t := t) hrunning hvalue hready hcurrent hfirst
    refine ⟨_, congrArg Host.Outcome.next hrun, ?_, ?_⟩
    · simp only [State.count_cal, State.at_cal]
    · show ((s.at t).count Id.CAL_RUNS (runCount res)).counter Id.CAL_RUNS = _
      rw [State.count_counter, if_neg (runCount_ne_zero res)]
      rfl
  · have hrun := doCalRunDone_second (t := t) hrunning hvalue hready hcurrent hfirst
    have hcfg : ∀ id, ((s.at t).count Id.CAL_RUNS (runCount res)).cfgN id = s.cfgN id := fun id =>
      ((State.count_quiet (s.at t) ..).within).cfgN (by decide) id
    obtain ⟨hcal, hcount⟩ := State.calJudge_rejects (s := (s.at t).count Id.CAL_RUNS (runCount res))
      (k := { k with first := none, runs := k.runs.tail }) (a := a) (b := v) (by rw [hcfg, hcfg]; exact hdiffer)
    have hsettle := State.calSettle_waits (congrArg Cal.running hcal) hmore
    refine ⟨_, congrArg Host.Outcome.next (hrun.trans hsettle), ?_, ?_⟩
    · rw [hcal, State.count_cal, State.at_cal]
    · rw [hcount, State.count_counter_other _ _ _ _ (by decide)]
      rfl
  · have hrun := doCalTicketLimit_ends (t := t) hrunning hstart hpast hnear
    obtain ⟨hfree, y, hevt, hend⟩ := State.calEnd_ends (s := s.at t) 2 hrunning hqueue
    refine ⟨_, congrArg Host.Outcome.next hrun, hfree, ?_⟩
    rw [hend]
    have htold : ToldIn 1 s (y.raise 0x9001 1 (u32 k.code) (u32 2) 0 k.num) 0x9001 1 (u32 k.code) 2 0 k.num := by
      obtain ⟨later, e, earlier, hring, hevent⟩ := y.raise_told 0x9001 1 (u32 k.code) (u32 2) 0 k.num
      exact ⟨later, e, earlier, by rw [hring, hevt]; rfl, hevent⟩
    exact htold.told (by decide)
  · refine ⟨_, congrArg Host.Outcome.next (doCalStoreRetry_due hstore hretry hdue), ?_⟩
    exact State.storeCal_writes (s := s.at t) 0 0 false hserves hcheck
  · have hrun := (doCalStoreRetry_due hstore hretry hdue).trans (State.storeCal_fails (s := s.at t) 0 0 false hserves hcheck)
    refine ⟨_, congrArg Host.Outcome.next hrun, ?_, ?_⟩
    · rw [State.raise_cal, ← hstore]
      rfl
    · exact (State.raise_told _ 0x9005 1 (u32 a.code) 0 0 0).told (by decide)
  · exact congrArg Host.Outcome.next (doCalStoreRetry_early hretry hearly)

end Sys2Proof.Machine
end

