-- ==== Sys2Proof/Proofs/PowerRequests.lean ====
section
/-! PROOFS. POWER_REQUEST (R292 to R294): the present state, a lower one, a wake, and a device that is BECALMED. -/

namespace Sys2Proof.Machine

open Sys2Proof

/-- The four requests write their state to the object. -/
theorem exec_powerRequest {c : Instr} {target : Power} {n : Nat} {t : Time} {h : Hdr} (s : State)
    (hc : (n, target, c) ∈ [(0, Power.run, Instr.powerRequestRun t h), (1, .hold, .powerRequestHold t h), (2, .doze, .powerRequestDoze t h),
      (3, .sleep, .powerRequestSleep t h)]) :
    exec c s = .next (doWriteObject t Id.POWER_REQUEST h [BitVec.ofNat 8 n] s) ∧ powerOf (leNat [BitVec.ofNat 8 n]) = target ∧
      target ≠ .off := by
  simp only [List.mem_cons, Prod.mk.injEq, List.not_mem_nil, or_false] at hc
  obtain ⟨rfl, rfl, rfl⟩ | ⟨rfl, rfl, rfl⟩ | ⟨rfl, rfl, rfl⟩ | ⟨rfl, rfl, rfl⟩ := hc <;> exact ⟨rfl, rfl, by decide⟩

/-! ### What a request meets (R292, R295) -/

/-- Served, without a cool-down, an entry or a wake, every request is accepted. -/
theorem State.powerCheck_idle {s : State} (target : Power) (hcalm : s.pwr.becalmed = 0) (hcool : s.therm.cooldown = none)
    (hentry : s.pwr.entry = none) (hwake : s.pwr.wake = none) : s.powerCheck target = none := by
  simp [State.powerCheck, State.isBecalmed, hcalm, hcool, hentry, hwake]

/-- A BECALMED device serves SLEEP alone. -/
theorem State.powerCheck_becalmed {s : State} {target : Power} (hbecalmed : s.pwr.becalmed ≠ 0) (htarget : target ≠ .sleep) :
    s.powerCheck target = some .stateConflict :=
  if_pos ⟨bne_iff_ne.mpr hbecalmed, htarget⟩

/-- Its refusal is not counted. -/
theorem State.powerRefused_becalmed {s : State} (target : Power) (hbecalmed : s.pwr.becalmed ≠ 0) : s.powerRefused target = s := by
  have hserved : s.isBecalmed = true := bne_iff_ne.mpr hbecalmed
  exact if_neg fun h => by simp [hserved] at h

/-- Without an entry or a wake under way, a request is served. -/
theorem powerRequestAction_idle {s : State} (target : Power) (k : U32) (hentry : s.pwr.entry = none) (hwake : s.pwr.wake = none) :
    powerRequestAction target k s = s.serveRequest target (.host k) := by
  simp only [powerRequestAction, hentry, hwake, Option.isSome_none, Bool.false_eq_true, if_false]

section
variable {s : State} {target : Power} (who : Requester) (hcalm : s.pwr.becalmed = 0)
include hcalm

/-- No request of a served device is left aside. -/
theorem State.not_barred : ¬ (who.isHost = true ∧ s.isBecalmed = true ∧ target ≠ .sleep) := fun ⟨_, hbecalmed, _⟩ =>
  bne_iff_ne.mp hbecalmed hcalm

theorem State.serveRequest_present (htarget : s.pwr.state = target) : s.serveRequest target who = s := by
  rw [State.serveRequest, if_neg (State.not_barred who hcalm), if_pos htarget.symm]

theorem State.serveRequest_below (hbelow : target.below s.pwr.state = true) :
    s.serveRequest target who = s.enterRequest target who (who == .thermal) := by
  have hother : target ≠ s.pwr.state := fun h => by simp [h, Power.below] at hbelow
  rw [State.serveRequest, if_neg (State.not_barred who hcalm), if_neg hother, if_pos hbelow]

theorem State.serveRequest_above (hbelow : target.below s.pwr.state = false) (hother : target ≠ s.pwr.state)
    (hcool : s.therm.cooldown = none) : s.serveRequest target who = s.wakeStart target who := by
  rw [State.serveRequest, if_neg (State.not_barred who hcalm), if_neg hother, if_neg (Bool.eq_false_iff.mp hbelow),
    if_neg (by simp [hcool])]

end

/-- Every state but RUN lies below it. -/
theorem Power.below_run {target : Power} (hrun : target ≠ .run) (hoff : target ≠ .off) : target.below .run = true := by
  cases target with
  | run => exact absurd rfl hrun
  | off => exact absurd rfl hoff
  | hold => rfl
  | doze => rfl
  | sleep => rfl

/-! ### The message that asks -/

/-- What refuses an entry is not changed by a message. -/
theorem Reaches.refusers {s : State} {t : Time} {svc : Nat} {h : Hdr} {p : Bytes} {s2 : State} {r : Rcvd} (H : Reaches s t svc h p s2 r)
    (target : Power) (who : Requester) : s2.issueTicket.1.refusers target who = s.refusers target who := by
  obtain rfl | rfl := reaches_state H.heard
  · rfl
  · rfl

/-- A message is served at its instant. -/
theorem Reaches.now {s : State} {t : Time} {svc : Nat} {h : Hdr} {p : Bytes} {s2 : State} {r : Rcvd} (H : Reaches s t svc h p s2 r) :
    s2.issueTicket.1.now = max s.now t := (reaches_now_evt H.heard).1

section
variable {s : State} {t : Time} {h : Hdr} {v : Bytes} {s2 : State} {r : Rcvd} {x : Session} {o : Obj} {fl : Nat}

/-- A request that nothing stands against is answered with its ticket once it is served. -/
theorem Takes.powerRequest_runs (H : Takes s t Id.POWER_REQUEST h v s2 r x o fl) (hcalm : s.pwr.becalmed = 0)
    (hcool : s.therm.cooldown = none) (hentry : s.pwr.entry = none) (hwake : s.pwr.wake = none) :
    (doWriteObject t Id.POWER_REQUEST h v s).ticketedBy s2 r ∧
      Quiet (s2.issueTicket.1.serveRequest (powerOf (leNat v)) (.host s2.nextTicket)) (doWriteObject t Id.POWER_REQUEST h v s) := by
  have hpwr : s2.pwr = s.pwr := H.quiet.pwr
  have htherm : s2.therm = s.therm := H.quiet.therm
  have hcommand : s2.command r.h 0x11 x Id.POWER_REQUEST (leNat v) =
      s2.ticketed fun k y => powerRequestAction (powerOf (leNat v)) k y := by
    show s2.powerCommand (powerOf (leNat v)) = _
    rw [State.powerCommand, State.powerCheck_idle _ (hpwr ▸ hcalm) (htherm ▸ hcool) (hpwr ▸ hentry) (hpwr ▸ hwake)]
  obtain ⟨hticket, hquiet⟩ := H.ticketed_runs (cmd_of_lookup H.object (by decide +kernel)) hcommand
  rw [powerRequestAction_idle _ _ (H.quiet.pwr ▸ hentry) (H.quiet.pwr ▸ hwake)] at hquiet
  exact ⟨hticket, hquiet⟩

/-- A BECALMED device refuses every other request than SLEEP. -/
theorem Takes.powerRequest_refused (H : Takes s t Id.POWER_REQUEST h v s2 r x o fl) (hbecalmed : s.pwr.becalmed ≠ 0)
    (htarget : powerOf (leNat v) ≠ .sleep) : Quiet s (doWriteObject t Id.POWER_REQUEST h v s) ∧
      (doWriteObject t Id.POWER_REQUEST h v s).answered r.h 0x11 0xC0
        (abortBytes .stateConflict (Id.POWER_REQUEST / 256) (Id.POWER_REQUEST % 256) 0) := by
  have hpwr : s2.pwr = s.pwr := H.quiet.pwr
  refine H.command_refused (cmd_of_lookup H.object (by decide +kernel)) ?_
  show s2.powerCommand (powerOf (leNat v)) = _
  rw [State.powerCommand, State.powerCheck_becalmed (hpwr ▸ hbecalmed) htarget]
  dsimp only
  rw [State.powerRefused_becalmed _ (hpwr ▸ hbecalmed)]

end

/-- Settles O49: the present state, an entry, a wake and a refusal. -/
theorem powerRequestsAreServed : Obligations.PowerRequestsAreServed := by
  unfold Obligations.PowerRequestsAreServed
  intro c target n t h s s2 r x o fl hc H hentry hwake
  obtain ⟨hexec, hvalue, hoff⟩ := exec_powerRequest s hc
  have hpwr : s2.issueTicket.1.pwr = s.pwr := H.quiet.pwr
  refine ⟨fun hcalm hcool hstate => ?_, fun hcalm hcool hrun hlower htimer hfree => ?_, fun hcalm hcool hhold hgoal => ?_,
    fun hbecalmed hawake => ⟨_, hexec, H.powerRequest_refused hbecalmed (hvalue ▸ hawake)⟩⟩
  · obtain ⟨hticket, hquiet⟩ := H.powerRequest_runs hcalm hcool hentry hwake
    rw [hvalue, State.serveRequest_present _ (hpwr ▸ hcalm) (hpwr ▸ hstate)] at hquiet
    exact ⟨_, hexec, H.quiet.trans hquiet, hticket⟩
  · obtain ⟨hticket, hquiet⟩ := H.powerRequest_runs hcalm hcool hentry hwake
    have hbelow : target.below s2.issueTicket.1.pwr.state = true := by
      rw [hpwr, hrun]
      exact Power.below_run hlower hoff
    rw [hvalue, State.serveRequest_below _ (hpwr ▸ hcalm) hbelow,
      State.enterRequest_unrefused _ (H.quiet.scan ▸ htimer) ((H.refusers ..).trans (hfree _)), H.now, hpwr, hrun] at hquiet
    exact ⟨_, hexec, hticket, (congrArg Pwr.state hquiet.pwr).trans ((congrArg Pwr.state hpwr).trans hrun), congrArg Pwr.entry hquiet.pwr⟩
  · obtain ⟨hticket, hquiet⟩ := H.powerRequest_runs hcalm hcool hentry hwake
    have hbelow : target.below s2.issueTicket.1.pwr.state = false := by
      rw [hpwr, hhold, hgoal]
      rfl
    rw [hvalue, State.serveRequest_above _ (hpwr ▸ hcalm) hbelow (by rw [hpwr, hhold, hgoal]; decide) (H.quiet.therm ▸ hcool)] at hquiet
    refine ⟨_, hexec, hticket, ?_⟩
    rw [hquiet.pwr, State.wakeStart_wake, H.now, hpwr, hhold, hgoal]

end Sys2Proof.Machine
end

