-- ==== Sys2Proof/Proofs/Entries.lean ====
section
/-! PROOFS. Entries into lower power states (R292, R293, R295): tried again, given up, complete in HOLD, and without a column timer. -/

namespace Sys2Proof.Machine

open Sys2Proof

/-! ### Pending entries -/

/-- A pending entry without a refuser passes P1, and is on its way. -/
theorem doEntryRecheck_passes {t : Time} {e : Entry} {s : State} (hentry : s.pwr.entry = some e) (hstep : e.step = 0)
    (hafter : s.pwr.afterWake = []) (hwake : e.wake = none) (hfree : s.refusers e.target e.who = []) (htimer : s.scan.timer = true) :
    doEntryRecheck t s = (s.at t).setEntry (some { e with step := 2 }) := by
  unfold doEntryRecheck
  extract_lets s1
  rw [show s1.pwr.entry = some e from hentry]
  dsimp only
  rw [if_pos hstep, State.entryTry_passes (s := s1) hentry hstep hwake hfree htimer]
  exact State.serveAll_idle hafter

/-- The state in which an entry has failed: nothing is entered any more, and a pin that asked may ask again. -/
theorem State.pinFails_pwr (s : State) (who : Requester) : ∃ failed, (s.pinFails who).pwr = { s.pwr with pinFailed := failed } ∧
    (s.pinFails who).evt = s.evt := by
  unfold State.pinFails
  split
  · exact ⟨some s.now, rfl, rfl⟩
  · exact ⟨s.pwr.pinFailed, rfl, rfl⟩

/-- An entry that is still pending after ENTRY_TIMEOUT fails. -/
theorem doEntryTimeout_fails {t : Time} {e : Entry} {s : State} (hentry : s.pwr.entry = some e) (hstep : e.step = 0)
    (hafter : s.pwr.afterWake = []) (hdue : e.since + msec (s.cfgN Id.ENTRY_TIMEOUT) ≤ max s.now t) :
    doEntryTimeout t s =
      (((s.at t).setEntry none).raise 0x1004 1 (u32 e.target.code) (u32 e.refused) 0 e.who.ticket).pinFails e.who := by
  unfold doEntryTimeout
  extract_lets s1
  rw [show s1.pwr.entry = some e from hentry]
  have hdue1 : e.step = 0 ∧ e.since + msec (s1.cfgN Id.ENTRY_TIMEOUT) ≤ s1.now := ⟨hstep, hdue⟩
  refine (if_pos hdue1).trans (State.serveAll_idle ?_)
  obtain ⟨failed, hpwr, -⟩ := State.pinFails_pwr
    ((s1.setEntry none).raise 0x1004 1 (u32 e.target.code) (u32 e.refused) 0 e.who.ticket) e.who
  rw [hpwr, State.raise_pwr]
  exact hafter

/-- Before that it stays. -/
theorem doEntryTimeout_early {t : Time} {e : Entry} {s : State} (hentry : s.pwr.entry = some e)
    (hearly : max s.now t < e.since + msec (s.cfgN Id.ENTRY_TIMEOUT)) : doEntryTimeout t s = s.at t := by
  unfold doEntryTimeout
  extract_lets s1
  rw [show s1.pwr.entry = some e from hentry]
  have hwaits : ¬ (e.step = 0 ∧ e.since + msec (s1.cfgN Id.ENTRY_TIMEOUT) ≤ s1.now) := fun h => Nat.not_le.mpr hearly h.2
  exact if_neg hwaits

/-! ### HOLD (Table 14.3 step 4) -/

/-- A domain that HOLD marks off takes only its own parts with it. -/
theorem State.domDown_scan (s : State) {d : Nat} (mem : Nat) (hd : d ∈ scanDoms) : Within [.emit, .coil, .rx] s (s.domDown d mem) := by
  have hrange : 9 ≤ d ∧ d ≠ 14 ∧ d ≠ 15 := by
    have hall : ∀ n ∈ scanDoms, 9 ≤ n ∧ n ≠ 14 ∧ n ≠ 15 := by decide
    exact hall d hd
  obtain ⟨hlow, hhka, htimx⟩ := hrange
  unfold State.domDown
  rw [if_neg (by omega), if_neg (by omega), if_neg (by omega), if_neg (by omega), if_neg (by omega), if_neg (by omega),
    if_neg (by omega), if_neg hhka, if_neg htimx]
  exact ((State.bankDischarge_within s).ite ((Within.update [.coil] (by rfl)).ite
    ((State.modBand_within ..).ite (Within.refl s)))).up (by rfl)

/-- It is off, and where the device stands is as before. -/
theorem State.domOff_scan_powerMark (s : State) {d : Nat} (mem : Nat) (hd : d ∈ scanDoms) : (s.domOff mem d).powerMark = s.powerMark := by
  unfold State.domOff
  split
  · exact (State.domDown_scan s mem hd).powerMark
  · exact (State.domDown_scan s mem hd).powerMark
  · rfl
  · rfl

theorem State.domsOff_scan_powerMark (s : State) {l : List Nat} (mem : Nat) (hl : l ⊆ scanDoms) :
    (s.domsOff mem l).powerMark = s.powerMark := by
  refine List.foldlRecOn (motive := fun y : State => y.powerMark = s.powerMark) _ _ rfl fun y hy d hd => ?_
  exact (State.domOff_scan_powerMark y mem (hl hd)).trans hy

/-- An entry to HOLD that no request follows is complete. -/
theorem State.entryComplete_hold {s : State} {e : Entry} (htarget : e.target = .hold) (hafter : s.pwr.afterWake = []) :
    (s.entryComplete e).powerMark = (.hold, none, s.pwr.wake, []) ∧ (s.entryComplete e).coil = s.coil := by
  unfold State.entryComplete
  have hreach := s.reach_powerMark e.target
  obtain ⟨hstate, -, hwake, hafter1⟩ := State.powerMark_eq_iff.mp hreach
  have hcoil : (s.reach e.target).coil = s.coil := by
    unfold State.reach
    extract_lets _ s1
    split
    · rfl
    · split <;> rfl
  have hentered : ((s.reach e.target).setEntry none).powerMark = (.hold, none, s.pwr.wake, []) :=
    State.powerMark_eq_iff.mpr ⟨hstate.trans htarget, rfl, hwake, hafter1.trans hafter⟩
  have hquiet := State.stateChanged_quiet ((s.reach e.target).setEntry none) e.origin e.target e.who
  have hmark := (State.calStart_powerMark _).trans (hquiet.powerMark.trans hentered)
  obtain ⟨-, -, -, hidle⟩ := State.powerMark_eq_iff.mp hmark
  rw [State.serveAll_idle hidle]
  refine ⟨hmark, ?_⟩
  rw [(State.calStart_within _).part .coil (by decide), hquiet.coil]
  exact hcoil

/-- Step 4 completes an entry to HOLD. -/
theorem State.entryHold_complete {s : State} {e : Entry} (htarget : e.target = .hold) (hafter : s.pwr.afterWake = []) :
    (s.entryHold e).powerMark = (.hold, none, s.pwr.wake, []) ∧ (s.entryHold e).coil = .reset := by
  unfold State.entryHold
  extract_lets off s1 s2 s3
  have hoff : off ⊆ scanDoms := by
    unfold off
    split
    · decide
    · exact List.Subset.refl _
  have h1 : s1.powerMark = s.powerMark := State.domsOff_scan_powerMark s 0 hoff
  have h2 : s2.powerMark = s1.powerMark :=
    State.powerMark_ite (State.powerMark_foldl (fun _ _ => State.powerMark_ite (State.setDom_powerMark ..) rfl) _ s1) rfl
  obtain ⟨-, -, hwake, hidle⟩ := State.powerMark_eq_iff.mp ((h2.trans h1).trans (show s.powerMark = (s.pwr.state, s.pwr.entry, s.pwr.wake, []) by
    rw [← hafter]; rfl))
  obtain ⟨-, -, hwake3, hafter3⟩ := State.powerMark_eq_iff.mp (State.reach_powerMark { s2 with coil := .reset } .hold)
  have hcoil3 : s3.coil = .reset := by
    unfold s3 State.reach
    extract_lets _ s4
    split
    · rfl
    · split <;> rfl
  rw [if_pos htarget]
  obtain ⟨hmark, hcoil⟩ := State.entryComplete_hold (s := s3) htarget (hafter3.trans hidle)
  rw [hwake3.trans hwake] at hmark
  exact ⟨hmark, hcoil.trans hcoil3⟩

/-- ENTRY_STEP_DONE runs step 4 for an entry that waited for park and discharge. -/
theorem doEntryStepDone_hold {t : Time} {e : Entry} {s : State} (hentry : s.pwr.entry = some e) (hstep : e.step = 3)
    (htarget : e.target = .hold) (hafter : s.pwr.afterWake = []) : doEntryStepDone t s = (s.at t).entryHold e := by
  unfold doEntryStepDone
  extract_lets s1
  rw [show s1.pwr.entry = some e from hentry]
  dsimp only
  rw [if_neg (by rw [hstep]; rintro ⟨h, -⟩; cases h), if_pos hstep]
  obtain ⟨hmark, -⟩ := State.entryHold_complete (s := s1) htarget hafter
  exact State.serveAll_idle (State.powerMark_eq_iff.mp hmark).2.2.2

/-! ### Without a column timer (R293) -/

/-- The entry of a request, from where the device stands. -/
def State.requestEntry (s : State) (target : Power) (who : Requester) (forced : Bool) (step : Nat) : Entry :=
  { target, origin := s.pwr.state, who, since := s.now, step, forced, refused := 0, wake := none }

/-- An entry that nobody refuses, or that is forced, passes P1, and P2 follows at once. -/
theorem State.entryTry_moves {s : State} {e : Entry} (hentry : s.pwr.entry = some e) (hstep : e.step = 0) (hwake : e.wake = none)
    (hfree : e.forced = true ∨ s.refusers e.target e.who = []) (htimer : s.scan.timer = false) :
    s.entryTry = ((s.setEntry (some { e with step := 2 })).entryP2 { e with step := 2 }).1 := by
  have hcodes : ¬ (if e.forced = true then [] else s.refusers e.target e.who) ≠ [] := by
    obtain hforced | hfree := hfree
    · simp [hforced]
    · simp [hfree]
  unfold State.entryTry
  rw [hentry]
  dsimp -zeta only
  extract_lets codes e1 s1
  rw [if_neg (not_not_intro hstep), if_neg hcodes, if_neg (by simp [hwake])]
  exact if_neg (Bool.eq_false_iff.mp htimer)

/-- No abort point stops such an entry. -/
theorem State.abortReason_none {s : State} {e : Entry} (hwake : e.wake = none) (hfree : e.forced = true ∨ s.refusers e.target e.who = []) :
    s.abortReason e = none := by
  unfold State.abortReason
  obtain hforced | hfree := hfree
  · exact if_pos hforced
  · rw [hfree, hwake]
    split
    · rfl
    · rfl

/-- P2 of an entry from HOLD or DOZE leads to the notification of step 5. -/
theorem State.entryP2_notifies {s : State} {e : Entry} (hwake : e.wake = none) (hfree : e.forced = true ∨ s.refusers e.target e.who = [])
    (horigin : e.origin ≠ .run) : (s.entryP2 e).1 = (s.setEntry (some { e with step := 5 })).raise 0x1005 0 (u32 e.target.code) := by
  unfold State.entryP2
  rw [State.abortReason_none hwake hfree]
  refine (congrArg Prod.fst (if_neg horigin)).trans ?_
  rw [State.entryP3, State.abortReason_none hwake (hfree.imp_right (State.refusers_setEntry ..).trans)]
  rfl

/-- A request that nobody refuses, or that is forced, goes on to the notification of step 5 where no column timer runs. -/
theorem State.enterRequest_notifies {s : State} {target : Power} {who : Requester} {forced : Bool} (htimer : s.scan.timer = false)
    (hfree : forced = true ∨ s.refusers target who = []) (horigin : s.pwr.state ≠ .run) :
    s.enterRequest target who forced =
      (s.setEntry (some (s.requestEntry target who forced 5))).raise 0x1005 0 (u32 target.code) := by
  have htry : s.enterRequest target who forced = _ := State.entryTry_moves (s := s.setEntry (some (s.requestEntry target who forced 0)))
    (e := s.requestEntry target who forced 0) rfl rfl rfl (hfree.imp_right (State.refusers_setEntry ..).trans) htimer
  rw [htry, State.entryP2_notifies rfl (hfree.imp_right fun h => h) horigin]
  rfl

theorem doDozeSleepAfter_due {t : Time} {s : State} (hdoze : s.pwr.state = .doze) (hentry : s.pwr.entry = none) (hwake : s.pwr.wake = none)
    (htime : s.cfgN Id.DOZE_SLEEP_AFTER ≠ 0) (hdue : s.pwr.since + Sys2Proof.sec (s.cfgN Id.DOZE_SLEEP_AFTER) ≤ max s.now t) :
    doDozeSleepAfter t s = (s.at t).enterRequest .sleep .timer false :=
  if_pos ⟨hdoze, Option.isNone_iff_eq_none.mpr hentry, Option.isNone_iff_eq_none.mpr hwake, htime, hdue⟩

theorem doDozeSleepAfter_early {t : Time} {s : State} (hearly : max s.now t < s.pwr.since + Sys2Proof.sec (s.cfgN Id.DOZE_SLEEP_AFTER)) :
    doDozeSleepAfter t s = s.at t :=
  if_neg fun ⟨_, _, _, _, hdue⟩ => Nat.not_le.mpr hearly hdue

theorem doThermalForcedDoze_due {t c h : Time} {s : State} (hcool : s.therm.cooldown = some c) (hsince : s.therm.holdSince = some h)
    (hshut : s.therm.shut = true) (hhold : s.pwr.state = .hold) (hentry : s.pwr.entry = none) (hwake : s.pwr.wake = none)
    (hdue : h + Sys2Proof.sec 10 ≤ max s.now t) : doThermalForcedDoze t s = (s.at t).enterRequest .doze .thermal true := by
  unfold doThermalForcedDoze
  extract_lets s1
  rw [show s1.therm.cooldown = some c from hcool, show s1.therm.holdSince = some h from hsince]
  exact if_pos ⟨hdue, hshut, hhold, Option.isNone_iff_eq_none.mpr hentry, Option.isNone_iff_eq_none.mpr hwake⟩

/-- Settles O50: each entry by its step, its time and what stands against it. -/
theorem entriesGoStepByStep : Obligations.EntriesGoStepByStep := by
  unfold Obligations.EntriesGoStepByStep
  refine ⟨fun t e s hentry hstep hafter => ⟨fun _ hwake hfree htimer => ?_, fun hdue => ?_, fun hearly => ?_⟩,
    fun t e s hentry hstep htarget hafter => ?_,
    fun t s hdoze hentry hwake htime htimer hfree => ⟨fun hdue => ?_, fun hearly => ?_⟩,
    fun t c h s hcool hsince hshut hhold hentry hwake htimer hdue => ?_⟩
  · exact ⟨_, congrArg Host.Outcome.next (doEntryRecheck_passes hentry hstep hafter hwake hfree htimer), rfl⟩
  · obtain ⟨failed, hpwr, hevt⟩ := State.pinFails_pwr
      (((s.at t).setEntry none).raise 0x1004 1 (u32 e.target.code) (u32 e.refused) 0 e.who.ticket) e.who
    refine ⟨_, congrArg Host.Outcome.next (doEntryTimeout_fails hentry hstep hafter hdue), ?_, ?_, ?_⟩
    · rw [hpwr, State.raise_pwr]
      rfl
    · rw [hpwr, State.raise_pwr]
      rfl
    · have htold := State.raise_told ((s.at t).setEntry none) 0x1004 1 (u32 e.target.code) (u32 e.refused) 0 e.who.ticket
      exact (htold.same (congrArg Evt.ring hevt)).told (by decide)
  · exact congrArg Host.Outcome.next (doEntryTimeout_early hentry hearly)
  · obtain ⟨hmark, hcoil⟩ := State.entryHold_complete (s := s.at t) htarget hafter
    obtain ⟨hstate, hgone, -, -⟩ := State.powerMark_eq_iff.mp hmark
    exact ⟨_, congrArg Host.Outcome.next (doEntryStepDone_hold hentry hstep htarget hafter), hgone, hstate, hcoil⟩
  · have hrun := (doDozeSleepAfter_due (t := t) hdoze hentry hwake htime hdue).trans (State.enterRequest_notifies (s := s.at t) htimer
      (.inr hfree) (by rw [State.at_pwr, hdoze]; decide))
    refine ⟨_, congrArg Host.Outcome.next hrun, ?_, ?_⟩
    · rw [State.raise_pwr, State.requestEntry, State.at_pwr, hdoze]
      rfl
    · exact (State.raise_told ((s.at t).setEntry _) 0x1005 0 (u32 Power.sleep.code) 0 0 0).told (by decide)
  · exact congrArg Host.Outcome.next (doDozeSleepAfter_early hearly)
  · have hrun := (doThermalForcedDoze_due (t := t) hcool hsince hshut hhold hentry hwake hdue).trans
      (State.enterRequest_notifies (s := s.at t) htimer (.inl rfl) (by rw [State.at_pwr, hhold]; decide))
    refine ⟨_, (s.at t).requestEntry .doze .thermal true 5, congrArg Host.Outcome.next hrun, ?_, rfl, rfl, rfl⟩
    rw [State.raise_pwr]
    rfl

end Sys2Proof.Machine
end

