-- ==== Sys2Proof/Proofs/Becalming.lean ====
section
/-! PROOFS. BECALMED (R244, R301): the column timer stops, and of the power state only its cause and the domains' states move. -/

namespace Sys2Proof.Machine

open Sys2Proof

/-! ### The power state but for the domains -/

/-- What AO keeps of power, the states of the domains apart. -/
def State.supply (s : State) : Pwr := { s.pwr with doms := [] }

/-- What is read of it is what AO holds. -/
theorem State.supply_field {α : Type} {s : State} {p : Pwr} (h : s.supply = p) (f : Pwr → α) (hf : ∀ z : Pwr, f { z with doms := [] } = f z) :
    f s.pwr = f p := (hf s.pwr).symm.trans (congrArg f h)

theorem Within.supply {l : List Part} {s u : State} (h : Within l s u) (hpwr : .pwr ∉ l := by decide) : u.supply = s.supply := by
  have hsame : u.pwr = s.pwr := h.part .pwr hpwr
  simp only [State.supply, hsame]

theorem State.supply_foldl {α : Type} {f : State → α → State} (h : ∀ y a, (f y a).supply = y.supply) (l : List α) (s : State) :
    (l.foldl f s).supply = s.supply :=
  List.foldlRecOn (motive := fun y : State => y.supply = s.supply) _ _ rfl fun y hy a _ => (h y a).trans hy

theorem State.supply_ite {s a b : State} {c : Prop} [Decidable c] (ha : a.supply = s.supply) (hb : b.supply = s.supply) :
    (if c then a else b).supply = s.supply := by
  split
  · exact ha
  · exact hb

/-- A band that changes with its domain. -/
theorem State.setDom_modBand_supply (s : State) (d : Nat) (v : DomState) (b : Nat) (f : Band → Band) :
    ((s.setDom d v).modBand b f).supply = s.supply := rfl

/-! ### Calibration tickets that start and end -/

theorem State.calHold_supply (s : State) : s.calHold.supply = s.supply := by
  unfold State.calHold
  split
  · exact State.supply_ite (State.supply_foldl (fun _ _ => State.supply_ite (State.setDom_modBand_supply ..) rfl) _ s) rfl
  · rfl

theorem State.calRelease_supply (s : State) : s.calRelease.supply = s.supply :=
  State.supply_foldl (fun _ _ => State.supply_ite (State.setDom_modBand_supply ..) rfl) _ s

theorem State.calStart_supply (s : State) : s.calStart.supply = s.supply := by
  unfold State.calStart
  split
  · exact State.supply_ite rfl (State.calHold_supply _)
  · rfl

theorem State.calAbort_supply (s : State) (keep : Nat → Bool) : (s.calAbort keep).supply = s.supply := by
  unfold State.calAbort
  extract_lets ended _ s1 s2
  have h2 : s2.supply = s1.supply := State.supply_foldl
    (fun y k => ((Within.update (s := y) [.cal] (by rfl)).then (State.calDone_quiet _ k 3)).supply) ended s1
  exact (State.calStart_supply _).trans ((State.supply_ite (State.calRelease_supply s2) rfl).trans h2)

/-! ### BECALMED -/

/-- No column follows. -/
theorem State.timerStop_stops (s : State) : s.timerStop.scan.timer = false := by
  unfold State.timerStop
  split
  · exact congrArg Scan.timer ((State.capTimerStop_within _).scan)
  · next htimer => exact Bool.eq_false_iff.mpr htimer

theorem State.timerStop_within (s : State) : Within [.scan, .rx, .front, .cap, .stream, .flash] s s.timerStop := by
  unfold State.timerStop
  extract_lets _ _ _ s1
  exact (((Within.update (s := s) (u := s1) [.scan, .rx, .front] (by rfl)).seq (State.capTimerStop_within s1)).ite (Within.refl s)).up (by rfl)

/-- What follows the end of the column timer. -/
theorem State.becalm_follows (s : State) (cause : Nat) :
    Within [.emit, .coil, .laneA, .laneB, .rx, .pwr, .cal] s (((s.tripSet 10).bankDischarge.enginePark cause).mirrPark.calBecalm) :=
  ((State.tripSet_within ..).seq ((State.bankDischarge_within _).seq ((State.enginePark_within ..).seq ((State.mirrPark_within _).seq
    (State.calAbort_within ..))))).up (by rfl)

theorem State.becalm_timer (s : State) (cause : Nat) : (s.becalm cause).scan.timer = false :=
  (congrArg Scan.timer ((State.becalm_follows _ 4).scan)).trans (State.timerStop_stops _)

/-- The cause of a lapse does not replace one of chapter 14. -/
theorem State.becalm_supply (s : State) (cause : Nat) : (s.becalm cause).supply =
    { s.supply with becalmed := if cause = 1 ∧ s.pwr.becalmed ≠ 0 then s.pwr.becalmed else cause } := by
  unfold State.becalm
  extract_lets keep _ s1
  have hpark : Within [.scan, .rx, .front, .cap, .stream, .flash, .emit, .coil, .laneA, .laneB] s1
      (((s1.timerStop.tripSet 10).bankDischarge.enginePark 4).mirrPark) :=
    ((State.timerStop_within s1).seq ((State.tripSet_within ..).seq ((State.bankDischarge_within _).seq
      ((State.enginePark_within ..).seq (State.mirrPark_within _))))).up (by rfl)
  exact (State.calAbort_supply ..).trans hpark.supply

/-- A device that is BECALMED has a cause for it. -/
theorem State.becalm_becalmed (s : State) {cause : Nat} (hcause : cause ≠ 0) : (s.becalm cause).pwr.becalmed ≠ 0 := by
  have hfield := State.supply_field (State.becalm_supply s cause) Pwr.becalmed fun _ => rfl
  rw [hfield]
  dsimp only
  split
  · next hkeep => exact hkeep.2
  · exact hcause

end Sys2Proof.Machine
end

