-- ==== Sys2Proof/Proofs/DomainFailures.lean ====
section
/-! PROOFS. Attempts that fail, receiver domains that are FAILED (R299, R300), the loss of the crystal (R301) and the correction for its
drift (R310). -/

namespace Sys2Proof.Machine

open Sys2Proof

/-! ### Domains of the bands -/

/-- A band's domain stands behind the first sixteen, and nothing else hangs on it. -/
theorem bandDom_not_essential (b : Nat) : 16 ≤ bandDom b ∧ essentialDom (bandDom b) = false := by
  have hlow : 16 ≤ bandDom b := Nat.le_add_right ..
  refine ⟨hlow, ?_⟩
  simp only [essentialDom, List.mem_cons, List.not_mem_nil, or_false, decide_eq_false_iff_not]
  omega

/-- The loss of its power touches the receiver alone. -/
theorem State.domDown_bandDom (s : State) (b mem : Nat) : s.domDown (bandDom b) mem = s.modBand b Band.powerDown := by
  obtain ⟨hlow, -⟩ := bandDom_not_essential b
  have hband : bandDom b - 16 = b := Nat.add_sub_cancel_left ..
  unfold State.domDown
  rw [if_neg (by omega), if_neg (by omega), if_neg (by omega), if_neg (by omega), if_neg (by omega), if_neg (by omega), if_neg (by omega),
    if_neg (by omega), if_neg (by omega), if_neg (by omega), if_neg (by omega), if_pos hlow, hband]

/-- A FAILED domain is marked. -/
theorem State.markFailed_isFailed {s : State} {d : Nat} (cause : Nat) (hd : d < s.pwr.doms.length) :
    (s.markFailed d cause).isFailed d = true := by
  simp [State.markFailed, State.isFailed, State.dom, setAt, hd]

/-- A band whose domain has failed is FAILED, and the domains stay as they are. -/
theorem State.bandLost_fails {s : State} {b : Nat} (cause : Nat) (hb : b < s.rx.bands.length) :
    ((s.bandLost b cause).band b).state = .failed ∧ (s.bandLost b cause).pwr = s.pwr := by
  unfold State.bandLost
  extract_lets ticket s1
  refine ⟨?_, State.raise_pwr ..⟩
  rw [State.band_congr (State.raise_rx ..), State.modBand_band _ hb]

/-- A band's domain that fails takes its band with it. -/
theorem State.domainFailed_band {s : State} {b : Nat} (cause : Nat) (hdom : bandDom b < s.pwr.doms.length) (hb : b < s.rx.bands.length) :
    (s.domainFailed (bandDom b) cause).isFailed (bandDom b) = true ∧ ((s.domainFailed (bandDom b) cause).band b).state = .failed := by
  obtain ⟨hlow, hplain⟩ := bandDom_not_essential b
  have hband : bandDom b - 16 = b := Nat.add_sub_cancel_left ..
  unfold State.domainFailed
  extract_lets lane s1
  have hs1 : s1 = (s.modBand b Band.powerDown).markFailed (bandDom b) cause := by
    have hlane : ¬ lane := by
      rintro (h | h) <;> omega
    simp only [s1, if_neg hlane, State.domDown_bandDom]
  have hfailed : s1.isFailed (bandDom b) = true := hs1 ▸ State.markFailed_isFailed cause hdom
  have hlength : b < s1.rx.bands.length := by
    rw [hs1, (State.markFailed_within ..).rx]
    simpa [State.modBand, modAt] using hb
  rw [if_neg (Bool.eq_false_iff.mp hplain), if_neg (by omega), if_neg (by omega), if_pos hlow, hband]
  obtain ⟨hstate, hpwr⟩ := State.bandLost_fails (if cause = 3 then 3 else 5) hlength
  refine ⟨?_, hstate⟩
  rw [State.isFailed, State.dom, hpwr]
  exact hfailed

/-! ### Attempts (Table 14.9) -/

/-- One of the first two attempts that fail is repeated. -/
theorem doDomainPowerGoodFail_retries {t : Time} {d : Fin 32} {clock : Bool} {s : State} (hd : d.val ≠ 0) (hwaking : s.waking d.val = true)
    (htries : s.pwr.tries.getD d.val 0 < 2) : doDomainPowerGoodFail t d clock s =
      ({ s.at t with pwr := { s.pwr with tries := setAt s.pwr.tries d.val (s.pwr.tries.getD d.val 0 + 1) } } : State).count Id.DOMAIN_RETRIES := by
  unfold doDomainPowerGoodFail
  extract_lets s1 n _ s2
  have hwaking1 : s1.waking d.val = true := hwaking
  have hn : n < 3 := Nat.succ_lt_succ htries
  rw [if_neg (by simp [hd, hwaking1]), if_pos hn]
  rfl

/-- The third one makes the domain FAILED. -/
theorem doDomainPowerGoodFail_fails {t : Time} {d : Fin 32} {clock : Bool} {s : State} (hd : d.val ≠ 0) (hwaking : s.waking d.val = true)
    (htries : 2 ≤ s.pwr.tries.getD d.val 0) : doDomainPowerGoodFail t d clock s =
      ({ s.at t with pwr := { s.pwr with tries := setAt s.pwr.tries d.val (s.pwr.tries.getD d.val 0 + 1) } } : State).domainFailed d.val
        (if clock then 2 else 1) := by
  unfold doDomainPowerGoodFail
  extract_lets s1 n _ s2
  have hwaking1 : s1.waking d.val = true := hwaking
  have hn : ¬ n < 3 := Nat.not_lt.mpr (Nat.succ_le_succ htries)
  rw [if_neg (by simp [hd, hwaking1]), if_neg hn]
  rfl

/-- A powered domain that does not answer is FAILED. -/
theorem doCrossingNoResponse_fails {t : Time} {d : Fin 32} {s : State} (hd : d.val ≠ 0) (hon : s.isOn d.val = true) :
    doCrossingNoResponse t d s = ((s.at t).count Id.NO_RESPONSES).domainFailed d.val 3 := by
  unfold doCrossingNoResponse
  extract_lets s1
  have hon1 : s1.isOn d.val = true := hon
  exact if_neg (by simp [hd, hon1])

/-! ### The crystal -/

/-- The loss of the crystal becalms a device that serves. -/
theorem doXtalFallback_becalms {t : Time} {s : State} (hawake : s.awake = true) (hserved : s.pwr.served = true)
    (hgood : s.pwr.xtalFailed = false) : doXtalFallback t s = (s.at t).xtalFallback := by
  have hruns : ((s.at t).awake && (s.at t).pwr.served && !(s.at t).pwr.xtalFailed) = true := by
    rw [show (s.at t).awake = true from hawake, State.at_pwr, hserved, hgood]
    rfl
  exact if_pos hruns

/-- A crystal or a domain that becalms the device is the cause that stands. -/
theorem State.becalmPower_state (s : State) {cause : Nat} (dom : Nat) (hcause : cause ≠ 1) :
    (s.becalmPower cause dom).pwr.xtalFailed = s.pwr.xtalFailed ∧ (s.becalmPower cause dom).pwr.becalmed = cause ∧
      (s.becalmPower cause dom).scan.timer = false := by
  unfold State.becalmPower
  generalize hy : ({ s with pwr := { s.pwr with wake := none } } : State) = y
  have hxtal : y.pwr.xtalFailed = s.pwr.xtalFailed := by rw [← hy]
  have hsupply := State.becalm_supply y cause
  rw [if_neg fun h => hcause h.1] at hsupply
  rw [State.raise_pwr, State.raise_scan]
  exact ⟨(State.supply_field hsupply Pwr.xtalFailed fun _ => rfl).trans hxtal, State.supply_field hsupply Pwr.becalmed fun _ => rfl,
    State.becalm_timer ..⟩

theorem State.xtalFallback_state (s : State) :
    s.xtalFallback.pwr.xtalFailed = true ∧ s.xtalFallback.pwr.becalmed = 2 ∧ s.xtalFallback.scan.timer = false := by
  unfold State.xtalFallback
  generalize hy : ({ s with pwr := { s.pwr with xtalFailed := true } } : State).raise 0x1007 3 = y
  have hfailed : y.pwr.xtalFailed = true := by rw [← hy, State.raise_pwr]
  obtain ⟨hxtal, hcause, htimer⟩ := State.becalmPower_state y (cause := 2) 255 (by decide)
  exact ⟨hxtal.trans hfailed, hcause, htimer⟩

/-- A value that is limited lies between its limits. -/
theorem clampInt_mem (v : Int) {lo hi : Int} (h : lo ≤ hi) : lo ≤ clampInt lo hi v ∧ clampInt lo hi v ≤ hi := by
  unfold clampInt
  split
  · exact ⟨le_refl lo, h⟩
  · split
    · exact ⟨h, le_refl hi⟩
    · omega

/-- Between columns the correction moves at once. -/
theorem doXtalComp_moves {t : Time} {s : State} (hholder : s.arb.holder ≠ none) (hawake : s.awake = true) (hown : s.bus.onClk = false)
    (htimer : s.scan.timer = false) : ∃ goal, (doXtalComp t s).therm.xtal = clampInt (s.therm.xtal - 100) (s.therm.xtal + 100) goal ∧
      (doXtalComp t s).therm.xtalNext = none := by
  unfold doXtalComp
  extract_lets s1 goal next zavex _ x
  have hawake1 : s1.awake = true := hawake
  have hholder1 : ¬ s1.arb.holder.isNone = true := fun h => hholder (Option.isNone_iff_eq_none.mp h)
  rw [if_neg (by simp [hawake1, hholder1]), if_neg (show ¬ s1.bus.onClk = true from Bool.eq_false_iff.mp hown),
    if_neg (show ¬ s1.scan.timer = true from Bool.eq_false_iff.mp htimer)]
  exact ⟨goal, rfl, rfl⟩

/-- Settles O52: attempts by their count, a band's domain with its band, and the crystal. -/
theorem domainsAndCrystalFail : Obligations.DomainsAndCrystalFail := by
  unfold Obligations.DomainsAndCrystalFail
  refine ⟨fun t d clock s hd hwaking htries => ⟨_, congrArg Host.Outcome.next (doDomainPowerGoodFail_retries hd hwaking htries), ?_, ?_⟩,
    fun t b d clock s hdom hdoms hbands => ?_, fun t s hawake hserved hgood => ?_, fun t s hholder hawake hown htimer => ?_⟩
  · exact State.count_pwr ..
  · rw [State.count_counter, if_neg (by decide)]
    rfl
  · obtain ⟨hlow, -⟩ := bandDom_not_essential b.val
    have hd : d.val ≠ 0 := by omega
    have hplace : bandDom b.val < s.pwr.doms.length := by
      rw [hdoms, ← hdom]
      exact d.isLt
    have hband : b.val < s.rx.bands.length := hbands.symm ▸ b.isLt
    rw [hdom] at hd ⊢
    refine ⟨fun hon => ?_, fun hwaking htries => ?_⟩
    · refine ⟨_, congrArg Host.Outcome.next (doCrossingNoResponse_fails (hdom.symm ▸ hd) (hdom.symm ▸ hon)), ?_⟩
      rw [hdom]
      exact State.domainFailed_band 3 (by rw [State.count_pwr]; exact hplace) (by rw [State.count_rx]; exact hband)
    · refine ⟨_, congrArg Host.Outcome.next
        (doDomainPowerGoodFail_fails (hdom.symm ▸ hd) (hdom.symm ▸ hwaking) (hdom.symm ▸ htries)), ?_⟩
      rw [hdom]
      exact State.domainFailed_band _ hplace hband
  · exact ⟨_, congrArg Host.Outcome.next (doXtalFallback_becalms hawake hserved hgood), State.xtalFallback_state _⟩
  · obtain ⟨goal, hxtal, hnext⟩ := doXtalComp_moves (t := t) hholder hawake hown htimer
    obtain ⟨hlow, hhigh⟩ := clampInt_mem goal (show s.therm.xtal - 100 ≤ s.therm.xtal + 100 by omega)
    rw [← hxtal] at hlow hhigh
    exact ⟨_, rfl, hhigh, hlow, hnext⟩

end Sys2Proof.Machine
end

