-- ==== Sys2Proof/Proofs/Datagrams.lean ====
section
/-! PROOFS. The network (R15, R53, R54, R264 to R266, R276): datagrams and marks leave, the link, gPTP and CAN come and go. -/

namespace Sys2Proof.Machine

open Sys2Proof

/-! ### Datagrams that leave (R264, R266, R276) -/

/-- Messages sent in turn stand in turn behind those before them. -/
theorem send_foldl_out {α : Type} (f : α → OutMsg) (l : List α) (s : State) :
    (l.foldl (fun y a => y.send (f a)) s).out = s.out ++ l.map f := by
  induction l generalizing s with
  | nil => simp
  | cons a l ih => rw [List.foldl_cons, ih, State.send_out, List.map_cons, List.append_assoc, List.singleton_append]

/-- A datagram is sent once to each of its destinations still subscribed. -/
theorem State.sendStream_out (s : State) (dests : List U32) (bs : Bytes) : (s.sendStream dests bs).out =
    s.out ++ (s.stream.subs.filter fun b => b.num ∈ dests).map fun b => .stream b.num.toNat bs :=
  send_foldl_out ..

theorem State.sendStream_stream (s : State) (dests : List U32) (bs : Bytes) : (s.sendStream dests bs).stream = s.stream := by
  unfold State.sendStream
  generalize s.stream.subs.filter (fun b => decide (b.num ∈ dests)) = l
  induction l generalizing s with
  | nil => rfl
  | cons b l ih => exact (ih _).trans (State.send_stream ..)

theorem doDatagramSent_frame {t : Time} {s : State} {d : Datagram} {rest : List Datagram} (hup : s.streaming = true)
    (hq : s.stream.queue0 = d :: rest) : doDatagramSent t 0 s =
      { s.at t with stream := { s.stream with queue0 := rest } }.sendStream d.dests d.bytes := by
  have hup' : (s.at t).streaming = true := hup
  simp only [doDatagramSent, hup', State.at_stream, hq]
  rfl

theorem doDatagramSent_segment {t : Time} {s : State} {d : Datagram} {rest : List Datagram} (hup : s.streaming = true)
    (hq : s.stream.queue1 = d :: rest) (hlast : d.last = false) : doDatagramSent t 1 s =
      { s.at t with stream := { s.stream with queue1 := rest } }.sendStream d.dests d.bytes := by
  have hup' : (s.at t).streaming = true := hup
  simp only [doDatagramSent, hup', State.at_stream, hq, hlast]
  rfl

/-- A datagram takes no more items than it may. -/
theorem takeItems_length (n room : Nat) (l : List Bytes) : (takeItems n room l).1.length ≤ n := by
  induction n generalizing room l with
  | zero => cases l <;> exact Nat.le_refl 0
  | succ n ih => cases l with
    | nil => exact Nat.zero_le _
    | cons i r =>
      rw [takeItems]
      split
      · exact Nat.succ_le_succ (ih _ _)
      · exact Nat.zero_le _

theorem doMarksSend_stream {t : Time} {s : State} (hup : s.streaming = true) (hitems : s.stream.items ≠ []) (hsubs : s.subsOf 0 ≠ []) :
    (doMarksSend t s).stream =
      { s.stream with items := (takeItems 40 1436 s.stream.items).2, itemsSeq := s.stream.itemsSeq + 1 } := by
  have hup' : (s.at t).streaming = true := hup
  have hsubs' : (s.at t).subsOf 0 ≠ [] := hsubs
  unfold doMarksSend
  extract_lets y subs p n y1
  rw [if_neg (by simp [y, subs, hup', hitems, hsubs'])]
  exact State.sendStream_stream ..

/-! ### The link (R54, R265) -/

/-- The datagrams that wait, and the segment being offloaded. -/
def State.waiting (s : State) : List Datagram × List Datagram × Option U32 := (s.stream.queue0, s.stream.queue1, s.stream.offload)

theorem State.waiting_congr {s u : State} (h : u.stream = s.stream) : u.waiting = s.waiting := by
  rw [State.waiting, h, State.waiting]

theorem State.weirEvent_waiting (s : State) : s.weirEvent.waiting = s.waiting := by
  unfold State.weirEvent
  extract_lets due _ s1
  split
  · exact (State.waiting_congr (State.raise_stream s1 ..)).trans rfl
  · rfl

theorem State.weirDrop_waiting (s : State) (frame : U32) : (s.weirDrop frame).waiting = s.waiting := by
  unfold State.weirDrop
  extract_lets s1 t
  rw [State.weirEvent_waiting]
  exact (rfl : _ = s1.waiting).trans (State.waiting_congr (State.count_stream s ..))

theorem State.weirDrop_ringGrows (s : State) (frame : U32) : RingGrows s (s.weirDrop frame) := by
  unfold State.weirDrop State.weirEvent
  extract_lets s1 t due _ s2
  split
  · exact (State.count_ringGrows s ..).trans (State.raise_ringGrows s2 ..)
  · exact State.count_ringGrows s ..

/-- Without a link no datagram waits. -/
theorem State.streamLost_waiting (s : State) : s.streamLost.waiting = ([], [], none) := by
  unfold State.streamLost
  extract_lets fs _ s1
  suffices h : ∀ y : State, (fs.foldl State.weirDrop y).waiting = y.waiting from h s1
  induction fs with
  | nil => exact fun _ => rfl
  | cons f fs ih => exact fun y => (ih _).trans (State.weirDrop_waiting ..)

theorem State.streamLost_ringGrows (s : State) : RingGrows s s.streamLost := by
  unfold State.streamLost
  extract_lets fs _ s1
  suffices h : ∀ y : State, RingGrows y (fs.foldl State.weirDrop y) from h s1
  induction fs with
  | nil => exact fun y => ⟨[], rfl⟩
  | cons f fs ih => exact fun y => (State.weirDrop_ringGrows ..).trans (ih _)

/-- The offload of a segment raises nothing. -/
theorem State.startOffload_evt (s : State) : s.startOffload.evt = s.evt := by
  unfold State.startOffload
  extract_lets subs
  split
  · rfl
  · split <;> rfl

theorem doLinkUp_up {t : Time} {s : State} (hnet : s.isOn 2 = true) (hlink : s.net.link = false) :
    (doLinkUp t s).net = { s.net with link := true, gptp := if s.net.gptp = 0 then 1 else s.net.gptp } ∧
      Told s (doLinkUp t s) 0xA001 0 (u32 (s.cfgN Id.ETH_MODE)) 0 0 0 := by
  unfold doLinkUp
  extract_lets y _ y1
  rw [if_neg (by simp [y, hnet, hlink])]
  refine ⟨(State.startOffload_within _).quiet.net.trans (State.raise_net ..), ?_⟩
  exact ((State.raise_told y1 ..).same (congrArg Evt.ring (State.startOffload_evt _))).told (by decide)

theorem doLinkDown_down {t : Time} {s : State} (hlink : s.net.link = true) :
    (doLinkDown t s).net.link = false ∧ (doLinkDown t s).waiting = ([], [], none) ∧ Told s (doLinkDown t s) 0xA002 1 0 0 0 0 := by
  unfold doLinkDown
  extract_lets y
  rw [if_neg (by simp [y, hlink])]
  generalize hz : ({ y with net := y.net.unlinked } : State) = z
  refine ⟨?_, ?_, RingGrows.raise_told (s := s) (?_ : RingGrows s z.streamLost) ..⟩
  · rw [State.raise_net, (State.streamLost_within z).quiet.net, ← hz]
    rfl
  · exact (State.waiting_congr (State.raise_stream ..)).trans (State.streamLost_waiting z)
  · exact RingGrows.trans ⟨[], by rw [← hz]; rfl⟩ (State.streamLost_ringGrows z)

/-! ### gPTP and CAN (R15, R53) -/

/-- A change of the network that is told. -/
theorem State.net_told (s : State) (t : Time) (n : Net) (code sev : Nat) (p : U32) :
    (({ s.at t with net := n } : State).raise code sev p).net = n ∧ Told s (({ s.at t with net := n } : State).raise code sev p) code sev p 0 0 0 :=
  ⟨State.raise_net .., (State.raise_told ..).told (by decide)⟩

theorem doGptpSynced_synced {t : Time} {o v : Int} {s : State} (hnet : s.isOn 2 = true) (hlink : s.net.link = true) :
    (doGptpSynced t o v s).net = { s.net with gptp := 2, offset := o, servo := v } ∧
      (s.net.gptp ≠ 2 → Told s (doGptpSynced t o v s) 0xA010 0 (u32i o) 0 0 0) := by
  unfold doGptpSynced
  extract_lets y _ y1
  rw [if_neg (by simp [y, hnet, hlink])]
  by_cases hsynced : y.net.gptp = 2
  · rw [if_pos hsynced]
    exact ⟨rfl, fun h => absurd hsynced h⟩
  · rw [if_neg hsynced]
    obtain ⟨hn, htold⟩ := s.net_told t { s.net with gptp := 2, offset := o, servo := v } 0xA010 0 (u32i o)
    exact ⟨hn, fun _ => htold⟩

/-- Settles O45: what leaves the queues, and each change of the network with its event. -/
theorem datagramsLeaveWhileTheNetworkIsUp : Obligations.DatagramsLeaveWhileTheNetworkIsUp := by
  unfold Obligations.DatagramsLeaveWhileTheNetworkIsUp
  refine ⟨fun t s d rest hup hq => ⟨_, rfl, ?_⟩, fun t s d rest hup hq hlast => ⟨_, rfl, ?_⟩,
    fun t s hup hitems hsubs => ⟨_, rfl, ?_, ?_, takeItems_length ..⟩, fun t s hnet hlink => ⟨_, rfl, doLinkUp_up hnet hlink⟩,
    fun t s hlink => ⟨_, rfl, ?_⟩, fun t o v s hnet hlink => ⟨_, rfl, doGptpSynced_synced hnet hlink⟩, fun t s hgptp => ⟨_, rfl, ?_⟩,
    fun t s hcan hoff => ⟨_, rfl, ?_⟩, fun t s hoff => ⟨_, rfl, ?_⟩⟩
  · rw [doDatagramSent_frame hup hq]
    exact ⟨State.sendStream_stream .., State.sendStream_out ..⟩
  · rw [doDatagramSent_segment hup hq hlast]
    exact ⟨State.sendStream_stream .., State.sendStream_out ..⟩
  · rw [doMarksSend_stream hup hitems hsubs]
  · rw [doMarksSend_stream hup hitems hsubs]
  · obtain ⟨hn, hwaiting, htold⟩ := doLinkDown_down (t := t) hlink
    obtain ⟨h0, h1, hoffload⟩ := by simpa only [State.waiting, Prod.mk.injEq] using hwaiting
    exact ⟨hn, h0, h1, hoffload, htold⟩
  · rw [show doGptpLost t s = _ from if_pos hgptp]
    exact s.net_told ..
  · rw [show doCanBusOff t s = _ from if_pos (by simp [hcan, hoff])]
    exact s.net_told ..
  · rw [show doCanRecovered t s = _ from if_pos hoff]
    exact s.net_told ..

end Sys2Proof.Machine
end

