-- ==== Sys2Proof/Proofs/Subscriptions.lean ====
section
/-! PROOFS. STREAM_SUBSCRIBE (R263): a subscription opens under the next number, or the session's own ends. -/

namespace Sys2Proof.Machine

open Sys2Proof

/-! ### An answer leaves the streams of a session that lasts -/

/-- A session that is still there was not closed for its freshness. -/
theorem State.freshLimit_kept {s : State} {tr : Transport} {n : Byte} {x : Session} (hx : (s.freshLimit tr n).session? tr n = some x) :
    s.freshLimit tr n = s := by
  unfold State.freshLimit at hx ⊢
  split at hx
  · split at hx
    · rw [State.closeSession_gone] at hx
      cases hx
    · rename_i hlast
      exact if_neg hlast
  · rfl

theorem State.answer_stream {s : State} {h : Hdr} {x : Session} (h0 : h.session ≠ 0) (hx : s.session? h.transport h.session = some x)
    (hlasts : x.lasts) (svc flags : Nat) (p : Bytes) : (s.answer h svc flags p).stream = s.stream := by
  obtain ⟨b, hb⟩ := State.answer_session h0 hx hlasts svc flags p
  unfold State.answer at hb ⊢
  extract_lets q s1 ident bytes s2 s3 at hb ⊢
  rw [if_neg h0] at hb ⊢
  have h1 : s1.stream = s.stream := by
    show (s.nextFresh h.transport h.session).1.stream = _
    unfold State.nextFresh
    split <;> rfl
  have h2 : s2.stream = s1.stream := by
    show (s1.sendBaspo ..).stream = _
    unfold State.sendBaspo
    split <;> rfl
  have h3 : s3.stream = s2.stream := by
    show (if h.session = 0 then s2 else _).stream = _
    rw [if_neg h0]
    rfl
  rw [State.freshLimit_kept hb, h3, h2, h1]

/-! ### The service -/

/-- The offload of a segment changes only the queue of its stream. -/
theorem State.startOffload_eq (s : State) : ∃ o q, s.startOffload = { s with stream := { s.stream with offload := o, queue1 := q } } := by
  unfold State.startOffload
  extract_lets subs
  split
  · exact ⟨_, _, rfl⟩
  · split
    · exact ⟨_, _, rfl⟩
    · exact ⟨_, _, rfl⟩

theorem ReachesIn.service_streamSubscribe {s : State} {t : Time} {h : Hdr} {p : Bytes} {s2 : State} {r : Rcvd} {x : Session}
    (H : ReachesIn s t 0x40 h p s2 r x) : s2.service 0x40 r = s2.streamSubscribe r.h x p := by
  simp [State.service, H.session, State.inSession, H.whole]

/-- The subscription that a session opens. -/
def State.newSub (s : State) (h : Hdr) (x : Session) (p : Bytes) : StreamSub where
  num := s.stream.subSeq + 1
  stream := u8At p 0
  flags := BitVec.ofNat 8 (u8At p 1)
  port := if u16At p 2 = 0 then h.port else BitVec.ofNat 16 (u16At p 2)
  addr := if beNat (slice p 4 16) = 0 then h.addr else BitVec.ofNat 128 (beNat (slice p 4 16))
  transport := x.transport
  session := x.num

/-- Other subscriptions. -/
def State.withSubs (s : State) (l : List StreamSub) : State := { s with stream := { s.stream with subs := l } }

/-- Subscriptions come and go with any answer. -/
theorem State.withSubs_quiet (s : State) (l : List StreamSub) : Quiet s (s.withSubs l) := { Quiet.refl s with }

section
variable {s : State} {h : Hdr} {x : Session} {p : Bytes} (hstream : u8At p 0 ≤ 1) (hflags : u8At p 1 < 4) (hserved : s.pwr.recovery = false)
include hstream hflags hserved

theorem State.streamSubscribe_opens (hopen : bit (u8At p 1) 0 = true) (hclass : s.streamClass (u8At p 0) ≤ s.classOf x.role)
    (henabled : (if u8At p 0 = 0 then s.cfgN Id.STREAM_ENABLE else s.cfgN Id.CAP_ENABLE) ≠ 0) (hroom : s.stream.subs.length < 4) :
    s.streamSubscribe h x p = (({ s with stream := { s.stream with
      subs := s.stream.subs ++ [s.newSub h x p], subSeq := s.stream.subSeq + 1 } } : State).startOffload,
        .ok 0 (le 4 (s.stream.subSeq + 1).toNat)) := by
  unfold State.streamSubscribe
  extract_lets stream flags port dest addr num b _ s1
  rw [if_neg (fun hlow => absurd hclass (Nat.not_le.mpr hlow.2)), if_neg (by omega), if_neg (by simp [hserved]), if_neg (by simp [flags, hopen]),
    if_neg henabled, if_neg (by omega)]
  rfl

/-- A session that ends a subscription leaves no other one than before. -/
theorem State.streamSubscribe_ends (hend : bit (u8At p 1) 0 = false) : ∃ (l : List StreamSub) (m : U32), (∀ b ∈ l, b ∈ s.stream.subs) ∧
    s.streamSubscribe h x p = (s.withSubs l, .ok 0 (le 4 m.toNat)) := by
  unfold State.streamSubscribe
  extract_lets stream flags port dest addr num b _ s1
  rw [if_neg (by simp [flags, hend]), if_neg (by omega), if_neg (by simp [hserved]), if_pos (by simp [flags, hend])]
  split
  · exact ⟨_, _, fun b hb => List.mem_of_mem_filter hb, rfl⟩
  · exact ⟨s.stream.subs, 0, fun b hb => hb, rfl⟩

end

/-- Settles O20: the branch of the service that opens, and the one that ends. -/
theorem streamSubscriptionsOpenAndEnd : Obligations.StreamSubscriptionsOpenAndEnd := by
  unfold Obligations.StreamSubscriptionsOpenAndEnd
  intro t h p s s2 r x H hlasts hstream hflags hserved
  have hquiet : Quiet s s2 := (s.at_quiet t).trans (reaches_quiet H.heard)
  have hsubs : s2.stream = s.stream := by
    obtain rfl | rfl := reaches_state H.heard <;> rfl
  have h0 := H.session_ne_zero (by decide)
  have hrun : doRequest t 0x40 h p s = (s2.streamSubscribe r.h x p).1.respond r.h 0x40 (indexIn 0x40 p) (subIn 0x40 p)
      (s2.streamSubscribe r.h x p).2 := by
    rw [H.runs, H.service_streamSubscribe]
  refine ⟨fun hopen hclass henabled hroom => ?_, fun hend => ?_⟩
  · have hframe : s2.cfgN = s.cfgN := funext (Within.cfgN hquiet.within (by simp))
    rw [State.streamSubscribe_opens hstream hflags hserved hopen hclass (by rwa [hframe]) (by rwa [hsubs])] at hrun
    generalize hy : ({ s2 with stream := { s2.stream with subs := s2.stream.subs ++ [s2.newSub r.h x p], subSeq := s2.stream.subSeq + 1 } } : State)
      = y at hrun
    obtain ⟨o, q, hoffload⟩ := y.startOffload_eq
    have hx : y.startOffload.session? r.h.transport r.h.session = some x := by
      rw [hoffload, ← hy]
      exact H.session
    have hstream : (doRequest t 0x40 h p s).stream = y.startOffload.stream := by
      rw [hrun]
      exact State.answer_stream h0 hx hlasts ..
    refine ⟨_, s2.newSub r.h x p, rfl, ?_, ?_, congrArg (·.subSeq + 1) hsubs, rfl, rfl, rfl, ?_⟩
    · show (doRequest t 0x40 h p s).answered ..
      rw [hrun, hsubs]
      exact State.answer_answered ..
    · show (doRequest t 0x40 h p s).stream.subs = _
      rw [hstream, hoffload, ← hy, hsubs]
    · have hwithin : Within [.stream] s2 y := .update _ (by rw [← hy]; rfl)
      have hall : Within [.stream] s (doRequest t 0x40 h p s) := by
        rw [hrun]
        exact ((hquiet.within.seq (hwithin.seq (State.startOffload_within y))).then (State.answer_quiet ..)).up (by rfl)
      exact hall.quiet
  · obtain ⟨l, m, hkept, hsubscribe⟩ := State.streamSubscribe_ends (h := r.h) (x := x) hstream hflags hserved hend
    rw [hsubscribe] at hrun
    refine ⟨_, m, rfl, ?_, ?_, ?_⟩
    · show Quiet s (doRequest t 0x40 h p s)
      rw [hrun]
      exact hquiet.trans ((s2.withSubs_quiet l).trans (State.answer_quiet ..))
    · show (doRequest t 0x40 h p s).answered ..
      rw [hrun]
      exact State.answer_answered ..
    · show ∀ b ∈ (doRequest t 0x40 h p s).stream.subs, b ∈ s.stream.subs
      rw [hrun, ← hsubs]
      have hstream : ((s2.withSubs l).answer r.h 0x40 0x80 (le 4 m.toNat)).stream = (s2.withSubs l).stream :=
        State.answer_stream (s := s2.withSubs l) h0 H.session hlasts ..
      exact fun b hb => hkept b (Eq.mp (congrArg (fun z : Stream => b ∈ z.subs) hstream) hb)

end Sys2Proof.Machine
end

