-- ==== Sys2Proof/Proofs/Captures.lean ====
section
/-! PROOFS. Capture (R253, R257, R259, R261, Tables 12.1 and 12.3): triggers that are taken, and the commands of its host. -/

namespace Sys2Proof.Machine

open Sys2Proof

/-! ### What a quiet step leaves of capture -/

/-- A field of capture other than the triggers on offer. -/
theorem Within.cap_field {α : Type} {l : List Part} {s u : State} (h : Within l s u) (hl : .cap ∉ l) (f : Cap → α)
    (hf : ∀ c : Cap, f { c with offers := [] } = f c) : f u.cap = f s.cap :=
  (hf u.cap).symm.trans ((congrArg f (h.part .cap hl :)).trans (hf s.cap))

theorem Quiet.cap_field {α : Type} {s u : State} (h : Quiet s u) (f : Cap → α) (hf : ∀ c : Cap, f { c with offers := [] } = f c) :
    f u.cap = f s.cap := h.within.cap_field (by simp) f hf

theorem Quiet.conf {s u : State} (h : Quiet s u) : u.conf = s.conf := by
  rw [State.conf, State.conf, h.fac, h.cfg]

theorem Quiet.cfgN {s u : State} (h : Quiet s u) (id : Nat) : u.cfgN id = s.cfgN id := congrArg (Cfg.nat · id) h.conf

/-! ### Triggers (R253, R257, R259) -/

section
variable {s : State} {g : Trigger}

/-- No rearming is due. -/
theorem State.capService_idle (hdue : s.cap.due = none) : s.capService = s := by
  rw [State.capService, hdue]

/-- A trigger of the mask starts the segment of a capture that is armed. -/
theorem State.captureOutcome_armed {x : Segment} (harmed : s.cap.state = 1) (hcurrent : s.cap.current = some x)
    (hmask : bit x.mask g.source = true) : s.captureOutcome g = 0 := by
  simp [State.captureOutcome, harmed, State.triggerMask, hcurrent, hmask]

theorem State.captureOutcome_rearming (hstate : s.cap.state = 3) (hmask : bit s.triggerMask g.source = true) : s.captureOutcome g = 2 := by
  simp [State.captureOutcome, hstate, hmask]

theorem State.captureOutcome_full (hstate : s.cap.state = 4) (hmask : bit s.triggerMask g.source = true) : s.captureOutcome g = 3 := by
  simp [State.captureOutcome, hstate, hmask]

/-- A source that STREAM_MARK_MASK does not name leaves no mark. -/
theorem State.markTrigger_unmarked (hmark : bit (s.cfgN Id.STREAM_MARK_MASK) g.source = false) (outcome : Nat) :
    (s.markTrigger g outcome).1 = s := by
  unfold State.markTrigger State.mark
  rw [if_neg (by simp [hmark])]

theorem State.takeTrigger_starts {x : Segment} (hdue : s.cap.due = none) (houtcome : s.captureOutcome g = 0) (hcurrent : s.cap.current = some x) :
    s.takeTrigger g = (s.markTrigger g 0).1.startSegment g x (s.placeOf g) (s.markTrigger g 0).2 := by
  simp only [State.takeTrigger, State.capService_idle hdue, houtcome, hcurrent]
  rfl

/-- One that falls during rearming is counted as missed. -/
theorem State.takeTrigger_rearming (hdue : s.cap.due = none) (houtcome : s.captureOutcome g = 2)
    (hmark : bit (s.cfgN Id.STREAM_MARK_MASK) g.source = false) : s.takeTrigger g = s.count Id.MISSED_REARM := by
  simp only [State.takeTrigger, State.capService_idle hdue, houtcome, State.markTrigger_unmarked hmark]
  rfl

theorem State.takeTrigger_full (hdue : s.cap.due = none) (houtcome : s.captureOutcome g = 3)
    (hmark : bit (s.cfgN Id.STREAM_MARK_MASK) g.source = false) : s.takeTrigger g = s.count Id.MISSED_FULL := by
  simp only [State.takeTrigger, State.capService_idle hdue, houtcome, State.markTrigger_unmarked hmark]
  rfl

/-- A segment that starts with an empty ring takes the next number. -/
theorem State.startSegment_cap {x : Segment} {place : U32 × Nat × Bool} {markSeq : U32} (hring : s.cap.ring = []) :
    (s.startSegment g x place markSeq).cap = { s.cap with
      state := 2, seq := s.cap.seq + 1, ring := []
      current := some { x with
        num := s.cap.seq + 1, trigger := some g, frame := place.1, column := place.2.1, markSeq, version := s.flash.current } } := by
  simp only [State.startSegment, hring]
  rfl

end

/-- The state without the trigger that is taken. -/
def State.withOffers (s : State) (l : List Trigger) : State := { s with cap := { s.cap with offers := l } }

theorem State.withOffers_quiet (s : State) (l : List Trigger) : Quiet s (s.withOffers l) := { Quiet.refl s with }

section
variable {t : Time} {s : State} {g : Trigger} {rest : List Trigger} (hoffers : s.cap.offers = g :: rest) (hdue : s.cap.due = none)
include hoffers

theorem doCaptureTrigger_takes : doCaptureTrigger t s = ((s.at t).withOffers rest).takeTrigger g := by
  unfold doCaptureTrigger
  extract_lets y
  rw [show y.cap.offers = g :: rest from hoffers]
  rfl

include hdue

theorem doCaptureTrigger_starts {x : Segment} (harmed : s.cap.state = 1) (hcurrent : s.cap.current = some x)
    (hmask : bit x.mask g.source = true) (hring : s.cap.ring = []) : ∃ y, (doCaptureTrigger t s).cap.state = 2 ∧
      (doCaptureTrigger t s).cap.seq = s.cap.seq + 1 ∧ (doCaptureTrigger t s).cap.current = some y ∧ y.num = s.cap.seq + 1 ∧
      y.trigger = some g ∧ (doCaptureTrigger t s).cap.held = s.cap.held := by
  have htaken := (doCaptureTrigger_takes (t := t) hoffers).trans
    (State.takeTrigger_starts (s := (s.at t).withOffers rest) hdue (State.captureOutcome_armed harmed hcurrent hmask) hcurrent)
  have hmarked : Within [.stream] s (((s.at t).withOffers rest).markTrigger g 0).1 :=
    (((State.at_quiet s t).trans (State.withOffers_quiet _ rest)).within.seq (State.markTrigger_within ..)).up (by rfl)
  generalize ((s.at t).withOffers rest).markTrigger g 0 = m at htaken hmarked
  have hseq : m.1.cap.seq = s.cap.seq := hmarked.cap_field (by decide) Cap.seq fun _ => rfl
  rw [htaken, State.startSegment_cap ((hmarked.cap_field (by decide) Cap.ring fun _ => rfl).trans hring), hseq]
  exact ⟨_, rfl, rfl, rfl, rfl, rfl, hmarked.cap_field (by decide) Cap.held fun _ => rfl⟩

omit hdue in
/-- A trigger that is only counted. -/
theorem doCaptureTrigger_missed {id : Nat} (htake : ((s.at t).withOffers rest).takeTrigger g = ((s.at t).withOffers rest).count id) :
    Quiet s (doCaptureTrigger t s) ∧ (doCaptureTrigger t s).counter id = min 0xFFFFFFFF (s.counter id + 1) := by
  rw [doCaptureTrigger_takes hoffers, htake]
  refine ⟨((State.at_quiet s t).trans (State.withOffers_quiet _ rest)).trans (State.count_quiet ..), ?_⟩
  rw [State.count_counter, if_neg (by decide)]
  rfl

end

/-! ### The host's commands (Tables 12.1 and 12.3, R261) -/

theorem Reaches.cap {s : State} {t : Time} {svc : Nat} {h : Hdr} {p : Bytes} {s2 : State} {r : Rcvd} (H : Reaches s t svc h p s2 r) :
    s2.cap = s.cap := by
  obtain rfl | rfl := reaches_state H.heard <;> rfl

/-- Without a hold-off, a free slot is armed. -/
theorem State.capArm_free {s : State} (hentry : s.pwr.entry = none) (hslot : s.cap.held.length < s.conf.segmentSlots) :
    s.capArm = s.armed false := by
  rw [State.capArm, if_neg (by simp [State.holdOff, hentry]), if_pos hslot]

/-- Disarmed outside POST, capture is OFF; the closed segments stay. -/
theorem State.capDisarm_off {s : State} (hdue : s.cap.due = none) (hpost : s.cap.state ≠ 2) :
    s.capDisarm.cap = { s.cap with state := 0, ring := [], current := none, due := none, closing := false } := by
  simp only [State.capDisarm, State.capService_idle hdue, if_neg hpost]

/-- A slot that becomes free leaves the closed segments. -/
theorem State.slotFreed_held (s : State) : s.slotFreed.cap.held = s.cap.held := by
  unfold State.slotFreed
  split <;> rfl

theorem State.dropSegment_held (s : State) (num : U32) : (s.dropSegment num).cap.held = s.cap.held.filter fun g => g.num != num := by
  unfold State.dropSegment
  extract_lets s1
  split <;> rfl

/-- A segment that does not wait for copying leaves the partition. -/
theorem State.freeSegment_held {s : State} {num : U32} {g : Segment} (hfound : s.findSegment num = some g) (hcopy : g.copyQueued = false) :
    (s.freeSegment num).cap.held = s.cap.held.filter fun g => g.num != num := by
  have hfind : (s.cap.held.find? fun g => g.num == num) = some g := hfound
  simp only [State.freeSegment, hfind, hcopy, Bool.false_eq_true, if_false]
  rw [State.slotFreed_held, State.dropSegment_held]

section
variable {s : State} {t : Time} {h : Hdr} {v : Bytes} {s2 : State} {r : Rcvd} {x : Session} {o : Obj} {fl : Nat}

theorem Takes.capArm_runs (H : Takes s t Id.CAP_CONTROL h [1] s2 r x o fl) (hoff : s.cap.state = 0) (henabled : s.cfgN Id.CAP_ENABLE = 1)
    (hentry : s.pwr.entry = none) (hslot : s.cap.held.length < s.conf.segmentSlots) :
    (doWriteObject t Id.CAP_CONTROL h [1] s).ticketedBy s2 r ∧
      Quiet (s2.issueTicket.1.armed false) (doWriteObject t Id.CAP_CONTROL h [1] s) := by
  have hconf : s2.conf = s.conf := H.quiet.conf
  have hstate : s2.cap.state = 0 := (congrArg Cap.state H.cap).trans hoff
  have hpwr : s2.pwr.entry = none := (congrArg Pwr.entry H.quiet.pwr).trans hentry
  have henabled2 : s2.cfgN Id.CAP_ENABLE = 1 := (congrArg (Cfg.nat · _) hconf).trans henabled
  have hcommand : s2.command r.h 0x11 x Id.CAP_CONTROL (leNat [1]) = s2.ticketed fun _ y => y.capArm := by
    show s2.capControl 1 = _
    rw [State.capControl, if_neg (by decide), if_neg (by decide), if_neg (by simp [hstate]), State.ifOk,
      if_pos (by simp [henabled2, State.holdOff, hpwr])]
  have hslot2 : s2.issueTicket.1.cap.held.length < s2.issueTicket.1.conf.segmentSlots := by
    rw [show s2.issueTicket.1.cap = s.cap from H.cap, H.quiet.conf]
    exact hslot
  obtain ⟨hticket, hquiet⟩ := H.ticketed_runs (cmd_of_lookup H.object (by decide +kernel)) hcommand
  rw [State.capArm_free (s := s2.issueTicket.1) hpwr hslot2] at hquiet
  exact ⟨hticket, hquiet⟩

theorem Takes.capDisarm_runs (H : Takes s t Id.CAP_CONTROL h [2] s2 r x o fl) (hdue : s.cap.due = none) (hpost : s.cap.state ≠ 2) :
    (doWriteObject t Id.CAP_CONTROL h [2] s).ticketedBy s2 r ∧ (doWriteObject t Id.CAP_CONTROL h [2] s).cap.state = 0 ∧
      (doWriteObject t Id.CAP_CONTROL h [2] s).cap.current = none ∧ (doWriteObject t Id.CAP_CONTROL h [2] s).cap.held = s.cap.held := by
  obtain ⟨hticket, hquiet⟩ := H.ticketed_runs (cmd_of_lookup H.object (by decide +kernel)) (f := fun _ y => y.capDisarm) (by rfl)
  have hcap : s2.issueTicket.1.cap = s.cap := H.cap
  have hoff := State.capDisarm_off (s := s2.issueTicket.1) (hcap ▸ hdue) (hcap ▸ hpost)
  refine ⟨hticket, (hquiet.cap_field Cap.state fun _ => rfl).trans ?_, (hquiet.cap_field Cap.current fun _ => rfl).trans ?_,
    (hquiet.cap_field Cap.held fun _ => rfl).trans ?_⟩
  · rw [hoff]
  · rw [hoff]
  · rw [hoff, hcap]

/-- The host's trigger is on offer, at the instant of its message. -/
theorem Takes.capTrigger_runs (H : Takes s t Id.CAP_CONTROL h [3] s2 r x o fl) (hon : s.cap.state ≠ 0) :
    (doWriteObject t Id.CAP_CONTROL h [3] s).ticketedBy s2 r ∧
      ∃ g ∈ (doWriteObject t Id.CAP_CONTROL h [3] s).cap.offers, g.source = 6 ∧ g.inst = (max s.now t : Nat) := by
  have hstate : s2.cap.state ≠ 0 := by
    rw [H.cap]
    exact hon
  have hcommand : s2.command r.h 0x11 x Id.CAP_CONTROL (leNat [3]) = s2.ticketed fun _ y => y.hostTrigger := by
    show s2.capControl 3 = _
    rw [State.capControl, if_pos rfl, if_neg hstate]
  have hacc := cmd_of_lookup H.object (by decide +kernel)
  refine ⟨(H.ticketed_runs hacc hcommand).1, ?_⟩
  rw [H.ticketed_answer hacc hcommand]
  exact ⟨_, (State.answer_offersKept ..).mem (State.mem_offer ..), rfl, congrArg (fun n : Nat => (n : Int)) H.now⟩

theorem Takes.capTrigger_refused (H : Takes s t Id.CAP_CONTROL h [3] s2 r x o fl) (hoff : s.cap.state = 0) :
    Quiet s (doWriteObject t Id.CAP_CONTROL h [3] s) ∧ (doWriteObject t Id.CAP_CONTROL h [3] s).answered r.h 0x11 0xC0
      (abortBytes .captureNotArmed (Id.CAP_CONTROL / 256) (Id.CAP_CONTROL % 256) 0) := by
  refine H.command_refused (cmd_of_lookup H.object (by decide +kernel)) ?_
  show s2.capControl 3 = _
  rw [State.capControl, if_pos rfl, if_pos ((congrArg Cap.state H.cap).trans hoff)]

theorem Takes.capRelease_runs (H : Takes s t Id.CAP_RELEASE h v s2 r x o fl) (hone : leNat v < 0xFFFFFFFF) {g : Segment}
    (hfound : s.findSegment (u32 (leNat v)) = some g) (hcopy : g.copyQueued = false) :
    (doWriteObject t Id.CAP_RELEASE h v s).ticketedBy s2 r ∧
      (doWriteObject t Id.CAP_RELEASE h v s).cap.held = s.cap.held.filter fun y => y.num != u32 (leNat v) := by
  have hfound2 : s2.findSegment (u32 (leNat v)) = some g := by
    rw [State.findSegment, H.cap]
    exact hfound
  have hcommand : s2.command r.h 0x11 x Id.CAP_RELEASE (leNat v) = s2.ticketed fun _ y => y.freeSegment (u32 (leNat v)) := by
    show s2.capRelease (leNat v) = _
    rw [State.capRelease, if_neg (Nat.ne_of_lt hone), if_neg (by simp [hfound2])]
  obtain ⟨hticket, hquiet⟩ := H.ticketed_runs (cmd_of_lookup H.object (by decide +kernel)) hcommand
  refine ⟨hticket, (hquiet.cap_field Cap.held fun _ => rfl).trans ?_⟩
  rw [State.freeSegment_held (s := s2.issueTicket.1) hfound2 hcopy, show s2.issueTicket.1.cap = s.cap from H.cap]

/-- The object of a selection is written to the session. -/
theorem Takes.capReadSelect_apply (H : Takes s t Id.CAP_READ_SELECT h v s2 r x o fl) :
    s2.apply r.h 0x11 x o v fl = s2.selectSegment x v := by
  rw [State.apply_plain H.served (plain_of_lookup H.object (by decide +kernel)), if_pos (lookup_regular H.object).1]

theorem Takes.capReadSelect_runs (H : Takes s t Id.CAP_READ_SELECT h v s2 r x o fl) (hlasts : x.lasts) {g : Segment}
    (hfound : s.findSegment (u32 (leNat v)) = some g) : Quiet s (doWriteObject t Id.CAP_READ_SELECT h v s) ∧
      ∃ y, (doWriteObject t Id.CAP_READ_SELECT h v s).session? r.h.transport r.h.session = some y ∧ y.readSelect = g.num ∧
        y.readSource = some g.source := by
  have hselect : s2.selectSegment x v =
      (s2.modSession x.transport x.num fun y => { y with readSelect := g.num, readSource := some g.source }, .ok 0 []) := by
    rw [State.selectSegment, State.findSegment, H.cap, show (s.cap.held.find? _) = some g from hfound]
  rw [H.runs (by decide), H.capReadSelect_apply, hselect]
  have hquiet : Quiet s s2 := (s.at_quiet t).trans (reaches_quiet H.heard)
  obtain ⟨b, hb⟩ := State.modSession_answered (f := fun y => { y with readSelect := g.num, readSource := some g.source })
    (H.session_ne_zero (by decide)) H.session (fun z => ⟨rfl, rfl⟩) hlasts 0x11 0x80 []
  exact ⟨hquiet.trans ((State.modSession_quiet ..).trans (State.answer_quiet ..)), _, hb, rfl, rfl⟩

theorem Takes.capReadSelect_refused (H : Takes s t Id.CAP_READ_SELECT h v s2 r x o fl)
    (hmissing : s.findSegment (u32 (leNat v)) = none) : Quiet s (doWriteObject t Id.CAP_READ_SELECT h v s) ∧
      (doWriteObject t Id.CAP_READ_SELECT h v s).answered r.h 0x11 0xC0
        (abortBytes .segmentUnknown (Id.CAP_READ_SELECT / 256) (Id.CAP_READ_SELECT % 256) 0) := by
  have hselect : s2.selectSegment x v = s2.no .segmentUnknown := by
    rw [State.selectSegment, State.findSegment, H.cap, show (s.cap.held.find? _) = none from hmissing]
  rw [H.runs (by decide), H.capReadSelect_apply, hselect]
  exact ⟨answered_quiet H.heard .., State.answer_answered ..⟩

end

/-- Settles O44: a trigger by the state it falls in, each command by its branch. -/
theorem captureObeysTriggersAndItsHost : Obligations.CaptureObeysTriggersAndItsHost := by
  unfold Obligations.CaptureObeysTriggersAndItsHost
  refine ⟨fun t s g rest hoffers hdue => ⟨fun x harmed hcurrent hmask hring => ?_, fun hstate hmask hmark => ⟨_, rfl, ?_⟩,
    fun hstate hmask hmark => ⟨_, rfl, ?_⟩⟩, fun t h v s s2 r x o fl => ⟨fun H hoff henabled hentry hslot => ?_,
    fun H hdue hpost => ⟨_, rfl, H.capDisarm_runs hdue hpost⟩,
    fun H => ⟨fun hon => ⟨_, rfl, H.capTrigger_runs hon⟩, fun hoff => ⟨_, rfl, H.capTrigger_refused hoff⟩⟩,
    fun H hone g hfound hcopy => ⟨_, rfl, H.capRelease_runs hone hfound hcopy⟩, fun H hlasts => ⟨fun g hfound => ?_,
      fun hmissing => ⟨_, rfl, H.capReadSelect_refused hmissing⟩⟩⟩⟩
  · obtain ⟨y, hy⟩ := doCaptureTrigger_starts (t := t) hoffers hdue harmed hcurrent hmask hring
    exact ⟨_, y, rfl, hy⟩
  · exact doCaptureTrigger_missed hoffers (State.takeTrigger_rearming hdue (State.captureOutcome_rearming hstate hmask) hmark)
  · exact doCaptureTrigger_missed hoffers (State.takeTrigger_full hdue (State.captureOutcome_full hstate hmask) hmark)
  · obtain ⟨hticket, hquiet⟩ := H.capArm_runs hoff henabled hentry hslot
    have hcfg := H.quiet.cfgN
    refine ⟨_, _, rfl, hticket, hquiet.cap_field Cap.state fun _ => rfl, hquiet.cap_field Cap.ring fun _ => rfl,
      hquiet.cap_field Cap.current fun _ => rfl, hcfg _, hcfg _, hcfg _, hcfg _⟩
  · obtain ⟨hquiet, y, hy⟩ := H.capReadSelect_runs hlasts hfound
    exact ⟨_, y, rfl, hquiet, hy⟩

end Sys2Proof.Machine
end

