-- ==== Sys2Proof/Proofs/CodedViews.lean ====
section
/-! PROOFS. CODE_SOURCE (R290): the session's view of the object that it names. -/

namespace Sys2Proof.Machine

open Sys2Proof

/-- The blocks of a unit, counted. -/
def State.countBlocks (s : State) (b : Bytes) : State :=
  (s.count Id.CODE_BLOCKS (codeUnit b).2.1).count Id.CODE_RAW_BLOCKS (codeUnit b).2.2

theorem State.countBlocks_quiet (s : State) (b : Bytes) : Quiet s (s.countBlocks b) := (State.count_quiet ..).trans (State.count_quiet ..)

/-- A count leaves a session but for the notifications that wait. -/
theorem State.countBlocks_session {s : State} {tr : Transport} {n : Byte} {x : Session} (hx : s.session? tr n = some x) (b : Bytes) :
    ∃ q, (s.countBlocks b).session? tr n = some { x with sub := q } :=
  SameButSub.some (hx ▸ (State.count_session ..).trans (State.count_session ..))

/-- The session's view. -/
def State.withView (s : State) (x : Session) (view : Option CodeView) : State :=
  s.modSession x.transport x.num fun y => { y with codeView := view }

section
variable {s : State} {h : Hdr} {x : Session} {n : Nat} {o : Obj} {g : Nat} {b : Bytes} (hname : lookup (n / 256) = some o)
  (hread : s.readCheck x o = none) (hlength : s.readLength x o ≤ 262144) (hvalue : s.fetch h x o = .value g b)
include hname hread hlength hvalue

theorem State.codeSource_codes (hshorter : (codeUnit b).2.2 ≠ (codeUnit b).2.1) : s.codeSource h x n =
    ((s.countBlocks b).withView x (some { source := u32 n, bytes := (codeUnit b).1 }), .ok 0 []) := by
  obtain ⟨l, hindex, -⟩ := Option.bind_eq_some_iff.mp hname
  simp only [State.codeSource, hindex, hname, hread, if_neg (Nat.not_lt.mpr hlength), hvalue, if_neg hshorter]
  rfl

/-- A unit none of whose blocks gets shorter has no view. -/
theorem State.codeSource_incompressible (hraw : (codeUnit b).2.2 = (codeUnit b).2.1) : s.codeSource h x n =
    ((s.countBlocks b).withView x none).no .incompressible := by
  obtain ⟨l, hindex, -⟩ := Option.bind_eq_some_iff.mp hname
  simp only [State.codeSource, hindex, hname, hread, if_neg (Nat.not_lt.mpr hlength), hvalue, if_pos hraw]
  rfl

end

/-- Settles O46: both branches of CODE_SOURCE past its checks. -/
theorem codeSourceKeepsACodedView : Obligations.CodeSourceKeepsACodedView := by
  unfold Obligations.CodeSourceKeepsACodedView
  intro t h v s s2 r x o p fl g b H hlasts hname hread hlength hvalue
  obtain ⟨hid, -⟩ := lookup_regular H.object
  have happly : s2.apply r.h 0x11 x o v fl = s2.codeSource r.h x (leNat v) := by
    simp only [State.apply, H.served, Bool.false_eq_true, if_false, cmd_of_lookup H.object (by decide +kernel), hid]
    rfl
  have hrun := H.runs (by decide)
  rw [happly] at hrun
  have hquiet : Quiet s (s2.countBlocks b) := ((s.at_quiet t).trans (reaches_quiet H.heard)).trans (State.countBlocks_quiet ..)
  refine ⟨fun hshorter => ?_, fun hraw => ?_⟩
  · rw [State.codeSource_codes hname hread hlength hvalue hshorter] at hrun
    obtain ⟨q, hq⟩ := State.countBlocks_session H.session b
    obtain ⟨m, hm⟩ := State.modSession_answered (f := fun y => { y with codeView := some { source := u32 (leNat v), bytes := (codeUnit b).1 } })
      (H.session_ne_zero (by decide)) hq (fun _ => ⟨rfl, rfl⟩) hlasts 0x11 0x80 []
    refine ⟨_, _, congrArg Host.Outcome.next hrun, hquiet.trans ((State.modSession_quiet ..).trans (State.answer_quiet ..)),
      State.answer_answered .., hm, rfl⟩
  · rw [State.codeSource_incompressible hname hread hlength hvalue hraw] at hrun
    exact ⟨_, congrArg Host.Outcome.next hrun, hquiet.trans ((State.modSession_quiet ..).trans (State.answer_quiet ..)),
      State.answer_answered ..⟩

end Sys2Proof.Machine
end

