-- ==== Sys2Proof/Proofs/LaneStates.lean ====
section
/-! PROOFS. Lanes and the arbiter: what each operation of chapter 11 does to a lane's state, and the only fields of the arbiter that
it writes. -/

namespace Sys2Proof.Machine

open Sys2Proof

/-! ### Reading and changing a lane -/

theorem State.modLane_same (s : State) (l : LaneId) (f : Lane → Lane) : (s.modLane l f).lane l = f (s.lane l) := by
  cases l with
  | a => rfl
  | b => rfl

theorem State.modLane_other (s : State) (l : LaneId) (f : Lane → Lane) : (s.modLane l f).lane (other l) = s.lane (other l) := by
  cases l with
  | a => rfl
  | b => rfl

theorem other_other (l : LaneId) : other (other l) = l := by
  cases l with
  | a => rfl
  | b => rfl

theorem other_ne (l : LaneId) : other l ≠ l := by
  cases l with
  | a => decide
  | b => decide

/-- There are two lanes. -/
theorem eq_or_eq_other (k l : LaneId) : k = l ∨ k = other l := by
  cases k with
  | a => cases l with
    | a => exact .inl rfl
    | b => exact .inr rfl
  | b => cases l with
    | a => exact .inr rfl
    | b => exact .inl rfl

theorem State.at_lane (s : State) (t : Time) (l : LaneId) : (s.at t).lane l = s.lane l := State.lane_congr rfl rfl l

/-- A frame without the lanes. -/
theorem Within.lane {p : List Part} {s u : State} (h : Within p s u) (ha : .laneA ∉ p) (hb : .laneB ∉ p) (l : LaneId) : u.lane l = s.lane l :=
  State.lane_congr (h.part .laneA ha) (h.part .laneB hb) l

/-- A frame without the arbiter. -/
theorem Within.arb {p : List Part} {s u : State} (h : Within p s u) (hp : .arb ∉ p) : u.arb = s.arb := h.part .arb hp

/-! ### A lane's state (R237, R238) -/

section
variable (s : State) (l : LaneId) (v : LaneState)

theorem State.noteRedundancy_lane (k : LaneId) : s.noteRedundancy.lane k = s.lane k :=
  s.noteRedundancy_within.lane (by decide) (by decide) k

theorem State.noteRedundancy_arb : ∃ b, s.noteRedundancy.arb = { s.arb with redundancyLost := b } := by
  unfold State.noteRedundancy
  split
  · exact ⟨_, rfl⟩
  · exact ⟨s.arb.redundancyLost, rfl⟩

/-- A lane whose state is set has it, and counts its matching columns anew. -/
theorem State.setLaneState_same : ∃ m, (s.setLaneState l v).lane l = { s.lane l with state := v, matches_ := m } := by
  unfold State.setLaneState
  extract_lets old s1
  by_cases hsame : old = v
  · rw [if_pos hsame, ← hsame]
    exact ⟨_, rfl⟩
  · rw [if_neg hsame, State.noteRedundancy_lane, (State.raise_quiet s1 ..).lane, State.modLane_same]
    exact ⟨_, rfl⟩

theorem State.setLaneState_state : ((s.setLaneState l v).lane l).state = v := by
  obtain ⟨m, hm⟩ := s.setLaneState_same l v
  rw [hm]

theorem State.setLaneState_other : (s.setLaneState l v).lane (other l) = s.lane (other l) := by
  unfold State.setLaneState
  extract_lets old s1
  split
  · rfl
  · rw [State.noteRedundancy_lane, (State.raise_quiet s1 ..).lane, State.modLane_other]

/-- A change of state may only take REDUNDANCY from the frame. -/
theorem State.setLaneState_arb : ∃ b, (s.setLaneState l v).arb = { s.arb with redundancyLost := b } := by
  unfold State.setLaneState
  extract_lets old s1
  split
  · exact ⟨s.arb.redundancyLost, rfl⟩
  · obtain ⟨b, hb⟩ := State.noteRedundancy_arb (s1.raise 0x5001 0 (u32 (LaneId.num l)) (u32 old.code) (u32 v.code))
    exact ⟨b, hb.trans (by rw [State.raise_arb, State.modLane_arb])⟩

end

/-- A lane that is FAILED stays FAILED where lanes become FAILED. -/
theorem State.setLaneState_failed {s : State} {l : LaneId} (hfailed : (s.lane l).state = .failed) (k : LaneId) :
    ((s.setLaneState k .failed).lane l).state = .failed := by
  obtain rfl | rfl := eq_or_eq_other l k
  · exact State.setLaneState_state ..
  · rw [State.setLaneState_other, hfailed]

/-! ### Rejoins that end (R249) -/

/-- An aborted rejoin ends; its lane is MOORED or FAILED. -/
theorem State.abortRejoin_arb (s : State) (reason : Nat) : ∃ j n b,
    (s.abortRejoin reason).arb = { s.arb with rejoin := j, rejoinsLeft := n, redundancyLost := b } := by
  unfold State.abortRejoin
  split
  · exact ⟨s.arb.rejoin, s.arb.rejoinsLeft, s.arb.redundancyLost, rfl⟩
  · next r _ =>
    generalize hy : s.rejoinLost.raise 0x500A 1 (u32 (LaneId.num r.lane)) (u32 reason) = y
    obtain ⟨b, hb⟩ := y.setLaneState_arb r.lane (if reason = 1 then .moored else .failed)
    refine ⟨none, s.arb.rejoinsLeft - 1, b, hb.trans ?_⟩
    rw [← hy, State.raise_arb]
    rfl

theorem State.abortRejoin_failed {s : State} {l : LaneId} {reason : Nat} (hreason : reason ≠ 1) (hfailed : (s.lane l).state = .failed) :
    ((s.abortRejoin reason).lane l).state = .failed := by
  unfold State.abortRejoin
  split
  · exact hfailed
  · rw [if_neg hreason]
    refine State.setLaneState_failed ?_ _
    rw [(State.raise_quiet s.rejoinLost ..).lane]
    exact hfailed

/-! ### The token (R242) -/

/-- The token goes to a lane and waits for its renewal. -/
theorem State.giveToken_arb (s : State) (l : LaneId) : ∃ b, (s.giveToken l).arb =
    { s.arb with holder := some l, renewed := s.now, unconfirmed := some s.now, window := 0, redundancyLost := b } := by
  unfold State.giveToken
  extract_lets _ s1
  obtain ⟨b, hb⟩ := (s1.tripSet 0).setLaneState_arb l .active
  refine ⟨b, ((State.follow_within _).arb (by decide)).trans (hb.trans ?_)⟩
  rw [(State.tripSet_within s1 0).arb (by decide)]

theorem State.giveToken_state (s : State) (l : LaneId) : ((s.giveToken l).lane l).state = .active := by
  unfold State.giveToken
  extract_lets _ s1
  rw [State.follow_lane, State.setLaneState_state]

theorem State.giveToken_other (s : State) (l : LaneId) : (s.giveToken l).lane (other l) = s.lane (other l) := by
  unfold State.giveToken
  extract_lets _ s1
  rw [State.follow_lane, State.setLaneState_other, (State.tripSet_within s1 0).lane (by decide) (by decide)]
  exact State.lane_congr rfl rfl _

/-! ### Engines that park -/

/-- A step of both engines keeps the lanes' states. -/
theorem State.bothEngines_state (s : State) (f : LaneId → Engine → Engine × List EngineEvent) (l : LaneId) :
    ((s.bothEngines f).lane l).state = (s.lane l).state := by
  unfold State.bothEngines
  extract_lets one reports
  have hone : ∀ (y : State) (k : LaneId), ((one y k).lane l).state = (y.lane l).state := fun y k => by
    unfold one
    split
    · obtain rfl | rfl := eq_or_eq_other l k
      · rw [State.modEngine_lane_same]
      · rw [State.modEngine_lane_other]
    · rfl
  rw [State.engineEvents_lane, hone, hone]

theorem State.becalm_within (s : State) (cause : Nat) :
    Within [.scan, .rx, .front, .cap, .stream, .flash, .emit, .coil, .laneA, .laneB, .pwr, .cal] s (s.becalm cause) := by
  unfold State.becalm
  extract_lets keep _ s1
  exact ((Within.update (s := s) (u := s1) [.pwr] (by rfl)).seq ((State.timerStop_within s1).seq (State.becalm_follows ..))).up (by rfl)

/-- BECALMED changes no lane's state. -/
theorem State.becalm_state (s : State) (cause : Nat) (l : LaneId) : ((s.becalm cause).lane l).state = (s.lane l).state := by
  unfold State.becalm
  extract_lets keep _ s1
  have hend : ∀ y : State, (y.mirrPark.calBecalm).lane l = y.lane l := fun y =>
    ((State.mirrPark_within y).seq (State.calAbort_within ..)).lane (by decide) (by decide) l
  have hstart : ((s1.timerStop.tripSet 10).bankDischarge).lane l = s1.lane l :=
    ((State.timerStop_within s1).seq ((State.tripSet_within ..).seq (State.bankDischarge_within _))).lane (by decide) (by decide) l
  rw [hend, State.enginePark, State.follow_lane, State.bothEngines_state, hstart]
  exact congrArg Lane.state (State.lane_congr rfl rfl l)

/-! ### Columns that are released (R240) -/

theorem State.weirAdmit_within (s : State) (x : ColumnRec) : Within [.stream] s (s.weirAdmit x) := by
  unfold State.weirAdmit
  extract_lets e coded _ s1 subs fw head _ s2
  have h1 : Within [.stream] s s1 := .update _ (by rfl)
  have h2 : Within [.stream] s1 s2 := .update _ (by rfl)
  exact (h1.ite ((h1.seq (h2.seq (Within.update (s := s2) [.stream] (by rfl)))).ite (h1.seq (State.weirDrop_within s1 _)))).up (by rfl)

theorem State.columnUnit_within (s : State) (r : Released) : Within [.stream] s (s.columnUnit r).1 := by
  unfold State.columnUnit
  split
  extract_lets u b s1
  split
  · exact .unchanged ..
  · have h1 : Quiet s s1 := (State.count_quiet ..).trans (State.count_quiet ..)
    exact (h1.within.seq (Within.update (s := s1) [.stream] (by rfl))).up (by rfl)

theorem State.streamColumn_within (s : State) (r : Released) : Within [.stream] s (s.streamColumn r) := by
  unfold State.streamColumn
  extract_lets s1 p d s3 n done
  have h1 : Within [.stream] s s1 := .when (State.weirAdmit_within ..)
  have hp : Within [.stream] s1 p.1 := State.columnUnit_within ..
  have h3 : Within [.stream] p.1 s3 := .update _ (by rfl)
  exact ((h1.seq (hp.seq (h3.seq (Within.update (s := s3) [.stream] (by rfl))))).ite h1).up (by rfl)

theorem State.captureColumn_within (s : State) (r : Released) : Within [.cap, .stream, .flash] s (s.captureColumn r) := by
  unfold State.captureColumn
  extract_lets s0
  have h0 : Within [.cap, .stream, .flash] s s0 := State.capService_within s
  split
  · exact h0
  · exact (h0.ite (h0.seq (State.storeRecord_within s0 _))).up (by rfl)

theorem State.writeAmbient_within (s : State) (l : LaneColumn) : Within [.rx] s (s.writeAmbient l) :=
  Within.foldl (fun _ _ => .update _ (by rfl)) _ s

/-- The counters of a column move the sums of R170 alone. -/
theorem State.countColumn_arb (s : State) (r : Released) : ∃ i c e,
    (s.countColumn r).arb = { s.arb with incomplete := i, cutRows := c, excluded := e } := by
  unfold State.countColumn
  extract_lets s1 _ s2
  have h1 : s1.arb = s.arb := by simp only [s1, State.count_arb]
  have h2 : s2.arb = { s.arb with
      incomplete := s1.arb.incomplete + b2n r.incomplete, cutRows := s1.arb.cutRows + r.cutRows,
      excluded := s1.arb.excluded + (r.result.map (·.excluded)).getD 0 } := by
    rw [← h1]
  split
  · rw [State.count_arb, State.count_arb, State.count_arb]
    exact ⟨_, _, _, h2⟩
  · exact ⟨_, _, _, h2⟩

theorem State.countColumn_within (s : State) (r : Released) : Within [.arb] s (s.countColumn r) := by
  unfold State.countColumn
  extract_lets s1 _ s2
  have h2 : Within [.arb] s s2 :=
    ((State.count_quiet ..).trans (State.count_quiet ..)).within.seq (Within.update (s := s1) [.arb] (by rfl)) |>.up (by rfl)
  split
  · exact h2.then ((State.count_quiet ..).trans ((State.count_quiet ..).trans (State.count_quiet ..)))
  · exact h2

section
variable (s : State) (x : ColumnRec) (h : LaneId) (compare : Nat) (gap : Bool)

theorem State.release_within : Within [.rx, .echo, .arb, .stream, .cap, .flash] s (s.release x h compare gap) := by
  unfold State.release
  extract_lets r s1 _ s2
  have h1 : Within [.rx, .echo] s s1 := by
    show Within [.rx, .echo] s (match r.result with
      | some l => (s.writeAmbient l).writeQueues x l
      | none => s)
    split
    · exact ((State.writeAmbient_within ..).seq (Within.update [.echo] (by rfl))).up (by rfl)
    · exact .unchanged ..
  have h2 : Within [.arb] s1 s2 := .update _ (by rfl)
  exact (h1.seq (h2.seq ((State.countColumn_within s2 r).seq ((State.streamColumn_within ..).seq ((State.captureColumn_within ..).seq
    (State.capSettle_within _)))))).up (by rfl)

/-- A release numbers the column, ends it and its takeover, and counts. -/
theorem State.release_arb : ∃ k i c e, (s.release x h compare gap).arb = { s.arb with
    released := x.seq, columns := s.arb.columns.filter fun z => z.seq != x.seq, takeover := k, incomplete := i, cutRows := c, excluded := e } := by
  unfold State.release
  extract_lets r s1 _ s2
  have h1 : s1.arb = s.arb := by
    show (match r.result with
      | some l => (s.writeAmbient l).writeQueues x l
      | none => s).arb = s.arb
    split
    · exact ((State.writeAmbient_within ..).seq (Within.update [.echo] (by rfl))).arb (by decide)
    · rfl
  obtain ⟨i, c, e, hcount⟩ := s2.countColumn_arb r
  have hlast : (((s2.countColumn r).streamColumn r).captureColumn r).capSettle.arb = (s2.countColumn r).arb :=
    ((State.streamColumn_within ..).seq ((State.captureColumn_within ..).seq (State.capSettle_within _))).arb (by decide)
  have h2 : s2.arb = { s.arb with
      released := x.seq, takeover := s1.arb.takeover && gap, columns := s.arb.columns.filter fun z => z.seq != x.seq } := by
    rw [← h1]
  exact ⟨s1.arb.takeover && gap, i, c, e, hlast.trans (hcount.trans (by rw [h2]))⟩

end

/-- A new holder's header-only releases change neither the lanes nor the holder. -/
theorem State.releaseGaps_keeps (s : State) (h : LaneId) : (∀ l, (s.releaseGaps h).lane l = s.lane l) ∧
    (s.releaseGaps h).arb.holder = s.arb.holder :=
  List.foldlRecOn (motive := fun y : State => (∀ l, y.lane l = s.lane l) ∧ y.arb.holder = s.arb.holder) _ _ ⟨fun _ => rfl, rfl⟩
    fun y ⟨hlane, hholder⟩ x _ => by
      obtain ⟨k, i, c, e, harb⟩ := y.release_arb x h 2 true
      exact ⟨fun l => ((y.release_within x h 2 true).lane (by decide) (by decide) l).trans (hlane l),
        (congrArg Arbiter.holder harb).trans hholder⟩

end Sys2Proof.Machine
end

