-- ==== Sys2Proof/Proofs/Verdicts.lean ====
section
/-! PROOFS. Columns of the lanes (R239 to R241): a lane hands in its result, and the verdict releases the column. -/

namespace Sys2Proof.Machine

open Sys2Proof

/-! ### A result handed in (R239) -/

/-- A column with a lane's result. -/
def ColumnRec.handIn (x : ColumnRec) (l : LaneId) (r : LaneColumn) : ColumnRec := match l with
  | .a => { x with laneA := some r }
  | .b => { x with laneB := some r }

theorem ColumnRec.handIn_seq (x : ColumnRec) (l : LaneId) (r : LaneColumn) : (x.handIn l r).seq = x.seq := by
  cases l with
  | a => rfl
  | b => rfl

theorem ColumnRec.handIn_resultOf (x : ColumnRec) (l : LaneId) (r : LaneColumn) : (x.handIn l r).resultOf l = some r := by
  cases l with
  | a => rfl
  | b => rfl

/-- The oldest finished column that a running lane owes takes its result. -/
theorem doLaneColumnDone_handsIn {t : Time} {l : LaneId} {up : List (Nat × Byte)} {s : State} {x : ColumnRec} (hruns : (s.lane l).runs = true)
    (howed : (s.arb.columns.find? fun x => (x.resultOf l).isNone && decide ((s.lane l).joined ≤ x.ended)) = some x) :
    ∃ r, ((doLaneColumnDone t l up s).lane l).watchdog = max s.now t ∧ (doLaneColumnDone t l up s).arb.columns =
      s.arb.columns.map fun z => if z.seq = x.seq then z.handIn l r else z := by
  have howed1 : ((s.at t).arb.columns.find? fun x => (x.resultOf l).isNone && decide (((s.at t).lane l).joined ≤ x.ended)) = some x := by
    rw [State.at_lane]
    exact howed
  have hruns1 : ¬ (!((s.at t).lane l).runs) = true := by
    rw [State.at_lane, hruns]
    decide
  unfold doLaneColumnDone
  extract_lets s0 y d
  rw [howed1]
  dsimp -zeta only
  extract_lets s1 late r r1 s2
  rw [if_neg hruns1]
  have h1 : s1.arb = s.arb ∧ s0.now = max s.now t := by
    refine ⟨?_, rfl⟩
    show (if x.closed then (s.at t).draw.1 else s.at t).arb = s.arb
    split
    · rfl
    · rfl
  refine ⟨r1, ?_, ?_⟩
  · rw [State.modLane_same]
    exact h1.2
  · rw [State.modLane_arb]
    show (s1.modColumn x.seq _).arb.columns = _
    rw [State.modColumn, h1.1]
    cases l with
    | a => rfl
    | b => rfl

/-! ### The verdict (R240, R247) -/

/-- Both lanes sent a signature: the verdict on each is that of their comparison. -/
theorem State.verdictOf_compared {s : State} {x : ColumnRec} {l : LaneId} {own peer : Bytes} (htowpath : s.arb.towpath = 0)
    (hown : s.blockOf x l = some own) (hpeer : s.blockOf x (other l) = some peer) :
    s.verdictOf x l = some (if sameSignature own peer then 0 else 1) := by
  simp [State.verdictOf, hown, hpeer, htowpath]

/-- A mismatch calls for a self-test, and leaves the arbiter otherwise. -/
theorem State.noteMismatch_arb (s : State) (x : ColumnRec) : ∃ n, (s.noteMismatch x).arb = { s.arb with selftest := some n } := by
  unfold State.noteMismatch
  extract_lets n s1
  have h1 : s1.arb = s.arb := by simp only [s1, State.raise_arb, State.count_arb]
  cases htest : s1.arb.selftest with
  | none =>
    rw [if_pos (show (none : Option Nat).isNone = true from rfl)]
    exact ⟨x.seq.toNat, (congrArg (fun z : Arbiter => { z with selftest := some x.seq.toNat }) h1 :)⟩
  | some m =>
    rw [if_neg (show ¬ (some m).isNone = true from Bool.false_ne_true)]
    exact ⟨m, by rw [← htest, h1]⟩

/-- A STANDBY that counts a column may end its rejoin, and no more of the arbiter changes. -/
theorem State.qualify_arb (s : State) (l : LaneId) (v : Option Nat) : ∃ b j,
    (s.qualify l v).arb = { s.arb with redundancyLost := b, rejoin := j } := by
  unfold State.qualify
  split
  · exact ⟨s.arb.redundancyLost, s.arb.rejoin, rfl⟩
  · split
    · exact ⟨s.arb.redundancyLost, s.arb.rejoin, rfl⟩
    · extract_lets n s1 s2
      have h1 : s1.arb = s.arb := State.modLane_arb ..
      obtain ⟨b, hb⟩ := s1.setLaneState_arb l .qualified
      have h2 : s2.arb = { s.arb with redundancyLost := b } := by
        rw [← h1, ← hb]
        exact State.raise_arb ..
      split
      · split
        · split
          · exact ⟨b, none, (congrArg (fun z : Arbiter => { z with rejoin := none }) h2 :)⟩
          · exact ⟨b, s.arb.rejoin, h2⟩
        · exact ⟨b, s.arb.rejoin, h2⟩
      · exact ⟨s.arb.redundancyLost, s.arb.rejoin, h1⟩

/-- Both lanes' signatures judge the column and the holder releases it; different ones leave a self-test pending. -/
theorem doCompareVerdict_releases {t : Time} {s : State} {x : ColumnRec} {h : LaneId} {a b : Bytes}
    (holdest : (s.arb.columns.find? fun x => !x.judged) = some x) (hdue : (s.at t).verdictDue x = true) (hholder : s.arb.holder = some h)
    (htowpath : s.arb.towpath = 0) (ha : s.blockOf x .a = some a) (hb : s.blockOf x .b = some b) :
    (doCompareVerdict t s).arb.released = x.seq ∧ (∀ y ∈ (doCompareVerdict t s).arb.columns, y.seq ≠ x.seq) ∧
      (sameSignature a b = false → (doCompareVerdict t s).arb.selftest.isSome = true) := by
  unfold doCompareVerdict
  extract_lets s0
  rw [show (s0.arb.columns.find? fun x => !x.judged) = some x from holdest]
  dsimp -zeta only
  extract_lets va vb tell s1 s2 vh s3
  rw [if_neg (by simp [s0, hdue])]
  have hva : va = some (if sameSignature a b then 0 else 1) := State.verdictOf_compared (s := s.at t) htowpath ha hb
  have hvb : vb = some (if sameSignature b a then 0 else 1) := State.verdictOf_compared (s := s.at t) htowpath hb ha
  have htell : ∀ (y : State) (l : LaneId) (v : Option Nat), (tell y l v).arb = y.arb := fun y l v => by
    cases v with
    | none => rfl
    | some n => exact State.modLane_arb ..
  have h1 : s1.arb.holder = some h := by
    show (tell (tell _ .a va) .b vb).arb.holder = some h
    rw [htell, htell]
    exact hholder
  have h2 : s2.arb.holder = some h ∧ (sameSignature a b = false → s2.arb.selftest.isSome = true) := by
    show (if va = some 1 then s1.noteMismatch x else s1).arb.holder = some h ∧
      (sameSignature a b = false → (if va = some 1 then s1.noteMismatch x else s1).arb.selftest.isSome = true)
    cases hsame : sameSignature a b with
    | true => exact ⟨by rw [hva, hsame, if_neg (by decide), h1], fun hdiffer => nomatch hdiffer⟩
    | false =>
      obtain ⟨n, hn⟩ := s1.noteMismatch_arb x
      rw [hva, hsame, if_pos (by rfl), hn]
      exact ⟨h1, fun _ => rfl⟩
  have hvh : ∃ v, vh = some v := by
    show ∃ v, (match s2.arb.holder with
      | some .a => va
      | some .b => vb
      | none => none) = some v
    rw [h2.1]
    cases h with
    | a => exact ⟨_, hva⟩
    | b => exact ⟨_, hvb⟩
  obtain ⟨v, hv⟩ := hvh
  have h3 : s3 = s2.release x h v false := by
    show (match s2.arb.holder, vh with
      | some h, some v => s2.release x h v false
      | _, _ => s2) = _
    rw [h2.1, hv]
  obtain ⟨k, i, c, e, hrelease⟩ := s2.release_arb x h v false
  obtain ⟨ba, ja, hqa⟩ := s3.qualify_arb .a va
  obtain ⟨bb, jb, hqb⟩ := (s3.qualify .a va).qualify_arb .b vb
  rw [hqb, hqa, h3, hrelease]
  exact ⟨rfl, fun y hy => bne_iff_ne.mp (List.mem_filter.mp hy).2, h2.2⟩

/-- Settles O36: the column that takes the result, and the arbiter after the verdict. -/
theorem lanesAnswerAndAreCompared : Obligations.LanesAnswerAndAreCompared := by
  unfold Obligations.LanesAnswerAndAreCompared
  refine ⟨fun t l up s x hruns howed => ?_, fun t s x h holdest hdue hholder htowpath a b ha hb =>
    ⟨_, rfl, doCompareVerdict_releases holdest hdue hholder htowpath ha hb⟩⟩
  obtain ⟨r, hwatchdog, hcolumns⟩ := doLaneColumnDone_handsIn (t := t) (up := up) hruns howed
  refine ⟨_, rfl, hwatchdog, ?_, x.handIn l r, ?_, x.handIn_seq l r, ?_⟩
  · rw [hcolumns, List.length_map]
  · rw [hcolumns]
    exact List.mem_map.mpr ⟨x, List.mem_of_find?_eq_some howed, if_pos rfl⟩
  · rw [x.handIn_resultOf l r]
    rfl

end Sys2Proof.Machine
end

