-- ==== Sys2Proof/Proofs/Leases.lean ====
section
/-! PROOFS. The lease (R242 to R244): a report, a renewal, a takeover in the same cycle, and the lapse into BECALMED. -/

namespace Sys2Proof.Machine

open Sys2Proof

/-! ### What a renewal leaves of the lease -/

/-- Who holds the lease, its last renewal, and a grant that is not yet confirmed. -/
def State.lease (s : State) : Option LaneId × Time × Option Time := (s.arb.holder, s.arb.renewed, s.arb.unconfirmed)

theorem Within.lease {p : List Part} {s u : State} (h : Within p s u) (hp : .arb ∉ p) : u.lease = s.lease := by
  rw [State.lease, h.arb hp, State.lease]

theorem State.beginFrame_lease (s : State) (e : Time) : (s.beginFrame e).lease = s.lease := by
  unfold State.beginFrame
  extract_lets camera x _ info y
  obtain ⟨b, hb⟩ := State.noteRedundancy_arb { s with scan := y, arb := { s.arb with redundancyLost := false } }
  exact (congrArg (fun z : Arbiter => (z.holder, z.renewed, z.unconfirmed)) hb :)

theorem State.frameOpens_lease (s : State) (old : Cfg) (columns period : Nat) (flip : Option (List Nat)) (e : Time) :
    (s.frameOpens old columns period flip e).lease = s.lease := by
  unfold State.frameOpens
  extract_lets s1 p
  have h1 : s1.lease = s.lease := ((State.engineBoundary_within ..).lease (by decide)).trans (s.beginFrame_lease e)
  exact (((State.rangeBoundary_within s1 ..).seq (State.openSection_within ..)).lease (by decide)).trans h1

theorem State.rejoinTick_lease (s : State) (tick : Time) : (s.rejoinTick tick).lease = s.lease := by
  unfold State.rejoinTick
  split
  · split
    · rfl
    · rfl
  · rfl

theorem State.frameUpdates_lease (s : State) (old : Cfg) (columns period : Nat) (ran : Bool) (flip : Option (List Nat)) (e : Time) :
    (s.frameUpdates old columns period ran flip e).lease = s.lease := by
  unfold State.frameUpdates
  extract_lets s1
  have h1 : s1.lease = s.lease :=
    (((State.emitBoundary_within _).seq (State.throttleBoundary_within _)).lease (by decide)).trans (s.frameOpens_lease ..)
  have hlast : Within [.bus, .rx, .pwr, .cal, .therm] s1 ((s1.busBoundary.busAlign ran).calBoundary.xtalBoundary.wakeRestarted.stepBias) :=
    ((State.busBoundary_within s1).seq ((State.busAlign_within ..).seq ((State.calBoundary_within _).seq ((State.xtalBoundary_within _).seq
      ((State.wakeRestarted_within _).seq (State.stepBias_within _)))))).up (by rfl)
  exact (State.rejoinTick_lease ..).trans ((hlast.lease (by decide)).trans h1)

theorem State.timerStart_lease (s : State) (e : Time) : (s.timerStart e).lease = s.lease := by
  unfold State.timerStart
  extract_lets _ _ s1 s2
  have h2 : Within [.scan, .front, .cap] s s2 :=
    (Within.update (u := s1.capTimerStart) [.scan, .front, .cap] (by rfl)).seq (State.phaseStart_within ..) |>.up (by rfl)
  split
  · rfl
  · exact (State.frameUpdates_lease ..).trans (h2.lease (by decide))

/-- A LANE_RESTART that ends leaves the lease as it is. -/
theorem State.restartDone_lease (s : State) : s.restartDone.lease = s.lease := by
  unfold State.restartDone
  split
  · rfl
  · extract_lets _ _ s1 s2 s3
    have h2 : s2.lease = s.lease :=
      (((State.engineAutostart_within s1).seq (State.follow_within _)).lease (by decide)).trans rfl
    have h3 : s3.lease = s2.lease := by
      show (if s2.pwr.state = .run ∧ s2.pwr.entry.isNone then (s2.tripClear 10).timerStart s2.now else s2).lease = s2.lease
      split
      · exact (State.timerStart_lease ..).trans ((State.tripClear_within s2 10).lease (by decide))
      · rfl
    exact ((State.raise_quiet s3 ..).within.lease (by decide)).trans (h3.trans h2)

/-- The arbiter that hears a lane changes nothing else. -/
theorem State.towpathHear_arb (s : State) (l : LaneId) : ∃ b, (s.towpathHear l).arb = { s.arb with peerHeard := b } := by
  unfold State.towpathHear
  split
  · exact ⟨true, rfl⟩
  · exact ⟨s.arb.peerHeard, rfl⟩

theorem State.towpathHear_lane (s : State) (l k : LaneId) : (s.towpathHear l).lane k = s.lane k := by
  unfold State.towpathHear
  split
  · exact State.lane_congr rfl rfl k
  · rfl

/-! ### Reports and renewals (R242) -/

section
variable {t : Time} {l : LaneId} {s : State}

/-- A report without a verdict is heard, and serves the lane's watchdog. -/
theorem doLaneReport_heard (hruns : (s.lane l).runs = true) (hsound : (s.lane l).fatal = false) (hverdict : (s.lane l).toReport = none) :
    doLaneReport t l s = ((s.at t).modLane l fun y => { y with
      report := some (max s.now t, y.state == .qualified), toReport := none, watchdog := max s.now t }).towpathHear l := by
  unfold doLaneReport
  extract_lets s0 x s1
  have hx : x = s.lane l := s.at_lane t l
  rw [hx, hruns, hsound, hverdict]
  rfl

/-- A holder that renews in time keeps the lease, and confirms its grant. -/
theorem doLeaseRenew_renews (hholder : s.arb.holder = some l) (hsound : (s.lane l).fatal = false)
    (htime : max s.now t / aoCycle < s.leaseEnd / aoCycle) (hwork : (s.at t).lateColumn l = false) :
    (doLeaseRenew t l s).lease = (some l, max s.now t, none) := by
  have hrenews : ¬ ((s.at t).arb.holder ≠ some l ∨ ((s.at t).lane l).fatal = true ∨ (s.at t).leaseEnd / aoCycle ≤ (s.at t).now / aoCycle ∨
      (s.at t).lateColumn l = true) := by
    rw [State.at_lane, hsound, hwork]
    rintro (h | h | h | h)
    · exact h hholder
    · cases h
    · exact Nat.not_le.mpr htime h
    · cases h
  unfold doLeaseRenew
  extract_lets s0 _ s1 s2 _ s3
  rw [if_neg hrenews]
  obtain ⟨b, hb⟩ := (s1.modLane l fun x => { x with watchdog := s0.now }).towpathHear_arb l
  have h2 : s2.arb.holder = some l ∧ s2.arb.renewed = max s.now t := by
    rw [show s2.arb = _ from hb, State.modLane_arb]
    exact ⟨hholder, rfl⟩
  split
  · next hconfirmed => exact Prod.ext h2.1 (Prod.ext h2.2 (Option.isNone_iff_eq_none.mp hconfirmed))
  · refine ((State.restartDone_lease _).trans
      (((State.tripClear_within s3 0).seq (State.emitAdvance_within _)).lease (by decide))).trans ?_
    exact Prod.ext h2.1 (Prod.ext h2.2 rfl)

end

/-! ### Takeover and lapse (R243, R244) -/

/-- A standby that is eligible takes the token over: the old holder is FAILED, the new one ACTIVE. -/
theorem State.loseLease_takeover {s : State} {old : LaneId} {cause : Nat} (heligible : s.eligible (other old) = true) :
    (s.loseLease old cause).arb.holder = some (other old) ∧ ((s.loseLease old cause).lane old).state = .failed ∧
      ((s.loseLease old cause).lane (other old)).state = .active := by
  unfold State.loseLease
  extract_lets new s1 s2 _ s3
  rw [if_pos heligible]
  generalize hy : (s3.count Id.TAKEOVERS).raise 0x5004 2 (u32 (LaneId.num new)) (u32 cause) = y
  have hquiet : Quiet s3 y := hy ▸ (State.count_quiet ..).trans (State.raise_quiet ..)
  obtain ⟨hlane, hholder⟩ := y.releaseGaps_keeps new
  obtain ⟨b, hb⟩ := s1.giveToken_arb new
  have hlane3 : ∀ l, y.lane l = s2.lane l := fun l => (hquiet.lane l).trans (State.lane_congr rfl rfl l)
  refine ⟨?_, ?_, ?_⟩
  · rw [hholder, hquiet.arb]
    exact congrArg Arbiter.holder hb
  · rw [hlane, hlane3]
    have hold := s1.giveToken_other new
    rw [show other new = old from other_other old] at hold
    exact (congrArg Lane.state hold).trans (State.setLaneState_state ..)
  · rw [hlane, hlane3]
    exact s1.giveToken_state new

/-- The lease lapses: no lane holds it, no column follows, and the device is BECALMED. -/
theorem State.lapse_lapses (s : State) (cause : Nat) : (s.lapse cause).arb.holder = none ∧ (s.lapse cause).pwr.becalmed ≠ 0 ∧
    (s.lapse cause).scan.timer = false := by
  unfold State.lapse
  extract_lets _ s1 s2 moor s3
  have hmoor : ∀ (y : State) (l : LaneId), (moor y l).arb.holder = y.arb.holder := fun y l => by
    show (if (y.lane l).state = .failed ∨ (y.lane l).state = .off then y else y.setLaneState l .moored).arb.holder = _
    split
    · rfl
    · obtain ⟨b, hb⟩ := y.setLaneState_arb l .moored
      rw [hb]
  obtain ⟨j, n, b, habort⟩ := s1.abortRejoin_arb 3
  have h3 : s3.arb.holder = none := by
    show (moor (moor (s2.tripSet 0) .a) .b).arb.holder = none
    rw [hmoor, hmoor, (State.tripSet_within s2 0).arb (by decide), show s2.arb = _ from habort]
  generalize hy : s3.raise 0x5005 3 (u32 cause) = y
  have hlast := State.capSettle_within (y.becalm 1)
  refine ⟨?_, ?_, ?_⟩
  · rw [hlast.arb (by decide), (y.becalm_within 1).arb (by decide), ← hy, State.raise_arb, h3]
  · have hpwr : (y.becalm 1).capSettle.pwr = (y.becalm 1).pwr := hlast.part .pwr (by decide)
    rw [hpwr]
    exact y.becalm_becalmed (by decide)
  · rw [hlast.scan, State.becalm_timer]

/-- A lane that is FAILED stays so over a lapse. -/
theorem State.lapse_failed {s : State} {l : LaneId} (cause : Nat) (hfailed : (s.lane l).state = .failed) :
    ((s.lapse cause).lane l).state = .failed := by
  unfold State.lapse
  extract_lets _ s1 s2 moor s3
  have hmoor : ∀ (y : State) (k : LaneId), (y.lane l).state = .failed → ((moor y k).lane l).state = .failed := fun y k hy => by
    show ((if (y.lane k).state = .failed ∨ (y.lane k).state = .off then y else y.setLaneState k .moored).lane l).state = .failed
    split
    · exact hy
    · next hk =>
      obtain rfl | rfl := eq_or_eq_other l k
      · exact absurd (.inl hy) hk
      · rw [State.setLaneState_other, hy]
  have h2 : (s2.lane l).state = .failed :=
    State.abortRejoin_failed (by decide) ((congrArg Lane.state (State.lane_congr (s := s) (u := s1) rfl rfl l)).trans hfailed)
  have h3 : (s3.lane l).state = .failed := hmoor _ _ (hmoor _ _ (by rw [(State.tripSet_within s2 0).lane (by decide) (by decide), h2]))
  rw [(State.capSettle_within _).lane (by decide) (by decide), State.becalm_state, (State.raise_quiet s3 ..).lane, h3]

/-- Without one, the lease lapses and the old holder is FAILED. -/
theorem State.loseLease_lapses {s : State} {old : LaneId} {cause : Nat} (hcause : cause ≠ 3) (heligible : s.eligible (other old) = false) :
    (s.loseLease old cause).arb.holder = none ∧ ((s.loseLease old cause).lane old).state = .failed ∧
      (s.loseLease old cause).pwr.becalmed ≠ 0 ∧ (s.loseLease old cause).scan.timer = false := by
  have hlapse : s.loseLease old cause = (s.setLaneState old .failed).lapse cause := by
    unfold State.loseLease
    extract_lets
    rw [if_neg (Bool.eq_false_iff.mp heligible), if_neg hcause]
  obtain ⟨hholder, hbecalmed, htimer⟩ := (s.setLaneState old .failed).lapse_lapses cause
  rw [hlapse]
  exact ⟨hholder, State.lapse_failed _ (State.setLaneState_state ..), hbecalmed, htimer⟩

section
variable {t : Time} {h : LaneId} {s : State} (hholder : s.arb.holder = some h)
include hholder

theorem doLeaseExpiry_due (hdue : s.leaseEnd / aoCycle ≤ max s.now t / aoCycle) : doLeaseExpiry t s = (s.at t).loseLease h 1 := by
  unfold doLeaseExpiry
  extract_lets s0
  rw [show s0.arb.holder = some h from hholder]
  exact if_pos hdue

theorem doLeaseExpiry_early (hearly : max s.now t / aoCycle < s.leaseEnd / aoCycle) : doLeaseExpiry t s = s.at t := by
  unfold doLeaseExpiry
  extract_lets s0
  rw [show s0.arb.holder = some h from hholder]
  exact if_neg (Nat.not_le.mpr hearly)

theorem doYield_holder : doYield t h s = (s.at t).loseLease h 2 := if_pos hholder

variable {g : Time} (hgrant : s.arb.unconfirmed = some g)
include hgrant

theorem doLeaseConfirmTimeout_due (hdue : g + Sys2Proof.usec 5 ≤ max s.now t) :
    doLeaseConfirmTimeout t s = ((s.at t).setLaneState h .failed).lapse 4 := by
  unfold doLeaseConfirmTimeout
  extract_lets s0
  rw [show s0.arb.holder = some h from hholder, show s0.arb.unconfirmed = some g from hgrant]
  exact if_pos hdue

theorem doLeaseConfirmTimeout_early (hearly : max s.now t < g + Sys2Proof.usec 5) : doLeaseConfirmTimeout t s = s.at t := by
  unfold doLeaseConfirmTimeout
  extract_lets s0
  rw [show s0.arb.holder = some h from hholder, show s0.arb.unconfirmed = some g from hgrant]
  exact if_neg (Nat.not_le.mpr hearly)

end

/-- Settles O37: the report, the renewal, and the lease that is lost to a standby or lapses. -/
theorem theLeaseIsRenewedTakenOverOrLapses : Obligations.TheLeaseIsRenewedTakenOverOrLapses := by
  unfold Obligations.TheLeaseIsRenewedTakenOverOrLapses
  refine ⟨fun t l s hruns hsound hverdict => ⟨_, congrArg Host.Outcome.next (doLaneReport_heard hruns hsound hverdict), ?_⟩,
    fun t l s hholder hsound htime hwork => ⟨_, rfl, ?_⟩, fun t h s hholder => ⟨fun hdue => ⟨fun heligible => ?_, fun hnone => ?_⟩,
      fun hearly => congrArg Host.Outcome.next (doLeaseExpiry_early hholder hearly), fun heligible => ?_, fun hnone => ?_,
      fun g hgrant => ⟨fun hdue => ?_, fun hearly => congrArg Host.Outcome.next (doLeaseConfirmTimeout_early hholder hgrant hearly)⟩⟩⟩
  · rw [State.towpathHear_lane, State.towpathHear_lane, State.modLane_same, State.modLane_other, State.at_lane, State.at_lane]
    exact ⟨rfl, rfl, rfl⟩
  · obtain ⟨hl, hrenewed, hconfirmed⟩ := by
      simpa only [State.lease, Prod.mk.injEq] using doLeaseRenew_renews (t := t) hholder hsound htime hwork
    exact ⟨hrenewed, hconfirmed, hl⟩
  · exact ⟨_, congrArg Host.Outcome.next (doLeaseExpiry_due hholder hdue), State.loseLease_takeover heligible⟩
  · exact ⟨_, congrArg Host.Outcome.next (doLeaseExpiry_due hholder hdue), State.loseLease_lapses (by decide) hnone⟩
  · obtain ⟨hnew, hold, -⟩ := State.loseLease_takeover (cause := 2) heligible
    exact ⟨_, congrArg Host.Outcome.next (doYield_holder hholder), hnew, hold⟩
  · obtain ⟨hlapsed, -, hbecalmed, -⟩ := State.loseLease_lapses (cause := 2) (by decide) hnone
    exact ⟨_, congrArg Host.Outcome.next (doYield_holder hholder), hlapsed, hbecalmed⟩
  · obtain ⟨hlapsed, hbecalmed, -⟩ := ((s.at t).setLaneState h .failed).lapse_lapses 4
    exact ⟨_, congrArg Host.Outcome.next (doLeaseConfirmTimeout_due hholder hgrant hdue), hlapsed,
      State.lapse_failed 4 (State.setLaneState_state ..), hbecalmed⟩

end Sys2Proof.Machine
end

