-- ==== Sys2Proof/Proofs/LaneStarts.lean ====
section
/-! PROOFS. Lanes that start and fail (R237, R238, Table 11.2), and the Towpath between them (R246). -/

namespace Sys2Proof.Machine

open Sys2Proof

/-! ### The lease at a start (R238) -/

theorem State.giveToken_preferred (s : State) (l : LaneId) : (s.giveToken l).preferred = s.preferred := by
  rw [State.preferred, (State.giveToken_within s l).cfgN (by decide), State.preferred]

/-- A lane joins beside the preferred holder as STANDBY. -/
theorem State.laneJoin_beside {s : State} (hholder : s.arb.holder = some s.preferred) :
    s.laneJoin (other s.preferred) = s.setLaneState (other s.preferred) .standby := by
  rw [State.laneJoin, hholder]
  exact (if_neg (other_ne _).symm).trans (if_neg (other_ne _))

/-- The preferred lane takes the token; the other lane, where it is ready, joins beside it. -/
theorem doLaneReady_preferred {t : Time} {s : State} (hon : s.isOn (laneDom s.preferred) = true) (hoff : (s.lane s.preferred).state = .off)
    (hready : (s.lane s.preferred).ready = none) (hfree : s.arb.holder = none) :
    (doLaneReady t s.preferred s).arb.holder = some s.preferred ∧ ((doLaneReady t s.preferred s).lane s.preferred).state = .active ∧
      (doLaneReady t s.preferred s).arb.unconfirmed = some (max s.now t) := by
  have hstarts : ¬ (!(s.at t).isOn (laneDom s.preferred) || ((s.at t).lane s.preferred).state != .off ||
      ((s.at t).lane s.preferred).ready.isSome) = true := by
    rw [State.at_isOn, State.at_lane, hon, hoff, hready]
    decide
  unfold doLaneReady
  extract_lets s0 x s1 s2
  have h1 : s1.preferred = s.preferred := by
    rw [State.preferred, ((State.modLane_within s0 ..).cfgN (by decide)), State.at_cfgN, State.preferred]
  have hholder1 : s1.arb.holder = none := (congrArg Arbiter.holder (State.modLane_arb ..)).trans hfree
  obtain ⟨b, hb⟩ := s1.giveToken_arb s.preferred
  have hgiven : s2.arb.holder = some s.preferred ∧ s2.arb.unconfirmed = some (max s.now t) := by
    rw [show s2.arb = _ from hb, State.modLane_now]
    exact ⟨rfl, rfl⟩
  have hactive : (s2.lane s.preferred).state = .active := s1.giveToken_state _
  have h2 : s2.preferred = s.preferred := (State.giveToken_preferred ..).trans h1
  rw [if_neg hstarts, hholder1]
  dsimp -zeta only
  rw [if_pos h1.symm]
  split
  · obtain ⟨c, hc⟩ := s2.setLaneState_arb (other s.preferred) .standby
    have hother := s2.setLaneState_other (other s.preferred) .standby
    rw [other_other] at hother
    rw [← h2, State.laneJoin_beside (hgiven.1.trans (congrArg some h2.symm)), h2, hc, hother]
    exact ⟨hgiven.1, hactive, hgiven.2⟩
  · exact ⟨hgiven.1, hactive, hgiven.2⟩

section
variable {t r : Time} {s : State} (hfree : s.arb.holder = none) (hready : (s.lane (other s.preferred)).ready = some r)
  (hoff : (s.lane (other s.preferred)).state = .off)
include hfree hready hoff

/-- The other lane waits 50 ms for the preferred one. -/
theorem doLanePreferredTimeout_eq : doLanePreferredTimeout t s = if r + Sys2Proof.msec 50 ≤ max s.now t then
    ((s.at t).modLane (other s.preferred) fun y => { y with watchdog := max s.now t }).giveToken (other s.preferred) else s.at t := by
  unfold doLanePreferredTimeout
  extract_lets s0 l
  have hlane : s0.lane l = s.lane (other s.preferred) := s.at_lane t _
  rw [show s0.arb.holder = none from hfree, hlane, hready, hoff]
  simp only [true_and]
  rfl

theorem doLanePreferredTimeout_grants (hdue : r + Sys2Proof.msec 50 ≤ max s.now t) :
    (doLanePreferredTimeout t s).arb.holder = some (other s.preferred) ∧
      ((doLanePreferredTimeout t s).lane (other s.preferred)).state = .active := by
  rw [doLanePreferredTimeout_eq hfree hready hoff, if_pos hdue]
  obtain ⟨b, hb⟩ := State.giveToken_arb ((s.at t).modLane (other s.preferred) fun y => { y with watchdog := max s.now t }) (other s.preferred)
  exact ⟨congrArg Arbiter.holder hb, State.giveToken_state ..⟩

end

/-! ### Lanes that fail (R237) -/

/-- A lane that neither holds the lease nor rejoins is FAILED by a fatal fault. -/
theorem State.laneFatal_fails {s : State} {l : LaneId} (hholder : s.arb.holder ≠ some l) (hrejoin : s.arb.rejoin = none)
    (hstate : (s.lane l).state ≠ .off) : ((s.laneFatal l).lane l).state = .failed ∧ ((s.laneFatal l).lane l).fatal = true := by
  unfold State.laneFatal
  extract_lets s1
  have h1 : s1.arb.rejoin = none := (congrArg Arbiter.rejoin (State.modLane_arb ..)).trans hrejoin
  obtain ⟨m, hm⟩ := s1.setLaneState_same l .failed
  rw [if_neg hholder, h1]
  dsimp -zeta only
  rw [if_neg hstate, hm, State.modLane_same]
  exact ⟨rfl, rfl⟩

/-- A lane that runs is not OFF. -/
theorem Lane.runs_ne_off {x : Lane} (hruns : x.runs = true) : x.state ≠ .off := by
  intro hoff
  rw [Lane.runs, hoff] at hruns
  exact Bool.noConfusion hruns

theorem doLaneWatchdogExpiry_early {t : Time} {l : LaneId} {s : State} (hearly : max s.now t < (s.lane l).watchdog + Sys2Proof.usec 250) :
    doLaneWatchdogExpiry t l s = s.at t := by
  refine if_neg fun ⟨_, hdue⟩ => ?_
  rw [State.at_lane] at hdue
  exact Nat.not_le.mpr hearly hdue

/-! ### The Towpath (R246) -/

/-- A lane that is neither STANDBY nor QUALIFIED. -/
def Lane.parted (x : Lane) : Prop := x.state ≠ .standby ∧ x.state ≠ .qualified

/-- A lane is MOORED where the Towpath parts it from the holder. -/
def State.moor (s : State) (l : LaneId) : State :=
  if (s.lane l).state = .standby ∨ (s.lane l).state = .qualified then s.setLaneState l .moored else s

theorem State.towpathDown_moors (s : State) : ∃ y : State, s.towpathDown = (y.moor .a).moor .b ∧ y.arb.towpath = 2 := by
  unfold State.towpathDown
  extract_lets _ s1 s2 moor
  obtain ⟨j, n, b, habort⟩ := ((s1.count Id.TOWPATH_LOSSES).raise 0x5006 1 (u32 (LaneId.num s1.arb.reporter))).abortRejoin_arb 1
  refine ⟨s2, rfl, ?_⟩
  rw [show s2.arb = _ from habort, State.raise_arb, State.count_arb]

theorem State.moor_parted (s : State) (l : LaneId) : ((s.moor l).lane l).parted := by
  unfold State.moor
  split
  · rw [Lane.parted, State.setLaneState_state]
    decide
  · next hother => exact ⟨fun h => hother (.inl h), fun h => hother (.inr h)⟩

theorem State.moor_other (s : State) (l : LaneId) : (s.moor l).lane (other l) = s.lane (other l) := by
  unfold State.moor
  split
  · exact State.setLaneState_other ..
  · rfl

theorem State.moor_towpath (s : State) (l : LaneId) : (s.moor l).arb.towpath = s.arb.towpath := by
  unfold State.moor
  split
  · obtain ⟨b, hb⟩ := s.setLaneState_arb l .moored
    rw [hb]
  · rfl

/-- With the Towpath declared down, no lane stands by. -/
theorem State.towpathDown_parts (s : State) : s.towpathDown.arb.towpath = 2 ∧ s.towpathDown.laneA.parted ∧ s.towpathDown.laneB.parted := by
  obtain ⟨y, hy, htowpath⟩ := s.towpathDown_moors
  rw [hy]
  refine ⟨by rw [State.moor_towpath, State.moor_towpath, htowpath], ?_, (y.moor .a).moor_parted .b⟩
  have hkept : ((y.moor .a).moor .b).laneA = (y.moor .a).laneA := (y.moor .a).moor_other .b
  rw [hkept]
  exact y.moor_parted .a

theorem doTowpathPendingTimeout_due {t : Time} {s : State} (hpending : s.arb.towpath = 1)
    (hdue : s.arb.towpathAt + Sys2Proof.usec 200 ≤ max s.now t) : doTowpathPendingTimeout t s = if s.arb.peerHeard then (s.at t).towpathDown
      else { s.at t with arb := { s.arb with towpath := 0, towpathAt := max s.now t } } :=
  if_pos ⟨hpending, hdue⟩

/-- A peer that was heard is parted by the Towpath. -/
theorem doTowpathPendingTimeout_declares {t : Time} {s : State} (hpending : s.arb.towpath = 1)
    (hdue : s.arb.towpathAt + Sys2Proof.usec 200 ≤ max s.now t) (hheard : s.arb.peerHeard = true) :
    doTowpathPendingTimeout t s = (s.at t).towpathDown :=
  (doTowpathPendingTimeout_due hpending hdue).trans (if_pos hheard)

theorem doTowpathGraceExpiry_due {t : Time} {s : State} (hdown : s.arb.towpath = 2) (hquiet : s.arb.graceRaised = false)
    (hdue : s.arb.towpathAt + Sys2Proof.msec (s.cfgN Id.TOWPATH_GRACE) ≤ max s.now t) : doTowpathGraceExpiry t s =
      ({ s.at t with arb := { s.arb with graceRaised := true } } : State).raise 0x5007 2 (u32 (s.cfgN Id.TOWPATH_GRACE)) := by
  refine if_pos ⟨hdown, ?_, hdue⟩
  rw [State.at_arb, hquiet]
  rfl

/-- A change of the arbiter that is told. -/
theorem State.arb_told (s : State) (t : Time) (a : Arbiter) (code sev : Nat) (p : U32) :
    (({ s.at t with arb := a } : State).raise code sev p).arb = a ∧
      Told s (({ s.at t with arb := a } : State).raise code sev p) code sev p 0 0 0 :=
  ⟨State.raise_arb .., (State.raise_told ..).told (by decide)⟩

/-- Settles O38: the two grants, the lane that fails, and the Towpath by its phases. -/
theorem lanesStartAndFailAndTheTowpathParts : Obligations.LanesStartAndFailAndTheTowpathParts := by
  unfold Obligations.LanesStartAndFailAndTheTowpathParts
  refine ⟨fun t s hon hoff hready hfree => ⟨_, rfl, doLaneReady_preferred hon hoff hready hfree⟩,
    fun t r s hfree hready hoff => ⟨fun hdue => ⟨_, rfl, doLanePreferredTimeout_grants hfree hready hoff hdue⟩, fun hearly => ?_⟩,
    fun t l s hholder hrejoin => ⟨fun hon hstate => ?_, fun hruns hdue => ?_,
      fun hearly => congrArg Host.Outcome.next (doLaneWatchdogExpiry_early hearly)⟩,
    fun t l s hup hoff hfailed hpeer => ?_,
    fun t s hpending hdue => ⟨fun hsilent => ?_, fun hheard => ?_⟩, fun t s hdown hquiet hdue => ?_, fun t s hdown => ?_⟩
  · refine congrArg Host.Outcome.next ((doLanePreferredTimeout_eq hfree hready hoff).trans (if_neg ?_))
    exact Nat.not_le.mpr hearly
  · have hfault : doFatalLaneFault t l s = (s.at t).laneFatal l := if_pos hon
    exact ⟨_, congrArg Host.Outcome.next hfault, State.laneFatal_fails hholder hrejoin (s.at_lane t l ▸ hstate)⟩
  · have hfault : doLaneWatchdogExpiry t l s = (s.at t).laneFatal l := if_pos (by
      rw [State.at_lane]
      exact ⟨hruns, hdue⟩)
    exact ⟨_, congrArg Host.Outcome.next hfault,
      (State.laneFatal_fails (s := s.at t) hholder hrejoin (s.at_lane t l ▸ Lane.runs_ne_off hruns)).1⟩
  · have hlost : doLinkLost t l s = { s.at t with arb := { s.arb with
        towpath := 1, towpathAt := max s.now t, reporter := l, peerHeard := false, graceRaised := false } } := if_pos (by
      rw [State.at_lane]
      exact ⟨hup, hoff, hfailed, hpeer⟩)
    exact ⟨_, congrArg Host.Outcome.next hlost, rfl, rfl, rfl, rfl, rfl, rfl⟩
  · have hend := doTowpathPendingTimeout_due (t := t) hpending hdue
    rw [hsilent] at hend
    exact ⟨_, congrArg Host.Outcome.next hend, rfl⟩
  · obtain ⟨hdown, ⟨ha, ha'⟩, hb, hb'⟩ := (s.at t).towpathDown_parts
    exact ⟨_, congrArg Host.Outcome.next (doTowpathPendingTimeout_declares hpending hdue hheard), hdown, ha, ha', hb, hb'⟩
  · obtain ⟨harb, htold⟩ := s.arb_told t { s.arb with graceRaised := true } 0x5007 2 (u32 (s.cfgN Id.TOWPATH_GRACE))
    exact ⟨_, congrArg Host.Outcome.next (doTowpathGraceExpiry_due hdown hquiet hdue), harb, htold⟩
  · have hup : doTowpathUp t s = ({ s.at t with arb := { s.arb with towpath := 0, towpathAt := max s.now t } } : State).raise 0x5008 0 :=
      if_pos hdown
    obtain ⟨harb, htold⟩ := s.arb_told t { s.arb with towpath := 0, towpathAt := max s.now t } 0x5008 0 0
    exact ⟨_, congrArg Host.Outcome.next hup, harb, htold⟩

end Sys2Proof.Machine
end

