-- ==== Sys2Proof/Proofs/Authentication.lean ====
section
/-! PROOFS. SESSION_OPEN and SESSION_AUTH (R350): the challenge of a source, and the session that its right response opens. -/

namespace Sys2Proof.Machine

open Sys2Proof

/-! ### The session a request came in, and a free number (R57, R65) -/

/-- A request in a session was taken by that session. -/
theorem reaches_session {s : State} {svc : Nat} {h : Hdr} {p : Bytes} {s2 : State} {r : Rcvd} (hr : s.reaches svc h p = some (s2, r))
    (h0 : r.h.session ≠ 0) : (s2.session? r.h.transport r.h.session).isSome = true := by
  unfold State.reaches at hr
  split at hr
  · cases hr
  · split at hr
    · next hnone =>
      cases hr
      exact absurd ((receive_h ..).2.trans hnone) h0
    · split at hr
      · cases hr
      · next x hx =>
        dsimp only at hr
        split at hr
        · cases hr
          obtain ⟨htr, hnum⟩ := receive_h h (BitVec.ofNat 8 svc) (rawOf h p) x.rxFresh
          have hx' : s.session? (Hdr.receive h (BitVec.ofNat 8 svc) (rawOf h p) x.rxFresh).h.transport
              (Hdr.receive h (BitVec.ofNat 8 svc) (rawOf h p) x.rxFresh).h.session = some x := by
            rw [htr, hnum, hx]
          exact Option.isSome_iff_exists.mpr ⟨_, State.modSession_same hx' _ fun _ => ⟨rfl, rfl⟩⟩
        · cases hr

/-- A free number is none of a session, and not 0. -/
theorem State.freeNumber_free {s : State} {tr : Transport} {num : Byte} (hfree : s.freeNumber tr = some num) :
    s.session? tr num = none ∧ num ≠ 0 := by
  have hnone : (s.session? tr num).isNone = true := List.find?_some (p := fun n => (s.session? tr n).isNone) hfree
  refine ⟨Option.isNone_iff_eq_none.mp hnone, ?_⟩
  have hmem := List.mem_of_find?_eq_some hfree
  rintro rfl
  cases tr with
  | udp => exact absurd hmem (by decide)
  | can => exact absurd hmem (by decide)

/-- The session that opens is not the one of the request. -/
theorem Reaches.freeNumber_ne {s : State} {t : Time} {svc : Nat} {h : Hdr} {p : Bytes} {s2 : State} {r : Rcvd} {num : Byte}
    (H : Reaches s t svc h p s2 r) (hfree : s2.freeNumber r.h.transport = some num) : num ≠ r.h.session := by
  obtain ⟨hnone, h0⟩ := State.freeNumber_free hfree
  rintro rfl
  have hsome := reaches_session H.heard h0
  rw [hnone] at hsome
  cases hsome

theorem Reaches.sec {s : State} {t : Time} {svc : Nat} {h : Hdr} {p : Bytes} {s2 : State} {r : Rcvd} (H : Reaches s t svc h p s2 r) :
    s2.sec = s.sec := by
  obtain rfl | rfl := reaches_state H.heard <;> rfl

/-! ### Challenges (R350 step 1) -/

/-- The challenges of the other sources. -/
def State.otherChallenges (s : State) (h : Hdr) : List Challenge := s.sec.challenges.filter fun y => !y.from h

theorem State.otherChallenges_from {s : State} {h : Hdr} {d : Challenge} (hd : d ∈ s.otherChallenges h) : d.from h = false := by
  simpa using (List.mem_filter.mp hd).2

/-- The challenge that SESSION_OPEN hands out. -/
def State.newChallenge (s : State) (h : Hdr) (role : Nat) : Challenge :=
  { transport := h.transport, addr := h.addr, port := h.port, role, bytes := le 16 (Config.challenge s.sec.draws).toNat, since := s.now,
    void := false }

theorem State.newChallenge_from (s : State) (h : Hdr) (role : Nat) : (s.newChallenge h role).from h = true := by
  simp [Challenge.from, State.newChallenge]

/-- The state in which a challenge is handed out. -/
def State.challenged (s : State) (h : Hdr) (role : Nat) : State :=
  { s with sec := { s.sec with draws := s.sec.draws + 1, challenges := s.otherChallenges h ++ [s.newChallenge h role] } }

theorem State.openSession_challenges {s : State} {h : Hdr} {role : Nat} {key : Bytes} (hlow : 1 ≤ role) (hhigh : role ≤ 3)
    (hkey : s.roleKey role = some key) : s.openSession h role = (s.challenged h role, .ok 0 (s.newChallenge h role).bytes) := by
  unfold State.openSession
  rw [if_neg (by omega), if_neg (by simp [hkey])]
  rfl

/-- It is the only one of its source. -/
theorem State.challenged_only (s : State) (h : Hdr) (role : Nat) (d : Challenge) :
    (d ∈ (s.challenged h role).sec.challenges ∧ d.from h = true) ↔ d = s.newChallenge h role := by
  constructor
  · rintro ⟨hd, hfrom⟩
    obtain hother | hnew := List.mem_append.mp hd
    · rw [State.otherChallenges_from hother] at hfrom
      cases hfrom
    · exact List.mem_singleton.mp hnew
  · rintro rfl
    exact ⟨List.mem_append_right _ (List.mem_singleton.mpr rfl), s.newChallenge_from h role⟩

section
variable {t : Time} {h : Hdr} {p : Bytes} {s s2 : State} {r : Rcvd} {key : Bytes}

theorem Reaches.sessionOpen_runs (H : Reaches s t 0x02 h p s2 r) (hlow : 1 ≤ u8At p 0) (hhigh : u8At p 0 ≤ 3)
    (hkey : s2.roleKey (u8At p 0) = some key) : doRequest t 0x02 h p s =
      (s2.challenged r.h (u8At p 0)).answer r.h 0x02 0x80 (s2.newChallenge r.h (u8At p 0)).bytes := by
  have hservice : s2.service 0x02 r = s2.openSession r.h (u8At p 0) := by
    rw [← H.whole]
    rfl
  rw [H.runs, hservice, State.openSession_challenges hlow hhigh hkey]
  rfl

/-! ### The right response (R350 steps 2 and 3) -/

/-- The state without the challenges of a source. -/
def State.unchallenged (s : State) (h : Hdr) : State := { s with sec := { s.sec with challenges := s.otherChallenges h } }

theorem State.authenticate_opens {num : Byte} {c : Challenge} (hfree : s.freeNumber h.transport = some num)
    (hfound : s.sec.challenges.find? (fun d => d.from h) = some c) (hbytes : c.bytes = p.take 16) (hvalid : c.void = false)
    (htime : s.now < c.since + Sys2Proof.sec 10) (hkey : s.roleKey c.role = some key)
    (hright : cmac key (s.authInput 1 c.role c.bytes) = p.drop 16) :
    s.authenticate h p = ((s.unchallenged h).startSession h num c.role key c.bytes, .ok 0 [num]) := by
  have hkey' : (s.unchallenged h).roleKey c.role = some key := hkey
  have hinput : (s.unchallenged h).authInput 1 c.role c.bytes = s.authInput 1 c.role c.bytes := rfl
  have hlate : ¬ c.since + Sys2Proof.sec 10 ≤ (s.unchallenged h).now := Nat.not_le.mpr htime
  have hjudge : s.judgeAuth h num c (p.drop 16) = ((s.unchallenged h).startSession h num c.role key c.bytes, .ok 0 [num]) := by
    unfold State.judgeAuth
    extract_lets _ y
    rw [show y = s.unchallenged h from rfl, hvalid, if_neg Bool.false_ne_true, if_neg hlate, hkey']
    dsimp only
    rw [hinput, if_pos hright]
  rw [State.authenticate, hfree, hfound]
  dsimp only
  rw [if_pos hbytes, hjudge]

end

/-- A session as it starts, under its key. -/
def State.newSession (s : State) (h : Hdr) (num : Byte) (role : Nat) (k : Bytes) : Session :=
  { transport := h.transport, num, role, key := k, addr := h.addr, port := h.port, rxFresh := 0, txFresh := 0, lastTransaction := 0,
    anyRequest := false, lastResponse := none, heard := s.now, lock := .none, block := none, sub := none, readSelect := 0,
    readSource := none, recSelect := 0, recSource := none, codeView := none }

/-- The state with a further session, and no failure to authenticate. -/
def State.withSession (s : State) (x : Session) : State :=
  { s with baspo := { s.baspo with sessions := s.baspo.sessions ++ [x] }, sec := { s.sec with failures := 0, level := 0 } }

theorem State.startSession_eq (s : State) (h : Hdr) (num : Byte) (role : Nat) (key challenge : Bytes) :
    s.startSession h num role key challenge = s.withSession (s.newSession h num role (cmac key (s.authInput 2 role challenge))) := rfl

/-- Under a free number it is found. -/
theorem State.withSession_session {s : State} {x : Session} (hfree : s.session? x.transport x.num = none) :
    (s.withSession x).session? x.transport x.num = some x := by
  have hnone : (s.baspo.sessions.find? fun y => y.transport == x.transport && y.num == x.num) = none := hfree
  show ((s.baspo.sessions ++ [x]).find? fun y => y.transport == x.transport && y.num == x.num) = some x
  rw [List.find?_append, hnone, Option.none_or]
  simp

theorem State.withSession_within (s : State) (x : Session) : Within [.sec] s (s.withSession x) :=
  have hsec : Within [.sec] s { s with sec := { s.sec with failures := 0, level := 0 } } := .update _ (by rfl)
  hsec.then { Quiet.refl _ with }

/-- A request of SESSION_AUTH is served by the service. -/
theorem Reaches.sessionAuth_runs {t : Time} {h : Hdr} {p : Bytes} {s s2 : State} {r : Rcvd} (H : Reaches s t 0x03 h p s2 r) {y : State}
    {num : Byte} (hopens : s2.authenticate r.h p = (y, .ok 0 [num])) : doRequest t 0x03 h p s = y.answer r.h 0x03 0x80 [num] := by
  have hservice : s2.service 0x03 r = s2.authenticate r.h p := by
    rw [← H.whole]
    rfl
  rw [H.runs, hservice, hopens]
  rfl

/-- Settles O15: the challenge that joins those of the other sources, and the session that joins the others. -/
theorem authenticationOpensASession : Obligations.AuthenticationOpensASession := by
  unfold Obligations.AuthenticationOpensASession
  refine ⟨fun t h p s s2 r key H hlow hhigh hkey => ?_,
    fun t h p s s2 r num c key H hfree hfound hbytes hvalid htime hkey hright => ?_⟩
  · have hrun := H.sessionOpen_runs hlow hhigh hkey
    have hquiet : Quiet s s2 := (s.at_quiet t).trans (reaches_quiet H.heard)
    generalize hy : (s2.challenged r.h (u8At p 0)).answer r.h 0x02 0x80 (s2.newChallenge r.h (u8At p 0)).bytes = y at hrun
    have hanswered : Quiet (s2.challenged r.h (u8At p 0)) y := hy ▸ State.answer_quiet ..
    have hnow : y.now = s2.now := by
      rw [← hy]
      exact congrArg (fun k : List Instr × Time × Factory => k.2.1) (kept_answer ..)
    refine ⟨y, s2.newChallenge r.h (u8At p 0), congrArg Host.Outcome.next hrun, hy ▸ State.answer_answered .., ?_, rfl,
      hnow.symm, rfl, fun d => ?_, ?_, ?_⟩
    · rw [State.newChallenge, H.sec]
    · rw [hanswered.sec]
      exact s2.challenged_only ..
    · rw [hanswered.sec, ← H.sec]
      rfl
    · exact ((hquiet.within.seq (Within.update (s := s2) (u := s2.challenged r.h (u8At p 0)) [.sec] (by rfl))).then hanswered).quiet
  · have hrun := H.sessionAuth_runs (State.authenticate_opens hfree hfound hbytes hvalid htime hkey hright)
    have hquiet : Quiet s s2 := (s.at_quiet t).trans (reaches_quiet H.heard)
    have hinput : (s2.unchallenged r.h).authInput 2 c.role c.bytes = s2.authInput 2 c.role c.bytes := rfl
    rw [State.startSession_eq, hinput] at hrun
    generalize cmac key (s2.authInput 2 c.role c.bytes) = k at hrun ⊢
    generalize hx : (s2.unchallenged r.h).newSession r.h num c.role k = x at hrun
    generalize hy : ((s2.unchallenged r.h).withSession x).answer r.h 0x03 0x80 [num] = y at hrun
    have hanswered : Quiet ((s2.unchallenged r.h).withSession x) y := hy ▸ State.answer_quiet ..
    have hopen : ((s2.unchallenged r.h).withSession x).session? r.h.transport num = some x := by
      have hnone : (s2.unchallenged r.h).session? x.transport x.num = none := by
        rw [← hx]
        exact (State.freeNumber_free hfree).1
      have hsession := State.withSession_session hnone
      rw [← hx] at hsession ⊢
      exact hsession
    have hkept := State.answer_other ((s2.unchallenged r.h).withSession x) r.h 0x03 0x80 [num] r.h.transport num
      fun hsame => H.freeNumber_ne hfree hsame.2
    rw [hopen, hy] at hkept
    obtain ⟨b, hb⟩ := hkept.some
    refine ⟨y, _, congrArg Host.Outcome.next hrun, hb, ?_⟩
    refine ⟨congrArg Session.role hx.symm, congrArg Session.key hx.symm, congrArg Session.rxFresh hx.symm, congrArg Session.txFresh hx.symm,
      congrArg Session.addr hx.symm, congrArg Session.port hx.symm, hy ▸ State.answer_answered .., fun d hd => ?_, ?_, ?_, ?_⟩
    · rw [hanswered.sec] at hd
      exact State.otherChallenges_from hd
    · rw [hanswered.sec]
      rfl
    · rw [hanswered.sec]
      rfl
    · have hunchallenged : Within [.sec] s2 (s2.unchallenged r.h) := .update _ (by rfl)
      exact (((hquiet.within.seq (hunchallenged.seq (State.withSession_within _ x))).up (by rfl)).then hanswered).quiet

end Sys2Proof.Machine
end

