-- ==== Sys2Proof/Proofs/Reception.lean ====
section
/-! PROOFS. What becomes of a message before any service sees it (R56, R57): malformed ones, wrong tags, other versions, retransmissions and
messages that are not fresh. -/

namespace Sys2Proof.Machine

open Sys2Proof

/-! ### Malformed messages (R56) -/

/-- The five conditions of R56, in the order of the rule. -/
theorem State.drops_iff (s : State) (h : Hdr) (p : Bytes) : s.drops h (rawOf h p) = true ↔
    (h.transport = .udp ∧ h.magic ≠ 0xBA50) ∨
    (h.transport = .udp ∧ (p ++ h.tag).length ≠ h.length.toNat + (if h.session = 0 then 0 else 8)) ∨
    (h.session ≠ 0 ∧ s.session? h.transport h.session = none) ∨
    h.flags &&& 0x8F ≠ 0 ∨
    (match h.transport with
      | .udp => 1024
      | .can => 48) < h.length.toNat := by
  unfold State.drops rawOf
  simp only [Bool.or_eq_true, bne_iff_ne, decide_eq_true_eq, Bool.and_eq_true, Option.isNone_iff_eq_none]
  cases htr : h.transport with
  | udp =>
    simp only [limitsOf, Bool.or_eq_true, bne_iff_ne, true_and]
    tauto
  | can =>
    simp only [limitsOf, reduceCtorEq, Bool.false_eq_true, false_and, false_or]
    tauto

/-- A count shows in its own counter, and in no message. -/
theorem State.at_count_one (s : State) (t : Time) (id : Nat) : ((s.at t).count id).out = [] ∧ Quiet s ((s.at t).count id) ∧
    ((s.at t).count id).counter id = min 0xFFFFFFFF (s.counter id + 1) :=
  ⟨State.count_out .., (s.at_quiet t).trans (State.count_quiet ..), State.count_counter ..⟩

section
variable {c : Instr} {s : State} {t : Time} {svc : Nat} {h : Hdr} {p : Bytes}

theorem State.request_drops (hheard : s.hears h = true) (hdrops : s.drops h (rawOf h p) = true) :
    s.request svc h p = s.count Id.BASPO_DROPPED := by
  simp [State.request_eq, hheard, hdrops]

/-- A well-formed message in a session is judged by its tag and its freshness. -/
theorem State.request_session {x : Session} (hheard : s.hears h = true) (hkept : s.drops h (rawOf h p) = false) (h0 : h.session ≠ 0)
    (hx : s.session? h.transport h.session = some x) :
    s.request svc h p = s.sessionMessage svc (Hdr.receive h (BitVec.ofNat 8 svc) (rawOf h p) x.rxFresh) x := by
  rw [State.request_eq, if_neg (by simp [hheard]), if_neg (by simp [hkept]), if_neg h0, hx]

/-- Every service of a host's message has a payload form over UDP. -/
theorem hostMessage_form (hc : hostMessage c = some (t, svc, h, p)) (q : Bytes) : (payloadForm svc .udp q).isSome = true := by
  cases c <;> simp only [hostMessage, Option.some.injEq, Prod.mk.injEq, reduceCtorEq] at hc <;>
    obtain ⟨-, rfl, -, -⟩ := hc <;> rfl

theorem addressing_version {r : Rcvd} (hform : (payloadForm svc .udp r.payload).isSome = true) (hudp : r.h.transport = .udp)
    (hversion : r.h.version ≠ 1) : addressing svc r = some .versionUnsupported := by
  obtain ⟨f, hf⟩ := Option.isSome_iff_exists.mp hform
  rw [addressing, hudp, hf]
  exact if_pos ⟨rfl, hversion⟩

/-- Over UDP the header as served is that of the message. -/
theorem reaches_header {s2 : State} {r : Rcvd} (hr : s.reaches svc h p = some (s2, r)) (hudp : h.transport = .udp) :
    r.h = h := by
  have hreceive : ∀ last, (Hdr.receive h (BitVec.ofNat 8 svc) (rawOf h p) last).h = h := by
    intro last
    simp only [Hdr.receive, hudp]
  unfold State.reaches at hr
  split at hr
  · cases hr
  split at hr
  · cases hr
    exact hreceive 0
  split at hr
  · cases hr
  · dsimp only at hr
    split at hr
    · cases hr
      exact hreceive _
    · cases hr

end

/-- Settles O10: each check of reception, in the order in which it discards. -/
theorem malformedMessagesAreDiscardedAndCounted : Obligations.MalformedMessagesAreDiscardedAndCounted := by
  unfold Obligations.MalformedMessagesAreDiscardedAndCounted
  intro c s t svc h p hc hheard
  refine ⟨State.drops_iff .., fun hdrops => ?_, fun x hkept h0 hx htag => ?_, fun s2 r hr hudp hversion => ?_⟩
  · refine ⟨_, hostMessage_exec c s hc, ?_⟩
    rw [doRequest, State.request_drops hheard hdrops]
    exact s.at_count_one t _
  · refine ⟨_, hostMessage_exec c s hc, ?_⟩
    rw [doRequest, State.request_session hheard hkept h0 hx, State.sessionMessage, if_pos htag]
    exact s.at_count_one t _
  · have hh : r.h = h := reaches_header hr hudp
    have hfails : addressing svc r = some .versionUnsupported :=
      addressing_version (hostMessage_form hc _) (hh ▸ hudp) (hh ▸ hversion)
    refine ⟨_, hostMessage_exec c s hc, ?_⟩
    rw [doRequest, State.request_reaches hr, State.process_abort (State.serve_fails (.inl hfails))]
    exact ⟨answered_quiet hr .., State.answer_answered ..⟩

/-! ### Messages that are not fresh (R57) -/

/-- The response to a retransmission, as it was sent. -/
theorem State.resend_out (s : State) (r : Rcvd) (x : Session) : match x.lastResponse with
    | none => (s.resend r x).out = s.out
    | some b => ∃ a q, (s.resend r x).out = s.out ++ [.baspo r.h.transport a q b] := by
  unfold State.resend
  extract_lets s1
  cases x.lastResponse with
  | none => rfl
  | some b =>
    dsimp only
    unfold State.sendBaspo
    cases r.h.transport <;> exact ⟨_, _, rfl⟩

theorem State.resend_quiet (s : State) (r : Rcvd) (x : Session) : Quiet s (s.resend r x) := by
  unfold State.resend
  extract_lets s1
  have h1 : Quiet s s1 := State.modSession_quiet ..
  split
  · exact h1.trans (State.sendBaspo_quiet ..)
  · exact h1

/-- Nothing is drawn and no event raised. -/
theorem State.resend_silent (s : State) (r : Rcvd) (x : Session) : (s.resend r x).draws = s.draws ∧ (s.resend r x).evt = s.evt := by
  unfold State.resend
  extract_lets s1
  split
  · exact ⟨State.sendBaspo_draws .., State.sendBaspo_evt ..⟩
  · exact ⟨rfl, rfl⟩

/-- Settles O11: the two branches of a session's message that never reach its service. -/
theorem onlyFreshMessagesAreExecuted : Obligations.OnlyFreshMessagesAreExecuted := by
  unfold Obligations.OnlyFreshMessagesAreExecuted
  intro c s t svc h p x hc hheard hkept h0 hx
  extract_lets r
  intro htag
  have hrun : doRequest t svc h p s = (s.at t).sessionMessage svc r x := State.request_session hheard hkept h0 hx
  rw [State.sessionMessage, if_neg (not_not_intro htag)] at hrun
  refine ⟨fun hany hfresh htransaction => ?_, fun hnew hstale => ?_⟩
  · rw [if_pos ⟨hany, hfresh, htransaction⟩] at hrun
    have hout := (s.at t).resend_out r x
    rw [← hrun, show r.h.transport = h.transport from (receive_h ..).1] at hout
    obtain ⟨hdraws, hevt⟩ := (s.at t).resend_silent r x
    rw [← hrun] at hdraws hevt
    exact ⟨_, hostMessage_exec c s hc, hrun ▸ (s.at_quiet t).trans (State.resend_quiet ..), hdraws, hevt, hout⟩
  · rw [if_neg hnew, if_pos (.inl hstale)] at hrun
    obtain ⟨-, hquiet, hcounter⟩ := s.at_count_one t Id.BASPO_FRESH_FAIL
    refine ⟨_, hostMessage_exec c s hc, ?_⟩
    rw [hrun]
    exact ⟨hquiet.trans (State.answer_quiet ..), State.answer_answered ..,
      (State.answer_counter _ _ _ _ _ _ (by decide)).trans hcounter⟩

end Sys2Proof.Machine
end

