-- ==== Sys2Proof/Proofs/SessionEnds.lean ====
section
/-! PROOFS. Services that need no object (R61): IDENTIFY and KEEPALIVE; and the ends of sessions (R65), on request and on silence. -/

namespace Sys2Proof.Machine

open Sys2Proof

/-! ### IDENTIFY and KEEPALIVE (R61) -/

section
variable {s : State} {t : Time} {svc : Nat} {h : Hdr} {p : Bytes} {s2 : State} {r : Rcvd} {x : Session}

/-- Before a request is served, only the clock has moved in what Quiet names. -/
theorem Reaches.quiet (H : Reaches s t svc h p s2 r) : Quiet s s2 := (s.at_quiet t).trans (reaches_quiet H.heard)



/-- The identity rests on factory values, the flash and the security state. -/
theorem State.identity_congr {s u : State} (hfac : u.fac = s.fac) (hflash : u.flash = s.flash) (hsec : u.sec = s.sec) :
    u.identity = s.identity := by
  simp only [State.identity, State.fwVersion, State.securityByte, hfac, hflash, hsec]

/-- The session that accepts a request (R57). -/
theorem State.acceptRequest_session (hx : s.session? r.h.transport r.h.session = some x) :
    (s.acceptRequest r).session? r.h.transport r.h.session =
      some { x with
        rxFresh := r.fresh, lastTransaction := r.h.transaction, anyRequest := true, lastResponse := none, heard := s.now } :=
  State.modSession_same hx _ fun _ => ⟨rfl, rfl⟩

/-- A request in a session has been heard by it. -/
theorem reaches_heard {s s2 : State} (hr : s.reaches svc h p = some (s2, r)) (h0 : r.h.session ≠ 0)
    (hx : s2.session? r.h.transport r.h.session = some x) : x.heard = s.now := by
  unfold State.reaches at hr
  split at hr
  · cases hr
  split at hr
  · next hnone =>
    cases hr
    exact absurd ((receive_h ..).2.trans hnone) h0
  split at hr
  · cases hr
  · next y hy =>
    dsimp only at hr
    split at hr
    · cases hr
      obtain ⟨htr, hnum⟩ := receive_h h (BitVec.ofNat 8 svc) (rawOf h p) y.rxFresh
      rw [← htr, ← hnum] at hy
      rw [← Option.some.inj ((State.acceptRequest_session hy).symm.trans hx)]
    · cases hr

end

/-- Settles O13: both services answer in the state that acceptance left. -/
theorem identifyAndKeepaliveAnswer : Obligations.IdentifyAndKeepaliveAnswer := by
  unfold Obligations.IdentifyAndKeepaliveAnswer
  refine ⟨fun t h p s s2 r H => ?_, fun t h p s s2 r x H hlasts => ?_⟩
  · have hrun : doRequest t 0x01 h p s = s2.answer r.h 0x01 0x80 s2.identity := H.runs
    rw [State.identity_congr H.quiet.fac H.flash H.sec] at hrun
    exact ⟨_, congrArg Host.Outcome.next hrun, H.quiet.trans (State.answer_quiet ..), State.answer_answered ..⟩
  · have h0 := H.session_ne_zero (by decide)
    have hservice : s2.service 0x05 r = (s2, .ok 0 []) := by
      simp [State.service, H.session, State.inSession]
    have hrun : doRequest t 0x05 h p s = s2.answer r.h 0x05 0x80 [] := by
      rw [H.runs, hservice]
      rfl
    have hnow : (s2.answer r.h 0x05 0x80 []).now = max s.now t :=
      (congrArg (fun k : List Instr × Time × Factory => k.2.1) (kept_answer ..)).trans H.toReaches.now
    obtain ⟨b, hb⟩ := State.answer_session h0 H.session hlasts 0x05 0x80 []
    exact ⟨_, _, congrArg Host.Outcome.next hrun, H.quiet.trans (State.answer_quiet ..), State.answer_answered .., hb,
      (reaches_heard H.heard h0 H.session).trans hnow.symm, hnow⟩

/-! ### Sessions that close (R65) -/

/-- The event of a session that closes (Table 17.6). -/
theorem State.closeSession_told {s : State} {tr : Transport} {n : Byte} {x : Session} (hx : s.session? tr n = some x) (reason : Nat) :
    Told s (s.closeSession tr n reason) 0x8006 0 (u32 n.toNat) (u32 reason) 0 0 := by
  unfold State.closeSession
  rw [hx]
  extract_lets s1 _ s2
  have htold : ToldIn 1 s2 (s2.raise 0x8006 0 (u32 n.toNat) (u32 reason)) 0x8006 0 (u32 n.toNat) (u32 reason) 0 0 := State.raise_told ..
  cases hopen : x.lock.isOpen with
  | true =>
    have habandon : Grown 2 s (s.abandonLock tr n 3) := by
      simp only [State.abandonLock, hx, hopen, if_true]
      exact (State.raise_grown ..).congr (s := s.modSession tr n _) rfl
    have hgrown : Grown 2 s s2 := habandon
    exact (htold.before hgrown).told (by decide)
  | false =>
    have hevt : s2.evt = s.evt := by
      show (s.abandonLock tr n 3).evt = s.evt
      simp [State.abandonLock, hx, hopen]
    obtain ⟨later, e, earlier, hring, hlater, hevent⟩ := htold
    exact ⟨later, e, earlier, hevt ▸ hring, by omega, hevent⟩

/-- The next message of a session takes its next FRESHNESS. -/
theorem State.nextFresh_eq {s : State} {tr : Transport} {n : Byte} {x : Session} (h0 : n ≠ 0) (hx : s.session? tr n = some x) :
    s.nextFresh tr n = (s.modSession tr n fun y => { y with txFresh := y.txFresh + 1 }, u32 (x.txFresh + 1), some x.key) := by
  rw [State.nextFresh, if_neg h0, hx]

theorem State.nextFresh_session {s : State} {tr : Transport} {n : Byte} {x : Session} (h0 : n ≠ 0) (hx : s.session? tr n = some x) :
    (s.nextFresh tr n).1.session? tr n = some { x with txFresh := x.txFresh + 1 } := by
  rw [State.nextFresh_eq h0 hx]
  exact State.modSession_same hx _ fun _ => ⟨rfl, rfl⟩

theorem State.sendBaspo_session (s : State) (tr : Transport) (addr : BitVec 128) (port : U16) (ident : Nat) (bytes : Bytes)
    (tr' : Transport) (n : Byte) : (s.sendBaspo tr addr port ident bytes).session? tr' n = s.session? tr' n := by
  unfold State.sendBaspo
  split <;> rfl

/-- No stream subscription of a session. -/
def State.Unsubscribed (s : State) (tr : Transport) (n : Byte) : Prop := ∀ b ∈ s.stream.subs, ¬ (b.transport = tr ∧ b.session = n)

/-- An answer that ends its session ends its subscriptions. -/
theorem State.answer_keeps_or_ends {s : State} {h : Hdr} {x : Session} (h0 : h.session ≠ 0)
    (hx : s.session? h.transport h.session = some x) (svc flags : Nat) (p : Bytes) :
    (∃ y, (s.answer h svc flags p).session? h.transport h.session = some y) ∨
      (s.answer h svc flags p).Unsubscribed h.transport h.session := by
  unfold State.answer
  extract_lets q s1 ident bytes s2 s3
  have h1 : s1.session? h.transport h.session = some { x with txFresh := x.txFresh + 1 } :=
    State.nextFresh_session h0 hx
  have h2 : s2.session? h.transport h.session = s1.session? h.transport h.session := State.sendBaspo_session ..
  have h3 : ∃ y, s3.session? h.transport h.session = some y := by
    unfold s3
    rw [if_neg h0]
    exact ⟨_, State.modSession_same (h2.trans h1) _ fun y => by split <;> exact ⟨rfl, rfl⟩⟩
  obtain ⟨y, hy⟩ := h3
  rw [if_neg h0, State.freshLimit, hy]
  dsimp only
  split
  · exact .inr (State.closeSession_subs hy 3)
  · exact .inl ⟨y, hy⟩

theorem State.closeSession_absent {s : State} {tr : Transport} {n : Byte} (hx : s.session? tr n = none) (reason : Nat) :
    s.closeSession tr n reason = s := by
  rw [State.closeSession, hx]

/-- Settles O14: the session is closed once its request is answered, and by the clock from 10 s on. -/
theorem sessionsCloseOnRequestAndOnSilence : Obligations.SessionsCloseOnRequestAndOnSilence := by
  unfold Obligations.SessionsCloseOnRequestAndOnSilence
  refine ⟨fun t h p s s2 r x H => ?_, fun t tr n s x hx => ⟨fun hlate => ?_, fun hearly => ?_⟩⟩
  · have h0 := H.session_ne_zero (by decide)
    have hservice : s2.service 0x04 r = (s2, .closing) := by
      simp [State.service, H.session, State.inSession]
    have hrun : doRequest t 0x04 h p s = (s2.answer r.h 0x04 0x80 []).closeSession r.h.transport r.h.session 1 := by
      rw [H.runs, hservice]
      rfl
    refine ⟨_, congrArg Host.Outcome.next hrun, H.quiet.trans ((State.answer_quiet ..).trans (State.closeSession_quiet ..)), ?_,
      State.closeSession_gone .., ?_⟩
    · have hanswered := State.answer_answered s2 r.h 0x04 0x80 []
      simpa only [State.answered, State.closeSession_out] using hanswered
    · cases hy : (s2.answer r.h 0x04 0x80 []).session? r.h.transport r.h.session with
      | some y => exact State.closeSession_subs hy 1
      | none =>
        rw [State.closeSession_absent hy]
        exact ((State.answer_keeps_or_ends h0 H.session ..).resolve_left fun ⟨y, hy'⟩ => by simp [hy] at hy')
  · have hrun : doSessionIdleTimeout t tr n s = (s.at t).closeSession tr n 2 := by
      rw [doSessionIdleTimeout]
      simp only [show (s.at t).session? tr n = some x from hx, State.at_now]
      exact if_pos hlate
    exact ⟨_, congrArg Host.Outcome.next hrun, (s.at_quiet t).trans (State.closeSession_quiet ..), State.closeSession_gone ..,
      State.closeSession_subs (s := s.at t) hx 2, State.closeSession_told (s := s.at t) hx 2⟩
  · have hrun : doSessionIdleTimeout t tr n s = s.at t := by
      rw [doSessionIdleTimeout]
      simp only [show (s.at t).session? tr n = some x from hx, State.at_now]
      exact if_neg (Nat.not_le.mpr hearly)
    exact congrArg Host.Outcome.next hrun

end Sys2Proof.Machine
end

