-- ==== Sys2Proof/Proofs/Reads.lean ====
section
/-! PROOFS. READ and BLOCK_READ (R62): the service answers with what `State.fetch` finds, and what that is for staged values and for
configuration objects (R72, R298). -/

namespace Sys2Proof.Machine

open Sys2Proof

/-! ### What a read finds (R72, R298) -/

section
variable {s : State} {h : Hdr} {x : Session} {o : Obj}

/-- The session's own staged value. -/
theorem State.fetch_staged {v : Bytes} (hstaged : find? x.lock.staged o.id = some v) : s.fetch h x o = .value 0x10 v := by
  rw [State.fetch, hstaged]

/-- A configuration object stands at its live value. -/
theorem State.live_cfg (hkind : o.kind = .cfg) (hserved : s.recoveryBars o = false) (fl : Nat) :
    s.live x o fl = .value fl (s.conf.bytes o.id) := by
  rw [State.live, if_neg (Bool.eq_false_iff.mp hserved), State.valueOf, hkind]

section
variable (hstaged : find? x.lock.staged o.id = none) (hkind : o.kind = .cfg) (hserved : s.recoveryBars o = false)
include hstaged hkind hserved

/-- Its value comes from AO or from the domain that serves it and acknowledges. -/
theorem State.fetch_served (hserving : s.serving o = .ao ∨ ∃ d, s.serving o = .dom d ∧ h.noAck = false) :
    s.fetch h x o = .value 0 (s.conf.bytes o.id) := by
  have hnotconst : o.kind ≠ .const := by simp [hkind]
  obtain hao | ⟨d, hdom, hack⟩ := hserving
  · simp only [State.fetch, hstaged, if_neg hnotconst, hao, State.live_cfg hkind hserved]
  · simp only [State.fetch, hstaged, if_neg hnotconst, hdom, hack, Bool.false_eq_true, if_false, State.live_cfg hkind hserved]

/-- Where its domain does not serve, the shadow holds it. -/
theorem State.fetch_shadow (hserving : s.serving o = .off ∨ s.serving o = .failed) :
    s.fetch h x o = .value 0x20 (s.conf.bytes o.id) := by
  have hnotconst : o.kind ≠ .const := by simp [hkind]
  have hshadow : o.shadowed = true := by simp [Obj.shadowed, hkind]
  obtain hoff | hfailed := hserving
  · simp only [State.fetch, hstaged, if_neg hnotconst, hoff, hshadow, if_true, State.live_cfg hkind hserved]
  · simp only [State.fetch, hstaged, if_neg hnotconst, hfailed, hshadow, if_true, State.live_cfg hkind hserved]

end

end

/-! ### The services (R62) -/

section
variable {s : State} {t : Time} {svc : Nat} {h : Hdr} {p : Bytes} {s2 : State} {r : Rcvd} {x : Session} {o : Obj}

/-- A request that names an object is served by it. -/
theorem ReachesIn.service_object (H : ReachesIn s t svc h p s2 r x) (hobj : lookup (indexIn svc p * 256 + subIn svc p) = some o)
    (hsvc : addressed svc = true) : s2.service svc r =
      if svc = 0x10 then (s2, s2.readObject r.h x o)
      else if svc = 0x20 then (s2, s2.blockRead r.h x o (u32At p 4) (u16At p 8))
      else if svc = 0x11 then s2.writeObject r.h svc x o (p.drop 4)
      else s2.blockWrite r.h svc x o p := by
  have hcase : svc = 0x10 ∨ svc = 0x11 ∨ svc = 0x20 ∨ svc = 0x21 := by
    simpa [addressed, or_assoc] using hsvc
  have hnamed : s2.inSession svc r x = s2.objectService svc r x := by
    obtain rfl | rfl | rfl | rfl := hcase <;> rfl
  have hservice : s2.service svc r = s2.inSession svc r x := by
    obtain rfl | rfl | rfl | rfl := hcase <;> simp [State.service, H.session]
  rw [hservice, hnamed, State.objectService, H.whole, hobj]

/-- A reply with a value that changes nothing is the answer. -/
theorem Reaches.answers (H : Reaches s t svc h p s2 r) {fl : Nat} {v : Bytes} (hservice : s2.service svc r = (s2, .ok fl v)) :
    doRequest t svc h p s = s2.answer r.h svc (0x80 + fl) v := by
  rw [H.runs, hservice]
  rfl

end

/-- Settles O16: both services past their checks, then the sources of a value. -/
theorem readsAnswerWithTheValue : Obligations.ReadsAnswerWithTheValue := by
  unfold Obligations.ReadsAnswerWithTheValue
  refine ⟨fun t h p s s2 r x o fl v H hobj hcheck hlength hvalue => ?_, fun t h p s s2 r x o fl v H hobj hcheck hcount hvalue => ?_,
    fun s h x o v hstaged => State.fetch_staged hstaged,
    fun s h x o hstaged hkind hserved => ⟨State.fetch_served hstaged hkind hserved, State.fetch_shadow hstaged hkind hserved⟩⟩
  · have hread : s2.readObject r.h x o = .ok fl v := by
      simp only [State.readObject, hcheck, if_neg (Nat.not_lt.mpr hlength), hvalue]
    have hservice : s2.service 0x10 r = (s2, .ok fl v) := by
      rw [H.service_object hobj rfl, if_pos rfl, hread]
    exact ⟨_, congrArg Host.Outcome.next (H.answers hservice), answered_quiet H.heard .., State.answer_answered ..⟩
  · have hread : s2.blockRead r.h x o (u32At p 4) (u16At p 8) = .ok fl (le 4 v.length ++ slice v (u32At p 4) (u16At p 8)) := by
      simp only [State.blockRead, hcheck, if_neg (Nat.not_lt.mpr hcount), hvalue]
    have hservice : s2.service 0x20 r = (s2, .ok fl (le 4 v.length ++ slice v (u32At p 4) (u16At p 8))) := by
      rw [H.service_object hobj rfl, if_neg (by decide), if_pos rfl, hread]
    exact ⟨_, congrArg Host.Outcome.next (H.answers hservice), answered_quiet H.heard .., State.answer_answered ..⟩

end Sys2Proof.Machine
end

