-- ==== Sys2Proof/Proofs/BlockWrites.lean ====
section
/-! PROOFS. BLOCK_WRITE (R63): a segment that fits is kept, and the value that a FINAL one completes is staged. -/

namespace Sys2Proof.Machine

open Sys2Proof

section
variable {s : State} {h : Hdr} {svc : Nat} {x : Session} {o : Obj} {p : Bytes} {b : BlockXfer}

/-- A segment of another object than FW_IMAGE that passes its checks is accepted; a FINAL one brings the value whole. -/
theorem State.blockWrite_accepts (hid : o.id ≠ Id.FW_IMAGE) (hnext : BlockXfer.next x.block o.id (segmentOf p) = some b)
    (hcheck : (segmentOf p).check h.transport o (some b) = none)
    (hwrite : s.writeCheck x o (if (segmentOf p).final then b.head ++ b.last else []) = none) :
    s.blockWrite h svc x o p = if (segmentOf p).final then (s.setBlock x none).writeValue h svc x o (b.head ++ b.last)
      else (s.setBlock x (some b), .ok 0 []) := by
  simp only [State.blockWrite, hnext, hwrite, hcheck, if_neg hid, State.blockAccept]

/-- Transfers are no part of what a value is checked against. -/
theorem State.setBlock_valueCheck (k : Option BlockXfer) (v : Bytes) : (s.setBlock x k).valueCheck x o v = s.valueCheck x o v := rfl

/-- A whole value of an RWL object needs no domain: past its checks it is staged (R72). -/
theorem State.writeValue_stages {v : Bytes} (hacc : o.acc = .rwl) (hsize : o.sizeOk v.length = true)
    (hvalue : s.valueCheck x o v = none) (hserved : s.recoveryBars o = false) : s.writeValue h svc x o v = s.stage x o v := by
  have hdomain : s.writeDomain h o v = .value 0 [] := by rw [State.writeDomain, if_pos hacc]
  simp only [State.writeValue, hdomain, hsize, Bool.not_true, Bool.false_eq_true, if_false, hvalue, State.apply, hserved, hacc]

end

/-- The session of a transfer. -/
theorem State.setBlock_session {s : State} {tr : Transport} {n : Byte} {x : Session} (hx : s.session? tr n = some x)
    (k : Option BlockXfer) : (s.setBlock x k).session? tr n = some { x with block := k } := by
  obtain ⟨rfl, rfl⟩ := State.session_spec hx
  exact State.modSession_same hx (fun y => { y with block := k }) fun _ => ⟨rfl, rfl⟩

/-- Settles O18: the segment joins the transfer, and the FINAL one ends it and stages the value. -/
theorem blockWritesJoinTheirSegments : Obligations.BlockWritesJoinTheirSegments := by
  unfold Obligations.BlockWritesJoinTheirSegments
  intro t h p s s2 r x o b H hobj hid hlasts hnext hcheck
  have h0 := H.session_ne_zero (by decide)
  have hservice : s2.service 0x21 r = s2.blockWrite r.h 0x21 x o p := by
    rw [H.service_object hobj rfl, if_neg (by decide), if_neg (by decide), if_neg (by decide)]
  have hrun := H.toReaches.runs
  refine ⟨fun hmore hwrite => ?_, fun hfinal hacc hwrite hsize hvalue hserved hphase hcount hbytes => ?_⟩
  · rw [hservice, State.blockWrite_accepts hid hnext hcheck (by rwa [hmore]), hmore] at hrun
    obtain ⟨k, hk⟩ := State.modSession_answered (f := fun y => { y with block := some b }) h0 H.session (fun _ => ⟨rfl, rfl⟩) hlasts
      0x21 0x80 []
    exact ⟨_, _, congrArg Host.Outcome.next hrun, H.quiet.trans ((State.modSession_quiet ..).trans (State.answer_quiet ..)),
      State.answer_answered .., hk, rfl, rfl⟩
  · rw [hservice, State.blockWrite_accepts hid hnext hcheck (by rwa [hfinal]), hfinal, if_pos rfl,
      State.writeValue_stages hacc hsize ((State.setBlock_valueCheck ..).trans hvalue) hserved, State.stage_takes _ hphase hcount hbytes] at hrun
    obtain ⟨k, hk⟩ := State.modSession_answered
      (f := fun y => { y with lock := { y.lock with phase := .staged, staged := put x.lock.staged o.id (b.head ++ b.last) } })
      h0 (State.setBlock_session H.session none) (fun _ => ⟨rfl, rfl⟩) hlasts 0x21 0x90 []
    exact ⟨_, _, congrArg Host.Outcome.next hrun,
      H.quiet.trans ((State.modSession_quiet ..).trans ((State.modSession_quiet ..).trans (State.answer_quiet ..))),
      State.answer_answered .., hk, rfl, rfl⟩

end Sys2Proof.Machine
end

