-- ==== Sys2Proof/Proofs/Notifications.lean ====
section
/-! PROOFS. Notifications (R78): a session's subscription is set or ended, and a NOTIFY takes the oldest waiting entries to it. -/

namespace Sys2Proof.Machine

open Sys2Proof

/-! ### NOTIFY_SUBSCRIBE -/

/-- The subscription that a NOTIFY_SUBSCRIBE asks for; none where it ends one. -/
def newSubscriber (h : Hdr) (p : Bytes) : Option Subscriber :=
  if bit (u8At p 1) 0 then some ⟨u8At p 0, if u16At p 2 = 0 then h.port else BitVec.ofNat 16 (u16At p 2), [], false⟩ else none

theorem State.notifySubscribe_sets {s : State} {h : Hdr} {x : Session} {p : Bytes} (hseverity : u8At p 0 ≤ 3) (hflags : u8At p 1 ≤ 1)
    (hserved : s.pwr.recovery = false) : s.notifySubscribe h x p =
      (s.modSession x.transport x.num fun y => { y with sub := newSubscriber h p }, .ok 0 []) := by
  unfold State.notifySubscribe
  extract_lets port sub
  rw [if_neg (by omega), if_neg (by simp [hserved])]
  rfl

theorem ReachesIn.service_notifySubscribe {s : State} {t : Time} {h : Hdr} {p : Bytes} {s2 : State} {r : Rcvd} {x : Session}
    (H : ReachesIn s t 0x30 h p s2 r x) : s2.service 0x30 r = s2.notifySubscribe r.h x p := by
  simp [State.service, H.session, State.inSession, H.whole]

/-! ### NOTIFY -/

/-- A message on its way is the last one sent. -/
theorem State.sendBaspo_out (s : State) (tr : Transport) (addr : BitVec 128) (port : U16) (ident : Nat) (bytes : Bytes) :
    ∃ a q, (s.sendBaspo tr addr port ident bytes).out = s.out ++ [.baspo tr a q bytes] := by
  unfold State.sendBaspo
  cases tr with
  | udp => exact ⟨addr, port, rfl⟩
  | can => exact ⟨0, BitVec.ofNat 16 ident, rfl⟩

/-- The state once the entries of a message have left a subscriber's queue, under the session's next FRESHNESS. -/
def State.notified (s : State) (tr : Transport) (n : Byte) (b : Subscriber) : State :=
  (s.modSession tr n fun y => { y with sub := some { b with queue := b.queue.drop (limitsOf tr).entries, lost := false } }).modSession tr n
    fun y => { y with txFresh := y.txFresh + 1 }

/-- The message that takes them to the subscriber. -/
def State.notifyMessage (s : State) (tr : Transport) (n : Byte) (x : Session) (b : Subscriber) : Bytes :=
  wireMessage tr (some x.key) (s.canIdent 2) 0 0x31 n 0 (u32 (x.txFresh + 1)) (b.payload (limitsOf tr).entries)

section
variable {s : State} {tr : Transport} {n : Byte} {x : Session} {b : Subscriber}

theorem State.notified_session (hx : s.session? tr n = some x) : (s.notified tr n b).session? tr n =
    some { x with txFresh := x.txFresh + 1, sub := some { b with queue := b.queue.drop (limitsOf tr).entries, lost := false } } := by
  have h1 := State.modSession_same hx
    (fun y => { y with sub := some { b with queue := b.queue.drop (limitsOf tr).entries, lost := false } }) fun _ => ⟨rfl, rfl⟩
  exact State.modSession_same h1 (fun y => { y with txFresh := y.txFresh + 1 }) fun _ => ⟨rfl, rfl⟩

theorem State.notified_quiet (s : State) (tr : Transport) (n : Byte) (b : Subscriber) : Quiet s (s.notified tr n b) :=
  (State.modSession_quiet ..).trans (State.modSession_quiet ..)

/-- Waiting entries go to a subscriber whose transport carries messages. -/
theorem doNotify_sends (t : Time) (h0 : n ≠ 0) (hx : s.session? tr n = some x) (hsub : x.sub = some b) (hwaiting : b.queue ≠ [])
    (hcarries : s.carries tr = true) : doNotify t tr n s = (((s.at t).notified tr n b).sendBaspo tr x.addr b.port (s.canIdent 2)
      (s.notifyMessage tr n x b)).freshLimit tr n := by
  have hsent : (b.queue.isEmpty || !(s.at t).carries tr) = false := by
    rw [show (s.at t).carries tr = true from hcarries, List.isEmpty_eq_false_iff.mpr hwaiting]
    rfl
  have hx' : (s.at t).session? tr n = some x := hx
  have hsubscribed := State.modSession_same hx'
    (fun y => { y with sub := some { b with queue := b.queue.drop (limitsOf tr).entries, lost := false } }) fun _ => ⟨rfl, rfl⟩
  simp only [doNotify, hx', hsub, hsent, Bool.false_eq_true, if_false, State.nextFresh_eq h0 hsubscribed]
  rfl

/-- A session that lasts is not at its freshness limit. -/
theorem State.freshLimit_lasting (hx : s.session? tr n = some x) (hrx : x.rxFresh < 0xFFFFFFFF) (htx : x.txFresh < 0xFFFFFFFF) :
    s.freshLimit tr n = s := by
  rw [State.freshLimit, hx]
  exact if_neg (by omega)

end

/-- Settles O19: the subscription as the session's own, and the message that NOTIFY sends. -/
theorem notificationsReachTheirSubscriber : Obligations.NotificationsReachTheirSubscriber := by
  unfold Obligations.NotificationsReachTheirSubscriber
  refine ⟨fun t h p s s2 r x H hlasts hseverity hflags hserved => ?_,
    fun t tr n s x b h0 hx hsub hwaiting hcarries => ?_⟩
  · have hrun := H.toReaches.runs
    rw [H.service_notifySubscribe, State.notifySubscribe_sets hseverity hflags hserved] at hrun
    obtain ⟨k, hk⟩ := State.modSession_answered (f := fun y => { y with sub := newSubscriber r.h p }) (H.session_ne_zero (by decide))
      H.session (fun _ => ⟨rfl, rfl⟩) hlasts 0x30 0x80 []
    exact ⟨_, _, congrArg Host.Outcome.next hrun, H.quiet.trans ((State.modSession_quiet ..).trans (State.answer_quiet ..)),
      State.answer_answered .., hk, rfl⟩
  · have hrun := doNotify_sends t h0 hx hsub hwaiting hcarries
    generalize hy : ((s.at t).notified tr n b).sendBaspo tr x.addr b.port (s.canIdent 2) (s.notifyMessage tr n x b) = y at hrun
    have hquiet : Quiet s y := hy ▸ (s.at_quiet t).trans ((State.notified_quiet ..).trans (State.sendBaspo_quiet ..))
    obtain ⟨a, q, hout⟩ := ((s.at t).notified tr n b).sendBaspo_out tr x.addr b.port (s.canIdent 2) (s.notifyMessage tr n x b)
    rw [hy] at hout
    have hsession := State.sendBaspo_session ((s.at t).notified tr n b) tr x.addr b.port (s.canIdent 2) (s.notifyMessage tr n x b) tr n
    rw [hy, State.notified_session (s := s.at t) hx] at hsession
    refine ⟨_, a, q, congrArg Host.Outcome.next hrun, hquiet.trans (State.freshLimit_quiet ..), (State.freshLimit_out ..).trans hout,
      fun hlasts => ?_⟩
    obtain ⟨hrx, htx⟩ := hlasts
    rw [State.freshLimit_lasting hsession hrx htx]
    exact ⟨_, hsession, rfl, rfl⟩

end Sys2Proof.Machine
end

