-- ==== Sys2Proof/Proofs/Locks.lean ====
section
/-! PROOFS. LOCK_CONTROL (R69, R71): a Lock that opens, and one that its host or its timeout ends; and what Baspo keeps beside its sessions
through events and answers. -/

namespace Sys2Proof.Machine

open Sys2Proof

/-! ### What Baspo keeps beside its sessions: tickets, the running commit, the identifiers of Locks, and the details of failed checks -/

/-- Baspo without its sessions. -/
def State.baspoMark (s : State) : Baspo := { s.baspo with sessions := [] }

theorem State.raiseRaw_baspoMark (s : State) (code sev : Nat) (tk p1 p2 p3 : U32) :
    (s.raiseRaw code sev tk p1 p2 p3).baspoMark = s.baspoMark := by
  unfold State.raiseRaw
  split <;> rfl

theorem State.count_baspoMark (s : State) (id n : Nat) : (s.count id n).baspoMark = s.baspoMark := by
  unfold State.count
  split
  · rfl
  · unfold State.saturate
    split
    · exact State.raiseRaw_baspoMark ..
    · rfl

theorem State.raise_baspoMark (s : State) (code sev : Nat) (p1 p2 p3 tk : U32) :
    (s.raise code sev p1 p2 p3 tk).baspoMark = s.baspoMark :=
  (State.count_baspoMark ..).trans (State.raiseRaw_baspoMark ..)

section
variable (s : State) (tr : Transport) (n : Byte)

theorem State.modSession_baspoMark (f : Session → Session) : (s.modSession tr n f).baspoMark = s.baspoMark := rfl

theorem State.abandonLock_baspoMark (reason : Nat) : (s.abandonLock tr n reason).baspoMark = s.baspoMark := by
  unfold State.abandonLock
  split
  · split
    · exact State.raise_baspoMark ..
    · rfl
  · rfl

theorem State.closeSession_baspoMark (reason : Nat) : (s.closeSession tr n reason).baspoMark = s.baspoMark := by
  unfold State.closeSession
  split
  · rfl
  · exact (State.raise_baspoMark ..).trans (State.abandonLock_baspoMark s tr n 3)

theorem State.freshLimit_baspoMark : (s.freshLimit tr n).baspoMark = s.baspoMark := by
  unfold State.freshLimit
  split
  · split
    · exact State.closeSession_baspoMark ..
    · rfl
  · rfl

theorem State.nextFresh_baspoMark : (s.nextFresh tr n).1.baspoMark = s.baspoMark := by
  unfold State.nextFresh
  split <;> rfl

theorem State.sendBaspo_baspoMark (addr : BitVec 128) (port : U16) (ident : Nat) (bytes : Bytes) :
    (s.sendBaspo tr addr port ident bytes).baspoMark = s.baspoMark := by
  unfold State.sendBaspo
  split <;> rfl

end

theorem State.answer_baspoMark (s : State) (h : Hdr) (svc flags : Nat) (p : Bytes) : (s.answer h svc flags p).baspoMark = s.baspoMark := by
  unfold State.answer
  extract_lets q s1 ident bytes s2 s3
  have h2 : s2.baspoMark = s.baspoMark := (State.sendBaspo_baspoMark ..).trans (State.nextFresh_baspoMark ..)
  have h3 : s3.baspoMark = s2.baspoMark := by
    unfold s3
    split <;> rfl
  split
  · exact h3.trans h2
  · exact (State.freshLimit_baspoMark ..).trans (h3.trans h2)

theorem Reaches.baspoMark {s : State} {t : Time} {svc : Nat} {h : Hdr} {p : Bytes} {s2 : State} {r : Rcvd} (H : Reaches s t svc h p s2 r) :
    s2.baspoMark = s.baspoMark := by
  obtain rfl | rfl := reaches_state H.heard <;> rfl

/-! ### Locks that open and end -/

/-- A Lock as it opens. -/
def State.newLock (s : State) : Lock :=
  ⟨.opened, false, s.baspo.lockSeq + 1, [], msec (s.cfgN Id.LOCK_TIMEOUT), s.now⟩

/-- The next LOCK_ID is taken. -/
def State.lockNumbered (s : State) : State := { s with baspo := { s.baspo with lockSeq := s.baspo.lockSeq + 1 } }

theorem State.lockNumbered_quiet (s : State) : Quiet s s.lockNumbered := State.setBaspo_quiet ..

theorem State.lockOpen_opens {s : State} {x : Session} (hfree : x.lock.phase = .absent ∨ x.lock.phase = .abandoned) :
    s.lockOpen x = (s.lockNumbered.modSession x.transport x.num fun y => { y with lock := s.newLock }, .ok 0 []) := by
  obtain hphase | hphase := hfree <;> simp only [State.lockOpen, hphase] <;> rfl

theorem State.lockAbandon_ends {s : State} {x : Session} (hopen : x.lock.isOpen = true) :
    s.lockAbandon x = (s.abandonLock x.transport x.num 1, .ok 0 []) := by
  have hphase : x.lock.phase = .opened ∨ x.lock.phase = .staged := by simpa [Lock.isOpen] using hopen
  obtain hphase | hphase := hphase <;> simp only [State.lockAbandon, hphase]

section
variable {s : State} {tr : Transport} {n : Byte} {x : Session} (hx : s.session? tr n = some x) (hopen : x.lock.isOpen = true)
include hx hopen

/-- An open Lock is dropped, and LOCK_ABANDONED tells why (Table 03.8 step 9). -/
theorem State.abandonLock_drops (reason : Nat) : s.abandonLock tr n reason =
    (s.modSession tr n fun y => { y with lock := y.lock.drop (reason == 2) }).raise 0xA302 0 x.lock.id (u32 reason) := by
  rw [State.abandonLock, hx]
  exact if_pos hopen

theorem State.abandonLock_session (reason : Nat) : ∃ b, (s.abandonLock tr n reason).session? tr n =
    some { x with lock := x.lock.drop (reason == 2), sub := b } := by
  rw [State.abandonLock_drops hx hopen]
  have hdropped := State.modSession_same hx (fun y => { y with lock := y.lock.drop (reason == 2) }) fun _ => ⟨rfl, rfl⟩
  exact SameButSub.some (hdropped ▸ State.raise_session ..)

theorem State.abandonLock_told (reason : Nat) : ToldIn 1 s (s.abandonLock tr n reason) 0xA302 0 x.lock.id (u32 reason) 0 0 := by
  rw [State.abandonLock_drops hx hopen]
  exact State.raise_told (s.modSession tr n _) ..

end

/-! ### LOCK_CONTROL -/

section
variable {s : State} {t : Time} {h : Hdr} {v : Bytes} {s2 : State} {r : Rcvd} {x : Session} {o : Obj} {fl : Nat}

/-- A write to LOCK_CONTROL is served at once. -/
theorem Takes.lockControl_runs (H : Takes s t Id.LOCK_CONTROL h v s2 r x o fl) : doWriteObject t Id.LOCK_CONTROL h v s =
    (s2.lockControl r.h 0x11 x (leNat v)).1.respond r.h 0x11 0x1300 1 (s2.lockControl r.h 0x11 x (leNat v)).2 := by
  obtain ⟨hid, -⟩ := lookup_regular H.object
  have happly : s2.apply r.h 0x11 x o v fl = s2.lockControl r.h 0x11 x (leNat v) := by
    simp only [State.apply, H.served, Bool.false_eq_true, if_false, cmd_of_lookup H.object (by decide +kernel), hid, State.command, if_true]
  rw [H.runs (by decide), happly]
  rfl

end

/-- Settles O21: each of the three by the state it leaves of the session's Lock. -/
theorem locksOpenAndEnd : Obligations.LocksOpenAndEnd := by
  unfold Obligations.LocksOpenAndEnd
  refine ⟨fun t h s s2 r x o fl H hlasts hfree => ?_, fun t h s s2 r x o fl H hlasts hopen => ?_,
    fun t tr n s x hx hopen => ⟨fun hlate => ?_, fun hearly => ?_⟩⟩
  · have hrun : doWriteObject t Id.LOCK_CONTROL h [1] s = _ := H.lockControl_runs
    rw [show s2.lockControl r.h 0x11 x (leNat [1]) = s2.lockOpen x from rfl, State.lockOpen_opens hfree] at hrun
    obtain ⟨k, hk⟩ := State.modSession_answered (y := s2.lockNumbered) (f := fun y => { y with lock := s2.newLock })
      (H.session_ne_zero (by decide)) H.session (fun _ => ⟨rfl, rfl⟩) hlasts 0x11 0x80 []
    have hlock : s2.newLock = ⟨.opened, false, s.baspo.lockSeq + 1, [], msec (s.cfgN Id.LOCK_TIMEOUT), max s.now t⟩ := by
      have hseq : s2.baspo.lockSeq = s.baspo.lockSeq := (congrArg Baspo.lockSeq H.baspoMark :)
      have hnow : s2.now = max s.now t := H.toReaches.now
      rw [State.newLock, hseq, Within.cfgN H.toReaches.quiet.within (by simp), hnow]
    refine ⟨_, _, congrArg Host.Outcome.next hrun,
      H.toReaches.quiet.trans (s2.lockNumbered_quiet.trans ((State.modSession_quiet ..).trans (State.answer_quiet ..))),
      State.answer_answered .., hk, ?_, hlock⟩
    have hseq := congrArg Baspo.lockSeq (State.answer_baspoMark (s2.lockNumbered.modSession x.transport x.num
      fun y => { y with lock := s2.newLock }) r.h 0x11 0x80 [])
    exact hseq.trans (congrArg (·.lockSeq + 1) H.baspoMark)
  · have hrun : doWriteObject t Id.LOCK_CONTROL h [4] s = _ := H.lockControl_runs
    obtain ⟨htr, hnum⟩ := State.session_spec H.session
    rw [show s2.lockControl r.h 0x11 x (leNat [4]) = s2.lockAbandon x from rfl, State.lockAbandon_ends hopen, htr, hnum] at hrun
    obtain ⟨b, hb⟩ := State.abandonLock_session H.session hopen 1
    obtain ⟨k, hk⟩ := State.answer_session (H.session_ne_zero (by decide)) hb hlasts 0x11 0x80 []
    obtain ⟨later, e, earlier, hring, hlater, hevent⟩ := State.abandonLock_told H.session hopen 1
    have hlen : (s2.abandonLock r.h.transport r.h.session 1).evt.ring.length ≤ 256 := by
      rw [hring]
      exact List.length_take_le ..
    have hevt : s2.evt = s.evt := (reaches_now_evt H.heard).2
    have htold : ToldIn 1 s (s2.abandonLock r.h.transport r.h.session 1) 0xA302 0 x.lock.id 1 0 0 :=
      ⟨later, e, earlier, hevt ▸ hring, hlater, hevent⟩
    exact ⟨_, _, congrArg Host.Outcome.next hrun,
      H.toReaches.quiet.trans ((State.abandonLock_quiet ..).trans (State.answer_quiet ..)), State.answer_answered .., hk, rfl,
      (htold.grown (State.answer_grown hlen ..)).told (by decide)⟩
  · have hrun : doLockTimeout t tr n s = (s.at t).abandonLock tr n 2 := by
      simp only [doLockTimeout, show (s.at t).session? tr n = some x from hx, State.at_now]
      exact if_pos ⟨hopen, hlate⟩
    obtain ⟨b, hb⟩ := State.abandonLock_session (s := s.at t) hx hopen 2
    exact ⟨_, _, congrArg Host.Outcome.next hrun, (s.at_quiet t).trans (State.abandonLock_quiet ..), hb, rfl,
      (State.abandonLock_told (s := s.at t) hx hopen 2).told (by decide)⟩
  · have hrun : doLockTimeout t tr n s = s.at t := by
      simp only [doLockTimeout, show (s.at t).session? tr n = some x from hx, State.at_now]
      exact if_neg fun hlate => Nat.not_le.mpr hearly hlate.2
    exact congrArg Host.Outcome.next hrun

end Sys2Proof.Machine
end

