-- ==== Sys2Proof/Proofs/LockCommits.lean ====
section
/-! PROOFS. Commits (R69, R70, R73, R76): LOCK_CONTROL 2 and 3 start equalization, its checks end it, and a committed Lock flips at an idle
boundary. -/

namespace Sys2Proof.Machine

open Sys2Proof

/-! ### LOCK_CONTROL 2 and 3 (Table 03.8 step 3) -/

/-- The commit that a staged Lock asks for. -/
def State.newCommit (s : State) (h : Hdr) (x : Session) (persist : Bool) : Commit where
  transport := x.transport
  num := x.num
  id := x.lock.id
  staged := x.lock.staged
  persist := persist
  committed := false
  moves := 0
  counted := s.emit.restorePending
  at_ := s.now
  request := h
  service := 0x11

/-- Another commit under way, or none. -/
def State.withCommit (s : State) (k : Option Commit) : State := { s with baspo := { s.baspo with commit := k } }

theorem State.withCommit_quiet (s : State) (k : Option Commit) : Quiet s (s.withCommit k) := State.setBaspo_quiet ..

/-- The Lock of a session whose commit equalizes: what is left of its timeout stands still. -/
def State.equalizing (s : State) (x : Session) (y : Session) : Session :=
  { y with lock := { y.lock with phase := .equalizing, budget := x.lock.since + x.lock.budget - s.now } }

theorem State.lockCommit_equalizes {s : State} {h : Hdr} {x : Session} {persist : Bool} (hstaged : x.lock.phase = .staged)
    (hrunning : x.lock.expired s.now = false) (hhold : s.holdOff = false) (hfree : s.lockBusy = false)
    (hflash : persist = true → s.flashCheck .commit = none) : s.lockCommit h 0x11 x persist =
      ((s.withCommit (some (s.newCommit h x persist))).modSession x.transport x.num (s.equalizing x), .later) := by
  have hcheck : (if persist then s.flashCheck .commit else none) = none := by
    cases persist with
    | true => exact hflash rfl
    | false => rfl
  simp only [State.lockCommit, hhold, hfree, hrunning, hstaged, hcheck, Bool.false_eq_true, if_false]
  rfl

/-- Acceptance sends nothing. -/
theorem Reaches.out {s : State} {t : Time} {svc : Nat} {h : Hdr} {p : Bytes} {s2 : State} {r : Rcvd} (H : Reaches s t svc h p s2 r) :
    s2.out = [] := by
  obtain rfl | rfl := reaches_state H.heard <;> rfl

/-! ### The end of equalization (R73) -/

/-- The checks on the configuration as it would stand after the flip. -/
def State.commitChecks (s : State) (k : Commit) : CapResult × List Nat :=
  (s.confOf (putAll s.fac s.cfg k.staged)).checks s.conf (s.emit.retired &&& ~~~ k.counted).toNat
    (s.fadeCase (s.confOf (putAll s.fac s.cfg k.staged)))

/-- Their results are kept: EMITTER_CAP_RESULT and LOCK_DETAIL. -/
def State.withChecks (s : State) (p : CapResult × List Nat) : State :=
  { s.keepCap p.1 with baspo := { s.baspo with details := (p.2.take 8).map u32 } }

section
variable {t : Time} {s : State} {k : Commit} (hcommit : s.baspo.commit = some k) (hopen : k.committed = false)
include hcommit hopen

theorem doLockEqualizationDone_fails {d : Nat} {rest : List Nat} (hfound : (s.commitChecks k).2 = d :: rest) :
    doLockEqualizationDone t s = ((s.at t).withChecks (s.commitChecks k)).lockFails k d := by
  have hchecks : ((s.at t).commitChecks k).2 = d :: rest := hfound
  unfold State.commitChecks at hchecks
  simp only [doLockEqualizationDone, State.at_baspo, hcommit, hopen, Bool.false_eq_true, if_false, hchecks]
  rw [← hchecks]
  rfl

theorem doLockEqualizationDone_passes (hfound : (s.commitChecks k).2 = []) :
    doLockEqualizationDone t s = ((s.at t).withChecks (s.commitChecks k)).lockPasses k := by
  have hchecks : ((s.at t).commitChecks k).2 = [] := hfound
  unfold State.commitChecks at hchecks
  simp only [doLockEqualizationDone, State.at_baspo, hcommit, hopen, Bool.false_eq_true, if_false, hchecks]
  rw [← hchecks]
  rfl

end

/-- The restart of a rejoin is the arbiter's. -/
theorem State.rejoinRestart_baspo (s : State) : s.rejoinRestart.baspo = s.baspo := by
  unfold State.rejoinRestart
  split
  · split <;> rfl
  · rfl

section
variable {s : State} {k : Commit} {x : Session} (hx : s.session? k.transport k.num = some x) (hid : x.lock.id = k.id)
include hx hid

/-- The session that asked is open and still has this Lock. -/
theorem State.committer_asks : s.committer k = some x := by
  rw [State.committer, hx]
  exact if_pos hid

theorem State.lockFails_answers (d : Nat) : s.lockFails k d =
    ((s.withCommit none).modSession k.transport k.num fun y => { y with lock := { y.lock with phase := .staged, since := s.now } }).answer
      k.request k.service 0xC0 (abortBytes .lockValidation 0x1300 1 d) := by
  have hasks : (s.withCommit none).committer k = some x := State.committer_asks (s := s.withCommit none) hx hid
  unfold State.lockFails
  extract_lets _ s1 s2
  rw [show s1.committer k = some x from hasks]
  rfl

theorem State.lockPasses_answers : s.lockPasses k =
    ((s.withCommit (some { k with committed := true, at_ := s.now })).rejoinRestart.modSession k.transport k.num
      fun y => { y with lock := { y.lock with phase := .committed } }).answer k.request k.service 0x80 [] := by
  have hsession : (s.withCommit (some { k with committed := true, at_ := s.now })).rejoinRestart.session? k.transport k.num = some x := by
    rw [State.session?, State.rejoinRestart_baspo]
    exact hx
  unfold State.lockPasses
  extract_lets _ s1 s2
  rw [show s2.committer k = some x from State.committer_asks hsession hid]
  rfl

end

/-- What an answer makes of the commit under way: nothing. -/
theorem State.answer_commit (s : State) (h : Hdr) (svc flags : Nat) (p : Bytes) :
    (s.answer h svc flags p).baspo.commit = s.baspo.commit :=
  (congrArg Baspo.commit (State.answer_baspoMark ..) :)

/-! ### What a flip applies, and a revert that waits for one (R70, R336) -/

/-- The live configuration, and the revert whose pointer is written. -/
def State.flipMark (s : State) : Store × Option (U32 × U32 × U32) := (s.cfg, s.flash.revert)

theorem State.flipMark_eq_iff {s : State} {c : Store} {w : Option (U32 × U32 × U32)} : s.flipMark = (c, w) ↔ s.cfg = c ∧ s.flash.revert = w :=
  Prod.mk.injEq .. ▸ Iff.rfl

theorem Within.flipMark {l : List Part} {s u : State} (h : Within l s u) (hcfg : .cfg ∉ l := by decide) (hflash : .flash ∉ l := by decide) :
    u.flipMark = s.flipMark := by
  have h1 : u.cfg = s.cfg := h.part .cfg hcfg
  have h2 : u.flash.revert = s.flash.revert := (congrArg Flash.revert (h.part .flash hflash) :)
  rw [State.flipMark, h1, h2, State.flipMark]

theorem Quiet.flipMark {s u : State} (h : Quiet s u) : u.flipMark = s.flipMark := h.within.flipMark

theorem State.flipMark_ite {s a b : State} {c : Prop} [Decidable c] (ha : a.flipMark = s.flipMark) (hb : b.flipMark = s.flipMark) :
    (if c then a else b).flipMark = s.flipMark := by
  split <;> assumption

theorem State.raise_flipMark (s : State) (code sev : Nat) (p1 p2 p3 ticket : U32) :
    (s.raise code sev p1 p2 p3 ticket).flipMark = s.flipMark := (State.raise_quiet ..).flipMark

/-! Capture writes the recorder's queue of the flash, and no revert. -/

theorem State.offerRecorder_flipMark (s : State) (g : Segment) : (s.offerRecorder g).flipMark = s.flipMark :=
  State.flipMark_ite (State.flipMark_ite rfl (State.count_quiet ..).flipMark) rfl

theorem State.closeSegment_flipMark (s : State) (short : Bool) : (s.closeSegment short).flipMark = s.flipMark := by
  unfold State.closeSegment
  split
  · rfl
  · extract_lets g _ s1 s2 s3
    have h2 : s2.flipMark = s.flipMark := ((State.count_quiet s1 ..).trans (State.raise_quiet ..)).flipMark
    have h3 : s3.flipMark = s2.flipMark := (State.startOffload_within _).flipMark.trans (State.offerRecorder_flipMark ..)
    refine Eq.trans ?_ (h3.trans h2)
    clear_value s3
    split
    · exact (State.raise_flipMark ..).trans rfl
    · rfl

theorem State.overwriteOldest_flipMark (s : State) : s.overwriteOldest.flipMark = s.flipMark := by
  unfold State.overwriteOldest
  split
  · rfl
  · extract_lets s1 _ s2 s3
    have h1 : s1.flipMark = s.flipMark := (State.dropSegment_within ..).flipMark
    have h3 : s3.flipMark = s2.flipMark := State.flipMark_ite (State.count_quiet ..).flipMark rfl
    exact ((State.count_quiet s3 ..).trans (State.raise_quiet ..)).flipMark.trans (h3.trans h1)

theorem State.capArm_flipMark (s : State) : s.capArm.flipMark = s.flipMark := by
  unfold State.capArm
  extract_lets _ s1
  exact State.flipMark_ite rfl (State.flipMark_ite rfl (State.flipMark_ite (State.overwriteOldest_flipMark s)
    (State.flipMark_ite rfl (State.raise_flipMark s1 ..))))

theorem State.capService_flipMark (s : State) : s.capService.flipMark = s.flipMark := by
  unfold State.capService
  split
  · exact State.flipMark_ite (State.capArm_flipMark s) rfl
  · rfl

theorem State.capEnable_flipMark (s : State) : s.capEnable.flipMark = s.flipMark := State.flipMark_ite (State.capArm_flipMark s) rfl

theorem State.capDisarm_flipMark (s : State) : s.capDisarm.flipMark = s.flipMark := by
  unfold State.capDisarm
  extract_lets s0 s1
  have h1 : s1.flipMark = s0.flipMark := State.flipMark_ite (State.closeSegment_flipMark ..) rfl
  exact h1.trans (State.capService_flipMark s)

theorem State.capDiscard_flipMark (s : State) (reason : Nat) : (s.capDiscard reason).flipMark = s.flipMark := by
  unfold State.capDiscard
  extract_lets n _ _ _ s1 s2
  have h2 : s2.flipMark = s1.flipMark := State.flipMark_ite rfl (State.raise_quiet ..).flipMark
  exact (State.flipMark_ite (State.capEnable_flipMark s2) rfl).trans h2

theorem State.captureFlip_flipMark (s : State) (changed : List Nat) : (s.captureFlip changed).flipMark = s.flipMark := by
  unfold State.captureFlip
  extract_lets s1
  have h1 : s1.flipMark = s.flipMark := State.flipMark_ite (State.capDiscard_flipMark ..) rfl
  exact (State.flipMark_ite (State.flipMark_ite (State.capEnable_flipMark s1) (State.capDisarm_flipMark s1)) rfl).trans h1

/-- The values of a configuration are live at once; everything that takes them up leaves them. -/
theorem State.applyCfg_flipMark (s : State) (new : Store) (counted : BitVec 16) (idle : Bool) :
    (s.applyCfg new counted idle).1.flipMark = (new, s.flash.revert) := by
  unfold State.applyCfg
  extract_lets old changed s1 s2 _ s3 s4 s5 s6 s7 engine
  have h2 : Within [.emit, .scan] s1 s2 := ((State.restoreBars_within ..).seq (State.planFlip_within ..)).up (by rfl)
  have h4 : s4.flipMark = s3.flipMark := (State.captureFlip_flipMark ..).trans
    (((State.bankRetarget_within s3).seq ((State.phaseFlip_within ..).seq ((State.busFlip_within ..).seq
      (State.tinFlip_within _ changed)))).flipMark)
  have h6 : Within [.rx] s4 s6 := ((State.coincFlip_within s4).seq ((State.biasFlip_within s5).ite (Within.refl s5))).up (by rfl)
  have h7 : Within [.rx, .cal, .arb, .front, .net, .stream] s6 s7 :=
    ((State.refreshBands_within s6).seq ((State.calFlip_within ..).seq ((State.rejoinRestart_within _).seq
      ((State.rangeFlip_within ..).seq (State.networkFlip_within ..))))).up (by rfl)
  have h8 : Within [.laneA, .laneB] s7 (if idle then (s7.modEngine .a engine).modEngine .b engine else s7) :=
    (((State.modEngine_within ..).seq (State.modEngine_within ..)).ite (Within.refl s7)).up (by rfl)
  calc _ = s7.flipMark := h8.flipMark
    _ = s6.flipMark := h7.flipMark
    _ = s4.flipMark := h6.flipMark
    _ = s3.flipMark := h4
    _ = s1.flipMark := h2.flipMark

/-! ### The flip (Table 03.8 step 6) -/

theorem State.writeVersion_flipMark (s : State) : s.writeVersion.flipMark = s.flipMark := by
  unfold State.writeVersion
  extract_lets n time unit p _ s1
  exact State.flipMark_ite rfl ((State.flashItem_quiet s1 ..).trans (State.flashItem_quiet ..)).flipMark

theorem State.writeVersion_baspo (s : State) : s.writeVersion.baspo = s.baspo := by
  unfold State.writeVersion
  extract_lets n time unit p _ s1
  split
  · rfl
  · exact (State.flashQueue_baspo ..).trans (State.flashQueue_baspo ..)

theorem State.lockFlip_flipMark (s : State) (k : Commit) (idle : Bool) :
    (s.lockFlip k idle).1.flipMark = (putAll s.fac s.cfg k.staged, s.flash.revert) := by
  unfold State.lockFlip
  extract_lets new frame p _ s2 _ s3 s4
  have h1 : p.1.flipMark = (new, s.flash.revert) := State.applyCfg_flipMark ..
  have h4 : s4.flipMark = p.1.flipMark := State.raise_flipMark s3 ..
  exact (State.flipMark_ite (State.writeVersion_flipMark s4) rfl).trans (h4.trans h1)

/-- LOCK_APPLIED_ID and LOCK_APPLIED_FRAME name the Lock that flipped, and no commit is left. -/
theorem State.lockFlip_applied (s : State) (k : Commit) (idle : Bool) : (s.lockFlip k idle).1.baspo.commit = none ∧
    (s.lockFlip k idle).1.baspo.appliedId = k.id ∧
    (s.lockFlip k idle).1.baspo.appliedFrame = if idle then 0xFFFFFFFF else s.scan.frame := by
  unfold State.lockFlip
  extract_lets new frame p _ s2 _ s3 s4
  have h4 : s4.baspoMark = s3.baspoMark := State.raise_baspoMark ..
  have hlast : (if k.persist then s4.writeVersion else s4).baspo = s4.baspo := by
    split
    · exact State.writeVersion_baspo s4
    · rfl
  show (if k.persist then s4.writeVersion else s4).baspo.commit = none ∧ _
  rw [hlast]
  exact ⟨(congrArg Baspo.commit h4 :), (congrArg Baspo.appliedId h4 :), (congrArg Baspo.appliedFrame h4 :)⟩

theorem doLockIdleFlip_flips {t : Time} {s : State} {k : Commit} (hidle : s.scan.timer = false) (hcommit : s.baspo.commit = some k)
    (hcommitted : k.committed = true) (hrevert : s.flash.revert = none) : doLockIdleFlip t s = ((s.at t).lockFlip k true).1 := by
  have hnone : ((s.at t).lockFlip k true).1.flash.revert = none :=
    (State.flipMark_eq_iff.mp (State.lockFlip_flipMark ..)).2.trans hrevert
  simp only [doLockIdleFlip, State.at_scan, hidle, State.at_baspo, hcommit, hcommitted, if_true, Bool.false_eq_true, if_false, hnone]

/-- Settles O22: the commit that starts, the checks that end it, and the flip. -/
theorem locksCommitByEqualization : Obligations.LocksCommitByEqualization := by
  unfold Obligations.LocksCommitByEqualization
  refine ⟨fun t h s s2 r x o fl persist H hstaged hrunning hhold hfree hflash => ?_, fun t s k x hcommit hopen hx hid => ?_,
    fun t s k hidle hcommit hcommitted hrevert => ?_⟩
  · have hexec : exec (if persist then .lockCommitPersist t h else .lockCommit t h) s =
        .next (doWriteObject t Id.LOCK_CONTROL h [if persist then 3 else 2] s) := by
      cases persist <;> rfl
    have hcontrol : s2.lockControl r.h 0x11 x (leNat [if persist then 3 else 2]) = s2.lockCommit r.h 0x11 x persist := by
      cases persist <;> rfl
    have hrun := H.lockControl_runs
    rw [hcontrol, State.lockCommit_equalizes hstaged hrunning hhold hfree hflash] at hrun
    obtain ⟨htr, hnum⟩ := State.session_spec H.session
    have hsession := State.modSession_same (s := s2.withCommit (some (s2.newCommit r.h x persist))) H.session (s2.equalizing x)
      fun _ => ⟨rfl, rfl⟩
    rw [htr, hnum] at hrun
    exact ⟨_, _, s2.newCommit r.h x persist, hexec.trans (congrArg Host.Outcome.next hrun),
      H.toReaches.quiet.trans ((s2.withCommit_quiet _).trans (State.modSession_quiet ..)), H.toReaches.out, hsession, rfl, rfl, rfl, rfl, rfl,
      rfl, rfl, rfl, congrArg Emit.restorePending H.toReaches.quiet.emit⟩
  · intro c found
    refine ⟨fun d rest hfound => ?_, fun hfound => ?_⟩
    · have hrun := doLockEqualizationDone_fails (t := t) hcommit hopen (d := d) (rest := rest) hfound
      rw [State.lockFails_answers (s := (s.at t).withChecks (s.commitChecks k)) hx hid] at hrun
      refine ⟨_, congrArg Host.Outcome.next hrun, State.answer_commit .., (State.answer_quiet ..).cfg, State.answer_answered ..⟩
    · have hrun := doLockEqualizationDone_passes (t := t) hcommit hopen hfound
      rw [State.lockPasses_answers (s := (s.at t).withChecks (s.commitChecks k)) hx hid] at hrun
      refine ⟨_, congrArg Host.Outcome.next hrun, ?_, ?_, State.answer_answered ..⟩
      · exact (State.answer_quiet ..).cfg.trans ((State.rejoinRestart_within _).part .cfg (by decide))
      · exact (State.answer_commit ..).trans (congrArg Baspo.commit (State.rejoinRestart_baspo _) :)
  · obtain ⟨hnone, happlied, hframe⟩ := (s.at t).lockFlip_applied k true
    exact ⟨_, congrArg Host.Outcome.next (doLockIdleFlip_flips hidle hcommit hcommitted hrevert), hnone, happlied, hframe,
      (State.flipMark_eq_iff.mp ((s.at t).lockFlip_flipMark k true)).1⟩

end Sys2Proof.Machine
end
